-- ==== Sys2Proof/Machine/SMap.lean ====
section
/-! DEFINITION. Sorted association lists keyed by natural numbers: the plain-data form of every store of the model whose
units are many and mostly at their default (registers, queues, contexts, lines). An unlisted key reads the default the
reader names. -/

namespace Sys2Proof.Machine

/-- A store keyed by natural numbers, its keys rising. -/
abbrev SMap (α : Type) := List (Nat × α)

/-- The entry at a key, if one is listed. -/
def SMap.find {α : Type} : SMap α → Nat → Option α
  | [], _ => none
  | (k', v) :: m, k => if k = k' then some v else SMap.find m k

/-- The entry at a key, or the given default. -/
def SMap.get {α : Type} (m : SMap α) (d : α) (k : Nat) : α := (SMap.find m k).getD d

/-- The store with one entry set, keys kept rising. -/
def SMap.set {α : Type} : SMap α → Nat → α → SMap α
  | [], k, v => [(k, v)]
  | (k', v') :: m, k, v =>
    if k = k' then (k, v) :: m
    else if k < k' then (k, v) :: (k', v') :: m
    else (k', v') :: SMap.set m k v

/-- The store without a key. -/
def SMap.del {α : Type} (m : SMap α) (k : Nat) : SMap α := m.filter (fun e => e.1 != k)

/-- The store with the keys that meet a test removed. -/
def SMap.delWhere {α : Type} (m : SMap α) (p : Nat → Bool) : SMap α := m.filter (fun e => !p e.1)

/-- One entry passed through a function. -/
def SMap.modify {α : Type} (m : SMap α) (d : α) (k : Nat) (f : α → α) : SMap α := m.set k (f (m.get d k))

/-- The keys of a store rise strictly. -/
def SMap.rising {α : Type} : SMap α → Bool
  | [] => true
  | [_] => true
  | (k, _) :: (k', v') :: m => decide (k < k') && SMap.rising ((k', v') :: m)

end Sys2Proof.Machine
end

