-- ==== Sys2Proof/Machine/RegMap.lean ====
section
/-! DEFINITION. The register maps of the device: every register of every map of the spec (R16), with its reset value,
its reset domain (R20), its fields with their access codes (R14, R17), and the place of its block in CTRL space (R53).
Names are the manual's. A register instance is a name and an index: the index numbers the unit (and the sub-register)
in the order of the map's own address formula. -/

namespace Sys2Proof.Machine

/-- The five reset domains of R20. -/
inductive Domain where
  | context | partition | die | package | powerOn
  deriving DecidableEq, Repr

/-- The access codes of R14. -/
inductive Access where
  | rw | ro | w1c | w1s | wo | rwl | fuse
  deriving DecidableEq, Repr

/-- The blocks of CTRL space that hold registers (R53). -/
inductive Block where
  | queueManager | home | sysCache | tbe | cde | channel | clusterCtl | mxa | vxe | spe | mve | atc | clusterCache
  | coreGroup | htu | dimm | hostHomes | hostLink | port | fabric | gx | gxB | nse | pcie | mgmt | serial | capc | dieCommon
  deriving DecidableEq, Repr

/-- Every register name of the spec's register maps; the comment gives the file of spec/ whose map holds it. -/
inductive RegName where
  | CLK_STATUS  -- 03
  | SLOW_COUNT
  | CLK_STEP_LIMIT
  | CLK_EVENT
  | LINK_STATUS
  | LANE_MAP
  | LINK_CTRL
  | LINK_COUNTS
  | LINK_EVENT
  | LANE_ERR_LIMIT
  | BOOT_STATUS  -- 04
  | BOOT_ERROR
  | IMAGE_ID
  | STAGE_LEN
  | BOOT_GO
  | RELOAD_ADDR
  | RELOAD_CTRL
  | RELOAD_STATUS
  | BOOT_PHASE
  | FUSE_OPTIONS
  | FUSE_ROLLBACK
  | FUSE_KEYSTATE
  | ATTEST_FUSE_COUNT
  | FUSE_KEYHASH
  | MXA_STATUS  -- 05
  | MXA_PASSES
  | MXA_BUSY
  | MXA_HOLD
  | MXA_BUBBLE
  | MXA_HOLD_LIMIT
  | MXA_EVENT
  | CL_PAD_STATUS
  | CL_PAD_PENDING
  | CL_PAD_SPARE_LO
  | CL_PAD_SPARE_HI
  | CL_SELFTEST_CTRL
  | CL_SELFTEST_STATUS
  | CL_FMT_VANISHED  -- 06
  | CL_FMT_SPLIT
  | CL_FMT_SATURATED
  | CL_FMT_NONFINITE
  | CL_NUM_ID  -- 07
  | ENG_STATUS  -- 08
  | ENG_BUSY
  | ENG_WAIT
  | ENG_WORK
  | ENG_EVENT
  | MVE_STAGE
  | MVE_BYTES_RD
  | MVE_BYTES_WR
  | MVE_BURST_WASTE
  | QM_STATUS  -- 09
  | QM_FS_LIMIT
  | QM_HURDLE_POLL
  | QM_COUNTS
  | Q_BASE
  | Q_CFG
  | Q_CQ_BASE
  | Q_CQ_HEAD
  | Q_MSI_ADDR
  | Q_MSI_CFG
  | Q_SEED
  | Q_POS
  | Q_STATUS
  | Q_CTRL
  | Q_COUNTS
  | DB
  | TOKEN
  | PART_STATUS  -- 10
  | PART_CTRL
  | PART_LAP
  | PART_LIMITS
  | PART_ESC
  | CL_STATUS
  | CL_STEAL_CFG
  | CL_STEALS
  | CL_TILES
  | CTX_STATE
  | CTX_CTRL
  | CTX_SAVE
  | CTX_FAULT
  | CTX_FAULT_ADDR
  | CTX_PACE
  | CTX_PACE_WORK
  | CTX_FALLBACK
  | CTX_PACE_STATUS
  | CTX_ACCT_RUN
  | CTX_ACCT_WAIT
  | CTX_ACCT_PREEMPT
  | CTX_ACCT_HOLD
  | CH_STATUS  -- 11
  | CH_ERR
  | CH_ERR_ADDR
  | CH_CTRL
  | CH_GEN
  | CH_COUNTS
  | T2_STATUS
  | T2_ERR
  | T2_ERR_ADDR
  | T2_CTRL
  | T2_COUNTS
  | T2_LIMIT
  | SC_STATUS
  | SC_WAYS
  | SC_PRELOAD_ADDR
  | SC_PRELOAD_CTRL
  | SC_PF_CFG
  | SC_HITS
  | SC_MISSES
  | SC_COUNTS
  | SC_PF_USED
  | TIER_POOL_BASE
  | TIER_POOL_CFG
  | TIER_STAMP_BASE
  | TIER_NOTICE_BASE
  | TIER_NOTICE_HEAD
  | TIER_NOTICE_STATUS
  | TIER_DISCARD
  | HOME_STATUS  -- 12
  | HOME_CFG
  | HOME_EVENT
  | SF_COUNTS
  | HOME_COUNTS
  | LLT
  | CC_STATUS  -- 13
  | CC_CTRL
  | CC_HITS
  | CC_MISSES
  | CC_DROPS
  | CORE_SL_ADDR
  | CORE_SL_INFO
  | XP_CHECK_BASE  -- 14
  | XP_CHECK_CTRL
  | XP_INV_ADDR
  | XP_INV_CTRL
  | XP_INV_STATUS
  | XP_PR_BASE
  | XP_PR_HEAD
  | XP_PR_MSI_ADDR
  | XP_PR_MSI
  | XP_PR_RESP
  | XP_PR_STATUS
  | XP_PR_LIMIT
  | CTX_XLATE
  | CTX_XLATE_COUNTS
  | ATC_STATUS
  | ATC_HITS
  | ATC_MISSES
  | FAB_SELF  -- 15
  | FAB_DISC_ID
  | FAB_CTRL
  | FAB_COUNTS
  | FAB_DNF_RAISE
  | FAB_DNF_LAST
  | JOB_CFG
  | JOB_RANGE
  | JOB_MEMBERS
  | FAB_DEV
  | PORT_STATUS
  | PORT_LANES
  | PORT_CREDIT
  | PORT_CTRL
  | PORT_COUNTS
  | PORT_VIOL
  | PORT_EVENT
  | PCI_STATUS  -- 17
  | PCI_ERR_LOG
  | PCI_ERR_ADDR
  | PCI_VIOL
  | PCI_NOTIFY
  | APER
  | NSE_STATUS  -- 18
  | NSE_COUNTS
  | GX_STATUS
  | GX_LEDGER
  | GX_SRC
  | GX_AUX
  | GX_LEN
  | GX_CTRL
  | GX_DEST_BASE
  | GX_DEST_CFG
  | GX_DEST_POS
  | GX_COUNTS
  | GX_OWNER
  | ATT_STATUS
  | ATT_DATA_ADDR
  | ATT_OUT_ADDR
  | ATT_CTRL
  | PWR_STATUS  -- 19
  | PWR_LIMIT
  | PWR_IDLE
  | THERM_STATUS
  | THERM_CFG
  | PWR_COUNTS
  | PWR_EVENT
  | CAPC_STATUS
  | CAPC_CFG
  | CAPC_REGION
  | DIE_STATUS  -- 20
  | DIE_CTRL
  | REQ_BOUND
  | HANG_LIMIT
  | DIE_ERR_COUNTS
  | ELOG_STATUS
  | ELOG_MSI_ADDR
  | ELOG_MSI
  | WD_CFG
  | RESET_CTRL
  | DIE_STATE
  | ELOG
  | CRASH
  | SAFE_CFG  -- 21
  | SAFE_STATUS
  | RAIL_CFG  -- 22
  | RAIL_STATUS
  | GXB_STATUS  -- 18
  | GXB_LEDGER
  deriving DecidableEq, Repr

/-- A register instance: which register, and which unit's (index as the map's address formula counts it). -/
structure RegId where
  name : RegName
  ix   : Nat
  deriving DecidableEq, Repr

/-- A field of a register: its bits are [lo + width - 1 : lo] (R5). -/
structure Fld where
  reg   : RegName
  lo    : Nat
  width : Nat
  deriving DecidableEq, Repr

/-- One row of a field table (R17): the field's bits, its access code, and the range of values a write may set
(a write outside the range leaves the field unchanged). -/
structure FieldRow where
  lo    : Nat
  width : Nat
  acc   : Access
  least : Nat
  most  : Nat
  deriving DecidableEq, Repr

/-- A number for every register name: the order in which the register store lists them. -/
def RegName.num : RegName → Nat
  | .CLK_STATUS => 0
  | .SLOW_COUNT => 1
  | .CLK_STEP_LIMIT => 2
  | .CLK_EVENT => 3
  | .LINK_STATUS => 4
  | .LANE_MAP => 5
  | .LINK_CTRL => 6
  | .LINK_COUNTS => 7
  | .LINK_EVENT => 8
  | .LANE_ERR_LIMIT => 9
  | .BOOT_STATUS => 10
  | .BOOT_ERROR => 11
  | .IMAGE_ID => 12
  | .STAGE_LEN => 13
  | .BOOT_GO => 14
  | .RELOAD_ADDR => 15
  | .RELOAD_CTRL => 16
  | .RELOAD_STATUS => 17
  | .BOOT_PHASE => 18
  | .FUSE_OPTIONS => 19
  | .FUSE_ROLLBACK => 20
  | .FUSE_KEYSTATE => 21
  | .ATTEST_FUSE_COUNT => 22
  | .FUSE_KEYHASH => 23
  | .MXA_STATUS => 24
  | .MXA_PASSES => 25
  | .MXA_BUSY => 26
  | .MXA_HOLD => 27
  | .MXA_BUBBLE => 28
  | .MXA_HOLD_LIMIT => 29
  | .MXA_EVENT => 30
  | .CL_PAD_STATUS => 31
  | .CL_PAD_PENDING => 32
  | .CL_PAD_SPARE_LO => 33
  | .CL_PAD_SPARE_HI => 34
  | .CL_SELFTEST_CTRL => 35
  | .CL_SELFTEST_STATUS => 36
  | .CL_FMT_VANISHED => 37
  | .CL_FMT_SPLIT => 38
  | .CL_FMT_SATURATED => 39
  | .CL_FMT_NONFINITE => 40
  | .CL_NUM_ID => 41
  | .ENG_STATUS => 42
  | .ENG_BUSY => 43
  | .ENG_WAIT => 44
  | .ENG_WORK => 45
  | .ENG_EVENT => 46
  | .MVE_STAGE => 47
  | .MVE_BYTES_RD => 48
  | .MVE_BYTES_WR => 49
  | .MVE_BURST_WASTE => 50
  | .QM_STATUS => 51
  | .QM_FS_LIMIT => 52
  | .QM_HURDLE_POLL => 53
  | .QM_COUNTS => 54
  | .Q_BASE => 55
  | .Q_CFG => 56
  | .Q_CQ_BASE => 57
  | .Q_CQ_HEAD => 58
  | .Q_MSI_ADDR => 59
  | .Q_MSI_CFG => 60
  | .Q_SEED => 61
  | .Q_POS => 62
  | .Q_STATUS => 63
  | .Q_CTRL => 64
  | .Q_COUNTS => 65
  | .DB => 66
  | .TOKEN => 67
  | .PART_STATUS => 68
  | .PART_CTRL => 69
  | .PART_LAP => 70
  | .PART_LIMITS => 71
  | .PART_ESC => 72
  | .CL_STATUS => 73
  | .CL_STEAL_CFG => 74
  | .CL_STEALS => 75
  | .CL_TILES => 76
  | .CTX_STATE => 77
  | .CTX_CTRL => 78
  | .CTX_SAVE => 79
  | .CTX_FAULT => 80
  | .CTX_FAULT_ADDR => 81
  | .CTX_PACE => 82
  | .CTX_PACE_WORK => 83
  | .CTX_FALLBACK => 84
  | .CTX_PACE_STATUS => 85
  | .CTX_ACCT_RUN => 86
  | .CTX_ACCT_WAIT => 87
  | .CTX_ACCT_PREEMPT => 88
  | .CTX_ACCT_HOLD => 89
  | .CH_STATUS => 90
  | .CH_ERR => 91
  | .CH_ERR_ADDR => 92
  | .CH_CTRL => 93
  | .CH_GEN => 94
  | .CH_COUNTS => 95
  | .T2_STATUS => 96
  | .T2_ERR => 97
  | .T2_ERR_ADDR => 98
  | .T2_CTRL => 99
  | .T2_COUNTS => 100
  | .T2_LIMIT => 101
  | .SC_STATUS => 102
  | .SC_WAYS => 103
  | .SC_PRELOAD_ADDR => 104
  | .SC_PRELOAD_CTRL => 105
  | .SC_PF_CFG => 106
  | .SC_HITS => 107
  | .SC_MISSES => 108
  | .SC_COUNTS => 109
  | .SC_PF_USED => 110
  | .TIER_POOL_BASE => 111
  | .TIER_POOL_CFG => 112
  | .TIER_STAMP_BASE => 113
  | .TIER_NOTICE_BASE => 114
  | .TIER_NOTICE_HEAD => 115
  | .TIER_NOTICE_STATUS => 116
  | .TIER_DISCARD => 117
  | .HOME_STATUS => 118
  | .HOME_CFG => 119
  | .HOME_EVENT => 120
  | .SF_COUNTS => 121
  | .HOME_COUNTS => 122
  | .LLT => 123
  | .CC_STATUS => 124
  | .CC_CTRL => 125
  | .CC_HITS => 126
  | .CC_MISSES => 127
  | .CC_DROPS => 128
  | .CORE_SL_ADDR => 129
  | .CORE_SL_INFO => 130
  | .XP_CHECK_BASE => 131
  | .XP_CHECK_CTRL => 132
  | .XP_INV_ADDR => 133
  | .XP_INV_CTRL => 134
  | .XP_INV_STATUS => 135
  | .XP_PR_BASE => 136
  | .XP_PR_HEAD => 137
  | .XP_PR_MSI_ADDR => 138
  | .XP_PR_MSI => 139
  | .XP_PR_RESP => 140
  | .XP_PR_STATUS => 141
  | .XP_PR_LIMIT => 142
  | .CTX_XLATE => 143
  | .CTX_XLATE_COUNTS => 144
  | .ATC_STATUS => 145
  | .ATC_HITS => 146
  | .ATC_MISSES => 147
  | .FAB_SELF => 148
  | .FAB_DISC_ID => 149
  | .FAB_CTRL => 150
  | .FAB_COUNTS => 151
  | .FAB_DNF_RAISE => 152
  | .FAB_DNF_LAST => 153
  | .JOB_CFG => 154
  | .JOB_RANGE => 155
  | .JOB_MEMBERS => 156
  | .FAB_DEV => 157
  | .PORT_STATUS => 158
  | .PORT_LANES => 159
  | .PORT_CREDIT => 160
  | .PORT_CTRL => 161
  | .PORT_COUNTS => 162
  | .PORT_VIOL => 163
  | .PORT_EVENT => 164
  | .PCI_STATUS => 165
  | .PCI_ERR_LOG => 166
  | .PCI_ERR_ADDR => 167
  | .PCI_VIOL => 168
  | .PCI_NOTIFY => 169
  | .APER => 170
  | .NSE_STATUS => 171
  | .NSE_COUNTS => 172
  | .GX_STATUS => 173
  | .GX_LEDGER => 174
  | .GX_SRC => 175
  | .GX_AUX => 176
  | .GX_LEN => 177
  | .GX_CTRL => 178
  | .GX_DEST_BASE => 179
  | .GX_DEST_CFG => 180
  | .GX_DEST_POS => 181
  | .GX_COUNTS => 182
  | .GX_OWNER => 183
  | .ATT_STATUS => 184
  | .ATT_DATA_ADDR => 185
  | .ATT_OUT_ADDR => 186
  | .ATT_CTRL => 187
  | .PWR_STATUS => 188
  | .PWR_LIMIT => 189
  | .PWR_IDLE => 190
  | .THERM_STATUS => 191
  | .THERM_CFG => 192
  | .PWR_COUNTS => 193
  | .PWR_EVENT => 194
  | .CAPC_STATUS => 195
  | .CAPC_CFG => 196
  | .CAPC_REGION => 197
  | .DIE_STATUS => 198
  | .DIE_CTRL => 199
  | .REQ_BOUND => 200
  | .HANG_LIMIT => 201
  | .DIE_ERR_COUNTS => 202
  | .ELOG_STATUS => 203
  | .ELOG_MSI_ADDR => 204
  | .ELOG_MSI => 205
  | .WD_CFG => 206
  | .RESET_CTRL => 207
  | .DIE_STATE => 208
  | .ELOG => 209
  | .CRASH => 210
  | .SAFE_CFG => 211
  | .SAFE_STATUS => 212
  | .RAIL_CFG => 213
  | .RAIL_STATUS => 214
  | .GXB_STATUS => 215
  | .GXB_LEDGER => 216

/-- The key of a register in the register store. -/
def RegId.key (r : RegId) : Nat := r.name.num * 1048576 + r.ix

/-- The reset domain of a register (R20), as its map gives it. -/
def RegName.domain : RegName → Domain
  | .CLK_STATUS | .SLOW_COUNT | .LINK_STATUS | .LINK_CTRL | .LINK_COUNTS | .LINK_EVENT | .SF_COUNTS | .HOME_COUNTS => .die
  | .PORT_STATUS | .PORT_CREDIT | .PORT_CTRL | .PORT_COUNTS | .PORT_VIOL | .PORT_EVENT | .NSE_STATUS | .NSE_COUNTS => .die
  | .PWR_STATUS | .THERM_STATUS | .PWR_COUNTS | .DIE_ERR_COUNTS => .die
  | .CLK_STEP_LIMIT | .LANE_ERR_LIMIT | .BOOT_STATUS | .BOOT_ERROR | .IMAGE_ID | .STAGE_LEN | .BOOT_GO | .RELOAD_ADDR => .package
  | .RELOAD_CTRL | .RELOAD_STATUS | .BOOT_PHASE | .MXA_STATUS | .PART_STATUS | .PART_CTRL | .PART_LAP | .PART_LIMITS => .package
  | .PART_ESC | .CH_CTRL | .CH_GEN | .T2_STATUS | .T2_CTRL | .T2_COUNTS | .T2_LIMIT | .HOME_STATUS => .package
  | .HOME_CFG | .HOME_EVENT | .LLT | .FAB_SELF | .FAB_CTRL | .FAB_COUNTS | .FAB_DNF_RAISE | .FAB_DNF_LAST => .package
  | .JOB_CFG | .JOB_RANGE | .JOB_MEMBERS | .FAB_DEV | .PCI_STATUS | .PCI_ERR_LOG | .PCI_ERR_ADDR | .PCI_VIOL => .package
  | .PCI_NOTIFY | .APER | .GX_DEST_BASE | .GX_DEST_CFG | .GX_DEST_POS | .ATT_STATUS | .ATT_DATA_ADDR | .ATT_OUT_ADDR => .package
  | .ATT_CTRL | .PWR_LIMIT | .PWR_IDLE | .THERM_CFG | .CAPC_STATUS | .CAPC_CFG | .CAPC_REGION | .DIE_CTRL => .package
  | .REQ_BOUND | .HANG_LIMIT | .ELOG_MSI_ADDR | .ELOG_MSI | .WD_CFG | .RESET_CTRL | .SAFE_CFG | .SAFE_STATUS => .package
  | .RAIL_CFG | .RAIL_STATUS => .package
  | .CLK_EVENT | .LANE_MAP | .FUSE_OPTIONS | .FUSE_ROLLBACK | .FUSE_KEYSTATE | .ATTEST_FUSE_COUNT | .FUSE_KEYHASH | .CL_PAD_STATUS => .powerOn
  | .CL_PAD_PENDING | .CL_PAD_SPARE_LO | .CL_PAD_SPARE_HI | .CL_NUM_ID | .CH_STATUS | .CH_ERR | .CH_ERR_ADDR | .T2_ERR => .powerOn
  | .T2_ERR_ADDR | .SC_STATUS | .FAB_DISC_ID | .PORT_LANES | .PWR_EVENT | .DIE_STATUS | .ELOG_STATUS | .DIE_STATE => .powerOn
  | .ELOG | .CRASH => .powerOn
  | _ => .partition

/-- The reset value the map states. A field whose reset is "image" or "FUSE" holds 0 until the image's records are
applied, or the fuses loaded (the model's reading, log entry 5). -/
def RegName.resetValue : RegName → Nat
  | .LANE_MAP => 0x3FFFFFFFF
  | .CL_NUM_ID => 0x28010101
  | .QM_FS_LIMIT => 0x186A0
  | .QM_HURDLE_POLL => 0x40
  | .PART_LAP => 0x3E8000400004E20
  | .PART_LIMITS => 0xC350000186A0
  | .PART_ESC => 0x5F5E10000000010
  | .CL_STEAL_CFG => 0x203
  | .CTX_PACE_STATUS => 0x100
  | .SC_WAYS => 0x40000
  | .SC_PF_CFG => 0xF
  | .CC_CTRL => 0x1
  | .XP_PR_LIMIT => 0x989680
  | .PORT_LANES => 0x1F
  | _ => 0

/-- The fields of a register, in ascending bit order; reserved bits are in no row and read zero (R10). -/
def RegName.fields : RegName → List FieldRow
  | .CLK_STATUS => [⟨0, 1, .ro, 0, 0x1⟩, ⟨1, 2, .ro, 0, 0x3⟩, ⟨3, 2, .ro, 0, 0x3⟩, ⟨5, 2, .ro, 0, 0x3⟩]
  | .SLOW_COUNT => [⟨0, 64, .ro, 0, 0xFFFFFFFFFFFFFFFF⟩]
  | .CLK_STEP_LIMIT => [⟨0, 2, .rwl, 0, 2⟩, ⟨2, 2, .rwl, 0, 2⟩, ⟨4, 2, .rwl, 0, 2⟩]
  | .CLK_EVENT => [⟨0, 1, .w1c, 0, 0x1⟩, ⟨8, 8, .ro, 0, 0xFF⟩]
  | .LINK_STATUS => [⟨0, 3, .ro, 0, 0x7⟩, ⟨3, 6, .ro, 0, 0x3F⟩, ⟨9, 1, .ro, 0, 0x1⟩, ⟨16, 10, .ro, 0, 0x3FF⟩, ⟨32, 4, .ro, 0, 0xF⟩, ⟨36, 4, .ro, 0, 0xF⟩]
  | .LANE_MAP => [⟨0, 34, .ro, 0, 0x3FFFFFFFF⟩]
  | .LINK_CTRL => [⟨0, 3, .rwl, 2, 4⟩, ⟨8, 1, .w1s, 0, 0x1⟩]
  | .LINK_COUNTS => [⟨0, 32, .ro, 0, 0xFFFFFFFF⟩, ⟨32, 16, .ro, 0, 0xFFFF⟩, ⟨48, 8, .ro, 0, 0xFF⟩]
  | .LINK_EVENT => [⟨0, 1, .w1c, 0, 0x1⟩, ⟨1, 1, .w1c, 0, 0x1⟩, ⟨2, 1, .w1c, 0, 0x1⟩, ⟨3, 1, .w1c, 0, 0x1⟩]
  | .LANE_ERR_LIMIT => [⟨0, 16, .rwl, 0, 0xFFFF⟩, ⟨16, 32, .rwl, 0, 0xFFFFFFFF⟩]
  | .BOOT_STATUS => [⟨0, 4, .ro, 0, 0xF⟩, ⟨4, 2, .ro, 0, 0x3⟩, ⟨6, 1, .ro, 0, 0x1⟩, ⟨7, 1, .ro, 0, 0x1⟩, ⟨8, 1, .ro, 0, 0x1⟩, ⟨9, 1, .ro, 0, 0x1⟩, ⟨10, 1, .ro, 0, 0x1⟩, ⟨11, 1, .ro, 0, 0x1⟩]
  | .BOOT_ERROR => [⟨0, 8, .ro, 0, 0xFF⟩, ⟨8, 12, .ro, 0, 0xFFF⟩, ⟨20, 1, .ro, 0, 0x1⟩, ⟨32, 32, .ro, 0, 0xFFFFFFFF⟩]
  | .IMAGE_ID => [⟨0, 64, .ro, 0, 0xFFFFFFFFFFFFFFFF⟩]
  | .STAGE_LEN => [⟨0, 29, .rw, 0, 0x1FFFFFFF⟩]
  | .BOOT_GO => [⟨0, 1, .wo, 0, 0x1⟩]
  | .RELOAD_ADDR => [⟨0, 56, .rw, 0, 0xFFFFFFFFFFFFFF⟩]
  | .RELOAD_CTRL => [⟨0, 1, .w1s, 0, 0x1⟩]
  | .RELOAD_STATUS => [⟨0, 1, .ro, 0, 0x1⟩, ⟨1, 1, .w1c, 0, 0x1⟩, ⟨2, 1, .w1c, 0, 0x1⟩, ⟨8, 8, .ro, 0, 0xFF⟩, ⟨16, 5, .ro, 0, 0x1F⟩]
  | .BOOT_PHASE => [⟨0, 64, .ro, 0, 0xFFFFFFFFFFFFFFFF⟩]
  | .FUSE_OPTIONS => [⟨0, 1, .fuse, 0, 0x1⟩, ⟨1, 1, .fuse, 0, 0x1⟩, ⟨2, 1, .fuse, 0, 0x1⟩]
  | .FUSE_ROLLBACK => [⟨0, 64, .fuse, 0, 0xFFFFFFFFFFFFFFFF⟩]
  | .FUSE_KEYSTATE => [⟨0, 4, .fuse, 0, 0xF⟩]
  | .ATTEST_FUSE_COUNT => [⟨0, 15, .ro, 0, 0x7FFF⟩]
  | .FUSE_KEYHASH => [⟨0, 64, .fuse, 0, 0xFFFFFFFFFFFFFFFF⟩]
  | .MXA_STATUS => [⟨0, 3, .ro, 0, 0x7⟩, ⟨3, 3, .ro, 0, 0x7⟩, ⟨8, 12, .ro, 0, 0xFFF⟩, ⟨20, 1, .ro, 0, 0x1⟩, ⟨21, 2, .ro, 0, 0x3⟩]
  | .MXA_PASSES => [⟨0, 64, .ro, 0, 0xFFFFFFFFFFFFFFFF⟩]
  | .MXA_BUSY => [⟨0, 64, .ro, 0, 0xFFFFFFFFFFFFFFFF⟩]
  | .MXA_HOLD => [⟨0, 64, .ro, 0, 0xFFFFFFFFFFFFFFFF⟩]
  | .MXA_BUBBLE => [⟨0, 64, .ro, 0, 0xFFFFFFFFFFFFFFFF⟩]
  | .MXA_HOLD_LIMIT => [⟨0, 32, .rw, 0, 0xFFFFFFFF⟩]
  | .MXA_EVENT => [⟨0, 1, .w1c, 0, 0x1⟩, ⟨1, 1, .w1c, 0, 0x1⟩, ⟨2, 1, .w1c, 0, 0x1⟩, ⟨3, 1, .w1c, 0, 0x1⟩]
  | .CL_PAD_STATUS => [⟨0, 32, .ro, 0, 0xFFFFFFFF⟩, ⟨32, 6, .ro, 0, 0x3F⟩]
  | .CL_PAD_PENDING => [⟨0, 32, .ro, 0, 0xFFFFFFFF⟩, ⟨32, 32, .ro, 0, 0xFFFFFFFF⟩]
  | .CL_PAD_SPARE_LO => [⟨0, 64, .ro, 0, 0xFFFFFFFFFFFFFFFF⟩]
  | .CL_PAD_SPARE_HI => [⟨0, 64, .ro, 0, 0xFFFFFFFFFFFFFFFF⟩]
  | .CL_SELFTEST_CTRL => [⟨0, 4, .w1s, 0, 0xF⟩]
  | .CL_SELFTEST_STATUS => [⟨0, 4, .ro, 0, 0xF⟩, ⟨8, 4, .w1c, 0, 0xF⟩, ⟨12, 4, .ro, 0, 0xF⟩]
  | .CL_FMT_VANISHED => [⟨0, 64, .ro, 0, 0xFFFFFFFFFFFFFFFF⟩]
  | .CL_FMT_SPLIT => [⟨0, 64, .ro, 0, 0xFFFFFFFFFFFFFFFF⟩]
  | .CL_FMT_SATURATED => [⟨0, 64, .ro, 0, 0xFFFFFFFFFFFFFFFF⟩]
  | .CL_FMT_NONFINITE => [⟨0, 64, .ro, 0, 0xFFFFFFFFFFFFFFFF⟩]
  | .CL_NUM_ID => [⟨0, 8, .ro, 0, 0xFF⟩, ⟨8, 8, .ro, 0, 0xFF⟩, ⟨16, 8, .ro, 0, 0xFF⟩, ⟨24, 8, .ro, 0, 0xFF⟩]
  | .ENG_STATUS => [⟨0, 3, .ro, 0, 0x7⟩, ⟨8, 12, .ro, 0, 0xFFF⟩, ⟨20, 1, .ro, 0, 0x1⟩, ⟨32, 8, .ro, 0, 0xFF⟩]
  | .ENG_BUSY => [⟨0, 64, .ro, 0, 0xFFFFFFFFFFFFFFFF⟩]
  | .ENG_WAIT => [⟨0, 64, .ro, 0, 0xFFFFFFFFFFFFFFFF⟩]
  | .ENG_WORK => [⟨0, 64, .ro, 0, 0xFFFFFFFFFFFFFFFF⟩]
  | .ENG_EVENT => [⟨0, 1, .w1c, 0, 0x1⟩, ⟨1, 1, .w1c, 0, 0x1⟩, ⟨2, 1, .w1c, 0, 0x1⟩, ⟨3, 1, .w1c, 0, 0x1⟩, ⟨4, 1, .w1c, 0, 0x1⟩]
  | .MVE_STAGE => [⟨0, 5, .rw, 0, 16⟩, ⟨8, 5, .ro, 0, 0x1F⟩]
  | .MVE_BYTES_RD => [⟨0, 64, .ro, 0, 0xFFFFFFFFFFFFFFFF⟩]
  | .MVE_BYTES_WR => [⟨0, 64, .ro, 0, 0xFFFFFFFFFFFFFFFF⟩]
  | .MVE_BURST_WASTE => [⟨0, 64, .ro, 0, 0xFFFFFFFFFFFFFFFF⟩]
  | .QM_STATUS => [⟨0, 1, .ro, 0, 0x1⟩, ⟨1, 5, .ro, 0, 0x1F⟩, ⟨6, 1, .ro, 0, 0x1⟩, ⟨7, 1, .w1c, 0, 0x1⟩]
  | .QM_FS_LIMIT => [⟨0, 32, .rw, 0, 0xFFFFFFFF⟩]
  | .QM_HURDLE_POLL => [⟨0, 16, .rw, 0, 0xFFFF⟩]
  | .QM_COUNTS => [⟨0, 32, .ro, 0, 0xFFFFFFFF⟩, ⟨32, 32, .ro, 0, 0xFFFFFFFF⟩]
  | .Q_BASE => [⟨12, 44, .rw, 0, 0xFFFFFFFFFFF⟩]
  | .Q_CFG => [⟨0, 4, .rw, 0, 10⟩, ⟨4, 4, .rw, 0, 10⟩, ⟨8, 12, .rw, 0, 0xFFF⟩, ⟨20, 1, .rw, 0, 0x1⟩, ⟨32, 16, .rw, 0, 0xFFFF⟩]
  | .Q_CQ_BASE => [⟨12, 44, .rw, 0, 0xFFFFFFFFFFF⟩]
  | .Q_CQ_HEAD => [⟨0, 32, .rw, 0, 0xFFFFFFFF⟩]
  | .Q_MSI_ADDR => [⟨2, 54, .rw, 0, 0x3FFFFFFFFFFFFF⟩]
  | .Q_MSI_CFG => [⟨0, 11, .rw, 0, 0x7FF⟩, ⟨11, 1, .rw, 0, 0x1⟩, ⟨16, 16, .rw, 0, 0xFFFF⟩]
  | .Q_SEED => [⟨0, 64, .rw, 0, 0xFFFFFFFFFFFFFFFF⟩]
  | .Q_POS => [⟨0, 32, .ro, 0, 0xFFFFFFFF⟩, ⟨32, 32, .ro, 0, 0xFFFFFFFF⟩]
  | .Q_STATUS => [⟨0, 2, .ro, 0, 0x3⟩, ⟨4, 4, .ro, 0, 0xF⟩, ⟨8, 8, .ro, 0, 0xFF⟩, ⟨16, 16, .ro, 0, 0xFFFF⟩, ⟨32, 1, .ro, 0, 0x1⟩]
  | .Q_CTRL => [⟨0, 1, .w1s, 0, 0x1⟩, ⟨1, 1, .w1s, 0, 0x1⟩]
  | .Q_COUNTS => [⟨0, 16, .ro, 0, 0xFFFF⟩, ⟨16, 16, .ro, 0, 0xFFFF⟩, ⟨32, 16, .ro, 0, 0xFFFF⟩, ⟨48, 16, .ro, 0, 0xFFFF⟩]
  | .DB => [⟨0, 32, .wo, 0, 0xFFFFFFFF⟩, ⟨48, 16, .wo, 0, 0xFFFF⟩]
  | .TOKEN => [⟨0, 32, .rw, 0, 0xFFFFFFFF⟩]
  | .PART_STATUS => [⟨0, 3, .ro, 0, 0x7⟩, ⟨8, 5, .ro, 0, 0x1F⟩, ⟨13, 3, .ro, 0, 0x7⟩, ⟨16, 16, .ro, 0, 0xFFFF⟩]
  | .PART_CTRL => [⟨0, 1, .w1s, 0, 0x1⟩]
  | .PART_LAP => [⟨0, 32, .rw, 0, 0xFFFFFFFF⟩, ⟨32, 5, .rw, 1, 16⟩, ⟨48, 16, .rw, 0, 0xFFFF⟩]
  | .PART_LIMITS => [⟨0, 32, .rw, 0, 0xFFFFFFFF⟩, ⟨32, 32, .rw, 0, 0xFFFFFFFF⟩]
  | .PART_ESC => [⟨0, 8, .rw, 0, 0xFF⟩, ⟨32, 32, .rw, 0, 0xFFFFFFFF⟩]
  | .CL_STATUS => [⟨0, 1, .ro, 0, 0x1⟩, ⟨1, 5, .ro, 0, 0x1F⟩, ⟨8, 9, .ro, 0, 0x1FF⟩, ⟨17, 5, .ro, 0, 0x1F⟩]
  | .CL_STEAL_CFG => [⟨0, 1, .rw, 0, 0x1⟩, ⟨1, 1, .rw, 0, 0x1⟩, ⟨8, 8, .rw, 0, 0xFF⟩]
  | .CL_STEALS => [⟨0, 32, .ro, 0, 0xFFFFFFFF⟩, ⟨32, 32, .ro, 0, 0xFFFFFFFF⟩]
  | .CL_TILES => [⟨0, 64, .ro, 0, 0xFFFFFFFFFFFFFFFF⟩]
  | .CTX_STATE => [⟨0, 3, .ro, 0, 0x7⟩, ⟨3, 1, .ro, 0, 0x1⟩, ⟨4, 1, .ro, 0, 0x1⟩, ⟨16, 12, .ro, 0, 0xFFF⟩, ⟨28, 1, .ro, 0, 0x1⟩, ⟨32, 2, .ro, 0, 0x3⟩]
  | .CTX_CTRL => [⟨0, 3, .rw, 0, 0x7⟩, ⟨3, 3, .rw, 0, 0x7⟩, ⟨8, 6, .rw, 0, 33⟩, ⟨16, 1, .w1s, 0, 0x1⟩, ⟨17, 1, .w1s, 0, 0x1⟩, ⟨18, 1, .w1s, 0, 0x1⟩, ⟨19, 1, .w1s, 0, 0x1⟩]
  | .CTX_SAVE => [⟨12, 44, .rw, 0, 0xFFFFFFFFFFF⟩]
  | .CTX_FAULT => [⟨0, 4, .ro, 0, 0xF⟩, ⟨4, 3, .ro, 0, 0x7⟩]
  | .CTX_FAULT_ADDR => [⟨0, 56, .ro, 0, 0xFFFFFFFFFFFFFF⟩]
  | .CTX_PACE => [⟨0, 32, .rw, 0, 0xFFFFFFFF⟩, ⟨32, 16, .rw, 0, 0xFFFF⟩, ⟨63, 1, .w1s, 0, 0x1⟩]
  | .CTX_PACE_WORK => [⟨0, 32, .rw, 0, 0xFFFFFFFF⟩, ⟨32, 32, .rw, 0, 0xFFFFFFFF⟩]
  | .CTX_FALLBACK => [⟨0, 12, .rw, 0, 64⟩, ⟨12, 44, .rw, 0, 0xFFFFFFFFFFF⟩]
  | .CTX_PACE_STATUS => [⟨0, 16, .ro, 0, 0xFFFF⟩, ⟨16, 1, .ro, 0, 0x1⟩, ⟨32, 8, .ro, 0, 0xFF⟩, ⟨40, 8, .ro, 0, 0xFF⟩, ⟨48, 8, .ro, 0, 0xFF⟩]
  | .CTX_ACCT_RUN => [⟨0, 64, .ro, 0, 0xFFFFFFFFFFFFFFFF⟩]
  | .CTX_ACCT_WAIT => [⟨0, 64, .ro, 0, 0xFFFFFFFFFFFFFFFF⟩]
  | .CTX_ACCT_PREEMPT => [⟨0, 32, .ro, 0, 0xFFFFFFFF⟩, ⟨32, 32, .ro, 0, 0xFFFFFFFF⟩]
  | .CTX_ACCT_HOLD => [⟨0, 64, .ro, 0, 0xFFFFFFFFFFFFFFFF⟩]
  | .CH_STATUS => [⟨0, 1, .ro, 0, 0x1⟩, ⟨1, 3, .ro, 0, 0x7⟩, ⟨4, 1, .ro, 0, 0x1⟩]
  | .CH_ERR => [⟨0, 16, .ro, 0, 0xFFFF⟩, ⟨16, 16, .ro, 0, 0xFFFF⟩, ⟨32, 16, .ro, 0, 0xFFFF⟩, ⟨48, 16, .ro, 0, 0xFFFF⟩]
  | .CH_ERR_ADDR => [⟨0, 33, .ro, 0, 0x1FFFFFFFF⟩, ⟨33, 3, .ro, 0, 0x7⟩, ⟨36, 4, .ro, 0, 0xF⟩]
  | .CH_CTRL => [⟨0, 1, .w1s, 0, 0x1⟩, ⟨8, 8, .rwl, 0, 0xFF⟩, ⟨16, 16, .rwl, 0, 0xFFFF⟩, ⟨32, 32, .rwl, 0, 0xFFFFFFFF⟩]
  | .CH_GEN => [⟨0, 8, .ro, 0, 0xFF⟩, ⟨8, 8, .ro, 0, 0xFF⟩]
  | .CH_COUNTS => [⟨0, 32, .ro, 0, 0xFFFFFFFF⟩, ⟨32, 32, .ro, 0, 0xFFFFFFFF⟩]
  | .T2_STATUS => [⟨0, 1, .ro, 0, 0x1⟩, ⟨1, 1, .ro, 0, 0x1⟩, ⟨2, 2, .ro, 0, 0x3⟩, ⟨4, 4, .ro, 0, 0xF⟩, ⟨16, 10, .ro, 0, 0x3FF⟩, ⟨32, 4, .ro, 0, 0xF⟩, ⟨36, 10, .ro, 0, 0x3FF⟩, ⟨46, 1, .ro, 0, 0x1⟩]
  | .T2_ERR => [⟨0, 16, .ro, 0, 0xFFFF⟩, ⟨16, 16, .ro, 0, 0xFFFF⟩, ⟨32, 16, .ro, 0, 0xFFFF⟩, ⟨48, 16, .ro, 0, 0xFFFF⟩]
  | .T2_ERR_ADDR => [⟨0, 43, .ro, 0, 0x7FFFFFFFFFF⟩, ⟨43, 3, .ro, 0, 0x7⟩, ⟨46, 4, .ro, 0, 0xF⟩]
  | .T2_CTRL => [⟨0, 16, .rwl, 0, 0xFFFF⟩, ⟨16, 16, .rwl, 0, 0xFFFF⟩, ⟨32, 32, .rwl, 0, 0xFFFFFFFF⟩]
  | .T2_COUNTS => [⟨0, 32, .ro, 0, 0xFFFFFFFF⟩, ⟨32, 32, .ro, 0, 0xFFFFFFFF⟩]
  | .T2_LIMIT => [⟨0, 8, .rwl, 0, 0xFF⟩]
  | .SC_STATUS => [⟨0, 16, .ro, 0, 0xFFFF⟩, ⟨16, 1, .ro, 0, 0x1⟩, ⟨17, 1, .ro, 0, 0x1⟩]
  | .SC_WAYS => [⟨0, 16, .rw, 0, 0xFFFF⟩, ⟨16, 5, .rw, 1, 16⟩]
  | .SC_PRELOAD_ADDR => [⟨8, 48, .rw, 0, 0xFFFFFFFFFFFF⟩]
  | .SC_PRELOAD_CTRL => [⟨0, 32, .rw, 0, 0xFFFFFFFF⟩, ⟨32, 1, .w1s, 0, 0x1⟩, ⟨33, 1, .w1s, 0, 0x1⟩]
  | .SC_PF_CFG => [⟨0, 1, .rw, 0, 0x1⟩, ⟨1, 4, .rw, 0, 0xF⟩]
  | .SC_HITS => [⟨0, 64, .ro, 0, 0xFFFFFFFFFFFFFFFF⟩]
  | .SC_MISSES => [⟨0, 64, .ro, 0, 0xFFFFFFFFFFFFFFFF⟩]
  | .SC_COUNTS => [⟨0, 16, .ro, 0, 0xFFFF⟩, ⟨16, 16, .ro, 0, 0xFFFF⟩, ⟨32, 16, .ro, 0, 0xFFFF⟩, ⟨48, 16, .ro, 0, 0xFFFF⟩]
  | .SC_PF_USED => [⟨0, 64, .ro, 0, 0xFFFFFFFFFFFFFFFF⟩]
  | .TIER_POOL_BASE => [⟨16, 40, .rw, 0, 0xFFFFFFFFFF⟩]
  | .TIER_POOL_CFG => [⟨0, 26, .rw, 0, 0x3FFFFFF⟩, ⟨32, 16, .rw, 0, 0xFFFF⟩]
  | .TIER_STAMP_BASE => [⟨6, 50, .rw, 0, 0x3FFFFFFFFFFFF⟩]
  | .TIER_NOTICE_BASE => [⟨0, 4, .rw, 0, 10⟩, ⟨12, 44, .rw, 0, 0xFFFFFFFFFFF⟩]
  | .TIER_NOTICE_HEAD => [⟨0, 32, .rw, 0, 0xFFFFFFFF⟩]
  | .TIER_NOTICE_STATUS => [⟨0, 32, .ro, 0, 0xFFFFFFFF⟩, ⟨32, 16, .ro, 0, 0xFFFF⟩]
  | .TIER_DISCARD => [⟨0, 64, .rw, 0, 0xFFFFFFFFFFFFFFFF⟩]
  | .HOME_STATUS => [⟨0, 13, .ro, 0, 0x1FFF⟩, ⟨13, 1, .ro, 0, 0x1⟩, ⟨14, 1, .ro, 0, 0x1⟩, ⟨16, 18, .ro, 0, 0x3FFFF⟩]
  | .HOME_CFG => [⟨0, 32, .rwl, 0, 0xFFFFFFFF⟩]
  | .HOME_EVENT => [⟨0, 1, .w1c, 0, 0x1⟩, ⟨1, 1, .w1c, 0, 0x1⟩, ⟨2, 1, .w1c, 0, 0x1⟩, ⟨3, 1, .w1c, 0, 0x1⟩]
  | .SF_COUNTS => [⟨0, 32, .ro, 0, 0xFFFFFFFF⟩, ⟨32, 32, .ro, 0, 0xFFFFFFFF⟩]
  | .HOME_COUNTS => [⟨0, 32, .ro, 0, 0xFFFFFFFF⟩, ⟨32, 16, .ro, 0, 0xFFFF⟩, ⟨48, 16, .ro, 0, 0xFFFF⟩]
  | .LLT => [⟨0, 64, .ro, 0, 0xFFFFFFFFFFFFFFFF⟩]
  | .CC_STATUS => [⟨0, 14, .ro, 0, 0x3FFF⟩, ⟨14, 1, .ro, 0, 0x1⟩]
  | .CC_CTRL => [⟨0, 1, .rw, 0, 0x1⟩, ⟨1, 1, .w1s, 0, 0x1⟩]
  | .CC_HITS => [⟨0, 64, .ro, 0, 0xFFFFFFFFFFFFFFFF⟩]
  | .CC_MISSES => [⟨0, 64, .ro, 0, 0xFFFFFFFFFFFFFFFF⟩]
  | .CC_DROPS => [⟨0, 32, .ro, 0, 0xFFFFFFFF⟩]
  | .CORE_SL_ADDR => [⟨0, 56, .ro, 0, 0xFFFFFFFFFFFFFF⟩]
  | .CORE_SL_INFO => [⟨0, 1, .w1c, 0, 0x1⟩, ⟨1, 3, .ro, 0, 0x7⟩, ⟨4, 1, .ro, 0, 0x1⟩, ⟨16, 16, .ro, 0, 0xFFFF⟩]
  | .XP_CHECK_BASE => [⟨12, 44, .rw, 0, 0xFFFFFFFFFFF⟩]
  | .XP_CHECK_CTRL => [⟨0, 1, .rw, 0, 0x1⟩, ⟨1, 1, .w1s, 0, 0x1⟩]
  | .XP_INV_ADDR => [⟨12, 45, .rw, 0, 0x1FFFFFFFFFFF⟩]
  | .XP_INV_CTRL => [⟨0, 12, .rw, 0, 0xFFF⟩, ⟨12, 1, .rw, 0, 0x1⟩, ⟨13, 1, .rw, 0, 0x1⟩, ⟨16, 6, .rw, 0, 0x3F⟩, ⟨32, 1, .w1s, 0, 0x1⟩]
  | .XP_INV_STATUS => [⟨0, 1, .ro, 0, 0x1⟩, ⟨1, 1, .w1c, 0, 0x1⟩, ⟨2, 1, .w1c, 0, 0x1⟩, ⟨3, 1, .w1c, 0, 0x1⟩, ⟨8, 7, .ro, 0, 0x7F⟩]
  | .XP_PR_BASE => [⟨0, 4, .rw, 0, 10⟩, ⟨12, 44, .rw, 0, 0xFFFFFFFFFFF⟩]
  | .XP_PR_HEAD => [⟨0, 32, .rw, 0, 0xFFFFFFFF⟩]
  | .XP_PR_MSI_ADDR => [⟨2, 54, .rw, 0, 0x3FFFFFFFFFFFFF⟩]
  | .XP_PR_MSI => [⟨0, 11, .rw, 0, 0x7FF⟩]
  | .XP_PR_RESP => [⟨0, 8, .wo, 0, 0xFF⟩, ⟨8, 1, .wo, 0, 0x1⟩]
  | .XP_PR_STATUS => [⟨0, 32, .ro, 0, 0xFFFFFFFF⟩, ⟨32, 7, .ro, 0, 0x7F⟩, ⟨39, 1, .ro, 0, 0x1⟩, ⟨40, 12, .ro, 0, 0xFFF⟩, ⟨52, 12, .ro, 0, 0xFFF⟩]
  | .XP_PR_LIMIT => [⟨0, 32, .rw, 0, 0xFFFFFFFF⟩]
  | .CTX_XLATE => [⟨0, 4, .rw, 0, 0xF⟩, ⟨4, 1, .rw, 0, 0x1⟩, ⟨12, 44, .rw, 0, 0xFFFFFFFFFFF⟩]
  | .CTX_XLATE_COUNTS => [⟨0, 32, .ro, 0, 0xFFFFFFFF⟩, ⟨32, 32, .ro, 0, 0xFFFFFFFF⟩]
  | .ATC_STATUS => [⟨0, 12, .ro, 0, 0xFFF⟩, ⟨12, 6, .ro, 0, 0x3F⟩, ⟨18, 1, .ro, 0, 0x1⟩, ⟨19, 1, .ro, 0, 0x1⟩]
  | .ATC_HITS => [⟨0, 64, .ro, 0, 0xFFFFFFFFFFFFFFFF⟩]
  | .ATC_MISSES => [⟨0, 64, .ro, 0, 0xFFFFFFFFFFFFFFFF⟩]
  | .FAB_SELF => [⟨0, 10, .ro, 0, 0x3FF⟩, ⟨10, 1, .ro, 0, 0x1⟩, ⟨11, 1, .ro, 0, 0x1⟩, ⟨12, 1, .ro, 0, 0x1⟩, ⟨13, 1, .ro, 0, 0x1⟩]
  | .FAB_DISC_ID => [⟨0, 64, .ro, 0, 0xFFFFFFFFFFFFFFFF⟩]
  | .FAB_CTRL => [⟨0, 1, .w1s, 0, 0x1⟩]
  | .FAB_COUNTS => [⟨0, 32, .ro, 0, 0xFFFFFFFF⟩, ⟨32, 16, .ro, 0, 0xFFFF⟩, ⟨48, 16, .ro, 0, 0xFFFF⟩]
  | .FAB_DNF_RAISE => [⟨0, 16, .wo, 0, 0xFFFF⟩]
  | .FAB_DNF_LAST => [⟨0, 16, .ro, 0, 0xFFFF⟩, ⟨16, 10, .ro, 0, 0x3FF⟩, ⟨26, 2, .ro, 0, 0x3⟩, ⟨32, 16, .ro, 0, 0xFFFF⟩, ⟨48, 16, .ro, 0, 0xFFFF⟩]
  | .JOB_CFG => [⟨0, 16, .rw, 0, 0xFFFF⟩, ⟨16, 1, .rw, 0, 0x1⟩, ⟨17, 1, .rw, 0, 0x1⟩, ⟨18, 1, .rw, 0, 0x1⟩, ⟨19, 1, .rw, 0, 0x1⟩, ⟨20, 1, .w1c, 0, 0x1⟩, ⟨21, 1, .ro, 0, 0x1⟩, ⟨22, 5, .rw, 0, 0x1F⟩, ⟨32, 32, .rw, 0, 0xFFFFFFFF⟩]
  | .JOB_RANGE => [⟨0, 12, .rw, 0, 0xFFF⟩, ⟨16, 13, .rw, 0, 0x1FFF⟩]
  | .JOB_MEMBERS => [⟨0, 64, .rw, 0, 0xFFFFFFFFFFFFFFFF⟩]
  | .FAB_DEV => [⟨0, 1, .ro, 0, 0x1⟩, ⟨1, 1, .ro, 0, 0x1⟩, ⟨2, 1, .ro, 0, 0x1⟩, ⟨3, 3, .ro, 0, 0x7⟩, ⟨6, 3, .ro, 0, 0x7⟩]
  | .PORT_STATUS => [⟨0, 3, .ro, 0, 0x7⟩, ⟨3, 1, .ro, 0, 0x1⟩, ⟨4, 1, .ro, 0, 0x1⟩, ⟨5, 3, .ro, 0, 0x7⟩, ⟨8, 2, .ro, 0, 0x3⟩, ⟨16, 14, .ro, 0, 0x3FFF⟩, ⟨32, 10, .ro, 0, 0x3FF⟩, ⟨42, 6, .ro, 0, 0x3F⟩, ⟨48, 10, .ro, 0, 0x3FF⟩, ⟨58, 1, .ro, 0, 0x1⟩]
  | .PORT_LANES => [⟨0, 5, .ro, 0, 0x1F⟩, ⟨5, 5, .ro, 0, 0x1F⟩]
  | .PORT_CREDIT => [⟨0, 12, .ro, 0, 0xFFF⟩, ⟨12, 16, .ro, 0, 0xFFFF⟩, ⟨28, 12, .ro, 0, 0xFFF⟩, ⟨40, 11, .ro, 0, 0x7FF⟩]
  | .PORT_CTRL => [⟨0, 1, .w1s, 0, 0x1⟩]
  | .PORT_COUNTS => [⟨0, 32, .ro, 0, 0xFFFFFFFF⟩, ⟨32, 16, .ro, 0, 0xFFFF⟩, ⟨48, 8, .ro, 0, 0xFF⟩, ⟨56, 8, .ro, 0, 0xFF⟩]
  | .PORT_VIOL => [⟨0, 16, .ro, 0, 0xFFFF⟩, ⟨16, 16, .ro, 0, 0xFFFF⟩, ⟨32, 16, .ro, 0, 0xFFFF⟩, ⟨48, 16, .ro, 0, 0xFFFF⟩]
  | .PORT_EVENT => [⟨0, 1, .w1c, 0, 0x1⟩, ⟨1, 1, .w1c, 0, 0x1⟩, ⟨2, 1, .w1c, 0, 0x1⟩, ⟨3, 1, .w1c, 0, 0x1⟩, ⟨4, 1, .w1c, 0, 0x1⟩]
  | .PCI_STATUS => [⟨0, 1, .ro, 0, 0x1⟩, ⟨1, 3, .ro, 0, 0x7⟩, ⟨4, 3, .ro, 0, 0x7⟩, ⟨7, 1, .ro, 0, 0x1⟩, ⟨8, 6, .ro, 0, 0x3F⟩, ⟨14, 1, .ro, 0, 0x1⟩, ⟨15, 1, .ro, 0, 0x1⟩]
  | .PCI_ERR_LOG => [⟨0, 1, .w1c, 0, 0x1⟩, ⟨1, 6, .ro, 0, 0x3F⟩, ⟨7, 3, .ro, 0, 0x7⟩, ⟨10, 1, .ro, 0, 0x1⟩, ⟨32, 32, .ro, 0, 0xFFFFFFFF⟩]
  | .PCI_ERR_ADDR => [⟨0, 56, .ro, 0, 0xFFFFFFFFFFFFFF⟩]
  | .PCI_VIOL => [⟨0, 16, .ro, 0, 0xFFFF⟩, ⟨16, 16, .ro, 0, 0xFFFF⟩, ⟨32, 16, .ro, 0, 0xFFFF⟩, ⟨48, 16, .ro, 0, 0xFFFF⟩]
  | .PCI_NOTIFY => [⟨0, 6, .wo, 0, 0x3F⟩, ⟨6, 6, .wo, 0, 0x3F⟩]
  | .APER => [⟨0, 1, .rw, 0, 0x1⟩, ⟨1, 2, .rw, 0, 0x3⟩, ⟨3, 12, .rw, 0, 0xFFF⟩, ⟨15, 5, .rw, 0, 0x1F⟩, ⟨30, 25, .rw, 0, 0x1FFFFFF⟩]
  | .NSE_STATUS => [⟨0, 1, .ro, 0, 0x1⟩, ⟨1, 1, .ro, 0, 0x1⟩, ⟨2, 1, .ro, 0, 0x1⟩, ⟨3, 1, .ro, 0, 0x1⟩]
  | .NSE_COUNTS => [⟨0, 32, .ro, 0, 0xFFFFFFFF⟩, ⟨32, 32, .ro, 0, 0xFFFFFFFF⟩]
  | .GX_STATUS => [⟨0, 3, .ro, 0, 0x7⟩, ⟨3, 1, .ro, 0, 0x1⟩, ⟨4, 4, .ro, 0, 0xF⟩, ⟨8, 56, .ro, 0, 0xFFFFFFFFFFFFFF⟩]
  | .GX_LEDGER => [⟨0, 64, .ro, 0, 0xFFFFFFFFFFFFFFFF⟩]
  | .GX_SRC => [⟨6, 50, .rw, 0, 0x3FFFFFFFFFFFF⟩]
  | .GX_AUX => [⟨6, 50, .rw, 0, 0x3FFFFFFFFFFFF⟩]
  | .GX_LEN => [⟨0, 32, .rw, 0, 0xFFFFFFFF⟩]
  | .GX_CTRL => [⟨0, 1, .w1s, 0, 0x1⟩, ⟨1, 2, .rw, 0, 2⟩]
  | .GX_DEST_BASE => [⟨12, 52, .rw, 0, 0xFFFFFFFFFFFFF⟩]
  | .GX_DEST_CFG => [⟨0, 5, .rw, 0, 20⟩, ⟨32, 32, .rw, 0, 0xFFFFFFFF⟩]
  | .GX_DEST_POS => [⟨0, 32, .ro, 0, 0xFFFFFFFF⟩]
  | .GX_COUNTS => [⟨0, 32, .ro, 0, 0xFFFFFFFF⟩, ⟨32, 16, .ro, 0, 0xFFFF⟩, ⟨48, 16, .ro, 0, 0xFFFF⟩]
  | .GX_OWNER => [⟨0, 64, .ro, 0, 0xFFFFFFFFFFFFFFFF⟩]
  | .ATT_STATUS => [⟨0, 1, .ro, 0, 0x1⟩, ⟨1, 1, .ro, 0, 0x1⟩, ⟨2, 1, .ro, 0, 0x1⟩, ⟨4, 4, .ro, 0, 0xF⟩, ⟨32, 21, .ro, 0, 0x1FFFFF⟩]
  | .ATT_DATA_ADDR => [⟨6, 50, .rw, 0, 0x3FFFFFFFFFFFF⟩]
  | .ATT_OUT_ADDR => [⟨6, 50, .rw, 0, 0x3FFFFFFFFFFFF⟩]
  | .ATT_CTRL => [⟨0, 5, .rw, 0, 0x1F⟩, ⟨5, 1, .rw, 0, 0x1⟩, ⟨8, 1, .w1s, 0, 0x1⟩]
  | .PWR_STATUS => [⟨0, 3, .ro, 0, 0x7⟩, ⟨3, 1, .ro, 0, 0x1⟩, ⟨4, 10, .ro, 0, 0x3FF⟩, ⟨14, 10, .ro, 0, 0x3FF⟩, ⟨24, 12, .ro, 0, 0xFFF⟩]
  | .PWR_LIMIT => [⟨0, 10, .rwl, 0, 0x3FF⟩, ⟨10, 10, .rwl, 0, 0x3FF⟩]
  | .PWR_IDLE => [⟨0, 16, .rwl, 0, 0xFFFF⟩, ⟨16, 16, .rwl, 0, 0xFFFF⟩, ⟨32, 12, .rwl, 0, 0xFFF⟩, ⟨44, 10, .rwl, 0, 0x3FF⟩, ⟨54, 10, .rwl, 0, 0x3FF⟩]
  | .THERM_STATUS => [⟨0, 8, .ro, 0, 0xFF⟩, ⟨8, 5, .ro, 0, 0x1F⟩, ⟨13, 3, .ro, 0, 0x7⟩]
  | .THERM_CFG => [⟨0, 8, .rwl, 70, 95⟩, ⟨8, 8, .fuse, 0, 0xFF⟩]
  | .PWR_COUNTS => [⟨0, 32, .ro, 0, 0xFFFFFFFF⟩, ⟨32, 16, .ro, 0, 0xFFFF⟩, ⟨48, 16, .ro, 0, 0xFFFF⟩]
  | .PWR_EVENT => [⟨0, 1, .w1c, 0, 0x1⟩, ⟨1, 1, .w1c, 0, 0x1⟩, ⟨2, 1, .w1c, 0, 0x1⟩, ⟨3, 1, .w1c, 0, 0x1⟩]
  | .CAPC_STATUS => [⟨0, 16, .ro, 0, 0xFFFF⟩, ⟨16, 16, .ro, 0, 0xFFFF⟩, ⟨32, 1, .ro, 0, 0x1⟩, ⟨33, 31, .ro, 0, 0x7FFFFFFF⟩]
  | .CAPC_CFG => [⟨0, 16, .rwl, 0, 0xFFFF⟩, ⟨16, 12, .rwl, 0, 0xFFF⟩, ⟨28, 32, .rwl, 0, 0xFFFFFFFF⟩]
  | .CAPC_REGION => [⟨0, 16, .ro, 0, 0xFFFF⟩, ⟨16, 12, .ro, 0, 0xFFF⟩, ⟨28, 12, .ro, 0, 0xFFF⟩, ⟨40, 1, .ro, 0, 0x1⟩]
  | .DIE_STATUS => [⟨0, 8, .ro, 0, 0xFF⟩, ⟨8, 16, .ro, 0, 0xFFFF⟩]
  | .DIE_CTRL => [⟨0, 1, .w1s, 0, 0x1⟩]
  | .REQ_BOUND => [⟨0, 32, .rwl, 0, 0xFFFFFFFF⟩, ⟨32, 32, .rwl, 0, 0xFFFFFFFF⟩]
  | .HANG_LIMIT => [⟨0, 32, .rwl, 0, 0xFFFFFFFF⟩]
  | .DIE_ERR_COUNTS => [⟨0, 32, .ro, 0, 0xFFFFFFFF⟩, ⟨32, 16, .ro, 0, 0xFFFF⟩, ⟨48, 16, .ro, 0, 0xFFFF⟩]
  | .ELOG_STATUS => [⟨0, 32, .ro, 0, 0xFFFFFFFF⟩, ⟨32, 1, .ro, 0, 0x1⟩, ⟨33, 1, .w1c, 0, 0x1⟩]
  | .ELOG_MSI_ADDR => [⟨2, 54, .rw, 0, 0x3FFFFFFFFFFFFF⟩]
  | .ELOG_MSI => [⟨0, 11, .rw, 0, 0x7FF⟩, ⟨16, 7, .rw, 0, 0x7F⟩]
  | .WD_CFG => [⟨0, 32, .rwl, 0, 0xFFFFFFFF⟩, ⟨32, 2, .rwl, 0, 0x3⟩]
  | .RESET_CTRL => [⟨0, 11, .wo, 0, 0x7FF⟩, ⟨16, 1, .wo, 0, 0x1⟩, ⟨24, 8, .wo, 0, 0xFF⟩]
  | .DIE_STATE => [⟨0, 22, .ro, 0, 0x3FFFFF⟩]
  | .ELOG => [⟨0, 64, .ro, 0, 0xFFFFFFFFFFFFFFFF⟩]
  | .CRASH => [⟨0, 64, .ro, 0, 0xFFFFFFFFFFFFFFFF⟩]
  | .SAFE_CFG => [⟨0, 16, .rwl, 0, 0xFFFF⟩]
  | .SAFE_STATUS => [⟨0, 32, .ro, 0, 0xFFFFFFFF⟩, ⟨32, 16, .ro, 0, 0xFFFF⟩, ⟨48, 16, .ro, 0, 0xFFFF⟩]
  | .RAIL_CFG => [⟨0, 12, .rwl, 0, 0xFFF⟩, ⟨16, 7, .rwl, 0, 0x7F⟩, ⟨24, 8, .rwl, 0, 0xFF⟩]
  | .RAIL_STATUS => [⟨0, 12, .ro, 0, 0xFFF⟩, ⟨12, 1, .ro, 0, 0x1⟩, ⟨13, 2, .ro, 0, 0x3⟩, ⟨15, 1, .ro, 0, 0x1⟩, ⟨16, 16, .ro, 0, 0xFFFF⟩, ⟨32, 16, .ro, 0, 0xFFFF⟩, ⟨48, 16, .ro, 0, 0xFFFF⟩]
  | .GXB_STATUS => [⟨0, 3, .ro, 0, 0x7⟩, ⟨3, 1, .ro, 0, 0x1⟩, ⟨4, 4, .ro, 0, 0xF⟩, ⟨8, 56, .ro, 0, 0xFFFFFFFFFFFFFF⟩]
  | .GXB_LEDGER => [⟨0, 64, .ro, 0, 0xFFFFFFFFFFFFFFFF⟩]

/-- One row of a register map placed in its block: the offset of instance (i, j) is off + i × stride + j × stride2
for i < count, j < count2, and its index is (ixBase + unit × count + i) × count2 + j. -/
structure MapRow where
  name    : RegName
  block   : Block
  off     : Nat
  stride  : Nat
  count   : Nat
  stride2 : Nat
  count2  : Nat
  ixBase  : Nat
  deriving DecidableEq, Repr

/-- Rows of the register maps, part 1. -/
def mapRows1 : List MapRow :=
  [ ⟨.CLK_STATUS, .dieCommon, 0x0, 0x0, 1, 0, 1, 0⟩,
    ⟨.SLOW_COUNT, .dieCommon, 0x8, 0x0, 1, 0, 1, 0⟩,
    ⟨.CLK_STEP_LIMIT, .dieCommon, 0x10, 0x0, 1, 0, 1, 0⟩,
    ⟨.CLK_EVENT, .dieCommon, 0x18, 0x0, 1, 0, 1, 0⟩,
    ⟨.LINK_STATUS, .dieCommon, 0x100000, 0x10000, 16, 0, 1, 0⟩,
    ⟨.LINK_STATUS, .hostLink, 0x0, 0x0, 1, 0, 1, 128⟩,
    ⟨.LANE_MAP, .dieCommon, 0x100008, 0x10000, 16, 0, 1, 0⟩,
    ⟨.LANE_MAP, .hostLink, 0x8, 0x0, 1, 0, 1, 128⟩,
    ⟨.LINK_CTRL, .dieCommon, 0x100010, 0x10000, 16, 0, 1, 0⟩,
    ⟨.LINK_CTRL, .hostLink, 0x10, 0x0, 1, 0, 1, 128⟩,
    ⟨.LINK_COUNTS, .dieCommon, 0x100018, 0x10000, 16, 0, 1, 0⟩,
    ⟨.LINK_COUNTS, .hostLink, 0x18, 0x0, 1, 0, 1, 128⟩,
    ⟨.LINK_EVENT, .dieCommon, 0x100020, 0x10000, 16, 0, 1, 0⟩,
    ⟨.LINK_EVENT, .hostLink, 0x20, 0x0, 1, 0, 1, 128⟩,
    ⟨.LANE_ERR_LIMIT, .dieCommon, 0x100028, 0x10000, 16, 0, 1, 0⟩,
    ⟨.LANE_ERR_LIMIT, .hostLink, 0x28, 0x0, 1, 0, 1, 128⟩,
    ⟨.BOOT_STATUS, .mgmt, 0x0, 0x0, 1, 0, 1, 0⟩,
    ⟨.BOOT_ERROR, .mgmt, 0x8, 0x0, 1, 0, 1, 0⟩,
    ⟨.IMAGE_ID, .mgmt, 0x10, 0x0, 1, 0, 1, 0⟩,
    ⟨.STAGE_LEN, .mgmt, 0x18, 0x0, 1, 0, 1, 0⟩,
    ⟨.BOOT_GO, .mgmt, 0x20, 0x0, 1, 0, 1, 0⟩,
    ⟨.RELOAD_ADDR, .mgmt, 0x28, 0x0, 1, 0, 1, 0⟩,
    ⟨.RELOAD_CTRL, .mgmt, 0x30, 0x0, 1, 0, 1, 0⟩,
    ⟨.RELOAD_STATUS, .mgmt, 0x38, 0x0, 1, 0, 1, 0⟩,
    ⟨.BOOT_PHASE, .mgmt, 0x40, 0x8, 8, 0, 1, 0⟩,
    ⟨.FUSE_OPTIONS, .mgmt, 0x80, 0x0, 1, 0, 1, 0⟩,
    ⟨.FUSE_ROLLBACK, .mgmt, 0x88, 0x0, 1, 0, 1, 0⟩,
    ⟨.FUSE_KEYSTATE, .mgmt, 0x90, 0x0, 1, 0, 1, 0⟩,
    ⟨.ATTEST_FUSE_COUNT, .mgmt, 0x98, 0x0, 1, 0, 1, 0⟩,
    ⟨.FUSE_KEYHASH, .mgmt, 0x100, 0x8, 16, 0, 1, 0⟩,
    ⟨.MXA_STATUS, .mxa, 0x0, 0x0, 1, 0, 1, 0⟩,
    ⟨.MXA_PASSES, .mxa, 0x8, 0x0, 1, 0, 1, 0⟩,
    ⟨.MXA_BUSY, .mxa, 0x10, 0x0, 1, 0, 1, 0⟩,
    ⟨.MXA_HOLD, .mxa, 0x18, 0x0, 1, 0, 1, 0⟩,
    ⟨.MXA_BUBBLE, .mxa, 0x20, 0x0, 1, 0, 1, 0⟩,
    ⟨.MXA_HOLD_LIMIT, .mxa, 0x28, 0x0, 1, 0, 1, 0⟩,
    ⟨.MXA_EVENT, .mxa, 0x30, 0x0, 1, 0, 1, 0⟩,
    ⟨.CL_PAD_STATUS, .clusterCtl, 0x100, 0x0, 1, 0, 1, 0⟩,
    ⟨.CL_PAD_PENDING, .clusterCtl, 0x108, 0x0, 1, 0, 1, 0⟩,
    ⟨.CL_PAD_SPARE_LO, .clusterCtl, 0x110, 0x0, 1, 0, 1, 0⟩ ]

/-- Rows of the register maps, part 2. -/
def mapRows2 : List MapRow :=
  [ ⟨.CL_PAD_SPARE_HI, .clusterCtl, 0x118, 0x0, 1, 0, 1, 0⟩,
    ⟨.CL_SELFTEST_CTRL, .clusterCtl, 0x120, 0x0, 1, 0, 1, 0⟩,
    ⟨.CL_SELFTEST_STATUS, .clusterCtl, 0x128, 0x0, 1, 0, 1, 0⟩,
    ⟨.CL_FMT_VANISHED, .clusterCtl, 0x180, 0x0, 1, 0, 1, 0⟩,
    ⟨.CL_FMT_SPLIT, .clusterCtl, 0x188, 0x0, 1, 0, 1, 0⟩,
    ⟨.CL_FMT_SATURATED, .clusterCtl, 0x190, 0x0, 1, 0, 1, 0⟩,
    ⟨.CL_FMT_NONFINITE, .clusterCtl, 0x198, 0x0, 1, 0, 1, 0⟩,
    ⟨.CL_NUM_ID, .clusterCtl, 0x1A0, 0x0, 1, 0, 1, 0⟩,
    ⟨.ENG_STATUS, .vxe, 0x0, 0x0, 1, 0, 1, 0⟩,
    ⟨.ENG_STATUS, .spe, 0x0, 0x0, 1, 0, 1, 128⟩,
    ⟨.ENG_STATUS, .mve, 0x0, 0x0, 1, 0, 1, 256⟩,
    ⟨.ENG_STATUS, .tbe, 0x0, 0x0, 1, 0, 1, 384⟩,
    ⟨.ENG_STATUS, .cde, 0x0, 0x0, 1, 0, 1, 416⟩,
    ⟨.ENG_BUSY, .vxe, 0x8, 0x0, 1, 0, 1, 0⟩,
    ⟨.ENG_BUSY, .spe, 0x8, 0x0, 1, 0, 1, 128⟩,
    ⟨.ENG_BUSY, .mve, 0x8, 0x0, 1, 0, 1, 256⟩,
    ⟨.ENG_BUSY, .tbe, 0x8, 0x0, 1, 0, 1, 384⟩,
    ⟨.ENG_BUSY, .cde, 0x8, 0x0, 1, 0, 1, 416⟩,
    ⟨.ENG_WAIT, .vxe, 0x10, 0x0, 1, 0, 1, 0⟩,
    ⟨.ENG_WAIT, .spe, 0x10, 0x0, 1, 0, 1, 128⟩,
    ⟨.ENG_WAIT, .mve, 0x10, 0x0, 1, 0, 1, 256⟩,
    ⟨.ENG_WAIT, .tbe, 0x10, 0x0, 1, 0, 1, 384⟩,
    ⟨.ENG_WAIT, .cde, 0x10, 0x0, 1, 0, 1, 416⟩,
    ⟨.ENG_WORK, .vxe, 0x18, 0x0, 1, 0, 1, 0⟩,
    ⟨.ENG_WORK, .spe, 0x18, 0x0, 1, 0, 1, 128⟩,
    ⟨.ENG_WORK, .mve, 0x18, 0x0, 1, 0, 1, 256⟩,
    ⟨.ENG_WORK, .tbe, 0x18, 0x0, 1, 0, 1, 384⟩,
    ⟨.ENG_WORK, .cde, 0x18, 0x0, 1, 0, 1, 416⟩,
    ⟨.ENG_EVENT, .vxe, 0x20, 0x0, 1, 0, 1, 0⟩,
    ⟨.ENG_EVENT, .spe, 0x20, 0x0, 1, 0, 1, 128⟩,
    ⟨.ENG_EVENT, .mve, 0x20, 0x0, 1, 0, 1, 256⟩,
    ⟨.ENG_EVENT, .tbe, 0x20, 0x0, 1, 0, 1, 384⟩,
    ⟨.ENG_EVENT, .cde, 0x20, 0x0, 1, 0, 1, 416⟩,
    ⟨.MVE_STAGE, .mve, 0x100, 0x0, 1, 0, 1, 0⟩,
    ⟨.MVE_BYTES_RD, .mve, 0x108, 0x0, 1, 0, 1, 0⟩,
    ⟨.MVE_BYTES_WR, .mve, 0x110, 0x0, 1, 0, 1, 0⟩,
    ⟨.MVE_BURST_WASTE, .mve, 0x118, 0x0, 1, 0, 1, 0⟩,
    ⟨.QM_STATUS, .queueManager, 0x0, 0x0, 1, 0, 1, 0⟩,
    ⟨.QM_FS_LIMIT, .queueManager, 0x8, 0x0, 1, 0, 1, 0⟩,
    ⟨.QM_HURDLE_POLL, .queueManager, 0x10, 0x0, 1, 0, 1, 0⟩ ]

/-- Rows of the register maps, part 3. -/
def mapRows3 : List MapRow :=
  [ ⟨.QM_COUNTS, .queueManager, 0x18, 0x0, 1, 0, 1, 0⟩,
    ⟨.Q_BASE, .queueManager, 0x1000, 0x80, 128, 0, 1, 0⟩,
    ⟨.Q_CFG, .queueManager, 0x1008, 0x80, 128, 0, 1, 0⟩,
    ⟨.Q_CQ_BASE, .queueManager, 0x1010, 0x80, 128, 0, 1, 0⟩,
    ⟨.Q_CQ_HEAD, .queueManager, 0x1018, 0x80, 128, 0, 1, 0⟩,
    ⟨.Q_MSI_ADDR, .queueManager, 0x1020, 0x80, 128, 0, 1, 0⟩,
    ⟨.Q_MSI_CFG, .queueManager, 0x1028, 0x80, 128, 0, 1, 0⟩,
    ⟨.Q_SEED, .queueManager, 0x1030, 0x80, 128, 0, 1, 0⟩,
    ⟨.Q_POS, .queueManager, 0x1038, 0x80, 128, 0, 1, 0⟩,
    ⟨.Q_STATUS, .queueManager, 0x1040, 0x80, 128, 0, 1, 0⟩,
    ⟨.Q_CTRL, .queueManager, 0x1048, 0x80, 128, 0, 1, 0⟩,
    ⟨.Q_COUNTS, .queueManager, 0x1050, 0x80, 128, 0, 1, 0⟩,
    ⟨.DB, .queueManager, 0x6000, 0x8, 128, 0, 1, 0⟩,
    ⟨.TOKEN, .queueManager, 0x8000, 0x8, 4096, 0, 1, 0⟩,
    ⟨.PART_STATUS, .mgmt, 0x100000, 0x40, 32, 0, 1, 0⟩,
    ⟨.PART_CTRL, .mgmt, 0x100008, 0x40, 32, 0, 1, 0⟩,
    ⟨.PART_LAP, .mgmt, 0x100010, 0x40, 32, 0, 1, 0⟩,
    ⟨.PART_LIMITS, .mgmt, 0x100018, 0x40, 32, 0, 1, 0⟩,
    ⟨.PART_ESC, .mgmt, 0x100020, 0x40, 32, 0, 1, 0⟩,
    ⟨.CL_STATUS, .clusterCtl, 0x0, 0x0, 1, 0, 1, 0⟩,
    ⟨.CL_STEAL_CFG, .clusterCtl, 0x8, 0x0, 1, 0, 1, 0⟩,
    ⟨.CL_STEALS, .clusterCtl, 0x10, 0x0, 1, 0, 1, 0⟩,
    ⟨.CL_TILES, .clusterCtl, 0x18, 0x0, 1, 0, 1, 0⟩,
    ⟨.CTX_STATE, .mgmt, 0x200000, 0x80, 4096, 0, 1, 0⟩,
    ⟨.CTX_CTRL, .mgmt, 0x200008, 0x80, 4096, 0, 1, 0⟩,
    ⟨.CTX_SAVE, .mgmt, 0x200010, 0x80, 4096, 0, 1, 0⟩,
    ⟨.CTX_FAULT, .mgmt, 0x200018, 0x80, 4096, 0, 1, 0⟩,
    ⟨.CTX_FAULT_ADDR, .mgmt, 0x200020, 0x80, 4096, 0, 1, 0⟩,
    ⟨.CTX_PACE, .mgmt, 0x200028, 0x80, 4096, 0, 1, 0⟩,
    ⟨.CTX_PACE_WORK, .mgmt, 0x200030, 0x80, 4096, 0, 1, 0⟩,
    ⟨.CTX_FALLBACK, .mgmt, 0x200038, 0x80, 4096, 0, 1, 0⟩,
    ⟨.CTX_PACE_STATUS, .mgmt, 0x200040, 0x80, 4096, 0, 1, 0⟩,
    ⟨.CTX_ACCT_RUN, .mgmt, 0x200048, 0x80, 4096, 0, 1, 0⟩,
    ⟨.CTX_ACCT_WAIT, .mgmt, 0x200050, 0x80, 4096, 0, 1, 0⟩,
    ⟨.CTX_ACCT_PREEMPT, .mgmt, 0x200058, 0x80, 4096, 0, 1, 0⟩,
    ⟨.CTX_ACCT_HOLD, .mgmt, 0x200060, 0x80, 4096, 0, 1, 0⟩,
    ⟨.CH_STATUS, .channel, 0x0, 0x0, 1, 0, 1, 0⟩,
    ⟨.CH_ERR, .channel, 0x8, 0x0, 1, 0, 1, 0⟩,
    ⟨.CH_ERR_ADDR, .channel, 0x10, 0x0, 1, 0, 1, 0⟩,
    ⟨.CH_CTRL, .channel, 0x18, 0x0, 1, 0, 1, 0⟩ ]

/-- Rows of the register maps, part 4. -/
def mapRows4 : List MapRow :=
  [ ⟨.CH_GEN, .channel, 0x20, 0x0, 1, 0, 1, 0⟩,
    ⟨.CH_COUNTS, .channel, 0x28, 0x0, 1, 0, 1, 0⟩,
    ⟨.T2_STATUS, .dimm, 0x0, 0x0, 1, 0, 1, 0⟩,
    ⟨.T2_ERR, .dimm, 0x8, 0x0, 1, 0, 1, 0⟩,
    ⟨.T2_ERR_ADDR, .dimm, 0x10, 0x0, 1, 0, 1, 0⟩,
    ⟨.T2_CTRL, .dimm, 0x18, 0x0, 1, 0, 1, 0⟩,
    ⟨.T2_COUNTS, .dimm, 0x20, 0x0, 1, 0, 1, 0⟩,
    ⟨.T2_LIMIT, .dimm, 0x28, 0x0, 1, 0, 1, 0⟩,
    ⟨.SC_STATUS, .sysCache, 0x0, 0x0, 1, 0, 1, 0⟩,
    ⟨.SC_WAYS, .sysCache, 0x8, 0x0, 1, 0, 1, 0⟩,
    ⟨.SC_PRELOAD_ADDR, .sysCache, 0x10, 0x0, 1, 0, 1, 0⟩,
    ⟨.SC_PRELOAD_CTRL, .sysCache, 0x18, 0x0, 1, 0, 1, 0⟩,
    ⟨.SC_PF_CFG, .sysCache, 0x20, 0x0, 1, 0, 1, 0⟩,
    ⟨.SC_HITS, .sysCache, 0x28, 0x0, 1, 0, 1, 0⟩,
    ⟨.SC_MISSES, .sysCache, 0x30, 0x0, 1, 0, 1, 0⟩,
    ⟨.SC_COUNTS, .sysCache, 0x38, 0x0, 1, 0, 1, 0⟩,
    ⟨.SC_PF_USED, .sysCache, 0x40, 0x0, 1, 0, 1, 0⟩,
    ⟨.TIER_POOL_BASE, .mgmt, 0x300000, 0x80, 32, 0, 1, 0⟩,
    ⟨.TIER_POOL_CFG, .mgmt, 0x300008, 0x80, 32, 0, 1, 0⟩,
    ⟨.TIER_STAMP_BASE, .mgmt, 0x300010, 0x80, 32, 0, 1, 0⟩,
    ⟨.TIER_NOTICE_BASE, .mgmt, 0x300018, 0x80, 32, 0, 1, 0⟩,
    ⟨.TIER_NOTICE_HEAD, .mgmt, 0x300020, 0x80, 32, 0, 1, 0⟩,
    ⟨.TIER_NOTICE_STATUS, .mgmt, 0x300028, 0x80, 32, 0, 1, 0⟩,
    ⟨.TIER_DISCARD, .mgmt, 0x310000, 0x8, 64, 0, 1, 0⟩,
    ⟨.HOME_STATUS, .home, 0x0, 0x0, 1, 0, 1, 0⟩,
    ⟨.HOME_STATUS, .hostHomes, 0x0, 0x10000, 16, 0, 1, 32⟩,
    ⟨.HOME_CFG, .home, 0x8, 0x0, 1, 0, 1, 0⟩,
    ⟨.HOME_CFG, .hostHomes, 0x8, 0x10000, 16, 0, 1, 32⟩,
    ⟨.HOME_EVENT, .home, 0x10, 0x0, 1, 0, 1, 0⟩,
    ⟨.HOME_EVENT, .hostHomes, 0x10, 0x10000, 16, 0, 1, 32⟩,
    ⟨.SF_COUNTS, .home, 0x18, 0x0, 1, 0, 1, 0⟩,
    ⟨.SF_COUNTS, .hostHomes, 0x18, 0x10000, 16, 0, 1, 32⟩,
    ⟨.HOME_COUNTS, .home, 0x20, 0x0, 1, 0, 1, 0⟩,
    ⟨.HOME_COUNTS, .hostHomes, 0x20, 0x10000, 16, 0, 1, 32⟩,
    ⟨.LLT, .home, 0x8000, 0x8, 4096, 0, 1, 0⟩,
    ⟨.LLT, .hostHomes, 0x8000, 0x10000, 16, 8, 4096, 32⟩,
    ⟨.CC_STATUS, .clusterCache, 0x0, 0x0, 1, 0, 1, 0⟩,
    ⟨.CC_CTRL, .clusterCache, 0x8, 0x0, 1, 0, 1, 0⟩,
    ⟨.CC_HITS, .clusterCache, 0x10, 0x0, 1, 0, 1, 0⟩,
    ⟨.CC_MISSES, .clusterCache, 0x18, 0x0, 1, 0, 1, 0⟩ ]

/-- Rows of the register maps, part 5. -/
def mapRows5 : List MapRow :=
  [ ⟨.CC_DROPS, .clusterCache, 0x20, 0x0, 1, 0, 1, 0⟩,
    ⟨.CORE_SL_ADDR, .coreGroup, 0x0, 0x40000, 4, 0, 1, 0⟩,
    ⟨.CORE_SL_INFO, .coreGroup, 0x8, 0x40000, 4, 0, 1, 0⟩,
    ⟨.XP_CHECK_BASE, .htu, 0x100000, 0x100, 32, 0, 1, 0⟩,
    ⟨.XP_CHECK_CTRL, .htu, 0x100008, 0x100, 32, 0, 1, 0⟩,
    ⟨.XP_INV_ADDR, .htu, 0x100010, 0x100, 32, 0, 1, 0⟩,
    ⟨.XP_INV_CTRL, .htu, 0x100018, 0x100, 32, 0, 1, 0⟩,
    ⟨.XP_INV_STATUS, .htu, 0x100020, 0x100, 32, 0, 1, 0⟩,
    ⟨.XP_PR_BASE, .htu, 0x100028, 0x100, 32, 0, 1, 0⟩,
    ⟨.XP_PR_HEAD, .htu, 0x100030, 0x100, 32, 0, 1, 0⟩,
    ⟨.XP_PR_MSI_ADDR, .htu, 0x100038, 0x100, 32, 0, 1, 0⟩,
    ⟨.XP_PR_MSI, .htu, 0x100040, 0x100, 32, 0, 1, 0⟩,
    ⟨.XP_PR_RESP, .htu, 0x100048, 0x100, 32, 0, 1, 0⟩,
    ⟨.XP_PR_STATUS, .htu, 0x100050, 0x100, 32, 0, 1, 0⟩,
    ⟨.XP_PR_LIMIT, .htu, 0x100058, 0x100, 32, 0, 1, 0⟩,
    ⟨.CTX_XLATE, .htu, 0x200000, 0x10, 4096, 0, 1, 0⟩,
    ⟨.CTX_XLATE_COUNTS, .htu, 0x200008, 0x10, 4096, 0, 1, 0⟩,
    ⟨.ATC_STATUS, .atc, 0x0, 0x0, 1, 0, 1, 0⟩,
    ⟨.ATC_HITS, .atc, 0x8, 0x0, 1, 0, 1, 0⟩,
    ⟨.ATC_MISSES, .atc, 0x10, 0x0, 1, 0, 1, 0⟩,
    ⟨.FAB_SELF, .fabric, 0x0, 0x0, 1, 0, 1, 0⟩,
    ⟨.FAB_DISC_ID, .fabric, 0x8, 0x0, 1, 0, 1, 0⟩,
    ⟨.FAB_CTRL, .fabric, 0x10, 0x0, 1, 0, 1, 0⟩,
    ⟨.FAB_COUNTS, .fabric, 0x18, 0x0, 1, 0, 1, 0⟩,
    ⟨.FAB_DNF_RAISE, .fabric, 0x20, 0x0, 1, 0, 1, 0⟩,
    ⟨.FAB_DNF_LAST, .fabric, 0x28, 0x0, 1, 0, 1, 0⟩,
    ⟨.JOB_CFG, .fabric, 0x1000, 0x100, 64, 0, 1, 0⟩,
    ⟨.JOB_RANGE, .fabric, 0x1008, 0x100, 64, 0, 1, 0⟩,
    ⟨.JOB_MEMBERS, .fabric, 0x1010, 0x100, 64, 8, 16, 0⟩,
    ⟨.FAB_DEV, .fabric, 0x8000, 0x8, 1024, 0, 1, 0⟩,
    ⟨.PORT_STATUS, .port, 0x0, 0x0, 1, 0, 1, 0⟩,
    ⟨.PORT_LANES, .port, 0x8, 0x0, 1, 0, 1, 0⟩,
    ⟨.PORT_CREDIT, .port, 0x10, 0x0, 1, 0, 1, 0⟩,
    ⟨.PORT_CTRL, .port, 0x18, 0x0, 1, 0, 1, 0⟩,
    ⟨.PORT_COUNTS, .port, 0x20, 0x0, 1, 0, 1, 0⟩,
    ⟨.PORT_VIOL, .port, 0x28, 0x0, 1, 0, 1, 0⟩,
    ⟨.PORT_EVENT, .port, 0x30, 0x0, 1, 0, 1, 0⟩,
    ⟨.PCI_STATUS, .pcie, 0x0, 0x0, 1, 0, 1, 0⟩,
    ⟨.PCI_ERR_LOG, .pcie, 0x8, 0x0, 1, 0, 1, 0⟩,
    ⟨.PCI_ERR_ADDR, .pcie, 0x10, 0x0, 1, 0, 1, 0⟩ ]

/-- Rows of the register maps, part 6. -/
def mapRows6 : List MapRow :=
  [ ⟨.PCI_VIOL, .pcie, 0x18, 0x0, 1, 0, 1, 0⟩,
    ⟨.PCI_NOTIFY, .pcie, 0x20, 0x0, 1, 0, 1, 0⟩,
    ⟨.APER, .pcie, 0x100, 0x8, 144, 0, 1, 0⟩,
    ⟨.NSE_STATUS, .nse, 0x0, 0x0, 1, 0, 1, 0⟩,
    ⟨.NSE_COUNTS, .nse, 0x8, 0x0, 1, 0, 1, 0⟩,
    ⟨.GX_STATUS, .gx, 0x0, 0x100, 32, 0, 1, 0⟩,
    ⟨.GX_LEDGER, .gx, 0x8, 0x100, 32, 0, 1, 0⟩,
    ⟨.GX_SRC, .gx, 0x10, 0x100, 32, 0, 1, 0⟩,
    ⟨.GX_AUX, .gx, 0x18, 0x100, 32, 0, 1, 0⟩,
    ⟨.GX_LEN, .gx, 0x20, 0x100, 32, 0, 1, 0⟩,
    ⟨.GX_CTRL, .gx, 0x28, 0x100, 32, 0, 1, 0⟩,
    ⟨.GX_DEST_BASE, .gx, 0x30, 0x100, 32, 0, 1, 0⟩,
    ⟨.GX_DEST_CFG, .gx, 0x38, 0x100, 32, 0, 1, 0⟩,
    ⟨.GX_DEST_POS, .gx, 0x40, 0x100, 32, 0, 1, 0⟩,
    ⟨.GX_COUNTS, .gx, 0x48, 0x100, 32, 0, 1, 0⟩,
    ⟨.GX_OWNER, .gx, 0x60, 0x100, 32, 8, 4, 0⟩,
    ⟨.ATT_STATUS, .mgmt, 0x400000, 0x0, 1, 0, 1, 0⟩,
    ⟨.ATT_DATA_ADDR, .mgmt, 0x400008, 0x0, 1, 0, 1, 0⟩,
    ⟨.ATT_OUT_ADDR, .mgmt, 0x400010, 0x0, 1, 0, 1, 0⟩,
    ⟨.ATT_CTRL, .mgmt, 0x400018, 0x0, 1, 0, 1, 0⟩,
    ⟨.PWR_STATUS, .dieCommon, 0x200000, 0x0, 1, 0, 1, 0⟩,
    ⟨.PWR_LIMIT, .dieCommon, 0x200008, 0x0, 1, 0, 1, 0⟩,
    ⟨.PWR_IDLE, .dieCommon, 0x200010, 0x0, 1, 0, 1, 0⟩,
    ⟨.THERM_STATUS, .dieCommon, 0x200018, 0x0, 1, 0, 1, 0⟩,
    ⟨.THERM_CFG, .dieCommon, 0x200020, 0x0, 1, 0, 1, 0⟩,
    ⟨.PWR_COUNTS, .dieCommon, 0x200028, 0x0, 1, 0, 1, 0⟩,
    ⟨.PWR_EVENT, .dieCommon, 0x200030, 0x0, 1, 0, 1, 0⟩,
    ⟨.CAPC_STATUS, .capc, 0x0, 0x0, 1, 0, 1, 0⟩,
    ⟨.CAPC_CFG, .capc, 0x8, 0x0, 1, 0, 1, 0⟩,
    ⟨.CAPC_REGION, .capc, 0x100, 0x8, 32, 0, 1, 0⟩,
    ⟨.DIE_STATUS, .dieCommon, 0x300000, 0x0, 1, 0, 1, 0⟩,
    ⟨.DIE_CTRL, .dieCommon, 0x300008, 0x0, 1, 0, 1, 0⟩,
    ⟨.REQ_BOUND, .dieCommon, 0x300010, 0x0, 1, 0, 1, 0⟩,
    ⟨.HANG_LIMIT, .dieCommon, 0x300018, 0x0, 1, 0, 1, 0⟩,
    ⟨.DIE_ERR_COUNTS, .dieCommon, 0x300020, 0x0, 1, 0, 1, 0⟩,
    ⟨.ELOG_STATUS, .mgmt, 0x500000, 0x0, 1, 0, 1, 0⟩,
    ⟨.ELOG_MSI_ADDR, .mgmt, 0x500008, 0x0, 1, 0, 1, 0⟩,
    ⟨.ELOG_MSI, .mgmt, 0x500010, 0x0, 1, 0, 1, 0⟩,
    ⟨.WD_CFG, .mgmt, 0x500018, 0x0, 1, 0, 1, 0⟩,
    ⟨.RESET_CTRL, .mgmt, 0x500020, 0x0, 1, 0, 1, 0⟩ ]

/-- Rows of the register maps, part 7. -/
def mapRows7 : List MapRow :=
  [ ⟨.DIE_STATE, .mgmt, 0x500028, 0x0, 1, 0, 1, 0⟩,
    ⟨.ELOG, .mgmt, 0x508000, 0x8, 4096, 0, 1, 0⟩,
    ⟨.CRASH, .mgmt, 0x600000, 0x8, 160, 0, 1, 0⟩,
    ⟨.SAFE_CFG, .mgmt, 0x700000, 0x0, 1, 0, 1, 0⟩,
    ⟨.SAFE_STATUS, .mgmt, 0x700008, 0x0, 1, 0, 1, 0⟩,
    ⟨.RAIL_CFG, .mgmt, 0x800000, 0x10, 40, 0, 1, 0⟩,
    ⟨.RAIL_STATUS, .mgmt, 0x800008, 0x10, 40, 0, 1, 0⟩,
    ⟨.GXB_STATUS, .gxB, 0x0, 0x100, 32, 0, 1, 0⟩,
    ⟨.GXB_LEDGER, .gxB, 0x8, 0x100, 32, 0, 1, 0⟩ ]

/-- Every row of every register map. -/
def mapRows : List MapRow := mapRows1 ++ mapRows2 ++ mapRows3 ++ mapRows4 ++ mapRows5 ++ mapRows6 ++ mapRows7

/-! The named fields of the field tables. -/
namespace F

abbrev CLK_STATUS_PLL_LOCK : Fld := ⟨.CLK_STATUS, 0, 1⟩
abbrev CLK_STATUS_ARITH_STEP_MAX : Fld := ⟨.CLK_STATUS, 1, 2⟩
abbrev CLK_STATUS_CORE_STEP_MAX : Fld := ⟨.CLK_STATUS, 3, 2⟩
abbrev CLK_STATUS_NOC_STEP_MAX : Fld := ⟨.CLK_STATUS, 5, 2⟩
abbrev SLOW_COUNT_COUNT : Fld := ⟨.SLOW_COUNT, 0, 64⟩
abbrev CLK_STEP_LIMIT_ARITH_LIMIT : Fld := ⟨.CLK_STEP_LIMIT, 0, 2⟩
abbrev CLK_STEP_LIMIT_CORE_LIMIT : Fld := ⟨.CLK_STEP_LIMIT, 2, 2⟩
abbrev CLK_STEP_LIMIT_NOC_LIMIT : Fld := ⟨.CLK_STEP_LIMIT, 4, 2⟩
abbrev CLK_EVENT_LOCK_LOST : Fld := ⟨.CLK_EVENT, 0, 1⟩
abbrev CLK_EVENT_LOCK_LOST_COUNT : Fld := ⟨.CLK_EVENT, 8, 8⟩
abbrev LINK_STATUS_STATE : Fld := ⟨.LINK_STATUS, 0, 3⟩
abbrev LINK_STATUS_GOOD_LANES : Fld := ⟨.LINK_STATUS, 3, 6⟩
abbrev LINK_STATUS_IN_SERVICE : Fld := ⟨.LINK_STATUS, 9, 1⟩
abbrev LINK_STATUS_RTT : Fld := ⟨.LINK_STATUS, 16, 10⟩
abbrev LINK_STATUS_PARTNER_DIE : Fld := ⟨.LINK_STATUS, 32, 4⟩
abbrev LINK_STATUS_PARTNER_LINK : Fld := ⟨.LINK_STATUS, 36, 4⟩
abbrev LANE_MAP_GOOD : Fld := ⟨.LANE_MAP, 0, 34⟩
abbrev LINK_CTRL_MIN_STATE : Fld := ⟨.LINK_CTRL, 0, 3⟩
abbrev LINK_CTRL_RETRAIN : Fld := ⟨.LINK_CTRL, 8, 1⟩
abbrev LINK_COUNTS_CORRECTED_WORDS : Fld := ⟨.LINK_COUNTS, 0, 32⟩
abbrev LINK_COUNTS_REPLAYS : Fld := ⟨.LINK_COUNTS, 32, 16⟩
abbrev LINK_COUNTS_RETRAINS : Fld := ⟨.LINK_COUNTS, 48, 8⟩
abbrev LINK_EVENT_LANE_FAILED : Fld := ⟨.LINK_EVENT, 0, 1⟩
abbrev LINK_EVENT_WIDTH_DROP : Fld := ⟨.LINK_EVENT, 1, 1⟩
abbrev LINK_EVENT_OUT_OF_SERVICE : Fld := ⟨.LINK_EVENT, 2, 1⟩
abbrev LINK_EVENT_LINK_FAILED : Fld := ⟨.LINK_EVENT, 3, 1⟩
abbrev LANE_ERR_LIMIT_LIMIT : Fld := ⟨.LANE_ERR_LIMIT, 0, 16⟩
abbrev LANE_ERR_LIMIT_WINDOW : Fld := ⟨.LANE_ERR_LIMIT, 16, 32⟩
abbrev BOOT_STATUS_PHASE : Fld := ⟨.BOOT_STATUS, 0, 4⟩
abbrev BOOT_STATUS_SOURCE : Fld := ⟨.BOOT_STATUS, 4, 2⟩
abbrev BOOT_STATUS_LOCKED : Fld := ⟨.BOOT_STATUS, 6, 1⟩
abbrev BOOT_STATUS_COLD : Fld := ⟨.BOOT_STATUS, 7, 1⟩
abbrev BOOT_STATUS_LEAF_RESERVED : Fld := ⟨.BOOT_STATUS, 8, 1⟩
abbrev BOOT_STATUS_ATTEST_EXHAUSTED : Fld := ⟨.BOOT_STATUS, 9, 1⟩
abbrev BOOT_STATUS_HOSTMEM_SHORT : Fld := ⟨.BOOT_STATUS, 10, 1⟩
abbrev BOOT_STATUS_POLICY_REFUSED : Fld := ⟨.BOOT_STATUS, 11, 1⟩
abbrev BOOT_ERROR_CODE : Fld := ⟨.BOOT_ERROR, 0, 8⟩
abbrev BOOT_ERROR_RECORD : Fld := ⟨.BOOT_ERROR, 8, 12⟩
abbrev BOOT_ERROR_ABSENT : Fld := ⟨.BOOT_ERROR, 20, 1⟩
abbrev BOOT_ERROR_DETAIL : Fld := ⟨.BOOT_ERROR, 32, 32⟩
abbrev IMAGE_ID_SERIAL : Fld := ⟨.IMAGE_ID, 0, 64⟩
abbrev STAGE_LEN_LENGTH : Fld := ⟨.STAGE_LEN, 0, 29⟩
abbrev BOOT_GO_GO : Fld := ⟨.BOOT_GO, 0, 1⟩
abbrev RELOAD_ADDR_ADDRESS : Fld := ⟨.RELOAD_ADDR, 0, 56⟩
abbrev RELOAD_CTRL_GO : Fld := ⟨.RELOAD_CTRL, 0, 1⟩
abbrev RELOAD_STATUS_BUSY : Fld := ⟨.RELOAD_STATUS, 0, 1⟩
abbrev RELOAD_STATUS_DONE : Fld := ⟨.RELOAD_STATUS, 1, 1⟩
abbrev RELOAD_STATUS_FAILED : Fld := ⟨.RELOAD_STATUS, 2, 1⟩
abbrev RELOAD_STATUS_CODE : Fld := ⟨.RELOAD_STATUS, 8, 8⟩
abbrev RELOAD_STATUS_PARTITION : Fld := ⟨.RELOAD_STATUS, 16, 5⟩
abbrev BOOT_PHASE_STAMP : Fld := ⟨.BOOT_PHASE, 0, 64⟩
abbrev FUSE_OPTIONS_JTAG_PRIVATE_DISABLE : Fld := ⟨.FUSE_OPTIONS, 0, 1⟩
abbrev FUSE_OPTIONS_PCIE_BOOT_DISABLE : Fld := ⟨.FUSE_OPTIONS, 1, 1⟩
abbrev FUSE_OPTIONS_SLOT_B_DISABLE : Fld := ⟨.FUSE_OPTIONS, 2, 1⟩
abbrev FUSE_ROLLBACK_FLOOR : Fld := ⟨.FUSE_ROLLBACK, 0, 64⟩
abbrev FUSE_KEYSTATE_REVOKED : Fld := ⟨.FUSE_KEYSTATE, 0, 4⟩
abbrev ATTEST_FUSE_COUNT_NEXT : Fld := ⟨.ATTEST_FUSE_COUNT, 0, 15⟩
abbrev FUSE_KEYHASH_HASH : Fld := ⟨.FUSE_KEYHASH, 0, 64⟩
abbrev MXA_STATUS_STATE : Fld := ⟨.MXA_STATUS, 0, 3⟩
abbrev MXA_STATUS_SHAPE : Fld := ⟨.MXA_STATUS, 3, 3⟩
abbrev MXA_STATUS_CONTEXT : Fld := ⟨.MXA_STATUS, 8, 12⟩
abbrev MXA_STATUS_CTX_VALID : Fld := ⟨.MXA_STATUS, 20, 1⟩
abbrev MXA_STATUS_CLASS : Fld := ⟨.MXA_STATUS, 21, 2⟩
abbrev MXA_PASSES_COUNT : Fld := ⟨.MXA_PASSES, 0, 64⟩
abbrev MXA_BUSY_COUNT : Fld := ⟨.MXA_BUSY, 0, 64⟩
abbrev MXA_HOLD_COUNT : Fld := ⟨.MXA_HOLD, 0, 64⟩
abbrev MXA_BUBBLE_COUNT : Fld := ⟨.MXA_BUBBLE, 0, 64⟩
abbrev MXA_HOLD_LIMIT_LIMIT : Fld := ⟨.MXA_HOLD_LIMIT, 0, 32⟩
abbrev MXA_EVENT_HOLD_EXPIRED : Fld := ⟨.MXA_EVENT, 0, 1⟩
abbrev MXA_EVENT_SELFTEST_FAIL : Fld := ⟨.MXA_EVENT, 1, 1⟩
abbrev MXA_EVENT_TILE_ABANDONED : Fld := ⟨.MXA_EVENT, 2, 1⟩
abbrev MXA_EVENT_OPERAND_ERR : Fld := ⟨.MXA_EVENT, 3, 1⟩
abbrev CL_PAD_STATUS_BANK_MAP : Fld := ⟨.CL_PAD_STATUS, 0, 32⟩
abbrev CL_PAD_STATUS_BANKS : Fld := ⟨.CL_PAD_STATUS, 32, 6⟩
abbrev CL_PAD_PENDING_MAPOUT : Fld := ⟨.CL_PAD_PENDING, 0, 32⟩
abbrev CL_PAD_PENDING_ROW_PENDING : Fld := ⟨.CL_PAD_PENDING, 32, 32⟩
abbrev CL_PAD_SPARE_LO_USED : Fld := ⟨.CL_PAD_SPARE_LO, 0, 64⟩
abbrev CL_PAD_SPARE_HI_USED : Fld := ⟨.CL_PAD_SPARE_HI, 0, 64⟩
abbrev CL_SELFTEST_CTRL_START : Fld := ⟨.CL_SELFTEST_CTRL, 0, 4⟩
abbrev CL_SELFTEST_STATUS_BUSY : Fld := ⟨.CL_SELFTEST_STATUS, 0, 4⟩
abbrev CL_SELFTEST_STATUS_LAST_PASS : Fld := ⟨.CL_SELFTEST_STATUS, 8, 4⟩
abbrev CL_SELFTEST_STATUS_FAULTED : Fld := ⟨.CL_SELFTEST_STATUS, 12, 4⟩
abbrev CL_FMT_VANISHED_COUNT : Fld := ⟨.CL_FMT_VANISHED, 0, 64⟩
abbrev CL_FMT_SPLIT_COUNT : Fld := ⟨.CL_FMT_SPLIT, 0, 64⟩
abbrev CL_FMT_SATURATED_COUNT : Fld := ⟨.CL_FMT_SATURATED, 0, 64⟩
abbrev CL_FMT_NONFINITE_COUNT : Fld := ⟨.CL_FMT_NONFINITE, 0, 64⟩
abbrev CL_NUM_ID_GENERATION : Fld := ⟨.CL_NUM_ID, 0, 8⟩
abbrev CL_NUM_ID_GEN_ALG : Fld := ⟨.CL_NUM_ID, 8, 8⟩
abbrev CL_NUM_ID_PAIR_ALG : Fld := ⟨.CL_NUM_ID, 16, 8⟩
abbrev CL_NUM_ID_SUM_BITS : Fld := ⟨.CL_NUM_ID, 24, 8⟩
abbrev ENG_STATUS_STATE : Fld := ⟨.ENG_STATUS, 0, 3⟩
abbrev ENG_STATUS_CONTEXT : Fld := ⟨.ENG_STATUS, 8, 12⟩
abbrev ENG_STATUS_CTX_VALID : Fld := ⟨.ENG_STATUS, 20, 1⟩
abbrev ENG_STATUS_OPCODE : Fld := ⟨.ENG_STATUS, 32, 8⟩
abbrev ENG_BUSY_COUNT : Fld := ⟨.ENG_BUSY, 0, 64⟩
abbrev ENG_WAIT_COUNT : Fld := ⟨.ENG_WAIT, 0, 64⟩
abbrev ENG_WORK_COUNT : Fld := ⟨.ENG_WORK, 0, 64⟩
abbrev ENG_EVENT_OPERAND_ERR : Fld := ⟨.ENG_EVENT, 0, 1⟩
abbrev ENG_EVENT_INDEX_RANGE : Fld := ⟨.ENG_EVENT, 1, 1⟩
abbrev ENG_EVENT_SPARSE_FORMAT : Fld := ⟨.ENG_EVENT, 2, 1⟩
abbrev ENG_EVENT_TABLE_FULL : Fld := ⟨.ENG_EVENT, 3, 1⟩
abbrev ENG_EVENT_CORRUPT : Fld := ⟨.ENG_EVENT, 4, 1⟩
abbrev MVE_STAGE_STAGE_BASE : Fld := ⟨.MVE_STAGE, 0, 5⟩
abbrev MVE_STAGE_ACTIVE_BASE : Fld := ⟨.MVE_STAGE, 8, 5⟩
abbrev MVE_BYTES_RD_COUNT : Fld := ⟨.MVE_BYTES_RD, 0, 64⟩
abbrev MVE_BYTES_WR_COUNT : Fld := ⟨.MVE_BYTES_WR, 0, 64⟩
abbrev MVE_BURST_WASTE_COUNT : Fld := ⟨.MVE_BURST_WASTE, 0, 64⟩
abbrev QM_STATUS_LEAD : Fld := ⟨.QM_STATUS, 0, 1⟩
abbrev QM_STATUS_PARTITION : Fld := ⟨.QM_STATUS, 1, 5⟩
abbrev QM_STATUS_OWNED : Fld := ⟨.QM_STATUS, 6, 1⟩
abbrev QM_STATUS_BIND_CONFLICT : Fld := ⟨.QM_STATUS, 7, 1⟩
abbrev QM_FS_LIMIT_LIMIT : Fld := ⟨.QM_FS_LIMIT, 0, 32⟩
abbrev QM_HURDLE_POLL_INTERVAL : Fld := ⟨.QM_HURDLE_POLL, 0, 16⟩
abbrev QM_COUNTS_DB_IGNORED : Fld := ⟨.QM_COUNTS, 0, 32⟩
abbrev QM_COUNTS_DB_BADKEY : Fld := ⟨.QM_COUNTS, 32, 32⟩
abbrev Q_BASE_BASE : Fld := ⟨.Q_BASE, 12, 44⟩
abbrev Q_CFG_SIZE : Fld := ⟨.Q_CFG, 0, 4⟩
abbrev Q_CFG_CQ_SIZE : Fld := ⟨.Q_CFG, 4, 4⟩
abbrev Q_CFG_CONTEXT : Fld := ⟨.Q_CFG, 8, 12⟩
abbrev Q_CFG_ENABLE : Fld := ⟨.Q_CFG, 20, 1⟩
abbrev Q_CFG_DB_KEY : Fld := ⟨.Q_CFG, 32, 16⟩
abbrev Q_CQ_BASE_BASE : Fld := ⟨.Q_CQ_BASE, 12, 44⟩
abbrev Q_CQ_HEAD_HEAD : Fld := ⟨.Q_CQ_HEAD, 0, 32⟩
abbrev Q_MSI_ADDR_ADDR : Fld := ⟨.Q_MSI_ADDR, 2, 54⟩
abbrev Q_MSI_CFG_DATA : Fld := ⟨.Q_MSI_CFG, 0, 11⟩
abbrev Q_MSI_CFG_EVENT_IRQ : Fld := ⟨.Q_MSI_CFG, 11, 1⟩
abbrev Q_MSI_CFG_HOLDOFF : Fld := ⟨.Q_MSI_CFG, 16, 16⟩
abbrev Q_SEED_SEED : Fld := ⟨.Q_SEED, 0, 64⟩
abbrev Q_POS_HEAD : Fld := ⟨.Q_POS, 0, 32⟩
abbrev Q_POS_TAIL : Fld := ⟨.Q_POS, 32, 32⟩
abbrev Q_STATUS_STATE : Fld := ⟨.Q_STATUS, 0, 2⟩
abbrev Q_STATUS_CAUSE : Fld := ⟨.Q_STATUS, 4, 4⟩
abbrev Q_STATUS_RESPONSE : Fld := ⟨.Q_STATUS, 8, 8⟩
abbrev Q_STATUS_IN_FLIGHT : Fld := ⟨.Q_STATUS, 16, 16⟩
abbrev Q_STATUS_CQ_FULL : Fld := ⟨.Q_STATUS, 32, 1⟩
abbrev Q_CTRL_RESUME : Fld := ⟨.Q_CTRL, 0, 1⟩
abbrev Q_CTRL_SKIP : Fld := ⟨.Q_CTRL, 1, 1⟩
abbrev Q_COUNTS_FALSE_STARTS : Fld := ⟨.Q_COUNTS, 0, 16⟩
abbrev Q_COUNTS_DB_STALE : Fld := ⟨.Q_COUNTS, 16, 16⟩
abbrev Q_COUNTS_DB_OVERRUN : Fld := ⟨.Q_COUNTS, 32, 16⟩
abbrev Q_COUNTS_MSI_DROPPED : Fld := ⟨.Q_COUNTS, 48, 16⟩
abbrev DB_TAIL : Fld := ⟨.DB, 0, 32⟩
abbrev DB_KEY : Fld := ⟨.DB, 48, 16⟩
abbrev TOKEN_VALUE : Fld := ⟨.TOKEN, 0, 32⟩
abbrev PART_STATUS_STATE : Fld := ⟨.PART_STATUS, 0, 3⟩
abbrev PART_STATUS_RUNNING : Fld := ⟨.PART_STATUS, 8, 5⟩
abbrev PART_STATUS_LAST_CAUSE : Fld := ⟨.PART_STATUS, 13, 3⟩
abbrev PART_STATUS_RESETS : Fld := ⟨.PART_STATUS, 16, 16⟩
abbrev PART_CTRL_RESET : Fld := ⟨.PART_CTRL, 0, 1⟩
abbrev PART_LAP_LAP_LEN : Fld := ⟨.PART_LAP, 0, 32⟩
abbrev PART_LAP_RUN_MAX : Fld := ⟨.PART_LAP, 32, 5⟩
abbrev PART_LAP_GRACE : Fld := ⟨.PART_LAP, 48, 16⟩
abbrev PART_LIMITS_QUIESCE_LIMIT : Fld := ⟨.PART_LIMITS, 0, 32⟩
abbrev PART_LIMITS_DRAIN_LIMIT : Fld := ⟨.PART_LIMITS, 32, 32⟩
abbrev PART_ESC_FAULT_LIMIT : Fld := ⟨.PART_ESC, 0, 8⟩
abbrev PART_ESC_FAULT_WINDOW : Fld := ⟨.PART_ESC, 32, 32⟩
abbrev CL_STATUS_IN_SERVICE : Fld := ⟨.CL_STATUS, 0, 1⟩
abbrev CL_STATUS_PARTITION : Fld := ⟨.CL_STATUS, 1, 5⟩
abbrev CL_STATUS_DEPTH : Fld := ⟨.CL_STATUS, 8, 9⟩
abbrev CL_STATUS_PHYS_SLOT : Fld := ⟨.CL_STATUS, 17, 5⟩
abbrev CL_STEAL_CFG_STEAL : Fld := ⟨.CL_STEAL_CFG, 0, 1⟩
abbrev CL_STEAL_CFG_CROSS_DIE : Fld := ⟨.CL_STEAL_CFG, 1, 1⟩
abbrev CL_STEAL_CFG_CROSS_DIE_MIN : Fld := ⟨.CL_STEAL_CFG, 8, 8⟩
abbrev CL_STEALS_IN : Fld := ⟨.CL_STEALS, 0, 32⟩
abbrev CL_STEALS_OUT : Fld := ⟨.CL_STEALS, 32, 32⟩
abbrev CL_TILES_COUNT : Fld := ⟨.CL_TILES, 0, 64⟩
abbrev CTX_STATE_STATE : Fld := ⟨.CTX_STATE, 0, 3⟩
abbrev CTX_STATE_DRAINED : Fld := ⟨.CTX_STATE, 3, 1⟩
abbrev CTX_STATE_WORK : Fld := ⟨.CTX_STATE, 4, 1⟩
abbrev CTX_STATE_QUEUE : Fld := ⟨.CTX_STATE, 16, 12⟩
abbrev CTX_STATE_BOUND : Fld := ⟨.CTX_STATE, 28, 1⟩
abbrev CTX_STATE_DISABLE_CAUSE : Fld := ⟨.CTX_STATE, 32, 2⟩
abbrev CTX_CTRL_PRIORITY : Fld := ⟨.CTX_CTRL, 0, 3⟩
abbrev CTX_CTRL_WEIGHT : Fld := ⟨.CTX_CTRL, 3, 3⟩
abbrev CTX_CTRL_FUNC : Fld := ⟨.CTX_CTRL, 8, 6⟩
abbrev CTX_CTRL_HOLD : Fld := ⟨.CTX_CTRL, 16, 1⟩
abbrev CTX_CTRL_RELEASE : Fld := ⟨.CTX_CTRL, 17, 1⟩
abbrev CTX_CTRL_CLEAR : Fld := ⟨.CTX_CTRL, 18, 1⟩
abbrev CTX_CTRL_DISABLE : Fld := ⟨.CTX_CTRL, 19, 1⟩
abbrev CTX_SAVE_BASE : Fld := ⟨.CTX_SAVE, 12, 44⟩
abbrev CTX_FAULT_CAUSE : Fld := ⟨.CTX_FAULT, 0, 4⟩
abbrev CTX_FAULT_RESPONSE : Fld := ⟨.CTX_FAULT, 4, 3⟩
abbrev CTX_FAULT_ADDR_ADDRESS : Fld := ⟨.CTX_FAULT_ADDR, 0, 56⟩
abbrev CTX_PACE_DEADLINE : Fld := ⟨.CTX_PACE, 0, 32⟩
abbrev CTX_PACE_MARGIN : Fld := ⟨.CTX_PACE, 32, 16⟩
abbrev CTX_PACE_ARM : Fld := ⟨.CTX_PACE, 63, 1⟩
abbrev CTX_PACE_WORK_WORK_EST : Fld := ⟨.CTX_PACE_WORK, 0, 32⟩
abbrev CTX_PACE_WORK_P_END : Fld := ⟨.CTX_PACE_WORK, 32, 32⟩
abbrev CTX_FALLBACK_SLOTS : Fld := ⟨.CTX_FALLBACK, 0, 12⟩
abbrev CTX_FALLBACK_BASE : Fld := ⟨.CTX_FALLBACK, 12, 44⟩
abbrev CTX_PACE_STATUS_RHO : Fld := ⟨.CTX_PACE_STATUS, 0, 16⟩
abbrev CTX_PACE_STATUS_MEASURED : Fld := ⟨.CTX_PACE_STATUS, 16, 1⟩
abbrev CTX_PACE_STATUS_SWITCHES : Fld := ⟨.CTX_PACE_STATUS, 32, 8⟩
abbrev CTX_PACE_STATUS_MISSED : Fld := ⟨.CTX_PACE_STATUS, 40, 8⟩
abbrev CTX_PACE_STATUS_MET : Fld := ⟨.CTX_PACE_STATUS, 48, 8⟩
abbrev CTX_ACCT_RUN_RUN : Fld := ⟨.CTX_ACCT_RUN, 0, 64⟩
abbrev CTX_ACCT_WAIT_WAIT : Fld := ⟨.CTX_ACCT_WAIT, 0, 64⟩
abbrev CTX_ACCT_PREEMPT_PREEMPTS : Fld := ⟨.CTX_ACCT_PREEMPT, 0, 32⟩
abbrev CTX_ACCT_PREEMPT_LATE : Fld := ⟨.CTX_ACCT_PREEMPT, 32, 32⟩
abbrev CTX_ACCT_HOLD_HOLD : Fld := ⟨.CTX_ACCT_HOLD, 0, 64⟩
abbrev CH_STATUS_IN_SERVICE : Fld := ⟨.CH_STATUS, 0, 1⟩
abbrev CH_STATUS_CAUSE : Fld := ⟨.CH_STATUS, 1, 3⟩
abbrev CH_STATUS_FALLBACK : Fld := ⟨.CH_STATUS, 4, 1⟩
abbrev CH_ERR_CORR_BIT : Fld := ⟨.CH_ERR, 0, 16⟩
abbrev CH_ERR_CORR_SYMBOL : Fld := ⟨.CH_ERR, 16, 16⟩
abbrev CH_ERR_UNCORRECTABLE : Fld := ⟨.CH_ERR, 32, 16⟩
abbrev CH_ERR_STALE : Fld := ⟨.CH_ERR, 48, 16⟩
abbrev CH_ERR_ADDR_OFFSET : Fld := ⟨.CH_ERR_ADDR, 0, 33⟩
abbrev CH_ERR_ADDR_CLASS : Fld := ⟨.CH_ERR_ADDR, 33, 3⟩
abbrev CH_ERR_ADDR_SYMBOL : Fld := ⟨.CH_ERR_ADDR, 36, 4⟩
abbrev CH_CTRL_MAPOUT : Fld := ⟨.CH_CTRL, 0, 1⟩
abbrev CH_CTRL_UE_LIMIT : Fld := ⟨.CH_CTRL, 8, 8⟩
abbrev CH_CTRL_AGE_LIMIT : Fld := ⟨.CH_CTRL, 16, 16⟩
abbrev CH_CTRL_SCRUB_PERIOD : Fld := ⟨.CH_CTRL, 32, 32⟩
abbrev CH_GEN_WGEN : Fld := ⟨.CH_GEN, 0, 8⟩
abbrev CH_GEN_PASS_ADVANCES : Fld := ⟨.CH_GEN, 8, 8⟩
abbrev CH_COUNTS_FALLBACKS : Fld := ⟨.CH_COUNTS, 0, 32⟩
abbrev CH_COUNTS_MERGE_WRITES : Fld := ⟨.CH_COUNTS, 32, 32⟩
abbrev T2_STATUS_POPULATED : Fld := ⟨.T2_STATUS, 0, 1⟩
abbrev T2_STATUS_USED : Fld := ⟨.T2_STATUS, 1, 1⟩
abbrev T2_STATUS_DIMMS : Fld := ⟨.T2_STATUS, 2, 2⟩
abbrev T2_STATUS_RANKS : Fld := ⟨.T2_STATUS, 4, 4⟩
abbrev T2_STATUS_CAPACITY : Fld := ⟨.T2_STATUS, 16, 10⟩
abbrev T2_STATUS_LEFT_OUT : Fld := ⟨.T2_STATUS, 32, 4⟩
abbrev T2_STATUS_UNUSED : Fld := ⟨.T2_STATUS, 36, 10⟩
abbrev T2_STATUS_FAILED : Fld := ⟨.T2_STATUS, 46, 1⟩
abbrev T2_ERR_CORR_BIT : Fld := ⟨.T2_ERR, 0, 16⟩
abbrev T2_ERR_CORR_SYMBOL : Fld := ⟨.T2_ERR, 16, 16⟩
abbrev T2_ERR_UNCORRECTABLE : Fld := ⟨.T2_ERR, 32, 16⟩
abbrev T2_ERR_STALE : Fld := ⟨.T2_ERR, 48, 16⟩
abbrev T2_ERR_ADDR_OFFSET : Fld := ⟨.T2_ERR_ADDR, 0, 43⟩
abbrev T2_ERR_ADDR_CLASS : Fld := ⟨.T2_ERR_ADDR, 43, 3⟩
abbrev T2_ERR_ADDR_SYMBOL : Fld := ⟨.T2_ERR_ADDR, 46, 4⟩
abbrev T2_CTRL_AGE_LIMIT : Fld := ⟨.T2_CTRL, 0, 16⟩
abbrev T2_CTRL_HOT_DECAY : Fld := ⟨.T2_CTRL, 16, 16⟩
abbrev T2_CTRL_SCRUB_PERIOD : Fld := ⟨.T2_CTRL, 32, 32⟩
abbrev T2_COUNTS_FALLBACKS : Fld := ⟨.T2_COUNTS, 0, 32⟩
abbrev T2_COUNTS_MERGE_WRITES : Fld := ⟨.T2_COUNTS, 32, 32⟩
abbrev T2_LIMIT_UE_LIMIT : Fld := ⟨.T2_LIMIT, 0, 8⟩
abbrev SC_STATUS_WAYS_ON : Fld := ⟨.SC_STATUS, 0, 16⟩
abbrev SC_STATUS_LOST : Fld := ⟨.SC_STATUS, 16, 1⟩
abbrev SC_STATUS_TD500 : Fld := ⟨.SC_STATUS, 17, 1⟩
abbrev SC_WAYS_LOCK : Fld := ⟨.SC_WAYS, 0, 16⟩
abbrev SC_WAYS_MIN_ON : Fld := ⟨.SC_WAYS, 16, 5⟩
abbrev SC_PRELOAD_ADDR_ADDR : Fld := ⟨.SC_PRELOAD_ADDR, 8, 48⟩
abbrev SC_PRELOAD_CTRL_LINES : Fld := ⟨.SC_PRELOAD_CTRL, 0, 32⟩
abbrev SC_PRELOAD_CTRL_GO : Fld := ⟨.SC_PRELOAD_CTRL, 32, 1⟩
abbrev SC_PRELOAD_CTRL_UNLOCK : Fld := ⟨.SC_PRELOAD_CTRL, 33, 1⟩
abbrev SC_PF_CFG_ENABLE : Fld := ⟨.SC_PF_CFG, 0, 1⟩
abbrev SC_PF_CFG_DEPTH_M1 : Fld := ⟨.SC_PF_CFG, 1, 4⟩
abbrev SC_HITS_COUNT : Fld := ⟨.SC_HITS, 0, 64⟩
abbrev SC_MISSES_COUNT : Fld := ⟨.SC_MISSES, 0, 64⟩
abbrev SC_COUNTS_PRELOAD_DROPPED : Fld := ⟨.SC_COUNTS, 0, 16⟩
abbrev SC_COUNTS_LAST_LOCKED : Fld := ⟨.SC_COUNTS, 16, 16⟩
abbrev SC_COUNTS_MSR_FULL : Fld := ⟨.SC_COUNTS, 32, 16⟩
abbrev SC_COUNTS_PF_DISCARD : Fld := ⟨.SC_COUNTS, 48, 16⟩
abbrev SC_PF_USED_COUNT : Fld := ⟨.SC_PF_USED, 0, 64⟩
abbrev TIER_POOL_BASE_BASE : Fld := ⟨.TIER_POOL_BASE, 16, 40⟩
abbrev TIER_POOL_CFG_PAGES : Fld := ⟨.TIER_POOL_CFG, 0, 26⟩
abbrev TIER_POOL_CFG_EPOCH : Fld := ⟨.TIER_POOL_CFG, 32, 16⟩
abbrev TIER_STAMP_BASE_BASE : Fld := ⟨.TIER_STAMP_BASE, 6, 50⟩
abbrev TIER_NOTICE_BASE_SIZE : Fld := ⟨.TIER_NOTICE_BASE, 0, 4⟩
abbrev TIER_NOTICE_BASE_BASE : Fld := ⟨.TIER_NOTICE_BASE, 12, 44⟩
abbrev TIER_NOTICE_HEAD_HEAD : Fld := ⟨.TIER_NOTICE_HEAD, 0, 32⟩
abbrev TIER_NOTICE_STATUS_POSITION : Fld := ⟨.TIER_NOTICE_STATUS, 0, 32⟩
abbrev TIER_NOTICE_STATUS_DROPPED : Fld := ⟨.TIER_NOTICE_STATUS, 32, 16⟩
abbrev TIER_DISCARD_RIGHT : Fld := ⟨.TIER_DISCARD, 0, 64⟩
abbrev HOME_STATUS_LLT_USED : Fld := ⟨.HOME_STATUS, 0, 13⟩
abbrev HOME_STATUS_RECLAIM : Fld := ⟨.HOME_STATUS, 13, 1⟩
abbrev HOME_STATUS_UNTRACKED : Fld := ⟨.HOME_STATUS, 14, 1⟩
abbrev HOME_STATUS_SF_USED : Fld := ⟨.HOME_STATUS, 16, 18⟩
abbrev HOME_CFG_SNOOP_LIMIT : Fld := ⟨.HOME_CFG, 0, 32⟩
abbrev HOME_EVENT_LLT_ADD : Fld := ⟨.HOME_EVENT, 0, 1⟩
abbrev HOME_EVENT_LLT_OVERFLOW : Fld := ⟨.HOME_EVENT, 1, 1⟩
abbrev HOME_EVENT_SNOOP_TIMEOUT : Fld := ⟨.HOME_EVENT, 2, 1⟩
abbrev HOME_EVENT_RECLAIM_DONE : Fld := ⟨.HOME_EVENT, 3, 1⟩
abbrev SF_COUNTS_SF_EVICTIONS : Fld := ⟨.SF_COUNTS, 0, 32⟩
abbrev SF_COUNTS_SF_WAIT : Fld := ⟨.SF_COUNTS, 32, 32⟩
abbrev HOME_COUNTS_SNOOPS : Fld := ⟨.HOME_COUNTS, 0, 32⟩
abbrev HOME_COUNTS_CROSSINGS : Fld := ⟨.HOME_COUNTS, 32, 16⟩
abbrev HOME_COUNTS_LOST_ANSWERS : Fld := ⟨.HOME_COUNTS, 48, 16⟩
abbrev LLT_ENTRY : Fld := ⟨.LLT, 0, 64⟩
abbrev CC_STATUS_VALID_LINES : Fld := ⟨.CC_STATUS, 0, 14⟩
abbrev CC_STATUS_DROPPING : Fld := ⟨.CC_STATUS, 14, 1⟩
abbrev CC_CTRL_ENABLE : Fld := ⟨.CC_CTRL, 0, 1⟩
abbrev CC_CTRL_DROP : Fld := ⟨.CC_CTRL, 1, 1⟩
abbrev CC_HITS_COUNT : Fld := ⟨.CC_HITS, 0, 64⟩
abbrev CC_MISSES_COUNT : Fld := ⟨.CC_MISSES, 0, 64⟩
abbrev CC_DROPS_COUNT : Fld := ⟨.CC_DROPS, 0, 32⟩
abbrev CORE_SL_ADDR_ADDRESS : Fld := ⟨.CORE_SL_ADDR, 0, 56⟩
abbrev CORE_SL_INFO_PENDING : Fld := ⟨.CORE_SL_INFO, 0, 1⟩
abbrev CORE_SL_INFO_RESPONSE : Fld := ⟨.CORE_SL_INFO, 1, 3⟩
abbrev CORE_SL_INFO_NONCACHING : Fld := ⟨.CORE_SL_INFO, 4, 1⟩
abbrev CORE_SL_INFO_COUNT : Fld := ⟨.CORE_SL_INFO, 16, 16⟩
abbrev XP_CHECK_BASE_BASE : Fld := ⟨.XP_CHECK_BASE, 12, 44⟩
abbrev XP_CHECK_CTRL_ENABLE : Fld := ⟨.XP_CHECK_CTRL, 0, 1⟩
abbrev XP_CHECK_CTRL_FLUSH : Fld := ⟨.XP_CHECK_CTRL, 1, 1⟩
abbrev XP_INV_ADDR_VA : Fld := ⟨.XP_INV_ADDR, 12, 45⟩
abbrev XP_INV_CTRL_CONTEXT : Fld := ⟨.XP_INV_CTRL, 0, 12⟩
abbrev XP_INV_CTRL_ALL : Fld := ⟨.XP_INV_CTRL, 12, 1⟩
abbrev XP_INV_CTRL_ALL_VA : Fld := ⟨.XP_INV_CTRL, 13, 1⟩
abbrev XP_INV_CTRL_LOG2 : Fld := ⟨.XP_INV_CTRL, 16, 6⟩
abbrev XP_INV_CTRL_GO : Fld := ⟨.XP_INV_CTRL, 32, 1⟩
abbrev XP_INV_STATUS_BUSY : Fld := ⟨.XP_INV_STATUS, 0, 1⟩
abbrev XP_INV_STATUS_DONE : Fld := ⟨.XP_INV_STATUS, 1, 1⟩
abbrev XP_INV_STATUS_LATE : Fld := ⟨.XP_INV_STATUS, 2, 1⟩
abbrev XP_INV_STATUS_ERROR : Fld := ⟨.XP_INV_STATUS, 3, 1⟩
abbrev XP_INV_STATUS_LAG_CLUSTER : Fld := ⟨.XP_INV_STATUS, 8, 7⟩
abbrev XP_PR_BASE_SIZE : Fld := ⟨.XP_PR_BASE, 0, 4⟩
abbrev XP_PR_BASE_BASE : Fld := ⟨.XP_PR_BASE, 12, 44⟩
abbrev XP_PR_HEAD_HEAD : Fld := ⟨.XP_PR_HEAD, 0, 32⟩
abbrev XP_PR_MSI_ADDR_ADDR : Fld := ⟨.XP_PR_MSI_ADDR, 2, 54⟩
abbrev XP_PR_MSI_DATA : Fld := ⟨.XP_PR_MSI, 0, 11⟩
abbrev XP_PR_RESP_PR_ID : Fld := ⟨.XP_PR_RESP, 0, 8⟩
abbrev XP_PR_RESP_CODE : Fld := ⟨.XP_PR_RESP, 8, 1⟩
abbrev XP_PR_STATUS_POSITION : Fld := ⟨.XP_PR_STATUS, 0, 32⟩
abbrev XP_PR_STATUS_PENDING : Fld := ⟨.XP_PR_STATUS, 32, 7⟩
abbrev XP_PR_STATUS_FULL : Fld := ⟨.XP_PR_STATUS, 39, 1⟩
abbrev XP_PR_STATUS_PR_FULL : Fld := ⟨.XP_PR_STATUS, 40, 12⟩
abbrev XP_PR_STATUS_LATE_RESP : Fld := ⟨.XP_PR_STATUS, 52, 12⟩
abbrev XP_PR_LIMIT_LIMIT : Fld := ⟨.XP_PR_LIMIT, 0, 32⟩
abbrev CTX_XLATE_MODE : Fld := ⟨.CTX_XLATE, 0, 4⟩
abbrev CTX_XLATE_PR_ENABLE : Fld := ⟨.CTX_XLATE, 4, 1⟩
abbrev CTX_XLATE_ROOT : Fld := ⟨.CTX_XLATE, 12, 44⟩
abbrev CTX_XLATE_COUNTS_PAGE_REQUESTS : Fld := ⟨.CTX_XLATE_COUNTS, 0, 32⟩
abbrev CTX_XLATE_COUNTS_XLATE : Fld := ⟨.CTX_XLATE_COUNTS, 32, 32⟩
abbrev ATC_STATUS_VALID : Fld := ⟨.ATC_STATUS, 0, 12⟩
abbrev ATC_STATUS_MISSES_OUT : Fld := ⟨.ATC_STATUS, 12, 6⟩
abbrev ATC_STATUS_INVALIDATING : Fld := ⟨.ATC_STATUS, 18, 1⟩
abbrev ATC_STATUS_REGION_AGENTS : Fld := ⟨.ATC_STATUS, 19, 1⟩
abbrev ATC_HITS_COUNT : Fld := ⟨.ATC_HITS, 0, 64⟩
abbrev ATC_MISSES_COUNT : Fld := ⟨.ATC_MISSES, 0, 64⟩
abbrev FAB_SELF_DEVICE_ID : Fld := ⟨.FAB_SELF, 0, 10⟩
abbrev FAB_SELF_ASSIGNED : Fld := ⟨.FAB_SELF, 10, 1⟩
abbrev FAB_SELF_STARTER : Fld := ⟨.FAB_SELF, 11, 1⟩
abbrev FAB_SELF_CONVERGED : Fld := ⟨.FAB_SELF, 12, 1⟩
abbrev FAB_SELF_UNASSIGNED : Fld := ⟨.FAB_SELF, 13, 1⟩
abbrev FAB_DISC_ID_DISC_ID : Fld := ⟨.FAB_DISC_ID, 0, 64⟩
abbrev FAB_CTRL_REDISCOVER : Fld := ⟨.FAB_CTRL, 0, 1⟩
abbrev FAB_COUNTS_REROUTED : Fld := ⟨.FAB_COUNTS, 0, 32⟩
abbrev FAB_COUNTS_DROPPED : Fld := ⟨.FAB_COUNTS, 32, 16⟩
abbrev FAB_COUNTS_INBOUND_PERM : Fld := ⟨.FAB_COUNTS, 48, 16⟩
abbrev FAB_DNF_RAISE_JOB : Fld := ⟨.FAB_DNF_RAISE, 0, 16⟩
abbrev FAB_DNF_LAST_JOB : Fld := ⟨.FAB_DNF_LAST, 0, 16⟩
abbrev FAB_DNF_LAST_ORIGIN : Fld := ⟨.FAB_DNF_LAST, 16, 10⟩
abbrev FAB_DNF_LAST_REASON : Fld := ⟨.FAB_DNF_LAST, 26, 2⟩
abbrev FAB_DNF_LAST_DETAIL : Fld := ⟨.FAB_DNF_LAST, 32, 16⟩
abbrev FAB_DNF_LAST_COUNT : Fld := ⟨.FAB_DNF_LAST, 48, 16⟩
abbrev JOB_CFG_JOB : Fld := ⟨.JOB_CFG, 0, 16⟩
abbrev JOB_CFG_VALID : Fld := ⟨.JOB_CFG, 16, 1⟩
abbrev JOB_CFG_INBOUND : Fld := ⟨.JOB_CFG, 17, 1⟩
abbrev JOB_CFG_AUTO_DNF : Fld := ⟨.JOB_CFG, 18, 1⟩
abbrev JOB_CFG_DNF_ON_FAULT : Fld := ⟨.JOB_CFG, 19, 1⟩
abbrev JOB_CFG_ABORTED : Fld := ⟨.JOB_CFG, 20, 1⟩
abbrev JOB_CFG_SEALED : Fld := ⟨.JOB_CFG, 21, 1⟩
abbrev JOB_CFG_PARTITION : Fld := ⟨.JOB_CFG, 22, 5⟩
abbrev JOB_CFG_EPOCH : Fld := ⟨.JOB_CFG, 32, 32⟩
abbrev JOB_RANGE_CTX_FIRST : Fld := ⟨.JOB_RANGE, 0, 12⟩
abbrev JOB_RANGE_CTX_COUNT : Fld := ⟨.JOB_RANGE, 16, 13⟩
abbrev JOB_MEMBERS_MEMBER : Fld := ⟨.JOB_MEMBERS, 0, 64⟩
abbrev FAB_DEV_BOUND : Fld := ⟨.FAB_DEV, 0, 1⟩
abbrev FAB_DEV_REACHABLE : Fld := ⟨.FAB_DEV, 1, 1⟩
abbrev FAB_DEV_LOST : Fld := ⟨.FAB_DEV, 2, 1⟩
abbrev FAB_DEV_HOPS : Fld := ⟨.FAB_DEV, 3, 3⟩
abbrev FAB_DEV_ROUTES : Fld := ⟨.FAB_DEV, 6, 3⟩
abbrev PORT_STATUS_STATE : Fld := ⟨.PORT_STATUS, 0, 3⟩
abbrev PORT_STATUS_IN_SERVICE : Fld := ⟨.PORT_STATUS, 3, 1⟩
abbrev PORT_STATUS_KEYWAIT : Fld := ⟨.PORT_STATUS, 4, 1⟩
abbrev PORT_STATUS_CAUSE : Fld := ⟨.PORT_STATUS, 5, 3⟩
abbrev PORT_STATUS_ROLE : Fld := ⟨.PORT_STATUS, 8, 2⟩
abbrev PORT_STATUS_RTT : Fld := ⟨.PORT_STATUS, 16, 14⟩
abbrev PORT_STATUS_FIBER_M : Fld := ⟨.PORT_STATUS, 32, 10⟩
abbrev PORT_STATUS_PEER_PORT : Fld := ⟨.PORT_STATUS, 42, 6⟩
abbrev PORT_STATUS_PEER_DEVICE : Fld := ⟨.PORT_STATUS, 48, 10⟩
abbrev PORT_STATUS_PEER_ASSIGNED : Fld := ⟨.PORT_STATUS, 58, 1⟩
abbrev PORT_LANES_GOOD : Fld := ⟨.PORT_LANES, 0, 5⟩
abbrev PORT_LANES_IN_USE : Fld := ⟨.PORT_LANES, 5, 5⟩
abbrev PORT_CREDIT_DEDICATED : Fld := ⟨.PORT_CREDIT, 0, 12⟩
abbrev PORT_CREDIT_SHARED : Fld := ⟨.PORT_CREDIT, 12, 16⟩
abbrev PORT_CREDIT_CONTROL : Fld := ⟨.PORT_CREDIT, 28, 12⟩
abbrev PORT_CREDIT_REPLAY : Fld := ⟨.PORT_CREDIT, 40, 11⟩
abbrev PORT_CTRL_RETRAIN : Fld := ⟨.PORT_CTRL, 0, 1⟩
abbrev PORT_COUNTS_CORRECTED_WORDS : Fld := ⟨.PORT_COUNTS, 0, 32⟩
abbrev PORT_COUNTS_REPLAYS : Fld := ⟨.PORT_COUNTS, 32, 16⟩
abbrev PORT_COUNTS_RETRAINS : Fld := ⟨.PORT_COUNTS, 48, 8⟩
abbrev PORT_COUNTS_REKEYS : Fld := ⟨.PORT_COUNTS, 56, 8⟩
abbrev PORT_VIOL_FRAME : Fld := ⟨.PORT_VIOL, 0, 16⟩
abbrev PORT_VIOL_AUTH : Fld := ⟨.PORT_VIOL, 16, 16⟩
abbrev PORT_VIOL_PACKET : Fld := ⟨.PORT_VIOL, 32, 16⟩
abbrev PORT_VIOL_WINDOW : Fld := ⟨.PORT_VIOL, 48, 16⟩
abbrev PORT_EVENT_LANE_FAILED : Fld := ⟨.PORT_EVENT, 0, 1⟩
abbrev PORT_EVENT_WIDTH_DROP : Fld := ⟨.PORT_EVENT, 1, 1⟩
abbrev PORT_EVENT_OUT_OF_SERVICE : Fld := ⟨.PORT_EVENT, 2, 1⟩
abbrev PORT_EVENT_PORT_FAILED : Fld := ⟨.PORT_EVENT, 3, 1⟩
abbrev PORT_EVENT_QUARANTINED : Fld := ⟨.PORT_EVENT, 4, 1⟩
abbrev PCI_STATUS_LINK_UP : Fld := ⟨.PCI_STATUS, 0, 1⟩
abbrev PCI_STATUS_RATE : Fld := ⟨.PCI_STATUS, 1, 3⟩
abbrev PCI_STATUS_WIDTH : Fld := ⟨.PCI_STATUS, 4, 3⟩
abbrev PCI_STATUS_FLIT : Fld := ⟨.PCI_STATUS, 7, 1⟩
abbrev PCI_STATUS_NUM_VFS : Fld := ⟨.PCI_STATUS, 8, 6⟩
abbrev PCI_STATUS_VF_ENABLE : Fld := ⟨.PCI_STATUS, 14, 1⟩
abbrev PCI_STATUS_NO_ARI : Fld := ⟨.PCI_STATUS, 15, 1⟩
abbrev PCI_ERR_LOG_VALID : Fld := ⟨.PCI_ERR_LOG, 0, 1⟩
abbrev PCI_ERR_LOG_FUNC : Fld := ⟨.PCI_ERR_LOG, 1, 6⟩
abbrev PCI_ERR_LOG_CODE : Fld := ⟨.PCI_ERR_LOG, 7, 3⟩
abbrev PCI_ERR_LOG_WRITE : Fld := ⟨.PCI_ERR_LOG, 10, 1⟩
abbrev PCI_ERR_LOG_COUNT : Fld := ⟨.PCI_ERR_LOG, 32, 32⟩
abbrev PCI_ERR_ADDR_ADDRESS : Fld := ⟨.PCI_ERR_ADDR, 0, 56⟩
abbrev PCI_VIOL_MALFORMED : Fld := ⟨.PCI_VIOL, 0, 16⟩
abbrev PCI_VIOL_POISONED : Fld := ⟨.PCI_VIOL, 16, 16⟩
abbrev PCI_VIOL_UNEXPECTED_CPL : Fld := ⟨.PCI_VIOL, 32, 16⟩
abbrev PCI_VIOL_UNSUPPORTED : Fld := ⟨.PCI_VIOL, 48, 16⟩
abbrev PCI_NOTIFY_FUNC : Fld := ⟨.PCI_NOTIFY, 0, 6⟩
abbrev PCI_NOTIFY_VECTOR : Fld := ⟨.PCI_NOTIFY, 6, 6⟩
abbrev APER_ENABLE : Fld := ⟨.APER, 0, 1⟩
abbrev APER_HINT : Fld := ⟨.APER, 1, 2⟩
abbrev APER_CONTEXT : Fld := ⟨.APER, 3, 12⟩
abbrev APER_PARTITION : Fld := ⟨.APER, 15, 5⟩
abbrev APER_BASE : Fld := ⟨.APER, 30, 25⟩
abbrev NSE_STATUS_HEALTHY : Fld := ⟨.NSE_STATUS, 0, 1⟩
abbrev NSE_STATUS_REPETITION_FAIL : Fld := ⟨.NSE_STATUS, 1, 1⟩
abbrev NSE_STATUS_PROPORTION_FAIL : Fld := ⟨.NSE_STATUS, 2, 1⟩
abbrev NSE_STATUS_KAT_FAIL : Fld := ⟨.NSE_STATUS, 3, 1⟩
abbrev NSE_COUNTS_RESEEDS : Fld := ⟨.NSE_COUNTS, 0, 32⟩
abbrev NSE_COUNTS_GENERATES : Fld := ⟨.NSE_COUNTS, 32, 32⟩
abbrev GX_STATUS_STATE : Fld := ⟨.GX_STATUS, 0, 3⟩
abbrev GX_STATUS_SAFETY : Fld := ⟨.GX_STATUS, 3, 1⟩
abbrev GX_STATUS_RESULT : Fld := ⟨.GX_STATUS, 4, 4⟩
abbrev GX_STATUS_SEQ : Fld := ⟨.GX_STATUS, 8, 56⟩
abbrev GX_LEDGER_REMAINING : Fld := ⟨.GX_LEDGER, 0, 64⟩
abbrev GX_SRC_ADDR : Fld := ⟨.GX_SRC, 6, 50⟩
abbrev GX_AUX_ADDR : Fld := ⟨.GX_AUX, 6, 50⟩
abbrev GX_LEN_BYTES : Fld := ⟨.GX_LEN, 0, 32⟩
abbrev GX_CTRL_GO : Fld := ⟨.GX_CTRL, 0, 1⟩
abbrev GX_CTRL_KIND : Fld := ⟨.GX_CTRL, 1, 2⟩
abbrev GX_DEST_BASE_BASE : Fld := ⟨.GX_DEST_BASE, 12, 52⟩
abbrev GX_DEST_CFG_SIZE : Fld := ⟨.GX_DEST_CFG, 0, 5⟩
abbrev GX_DEST_CFG_HEAD : Fld := ⟨.GX_DEST_CFG, 32, 32⟩
abbrev GX_DEST_POS_POSITION : Fld := ⟨.GX_DEST_POS, 0, 32⟩
abbrev GX_COUNTS_RELEASES : Fld := ⟨.GX_COUNTS, 0, 32⟩
abbrev GX_COUNTS_BLOCKED : Fld := ⟨.GX_COUNTS, 32, 16⟩
abbrev GX_COUNTS_REFUSED : Fld := ⟨.GX_COUNTS, 48, 16⟩
abbrev GX_OWNER_HASH : Fld := ⟨.GX_OWNER, 0, 64⟩
abbrev ATT_STATUS_CERTIFIED : Fld := ⟨.ATT_STATUS, 0, 1⟩
abbrev ATT_STATUS_EXHAUSTED : Fld := ⟨.ATT_STATUS, 1, 1⟩
abbrev ATT_STATUS_BUSY : Fld := ⟨.ATT_STATUS, 2, 1⟩
abbrev ATT_STATUS_RESULT : Fld := ⟨.ATT_STATUS, 4, 4⟩
abbrev ATT_STATUS_LEVEL1_NEXT : Fld := ⟨.ATT_STATUS, 32, 21⟩
abbrev ATT_DATA_ADDR_ADDR : Fld := ⟨.ATT_DATA_ADDR, 6, 50⟩
abbrev ATT_OUT_ADDR_ADDR : Fld := ⟨.ATT_OUT_ADDR, 6, 50⟩
abbrev ATT_CTRL_PARTITION : Fld := ⟨.ATT_CTRL, 0, 5⟩
abbrev ATT_CTRL_PACKAGE : Fld := ⟨.ATT_CTRL, 5, 1⟩
abbrev ATT_CTRL_GO : Fld := ⟨.ATT_CTRL, 8, 1⟩
abbrev PWR_STATUS_RAIL_LEVEL : Fld := ⟨.PWR_STATUS, 0, 3⟩
abbrev PWR_STATUS_ALERT : Fld := ⟨.PWR_STATUS, 3, 1⟩
abbrev PWR_STATUS_I_TICK : Fld := ⟨.PWR_STATUS, 4, 10⟩
abbrev PWR_STATUS_A1000 : Fld := ⟨.PWR_STATUS, 14, 10⟩
abbrev PWR_STATUS_REGION_LEVEL : Fld := ⟨.PWR_STATUS, 24, 12⟩
abbrev PWR_LIMIT_PEAK_TRIP : Fld := ⟨.PWR_LIMIT, 0, 10⟩
abbrev PWR_LIMIT_SUST_TRIP : Fld := ⟨.PWR_LIMIT, 10, 10⟩
abbrev PWR_IDLE_ARRAY_IDLE : Fld := ⟨.PWR_IDLE, 0, 16⟩
abbrev PWR_IDLE_CORE_IDLE : Fld := ⟨.PWR_IDLE, 16, 16⟩
abbrev PWR_IDLE_WAY_WINDOW : Fld := ⟨.PWR_IDLE, 32, 12⟩
abbrev PWR_IDLE_WAY_DOWN_HITS : Fld := ⟨.PWR_IDLE, 44, 10⟩
abbrev PWR_IDLE_WAY_UP_MISSES : Fld := ⟨.PWR_IDLE, 54, 10⟩
abbrev THERM_STATUS_TMAX : Fld := ⟨.THERM_STATUS, 0, 8⟩
abbrev THERM_STATUS_HOTTEST : Fld := ⟨.THERM_STATUS, 8, 5⟩
abbrev THERM_STATUS_THERMAL_LEVEL : Fld := ⟨.THERM_STATUS, 13, 3⟩
abbrev THERM_CFG_THROTTLE : Fld := ⟨.THERM_CFG, 0, 8⟩
abbrev THERM_CFG_TRIP : Fld := ⟨.THERM_CFG, 8, 8⟩
abbrev PWR_COUNTS_LIMIT_TICKS : Fld := ⟨.PWR_COUNTS, 0, 32⟩
abbrev PWR_COUNTS_ALERTS : Fld := ⟨.PWR_COUNTS, 32, 16⟩
abbrev PWR_COUNTS_THROTTLES : Fld := ⟨.PWR_COUNTS, 48, 16⟩
abbrev PWR_EVENT_ALERT : Fld := ⟨.PWR_EVENT, 0, 1⟩
abbrev PWR_EVENT_THROTTLE : Fld := ⟨.PWR_EVENT, 1, 1⟩
abbrev PWR_EVENT_RAIL_OUT : Fld := ⟨.PWR_EVENT, 2, 1⟩
abbrev PWR_EVENT_SUSTAINED : Fld := ⟨.PWR_EVENT, 3, 1⟩
abbrev CAPC_STATUS_AVAIL_W : Fld := ⟨.CAPC_STATUS, 0, 16⟩
abbrev CAPC_STATUS_OTHER_W : Fld := ⟨.CAPC_STATUS, 16, 16⟩
abbrev CAPC_STATUS_SCALED : Fld := ⟨.CAPC_STATUS, 32, 1⟩
abbrev CAPC_STATUS_EPOCHS : Fld := ⟨.CAPC_STATUS, 33, 31⟩
abbrev CAPC_CFG_PKG_BUDGET : Fld := ⟨.CAPC_CFG, 0, 16⟩
abbrev CAPC_CFG_FLOOR_W : Fld := ⟨.CAPC_CFG, 16, 12⟩
abbrev CAPC_CFG_EPOCH_LEN : Fld := ⟨.CAPC_CFG, 28, 32⟩
abbrev CAPC_REGION_SIGNATURE : Fld := ⟨.CAPC_REGION, 0, 16⟩
abbrev CAPC_REGION_BUDGET_W : Fld := ⟨.CAPC_REGION, 16, 12⟩
abbrev CAPC_REGION_NEED_W : Fld := ⟨.CAPC_REGION, 28, 12⟩
abbrev CAPC_REGION_KNOWN : Fld := ⟨.CAPC_REGION, 40, 1⟩
abbrev DIE_STATUS_LAST_TRIGGER : Fld := ⟨.DIE_STATUS, 0, 8⟩
abbrev DIE_STATUS_RESETS : Fld := ⟨.DIE_STATUS, 8, 16⟩
abbrev DIE_CTRL_RESET : Fld := ⟨.DIE_CTRL, 0, 1⟩
abbrev REQ_BOUND_LOCAL : Fld := ⟨.REQ_BOUND, 0, 32⟩
abbrev REQ_BOUND_REMOTE : Fld := ⟨.REQ_BOUND, 32, 32⟩
abbrev HANG_LIMIT_LIMIT : Fld := ⟨.HANG_LIMIT, 0, 32⟩
abbrev DIE_ERR_COUNTS_CORRECTED : Fld := ⟨.DIE_ERR_COUNTS, 0, 32⟩
abbrev DIE_ERR_COUNTS_CONTAINED : Fld := ⟨.DIE_ERR_COUNTS, 32, 16⟩
abbrev DIE_ERR_COUNTS_TIMEOUTS : Fld := ⟨.DIE_ERR_COUNTS, 48, 16⟩
abbrev ELOG_STATUS_POSITION : Fld := ⟨.ELOG_STATUS, 0, 32⟩
abbrev ELOG_STATUS_WRAPPED : Fld := ⟨.ELOG_STATUS, 32, 1⟩
abbrev ELOG_STATUS_SAFETY : Fld := ⟨.ELOG_STATUS, 33, 1⟩
abbrev ELOG_MSI_ADDR_ADDR : Fld := ⟨.ELOG_MSI_ADDR, 2, 54⟩
abbrev ELOG_MSI_DATA : Fld := ⟨.ELOG_MSI, 0, 11⟩
abbrev ELOG_MSI_CLASS_MASK : Fld := ⟨.ELOG_MSI, 16, 7⟩
abbrev WD_CFG_HB_LIMIT : Fld := ⟨.WD_CFG, 0, 32⟩
abbrev WD_CFG_RELOCK_TRIES : Fld := ⟨.WD_CFG, 32, 2⟩
abbrev RESET_CTRL_DIE : Fld := ⟨.RESET_CTRL, 0, 11⟩
abbrev RESET_CTRL_PACKAGE : Fld := ⟨.RESET_CTRL, 16, 1⟩
abbrev RESET_CTRL_KEY : Fld := ⟨.RESET_CTRL, 24, 8⟩
abbrev DIE_STATE_STATE : Fld := ⟨.DIE_STATE, 0, 22⟩
abbrev ELOG_ENTRY : Fld := ⟨.ELOG, 0, 64⟩
abbrev CRASH_RECORD : Fld := ⟨.CRASH, 0, 64⟩
abbrev SAFE_CFG_ARRAY_INTERVAL : Fld := ⟨.SAFE_CFG, 0, 16⟩
abbrev SAFE_STATUS_TESTS : Fld := ⟨.SAFE_STATUS, 0, 32⟩
abbrev SAFE_STATUS_FAILED : Fld := ⟨.SAFE_STATUS, 32, 16⟩
abbrev SAFE_STATUS_OVERDUE : Fld := ⟨.SAFE_STATUS, 48, 16⟩
abbrev RAIL_CFG_NOM_MV : Fld := ⟨.RAIL_CFG, 0, 12⟩
abbrev RAIL_CFG_PMBUS_ADDR : Fld := ⟨.RAIL_CFG, 16, 7⟩
abbrev RAIL_CFG_PMBUS_PAGE : Fld := ⟨.RAIL_CFG, 24, 8⟩
abbrev RAIL_STATUS_ADC_MV : Fld := ⟨.RAIL_STATUS, 0, 12⟩
abbrev RAIL_STATUS_OUT : Fld := ⟨.RAIL_STATUS, 12, 1⟩
abbrev RAIL_STATUS_RUN : Fld := ⟨.RAIL_STATUS, 13, 2⟩
abbrev RAIL_STATUS_VR_SILENT : Fld := ⟨.RAIL_STATUS, 15, 1⟩
abbrev RAIL_STATUS_VR_VOUT : Fld := ⟨.RAIL_STATUS, 16, 16⟩
abbrev RAIL_STATUS_VR_IOUT : Fld := ⟨.RAIL_STATUS, 32, 16⟩
abbrev RAIL_STATUS_VR_POUT : Fld := ⟨.RAIL_STATUS, 48, 16⟩
abbrev GXB_STATUS_STATE : Fld := ⟨.GXB_STATUS, 0, 3⟩
abbrev GXB_STATUS_SAFETY : Fld := ⟨.GXB_STATUS, 3, 1⟩
abbrev GXB_STATUS_RESULT : Fld := ⟨.GXB_STATUS, 4, 4⟩
abbrev GXB_STATUS_SEQ : Fld := ⟨.GXB_STATUS, 8, 56⟩
abbrev GXB_LEDGER_REMAINING : Fld := ⟨.GXB_LEDGER, 0, 64⟩

end F

end Sys2Proof.Machine
end

