-- ==== Sys2Proof/Word.lean ====
section
/-! DEFINITION. The words the device moves and the ranges of its identifiers (R61). -/

namespace Sys2Proof

/-- One byte of memory. -/
abbrev Byte := BitVec 8
/-- One register, or one word of memory (R55, R305). -/
abbrev Word := BitVec 64
/-- One 64-byte line (R346); byte 0 is bits [7:0] (R6). -/
abbrev Line := BitVec 512

/-- Die numbers (R23): 0–7 compute, 8 core, 9 and 10 I/O. -/
abbrev DieIx := Fin 11
/-- Global region index (R61). -/
abbrev RegionIx := Fin 32
/-- Global cluster index (R61). -/
abbrev ClusterIx := Fin 128
/-- An array: global cluster × 4 + array in cluster (R61). -/
abbrev ArrayIx := Fin 512
/-- Global queue index: region × 128 + q (R252). -/
abbrev QueueIx := Fin 4096
/-- Context ID (R61). -/
abbrev CtxIx := Fin 4096
/-- Partition ID (R61). -/
abbrev PartIx := Fin 32
/-- T1 channel (R61). -/
abbrev ChanIx := Fin 256
/-- DIMM channel controller (R53). -/
abbrev DimmIx := Fin 12
/-- Bosin core (R61). -/
abbrev CoreIx := Fin 64
/-- A home: 0–31 the HOME of a region, 32–47 a HOSTMEM home slice (R346). -/
abbrev HomeIx := Fin 48
/-- One end of a die-to-die link: die × 16 + L; the core die's end of host link h is 8 × 16 + h (R71). -/
abbrev LinkEnd := Fin 176
/-- A logical optical port: 24 × (die − 9) + p (R53). -/
abbrev FPort := Fin 48
/-- A power rail (R549). -/
abbrev RailIx := Fin 40
/-- A memory controller: 0–255 the T1 channels, 256 + m DIMM controller m (R53). -/
abbrev CtlIx := Fin 268
/-- A vault is a partition. -/
abbrev VaultIx := Fin 32
/-- A PCI Express function, coded as FUNC of PCI_ERR_LOG: 0 PF0, 1 PF1, n + 1 VF n. -/
abbrev FuncIx := Fin 34

/-- The little-endian value of a list of bytes (R6). -/
def leNat : List Byte → Nat
  | [] => 0
  | b :: bs => b.toNat + 256 * leNat bs

/-- The low n bytes of a value, little-endian. -/
def leBytes : Nat → Nat → List Byte
  | 0, _ => []
  | n + 1, v => BitVec.ofNat 8 v :: leBytes n (v / 256)

/-- n bytes of a byte string from an offset, missing bytes read as zero. -/
def bytesAt (bs : List Byte) (off n : Nat) : List Byte :=
  let l := (bs.drop off).take n
  l ++ List.replicate (n - l.length) 0

/-- An n-byte little-endian field of a byte string. -/
def fieldAt (bs : List Byte) (off n : Nat) : Nat := leNat (bytesAt bs off n)

/-- Bits [lo + width - 1 : lo] of a number (R5). -/
def bitsOf (v lo width : Nat) : Nat := (v >>> lo) % 2 ^ width

/-- Bit n of a number. -/
def bitOf (v n : Nat) : Bool := bitsOf v n 1 == 1

/-- A sum that saturates at a bound. -/
def satAdd (bound a b : Nat) : Nat := min bound (a + b)

/-- Bytes are all zero. -/
def allZero (bs : List Byte) : Bool := bs.all (fun b => b == 0)

/-- ⌈a / b⌉. -/
def ceilDiv (a b : Nat) : Nat := (a + b - 1) / b

end Sys2Proof
end

