-- ==== Sys2Proof/Machine/Numbers.lean ====
section
/-! DEFINITION. Exact values and the element formats of the spec's file 06 (R154–R158): what a code means, and which
code a representable value has. -/

namespace Sys2Proof.Machine

/-- An exact value of the arithmetic: a signed zero, a nonzero finite rational, an infinity, or a NaN (R157: payloads
are not carried). -/
inductive Num where
  | zero (neg : Bool)
  | fin (q : Rat)
  | inf (neg : Bool)
  | nan
  deriving DecidableEq, Repr

/-- The rational as an exact value; a zero takes the given sign. -/
def Num.ofRat (q : Rat) (neg : Bool) : Num := if q = 0 then .zero neg else .fin q

/-- The sign of a value; a NaN has none. -/
def Num.neg? : Num → Bool
  | .zero n => n
  | .fin q => decide (q < 0)
  | .inf n => n
  | .nan => false

/-- The value with its sign turned. -/
def Num.negate : Num → Num
  | .zero n => .zero (!n)
  | .fin q => .fin (-q)
  | .inf n => .inf (!n)
  | .nan => .nan

/-- The magnitude of a value. -/
def Num.abs : Num → Num
  | .zero _ => .zero false
  | .fin q => .fin (if q < 0 then -q else q)
  | .inf _ => .inf false
  | .nan => .nan

/-- The rational of a finite value; zero for the rest. -/
def Num.rat : Num → Rat
  | .fin q => q
  | _ => 0

/-- The value is a zero or a finite rational. -/
def Num.finite : Num → Bool
  | .zero _ => true
  | .fin _ => true
  | _ => false

/-- The value is a zero. -/
def Num.isZero : Num → Bool
  | .zero _ => true
  | _ => false

/-- Exact product (R191, R192): an infinity times zero is NaN. -/
def Num.mul : Num → Num → Num
  | .nan, _ => .nan
  | _, .nan => .nan
  | .inf _, .zero _ => .nan
  | .zero _, .inf _ => .nan
  | .inf a, y => .inf (a != y.neg?)
  | x, .inf b => .inf (x.neg? != b)
  | .zero a, y => .zero (a != y.neg?)
  | x, .zero b => .zero (x.neg? != b)
  | .fin p, .fin q => .ofRat (p * q) false

/-- Exact sum of two values (R192): infinities of opposite sign give NaN; an exact zero is −0 only when both terms
are −0. -/
def Num.add : Num → Num → Num
  | .nan, _ => .nan
  | _, .nan => .nan
  | .inf a, .inf b => if a = b then .inf a else .nan
  | .inf a, _ => .inf a
  | _, .inf b => .inf b
  | .zero a, .zero b => .zero (a && b)
  | .zero _, y => y
  | x, .zero _ => x
  | .fin p, .fin q => .ofRat (p + q) false

/-- Exact difference. -/
def Num.sub (x y : Num) : Num := x.add y.negate

/-- The exact sum of a list of terms under R192; the empty sum is +0. -/
def Num.sum : List Num → Num
  | [] => .zero false
  | x :: xs => xs.foldl Num.add x

/-- x ≤ y on values that are no NaN; −0 lies below +0 (R216: max(+0, −0) = +0). -/
def Num.le : Num → Num → Bool
  | .inf true, _ => true
  | _, .inf false => true
  | .inf false, _ => false
  | _, .inf true => false
  | .zero a, .zero b => a || !b
  | x, y => decide (x.rat ≤ y.rat)

/-- max of R216; a NaN operand gives NaN. -/
def Num.max (x y : Num) : Num :=
  match x, y with
  | .nan, _ => .nan
  | _, .nan => .nan
  | _, _ => if x.le y then y else x

/-- min of R216; a NaN operand gives NaN. -/
def Num.min (x y : Num) : Num :=
  match x, y with
  | .nan, _ => .nan
  | _, .nan => .nan
  | _, _ => if x.le y then x else y

/-- 2 to an integer power. -/
def pow2 (e : Int) : Rat := if 0 ≤ e then ((2 ^ e.toNat : Nat) : Rat) else 1 / ((2 ^ (-e).toNat : Nat) : Rat)

/-- floor(log2 q) of a positive rational. -/
def flog2 (q : Rat) : Int :=
  let e : Int := (Nat.log2 q.num.natAbs : Int) - (Nat.log2 q.den : Int)
  if q < pow2 e then e - 1 else e

/-- The eleven element formats (R154). -/
inductive Fmt where
  | bf16 | fp16 | e4m3 | e5m2 | e3m2 | e2m3 | e2m1 | int8 | int4 | int2 | pair16
  deriving DecidableEq, Repr

/-- The format of a code; 0xB–0xF are reserved (R154). -/
def Fmt.ofCode : Nat → Option Fmt
  | 0 => some .bf16 | 1 => some .fp16 | 2 => some .e4m3 | 3 => some .e5m2 | 4 => some .e3m2 | 5 => some .e2m3
  | 6 => some .e2m1 | 7 => some .int8 | 8 => some .int4 | 9 => some .int2 | 10 => some .pair16 | _ => none

/-- The code of a format (R154). -/
def Fmt.code : Fmt → Nat
  | .bf16 => 0 | .fp16 => 1 | .e4m3 => 2 | .e5m2 => 3 | .e3m2 => 4 | .e2m3 => 5 | .e2m1 => 6 | .int8 => 7 | .int4 => 8
  | .int2 => 9 | .pair16 => 10

/-- Bits of one element (R154). -/
def Fmt.bits : Fmt → Nat
  | .bf16 => 16 | .fp16 => 16 | .e4m3 => 8 | .e5m2 => 8 | .e3m2 => 6 | .e2m3 => 6 | .e2m1 => 4 | .int8 => 8 | .int4 => 4
  | .int2 => 2 | .pair16 => 32

/-- Mantissa bits of a floating-point format (R154); 0 for the integer formats. -/
def Fmt.mant : Fmt → Nat
  | .bf16 => 7 | .fp16 => 10 | .e4m3 => 3 | .e5m2 => 2 | .e3m2 => 2 | .e2m3 => 3 | .e2m1 => 1 | .pair16 => 7 | _ => 0

/-- Bias of a floating-point format (R154). -/
def Fmt.bias : Fmt → Int
  | .bf16 => 127 | .fp16 => 15 | .e4m3 => 7 | .e5m2 => 15 | .e3m2 => 3 | .e2m3 => 1 | .e2m1 => 1 | .pair16 => 127 | _ => 0

/-- Exponent bits of a floating-point format. -/
def Fmt.expBits : Fmt → Nat
  | .bf16 => 8 | .fp16 => 5 | .e4m3 => 4 | .e5m2 => 5 | .e3m2 => 3 | .e2m3 => 2 | .e2m1 => 2 | .pair16 => 8 | _ => 0

/-- The format is an integer format. -/
def Fmt.isInt : Fmt → Bool
  | .int8 => true | .int4 => true | .int2 => true | _ => false

/-- Width class of R119 and R154: 0 16-bit, 1 8-bit, 2 6-bit, 3 4-bit (as MXA_STATUS.CLASS codes it). -/
def Fmt.cls : Fmt → Nat
  | .bf16 => 0 | .fp16 => 0 | .pair16 => 0 | .e4m3 => 1 | .e5m2 => 1 | .int8 => 1 | .e3m2 => 2 | .e2m3 => 2 | .e2m1 => 3
  | .int4 => 3 | .int2 => 3

/-- Block scaling is always used with the format (R154). -/
def Fmt.blockAlways : Fmt → Bool
  | .e3m2 => true | .e2m3 => true | .e2m1 => true | _ => false

/-- Block scaling is possible with the format (R154). -/
def Fmt.blockMay : Fmt → Bool
  | .e4m3 => true | .e5m2 => true | f => f.blockAlways

/-- The largest finite value (R156); the top of the range of an integer format. -/
def Fmt.maxFin : Fmt → Rat
  | .bf16 => (2 - 1 / 128) * pow2 127
  | .fp16 => 65504
  | .e4m3 => 448
  | .e5m2 => 57344
  | .e3m2 => 28
  | .e2m3 => 15 / 2
  | .e2m1 => 6
  | .int8 => 127
  | .int4 => 7
  | .int2 => 1
  | .pair16 => (2 - 1 / 128) * pow2 127

/-- emax of R156. -/
def Fmt.emax : Fmt → Int
  | .bf16 => 127 | .fp16 => 15 | .e4m3 => 8 | .e5m2 => 15 | .e3m2 => 4 | .e2m3 => 2 | .e2m1 => 2 | .pair16 => 127 | _ => 0

/-- The value of a floating-point code before the special codes of R156 (R155). -/
def Fmt.decodeFloat (f : Fmt) (c : Nat) : Num :=
  let m := f.mant
  let s := bitOf c (f.bits - 1)
  let e := bitsOf c m f.expBits
  let fr := bitsOf c 0 m
  let mag : Rat :=
    if e = 0 then pow2 (1 - f.bias) * (fr : Rat) / ((2 ^ m : Nat) : Rat)
    else pow2 ((e : Int) - f.bias) * (1 + (fr : Rat) / ((2 ^ m : Nat) : Rat))
  if mag = 0 then .zero s else .fin (if s then -mag else mag)

/-- The value of a two's-complement code of w bits. -/
def signed (w c : Nat) : Int := if bitOf c (w - 1) then (c : Int) - (2 ^ w : Nat) else (c : Int)

/-- The value of one element code of at most 16 bits (R155, R156). -/
def Fmt.decode16 (f : Fmt) (c : Nat) : Num :=
  let e := bitsOf c f.mant f.expBits
  let fr := bitsOf c 0 f.mant
  match f with
  | .int8 => .ofRat (signed 8 c : Rat) false
  | .int4 => .ofRat (signed 4 c : Rat) false
  | .int2 => .ofRat (signed 2 c : Rat) false
  | .bf16 | .fp16 | .e5m2 | .pair16 =>
    if e = 2 ^ f.expBits - 1 then (if fr = 0 then .inf (bitOf c (f.bits - 1)) else .nan) else f.decodeFloat c
  | .e4m3 => if e = 15 && fr = 7 then .nan else f.decodeFloat c
  | _ => f.decodeFloat c

/-- The two parts of a PAIR16 code (R158). -/
def pairParts (c : Nat) : Num × Num := (Fmt.decode16 .bf16 (c % 65536), Fmt.decode16 .bf16 (c / 65536 % 65536))

/-- The value of one element code; PAIR16 is the exact sum of its parts (R158). -/
def Fmt.decode (f : Fmt) (c : Nat) : Num :=
  match f with
  | .pair16 => let p := pairParts c; p.1.add p.2
  | _ => f.decode16 c

/-- The canonical NaN of a format (R156); 0 where the format has none (R180 writes 0 for a NaN in an integer). -/
def Fmt.nanCode : Fmt → Nat
  | .bf16 => 0x7FC0 | .fp16 => 0x7E00 | .e4m3 => 0x7F | .e5m2 => 0x7E | .pair16 => 0x7FC0 | _ => 0

/-- The code of an infinity; only BF16, FP16, E5M2 and PAIR16 have one (R156). -/
def Fmt.infCode (f : Fmt) (neg : Bool) : Nat :=
  let base := match f with
    | .bf16 => 0x7F80 | .fp16 => 0x7C00 | .e5m2 => 0x7C | .pair16 => 0x7F80 | _ => 0
  if neg then base + (match f with | .bf16 | .fp16 | .pair16 => 0x8000 | .e5m2 => 0x80 | _ => 0) else base

/-- The code of a value that the format holds exactly, of at most 16 bits (R155). -/
def Fmt.codeOf (f : Fmt) (x : Num) : Nat :=
  if f.isInt then
    let v := x.rat.floor
    (v % ((2 ^ f.bits : Nat) : Int)).toNat
  else
    let sgn := if x.neg? then 2 ^ ((if f = .pair16 then 16 else f.bits) - 1) else 0
    match x with
    | .nan => f.nanCode
    | .inf n => f.infCode n
    | .zero _ => sgn
    | .fin q =>
      let a := if q < 0 then -q else q
      let e := max (flog2 a) (1 - f.bias)
      let k := (a / pow2 (e - f.mant)).floor.toNat
      sgn + (if k < 2 ^ f.mant then k else (e + f.bias).toNat * 2 ^ f.mant + (k - 2 ^ f.mant))

end Sys2Proof.Machine
end

