-- ==== Sys2Proof/Machine/Rounding.lean ====
section
/-! DEFINITION. Rounding, the generator of stochastic rounding, conversions, SUM40 and pair sums, the choice of block
scales, and the exact real functions of the vector engine (files 06, 07 and R212 of 08). -/

namespace Sys2Proof.Machine

/-- Rounding modes (R183); SR carries the element's random bits u. -/
inductive RMode where
  | rne
  | sr (u : Nat)
  deriving DecidableEq, Repr

/-- mix of R187, on 64-bit unsigned values. -/
def mix (z : BitVec 64) : BitVec 64 :=
  let z := (z ^^^ (z >>> 31)) * 0xA3B195D44E7C2F59#64
  let z := (z ^^^ (z >>> 29)) * 0x8CB92BA72F3D8DD7#64
  z ^^^ (z >>> 32)

/-- srbits of R187: the 32 random bits of one written value. -/
def srbits (seed : BitVec 64) (tid i j e : Nat) : Nat :=
  let h := mix (seed ^^^ 0x5D1F0A37C4E9B263#64)
  let h := mix (h ^^^ BitVec.ofNat 64 (i * 2 ^ 32 + j % 2 ^ 32))
  let h := mix (h ^^^ BitVec.ofNat 64 (tid * 2 ^ 32 + e % 2 ^ 32))
  (h >>> 32).toNat

/-- Rounding of a magnitude on a grid of step ulp (R184). -/
def roundGrid (a ulp : Rat) (mode : RMode) : Rat :=
  let k := (a / ulp).floor
  let lo : Rat := k * ulp
  let hi := lo + ulp
  if a = lo then lo
  else match mode with
    | .rne =>
      let d := a - lo
      if d < ulp / 2 then lo else if ulp / 2 < d then hi else if k % 2 = 0 then lo else hi
    | .sr u => if u < ((a - lo) / ulp * 4294967296).floor.toNat then hi else lo

/-- round of R184 onto a floating-point grid of m mantissa bits and least exponent emin. -/
def roundFloat (m : Nat) (emin : Int) (mode : RMode) (q : Rat) : Num :=
  let neg := decide (q < 0)
  let a := if q < 0 then -q else q
  if a = 0 then .zero neg
  else
    let e := max (flog2 a) emin
    let r := roundGrid a (pow2 (e - m)) mode
    if r = 0 then .zero neg else .fin (if neg then -r else r)

/-- round(x, fmt, mode) of R184, for a finite nonzero x. -/
def roundTo (f : Fmt) (mode : RMode) (q : Rat) : Num :=
  if f.isInt then
    let neg := decide (q < 0)
    let a := if q < 0 then -q else q
    let r := roundGrid a 1 mode
    if r = 0 then .zero neg else .fin (if neg then -r else r)
  else roundFloat f.mant (1 - f.bias) mode q

/-- What a write of one element gives: its code and whether a finite value was saturated, or a NaN or infinity written
(the counters of R177). -/
structure Written where
  code      : Nat
  saturated : Bool
  nonfinite : Bool
  deriving DecidableEq, Repr

/-- The written element for a magnitude beyond the largest finite value (R180). -/
def overflowCode (f : Fmt) (neg : Bool) : Written :=
  match f with
  | .bf16 | .fp16 => ⟨f.infCode neg, false, true⟩
  | .pair16 => ⟨f.infCode neg, false, true⟩
  | .int8 | .int4 | .int2 => ⟨f.codeOf (.fin (if neg then -(f.maxFin + 1) else f.maxFin)), true, false⟩
  | _ => ⟨f.codeOf (.fin (if neg then -f.maxFin else f.maxFin)), true, false⟩

/-- The written element for an infinity (R180), which the total of saturated elements does not count (R177). -/
def infinityCode (f : Fmt) (neg : Bool) : Written :=
  match f with
  | .bf16 | .fp16 | .e5m2 | .pair16 => ⟨f.infCode neg, false, true⟩
  | .e4m3 => ⟨f.nanCode, false, true⟩
  | _ => { overflowCode f neg with saturated := false }

/-- A rounded value lies beyond the format's range. -/
def outOfRange (f : Fmt) (r : Rat) : Bool :=
  if f.isInt then decide (f.maxFin < r) || decide (r < -(f.maxFin + 1))
  else decide (f.maxFin < (if r < 0 then -r else r))

/-- Conversion of a finite nonzero exact value into PAIR16 (R181). -/
def pairOf (mode : RMode) (q : Rat) : Written :=
  match roundTo .bf16 .rne q with
  | .fin h =>
    if outOfRange .bf16 h then overflowCode .pair16 (decide (q < 0))
    else
      let d := q - h
      let lo := if d = 0 then 0 else Fmt.codeOf .bf16 (roundTo .bf16 mode d)
      ⟨Fmt.codeOf .bf16 (.fin h) + 65536 * lo, false, false⟩
  | z =>
    let lo := Fmt.codeOf .bf16 (roundTo .bf16 mode q)
    ⟨Fmt.codeOf .bf16 z + 65536 * lo, false, false⟩

/-- Conversion of an exact value into a format without block scaling (R178, R180, R181). -/
def convertTo (f : Fmt) (mode : RMode) (x : Num) : Written :=
  match x with
  | .nan => ⟨f.nanCode, false, !f.isInt⟩
  | .inf n => infinityCode f n
  | .zero n => if f.isInt then ⟨0, false, false⟩ else ⟨f.codeOf (.zero n), false, false⟩
  | .fin q =>
    match f with
    | .pair16 => pairOf mode q
    | _ =>
      match roundTo f mode q with
      | .fin r => if outOfRange f r then overflowCode f (decide (q < 0)) else ⟨f.codeOf (.fin r), false, false⟩
      | z => if f.isInt then ⟨0, false, false⟩ else ⟨f.codeOf z, false, false⟩

/-- rne40: rounding into SUM40 (R190); beyond its largest exponent the value is infinite. -/
def rne40 (x : Num) : Num :=
  match x with
  | .fin q =>
    match roundFloat 39 (-1022) .rne q with
    | .fin r => if pow2 1024 ≤ (if r < 0 then -r else r) then .inf (decide (r < 0)) else .fin r
    | z => z
  | y => y

/-- A running sum: single (low part +0) or a pair (R194). -/
structure Sum where
  hi    : Num
  lo    : Num
  /-- no term has entered yet (R123: no starting zero is a term) -/
  empty : Bool
  deriving DecidableEq, Repr

/-- The sum before any term. -/
def Sum.start : Sum := ⟨.zero false, .zero false, true⟩

/-- pair_add of R196. Where every term so far is −0 the sum stays −0 (R192): the low part +0 is no term. -/
def pairAdd (sh sl x : Num) : Num × Num :=
  if sh = .zero true ∧ sl.isZero ∧ x = .zero true then (.zero true, .zero false)
  else
  let t := rne40 (sh.add x)
  if t.finite = false then (t, .zero false)
  else
    let d := (sh.add x).sub t
    let v := rne40 (sl.add d)
    let n := rne40 (t.add v)
    if n.finite = false then (n, .zero false) else (n, rne40 ((t.add v).sub n))

/-- A chunk sum, rounded into SUM40, is added to the running sum (R191, R196). -/
def Sum.addChunk (pair : Bool) (s : Sum) (x : Num) : Sum :=
  if s.empty then ⟨x, .zero false, false⟩
  else if pair then let p := pairAdd s.hi s.lo x; ⟨p.1, p.2, false⟩
  else ⟨rne40 (s.hi.add x), .zero false, false⟩

/-- The exact value of a running sum at write-out (R197): an exact zero keeps the sign of the high part, whose low
part +0 is no term of R192. -/
def Sum.value (s : Sum) : Num := if s.lo.isZero then s.hi else s.hi.add s.lo

/-! ### Block scales (R163–R175) -/

/-- The multiplier of a scale code, for the codes 0x01–0xFE (R163). -/
def scaleOf (code : Nat) : Rat := pow2 ((code : Int) - 127)

/-- An element under its scale code (R163, R164). -/
def scaled (code : Nat) (x : Num) : Num :=
  if code = 0 then .zero false
  else if code = 255 then .nan
  else match x with
    | .fin q => .fin (q * scaleOf code)
    | y => y

/-- One encoding of a block: its scale code, its element codes, how many elements vanished, whether one saturated. -/
structure BlockEnc where
  scale     : Nat
  codes     : List Nat
  vanished  : Nat
  saturated : Nat
  deriving DecidableEq, Repr

/-- encode of R169 over finite values, each with its rounding mode. -/
def encodeBlock (f : Fmt) (vs : List (Num × RMode)) : BlockEnc :=
  let amax := vs.foldl (fun a v => max a (let q := v.1.rat; if q < 0 then -q else q)) 0
  if amax = 0 then ⟨0, vs.map (fun _ => 0), 0, 0⟩
  else
    let E0 := flog2 amax - f.emax
    let E := if f.maxFin * pow2 E0 < amax then E0 + 1 else E0
    let code := (max 1 (min 254 (E + 127))).toNat
    let S := scaleOf code
    let one := fun (v : Num × RMode) =>
      match v.1 with
      | .fin q =>
        let r := roundTo f v.2 (q / S)
        let big := decide (f.maxFin < (let t := r.rat; if t < 0 then -t else t))
        let r' := if big then Num.fin (if q < 0 then -f.maxFin else f.maxFin) else r
        (f.codeOf r', r'.isZero, big)
      | z => (f.codeOf z, false, false)
    let l := vs.map one
    ⟨code, l.map (·.1), (l.filter (·.2.1)).length, (l.filter (·.2.2)).length⟩

/-- A written block: its two scale bytes (the second used when SPLIT = 1), its codes, and what R174 to R177 count. -/
structure BlockOut where
  byte0     : Nat
  byte1     : Nat
  codes     : List Nat
  vanished  : Nat
  split     : Bool
  saturated : Nat
  nonfinite : Bool
  deriving DecidableEq, Repr

/-- One block as an engine writes it (R169–R173): blockLen is B, of which a partial block holds fewer values. -/
def writeBlock (f : Fmt) (splitLayout : Bool) (blockLen : Nat) (vs : List (Num × RMode)) : BlockOut :=
  if vs.any (fun v => v.1.finite = false) then ⟨255, 0, vs.map (fun _ => 0), 0, false, 0, true⟩
  else if vs.all (fun v => v.1.isZero) then ⟨0, 0, vs.map (fun _ => 0), 0, false, 0, false⟩
  else
    let u := encodeBlock f vs
    if splitLayout then
      let a := encodeBlock f (vs.take (blockLen / 2))
      let b := encodeBlock f (vs.drop (blockLen / 2))
      if a.vanished + b.vanished < u.vanished then
        ⟨a.scale, b.scale, a.codes ++ b.codes, a.vanished + b.vanished, true, a.saturated + b.saturated, false⟩
      else ⟨u.scale, 0, u.codes, u.vanished, false, u.saturated, false⟩
    else ⟨u.scale, 0, u.codes, u.vanished, false, u.saturated, false⟩

/-- The scale code over element t of a block, from the block's entry (R168). -/
def entryScale (splitLayout : Bool) (byte0 byte1 blockLen t : Nat) : Nat :=
  if splitLayout && byte1 != 0 && decide (blockLen / 2 ≤ t) then byte1 else byte0

/-! ### Exact real functions (R212)

A function value is an exact real. It is enclosed in intervals of rising precision until both ends round alike; since
no such value of a rational argument is a rounding boundary unless it is exact, some precision decides (log entry 20
says what the model does when the last precision does not). -/

/-- A closed interval; both ends are scaled by 2^p for the precision p at hand. -/
structure Ivl where
  lo : Int
  hi : Int
  deriving DecidableEq, Repr

/-- Floor division by 2^p. -/
def shrF (x : Int) (p : Nat) : Int := x / ((2 ^ p : Nat) : Int)
/-- Ceiling division by 2^p. -/
def shrC (x : Int) (p : Nat) : Int := -((-x) / ((2 ^ p : Nat) : Int))

def Ivl.add (a b : Ivl) : Ivl := ⟨a.lo + b.lo, a.hi + b.hi⟩
def Ivl.neg (a : Ivl) : Ivl := ⟨-a.hi, -a.lo⟩
def Ivl.mul (p : Nat) (a b : Ivl) : Ivl :=
  let w := a.lo * b.lo; let x := a.lo * b.hi; let y := a.hi * b.lo; let z := a.hi * b.hi
  ⟨shrF (min (min w x) (min y z)) p, shrC (max (max w x) (max y z)) p⟩
/-- Quotient by a positive natural. -/
def Ivl.divNat (a : Ivl) (n : Nat) : Ivl := ⟨a.lo / (n : Int), -((-a.hi) / (n : Int))⟩
/-- Quotient by an interval of positive ends. -/
def Ivl.div (p : Nat) (a b : Ivl) : Ivl :=
  let s : Int := ((2 ^ p : Nat) : Int)
  let q := fun (x y : Int) => (x * s) / y
  let r := fun (x y : Int) => -((-(x * s)) / y)
  ⟨min (q a.lo b.lo) (q a.lo b.hi), max (r a.hi b.lo) (r a.hi b.hi)⟩
/-- The tightest interval around a rational. -/
def Ivl.ofRat (p : Nat) (q : Rat) : Ivl :=
  let n := q.num * ((2 ^ p : Nat) : Int)
  ⟨n / (q.den : Int), -((-n) / (q.den : Int))⟩

/-- Integer square root by binary digits: the largest r with r² ≤ n, for n < 4^k. -/
def isqrt : Nat → Nat → Nat
  | 0, _ => 0
  | k + 1, n =>
    let r := 2 * isqrt k (n / 4)
    if (r + 1) * (r + 1) ≤ n then r + 1 else r

/-- Square root of a nonnegative rational. -/
def Ivl.sqrtRat (p : Nat) (q : Rat) : Ivl :=
  let n := q.num.toNat * 4 ^ p / q.den
  let r := isqrt (Nat.log2 (n + 1) / 2 + 2) n
  ⟨(r : Int), (r : Int) + 1⟩

/-- The Taylor sum of exp on an interval of |r| ≤ 1/2, n terms, widened by the remainder. -/
def Ivl.expSmall (p : Nat) (r : Ivl) : Nat → Nat → Ivl → Ivl → Ivl
  | 0, _, _, acc => ⟨acc.lo - 2, acc.hi + 2⟩
  | n + 1, k, term, acc =>
    let t := (Ivl.mul p term r).divNat k
    Ivl.expSmall p r n (k + 1) t (acc.add t)

/-- Repeated squaring. -/
def Ivl.squares (p : Nat) : Nat → Ivl → Ivl
  | 0, x => x
  | n + 1, x => Ivl.squares p n (Ivl.mul p x x)

/-- exp of a rational; beyond ±1,000 only its order is kept. -/
def Ivl.exp (p : Nat) (q : Rat) : Ivl :=
  let one : Int := ((2 ^ p : Nat) : Int)
  if 1000 < q then ⟨one * ((2 ^ 1400 : Nat) : Int), one * ((2 ^ 1401 : Nat) : Int)⟩
  else if q < -1000 then ⟨0, 1⟩
  else
    let k := 11
    let r := Ivl.ofRat p (q / 2048)
    Ivl.squares p k (Ivl.expSmall p r (p / 2 + 8) 1 ⟨one, one⟩ ⟨one, one⟩)

/-- exp of an interval. -/
def Ivl.expI (p : Nat) (x : Ivl) : Ivl :=
  let s : Rat := ((2 ^ p : Nat) : Rat)
  ⟨(Ivl.exp p (x.lo / s)).lo, (Ivl.exp p (x.hi / s)).hi⟩

/-- Σ t^(2k+1)/(2k+1) of a rational |t| ≤ 1/3, with alternating signs for the arc tangent. -/
def Ivl.odd (p : Nat) (t2 : Ivl) (alt : Bool) : Nat → Nat → Ivl → Ivl → Ivl
  | 0, _, _, acc => ⟨acc.lo - 2, acc.hi + 2⟩
  | n + 1, k, pw, acc =>
    let term := pw.divNat k
    let nx := Ivl.mul p pw t2
    Ivl.odd p t2 alt n (k + 2) (if alt then nx.neg else nx) (acc.add term)

/-- The inverse hyperbolic tangent, or the arc tangent, of a rational |t| ≤ 1/3. -/
def Ivl.atan (p : Nat) (alt : Bool) (t : Rat) : Ivl :=
  let x := Ivl.ofRat p t
  Ivl.odd p (Ivl.mul p x x) alt (p / 3 + 8) 1 x ⟨0, 0⟩

/-- Natural logarithm of a positive rational. -/
def Ivl.ln (p : Nat) (q : Rat) : Ivl :=
  let e := flog2 q
  let m := q / pow2 e
  let l2 := Ivl.atan p false (1 / 3)
  let lm := Ivl.atan p false ((m - 1) / (m + 1))
  let twice := fun (x : Ivl) => x.add x
  let es : Ivl := if 0 ≤ e then ⟨e * (twice l2).lo, e * (twice l2).hi⟩ else ⟨e * (twice l2).hi, e * (twice l2).lo⟩
  es.add (twice lm)

/-- The circle constant, by Machin's formula. -/
def Ivl.pi (p : Nat) : Ivl :=
  let a := Ivl.atan p true (1 / 5)
  let b := Ivl.atan p true (1 / 239)
  ⟨16 * a.lo - 4 * b.hi, 16 * a.hi - 4 * b.lo⟩

/-- Σ x^(2k+1)/(1·3·…·(2k+1)) for 0 ≤ x, n terms. -/
def Ivl.gaussSum (p : Nat) (x2 : Ivl) : Nat → Nat → Ivl → Ivl → Ivl
  | 0, _, _, acc => ⟨acc.lo, acc.hi + 2⟩
  | n + 1, k, term, acc =>
    Ivl.gaussSum p x2 n (k + 2) ((Ivl.mul p term x2).divNat (k + 2)) (acc.add term)

/-- Φ of a rational |x| ≤ 20: 1/2 ± φ(x) Σ …, by the series whose terms are all positive. -/
def Ivl.phi (p : Nat) (q : Rat) : Ivl :=
  let one : Int := ((2 ^ p : Nat) : Int)
  let a := if q < 0 then -q else q
  let x := Ivl.ofRat p a
  let s := Ivl.gaussSum p (Ivl.mul p x x) (p + 1200) 1 x ⟨0, 0⟩
  let twoPi := let t := Ivl.pi p; t.add t
  let root := let r := isqrt (p + 4) ((twoPi.lo * one).toNat); (⟨(r : Int) - 1, (r : Int) + 2⟩ : Ivl)
  let dens := Ivl.div p (Ivl.exp p (-(a * a) / 2)) root
  let t := Ivl.mul p dens s
  let half := one / 2
  if q < 0 then ⟨half - t.hi, half - t.lo⟩ else ⟨half + t.lo, half + t.hi⟩

/-- The real-valued functions of R217 and of R219 to R221, of a rational argument where they are not rational. -/
inductive RealFn where
  | exp (q : Rat)
  | ln (q : Rat)
  | sqrt (q : Rat)
  | rsqrt (q : Rat)
  | tanh (q : Rat)
  | sigmoid (q : Rat)
  | gelu (q : Rat)
  | silu (q : Rat)
  /-- w − lr × (c × m ÷ (√v + eps) + d × w), the ADAMW expression of R221 -/
  | adamw (w lr cm v eps dw : Rat)
  deriving DecidableEq, Repr

/-- An interval around the function value at precision p. -/
def RealFn.encl (p : Nat) : RealFn → Ivl
  | .exp q => Ivl.exp p q
  | .ln q => Ivl.ln p q
  | .sqrt q => Ivl.sqrtRat p q
  | .rsqrt q => Ivl.sqrtRat p (1 / q)
  | .tanh q =>
    let one : Int := ((2 ^ p : Nat) : Int)
    let a := if q < 0 then -q else q
    let e := Ivl.exp p (-2 * a)
    let t := Ivl.div p ⟨one - e.hi, one - e.lo⟩ ⟨one + e.lo, one + e.hi⟩
    if q < 0 then t.neg else t
  | .sigmoid q =>
    let one : Int := ((2 ^ p : Nat) : Int)
    if q < 0 then
      let e := Ivl.exp p q
      Ivl.div p e ⟨one + e.lo, one + e.hi⟩
    else
      let e := Ivl.exp p (-q)
      Ivl.div p ⟨one, one⟩ ⟨one + e.lo, one + e.hi⟩
  | .gelu q =>
    let one : Int := ((2 ^ p : Nat) : Int)
    if 20 < q then Ivl.mul p (Ivl.ofRat p q) ⟨one - 1, one⟩
    else if q < -20 then ⟨-1, 0⟩
    else Ivl.mul p (Ivl.ofRat p q) (Ivl.phi p q)
  | .silu q =>
    let one : Int := ((2 ^ p : Nat) : Int)
    if q < 0 then
      let e := Ivl.exp p q
      Ivl.mul p (Ivl.ofRat p q) (Ivl.div p e ⟨one + e.lo, one + e.hi⟩)
    else
      let e := Ivl.exp p (-q)
      Ivl.mul p (Ivl.ofRat p q) (Ivl.div p ⟨one, one⟩ ⟨one + e.lo, one + e.hi⟩)
  | .adamw w lr cm v eps dw =>
    let r := Ivl.sqrtRat p v
    let d := r.add (Ivl.ofRat p eps)
    let t := Ivl.div p (Ivl.ofRat p cm) d
    let u := Ivl.mul p (Ivl.ofRat p lr) (t.add (Ivl.ofRat p dw))
    (Ivl.ofRat p w).add u.neg

/-- The precisions tried, in bits. -/
def precisions : List Nat := [128, 512, 2048, 4096]

/-- A function value put through a rounding g: the first precision whose ends round alike decides. -/
def RealFn.decide {α : Type} [DecidableEq α] (f : RealFn) (g : Rat → α) : List Nat → α
  | [] =>
    let x := f.encl 4096
    g ((x.lo + x.hi : Int) / (2 * (2 ^ 4096 : Nat) : Rat))
  | p :: ps =>
    let x := f.encl p
    let s : Rat := ((2 ^ p : Nat) : Rat)
    let a := g (x.lo / s)
    if a = g (x.hi / s) then a else RealFn.decide f g ps

/-- A value before its one rounding: an exact rational or special value, or a real function value. -/
inductive Exact where
  | num (x : Num)
  | real (f : RealFn)
  deriving DecidableEq, Repr

/-- The rational square root of a rational that is a square. -/
def ratSqrt (q : Rat) : Option Rat :=
  let r := fun n => isqrt (Nat.log2 (n + 1) / 2 + 2) n
  let a := r q.num.toNat
  let b := r q.den
  if a * a = q.num.toNat && b * b = q.den then some ((a : Rat) / (b : Rat)) else none

/-- A function value, exact where it is rational at once. -/
def RealFn.value : RealFn → Exact
  | .exp q => if q = 0 then .num (.fin 1) else .real (.exp q)
  | .ln q => if q = 1 then .num (.zero false) else .real (.ln q)
  | .sqrt q => match ratSqrt q with | some r => .num (.ofRat r false) | none => .real (.sqrt q)
  | .rsqrt q => match ratSqrt q with | some r => .num (.ofRat (1 / r) false) | none => .real (.rsqrt q)
  | .adamw w lr cm v eps dw =>
    match ratSqrt v with
    | some r => .num (.ofRat (w - lr * (cm / (r + eps) + dw)) false)
    | none => .real (.adamw w lr cm v eps dw)
  | f => .real f

/-- The written element of a value (R178, R180, R212). A value that tends to zero keeps the sign given. -/
def Exact.convert (f : Fmt) (mode : RMode) (neg : Bool) : Exact → Written
  | .num x => convertTo f mode x
  | .real r => r.decide (fun q => convertTo f mode (Num.ofRat q neg)) precisions

/-- The value rounded into SUM40 (R212). -/
def Exact.rne40 : Exact → Num
  | .num x => Machine.rne40 x
  | .real r => r.decide (fun q => Machine.rne40 (Num.ofRat q false)) precisions

end Sys2Proof.Machine
end

