-- ==== Sys2Proof/Machine/Types.lean ====
section
/-! DEFINITION. The records that State and the commands are made of: plain data, one structure for each kind of unit the
spec gives state beyond its registers. -/

namespace Sys2Proof.Machine

/-- Network response codes (R59). -/
inductive Resp where
  | ok | dataErr | dataLost | homeAbsent | perm | xlate | ctxMismatch | timeout
  deriving DecidableEq, Repr

/-- Cache hints (R245, R329). -/
inductive Hint where
  | normal | stream | keep | last
  deriving DecidableEq, Repr

/-- The agents that send memory requests (R348, R398). -/
inductive Agent where
  | core (n : Nat)
  | mxa (a : Nat)
  | vxe (c : Nat)
  | spe (c : Nat)
  | mve (c : Nat)
  | tbe (g : Nat)
  | cde (g : Nat)
  | queueMgr (g : Nat)
  | htu
  | pcie (func : Nat)
  | fabric (d : Nat)
  | gx (p : Nat)
  | mgmt
  | home (h : Nat)
  deriving DecidableEq, Repr

/-- The privilege at which a Bosin core makes an access (R57). -/
inductive Level where
  | machine | supervisor | guest | user
  deriving DecidableEq, Repr

/-- Who makes a CTRL access (R56–R58). -/
inductive Who where
  | pf0
  | mgmt
  | core (n : CoreIx) (lvl : Level)
  | engine (part : PartIx)
  deriving DecidableEq, Repr

/-- Integer atomic operations (the A extension's, R376; the fabric's, file 15). -/
inductive AmoFn where
  | swap | add | xor | and | or | min | max | minu | maxu
  deriving DecidableEq, Repr

/-- What an ATOMIC does to its line (R201, R376): an integer operation on one naturally aligned operand, or
floating-point adds of the elements under the request's byte mask. -/
inductive AtomOp where
  | int (fn : AmoFn) (width : Nat)
  | fpAdd (fmt : Nat)
  deriving DecidableEq, Repr

/-- The requests a home takes (R352), and its own filter eviction (R358). -/
inductive ReqKind where
  | rdShared | rdUnique | upgrade | makeUnique | rdOnce | wrLine | wrPart
  | atomic (op : AtomOp)
  | evict
  deriving DecidableEq, Repr

/-- A request at a home. A non-caching request carries a party for the ownership checks (R562: none is a request the
device makes for PF0 or MGMT) and, where it is a context's, its context (R406). -/
structure Req where
  kind : ReqKind
  /-- line number: physical address, in local form, divided by 64 -/
  line : Nat
  src  : Agent
  tag  : Nat
  part : Option Nat
  ctx  : Option Nat
  hint : Hint
  data : Line
  /-- the bytes written; of a read the bytes asked for, 0 standing for the whole line -/
  mask : BitVec 64
  deriving DecidableEq, Repr

/-- Directory states kept in a filter entry (R354, R357); I and LOST are held by no entry. -/
inductive DirSt where
  | s | e | m
  deriving DecidableEq, Repr

/-- One snoop-filter entry (R357). -/
structure FiltEntry where
  line    : Nat
  st      : DirSt
  holders : List Nat
  deriving DecidableEq, Repr

/-- A request the home has open, waiting for snoop answers (R347, R355). -/
structure OpenReq where
  req   : Req
  waits : List Nat
  dirty : Option Line
  deriving DecidableEq, Repr

/-- A home: its filter in order of allocation, its open requests, the requests waiting in arrival order, the pages its
stamp filter shows (R341), the context-check entries it keeps (R408), whether it holds window requests (R318), the snoops of open
requests not yet sent (core, line, whether SNP_INV: R353), and the waiting requests that SF_WAIT has counted (R358). -/
structure HomeSt where
  filter : List FiltEntry
  opens  : List OpenReq
  queue  : List Req
  stamps : SMap (Nat × Nat)
  checks : SMap (BitVec 16)
  held   : Bool
  unsent : List (Nat × Nat × Bool)
  blocked : List Req
  deriving DecidableEq, Repr

/-- Messages in flight between homes and requesters (R352). -/
inductive NetMsg where
  | req (r : Req)
  | wbDirty (core line : Nat) (data : Line)
  | evictClean (core line : Nat)
  | lostNote (core line : Nat)
  | snpShare (core line : Nat)
  | snpInv (core line : Nat)
  | snpAck (core line : Nat)
  | snpData (core line : Nat) (data : Line)
  | grant (core line : Nat)
  | comp (dst : Agent) (line tag : Nat) (code : Resp)
  | data (dst : Agent) (line tag : Nat) (st : Option DirSt) (d : Line)
  deriving DecidableEq, Repr

/-- A line in a Bosin L2 (R356); unreadable is a dirty line the L2 reads as STALE or UNCORRECTABLE (R364). -/
structure L2Line where
  line : Nat
  st   : DirSt
  data : Line
  deriving DecidableEq, Repr

/-- A Bosin L2: lines, writeback buffers, its pending requests with their transaction numbers (R351), and whether it is dead (R361). -/
structure L2St where
  lines : List L2Line
  wb    : List (Nat × Line)
  pend  : List (Nat × ReqKind × Nat)
  dead  : Bool
  deriving DecidableEq, Repr

/-- An entry of a hart's store buffer (R374) or write-combining buffer (R375); ep counts the write-ordering FENCEs before it. -/
structure BufEntry where
  line : Nat
  data : Line
  mask : BitVec 64
  ep   : Nat
  deriving DecidableEq, Repr

/-- What an access gives the core: a value, nothing, or a precise exception (R356, R371, R377, R378). -/
inductive CoreResult where
  | none
  | value (v : Nat)
  | done
  | loadFault (addr : Nat)
  | storeFault (addr : Nat)
  | amoFault (addr : Nat)
  | misaligned (addr : Nat)
  | pageFault (addr : Nat)
  | stalled
  deriving DecidableEq, Repr

/-- What an access of a hart that waits is: a load, a store that has not retired, an AMO, LR or SC, a strict device load or store. -/
inductive WaitKind where
  | load | store | amo | strictLoad | strictStore
  deriving DecidableEq, Repr

/-- A hart: its buffers, the drained entries whose COMP is awaited, its reservation (R376), its last result, the accesses that
wait for an answer with their addresses and widths, the lines of them already answered, whether the youngest store takes no merge (R374), the write-ordering FENCEs so
far, and its power and run state (R505). -/
structure Hart where
  sb     : List BufEntry
  wc     : List BufEntry
  wcOut  : List BufEntry
  resv   : Option Nat
  result : CoreResult
  waits  : List (WaitKind × Nat × Nat)
  got    : List (Nat × Line)
  sealed : Bool
  epoch  : Nat
  gated  : Bool
  inReset : Bool
  pc     : Nat
  deriving DecidableEq, Repr

/-- An entry of an ATC (R402); size is the base-2 logarithm of the page. -/
structure AtcEntry where
  ctx  : Nat
  vpn  : Nat
  size : Nat
  ppn  : Nat
  r    : Bool
  w    : Bool
  am   : Bool
  a    : Bool
  d    : Bool
  deriving DecidableEq, Repr

/-- The right a request needs (R401). -/
inductive Right where
  | r | w | a
  deriving DecidableEq, Repr

/-- A request waiting for its translation: who waits (a tag of its agent) and what it needs. -/
structure XReq where
  cluster : Nat
  tag     : Nat
  need    : Right
  va      : Nat
  deriving DecidableEq, Repr

/-- A walk at the HTU: the context, the virtual page of the first request, and the requests merged (R399, R403); its
leaf once reached (level, PTE, PTE address), or none for a walk ended XLATE. -/
structure Walk where
  cluster : Nat
  ctx     : Nat
  vpage   : Nat
  reqs    : List XReq
  walked  : Bool
  leaf    : Option (Nat × Word × Nat)
  deriving DecidableEq, Repr

/-- An entry of the HTU's walk cache (R399): a context, the level of a non-leaf PTE, the virtual address above what that PTE covers,
and the table it names. -/
structure WalkEntry where
  ctx   : Nat
  level : Nat
  vpn   : Nat
  table : Nat
  deriving DecidableEq, Repr

/-- An MSI on its way to an interrupt file (R389): for which partition it is sent (none: MGMT), its address, its identity. -/
structure Msi where
  part : Option Nat
  addr : Nat
  id   : Nat
  deriving DecidableEq, Repr

/-- A pending page-request entry (R413): index and use count make PR_ID; when its record was written. -/
structure PrEntry where
  ix     : Nat
  uses   : Nat
  ctx    : Nat
  vpage  : Nat
  reqs   : List XReq
  written : Option Nat
  deriving DecidableEq, Repr

/-- The page-request side of a partition at the HTU: pending entries, uses of each index, requests waiting for an entry
(with the first request's failure: cause, level, PTE address), records waiting for the ring (entry index, bytes without
GEN), records written. -/
structure PrSt where
  entries : List PrEntry
  uses    : SMap Nat
  waiting : List (Nat × Nat × Nat × Nat × Nat × XReq)
  records : List (Nat × Nat × List Byte)
  deriving DecidableEq, Repr

/-- An invalidation in progress (R411). -/
structure InvSt where
  waitAtc : List Nat
  lo      : Nat
  len     : Option Nat
  ctx     : Option Nat
  deriving DecidableEq, Repr

/-- One 64-byte sector of an SC line (R327). -/
structure Sector where
  valid : Bool
  dirty : Bool
  bad   : Bool
  data  : Line
  deriving DecidableEq, Repr

/-- A line of an SC slice: channel, burst number in the channel, way, KEEP mark, its four sectors (R327, R329). -/
structure ScLine where
  chan : Nat
  blk  : Nat
  way  : Nat
  keep : Bool
  sec  : List Sector
  deriving DecidableEq, Repr

/-- A request merged in a miss register (R331). -/
structure ScReq where
  tag   : Nat
  write : Bool
  sector : Nat
  data  : Line
  mask  : BitVec 64
  hint  : Hint
  ctx   : Option Nat
  deriving DecidableEq, Repr

/-- A miss register: the line being fetched and its merged requests in order of arrival (R331). -/
structure MissReg where
  chan : Nat
  blk  : Nat
  reqs : List ScReq
  deriving DecidableEq, Repr

/-- A prefetch stream (R334): the next line it expects, its direction, its consecutive misses. -/
structure Stream where
  chan : Nat
  next : Nat
  down : Bool
  hits : Nat
  deriving DecidableEq, Repr

/-- An SC slice: lines most recent first, miss registers, requests waiting for one, prefetch side buffer, prefetches
in flight, streams, and the preload in progress with the ways powering down. -/
structure ScSt where
  lines    : List ScLine
  miss     : List MissReg
  waiting  : List (Nat × Nat × ScReq)
  buffer   : List (Nat × Nat × List Sector)
  pfOut    : List (Nat × Nat)
  pfDead   : List (Nat × Nat)
  streams  : List Stream
  preload  : List Nat
  downing  : List Nat
  hits     : SMap Nat
  misses   : Nat
  deriving DecidableEq, Repr

/-- Who asked a channel controller for a burst: an SC miss register, an SC prefetch, or another requester. -/
inductive ChSrc where
  | scFill | scPrefetch | other
  deriving DecidableEq, Repr

/-- A request in a reorder queue of a channel controller (R325): one 256-byte burst, the bytes it covers (bit i of mask is
byte i), the data of a write, who asked, and, for a read that the hot-page table counts (R343), for which partition,
which context, and whether a CDE asked; when it arrived, and its place in the order of arrivals at its controller. -/
structure ChReq where
  blk     : Nat
  write   : Bool
  data    : List Byte
  mask    : Nat
  tag     : Nat
  src     : ChSrc
  arrived : Nat
  part    : Option Nat
  ctx     : Nat
  cde     : Bool
  seq     : Nat
  deriving DecidableEq, Repr

/-- What a burst gave: its request, the response over the covered words, and its 32 words, each with whether it was
STALE or UNCORRECTABLE. -/
structure ChDone where
  req   : ChReq
  code  : Resp
  words : List (Bool × Word)
  deriving DecidableEq, Repr

/-- A channel controller beyond its registers (R315, R325, R326, R311): read and write queue in order of arrival, whether
it is serving writes, the open row of each bank, answers not yet taken, the word the scrub reads next, and, for a DIMM
controller, its fallback state (a T1 controller shows its own in CH_STATUS), its UNCORRECTABLE words of written units
(R323), its last temperature reading and the refresh rate it set (R319). Requests that wait for room in a queue stand in order of arrival;
the next arrival takes the number seq. -/
structure ChanSt where
  rdq      : List ChReq
  wrq      : List ChReq
  draining : Bool
  rows     : SMap Nat
  done     : List ChDone
  scrub    : Nat
  wrapped  : Bool
  fallback : Bool
  ue       : Nat
  temp     : Int
  refresh  : Nat
  held     : List ChReq
  seq      : Nat
  deriving DecidableEq, Repr

/-- The memory of the device: the listed cells in canonical form; the generation whose zero word an unlisted T1 word of
a channel holds (255 unless a full pass set another, R313, R314); the generations under which full passes of the scrub
have completed over each 1 GiB unit of HOSTMEM since power-on, oldest first. A cell's address is 16 × word + symbol
(R305): the memory holds the ten symbols of every code word. -/
structure Mem where
  cells  : List Host.Cell
  fill   : SMap Nat
  t2Pass : SMap (List Nat)
  deriving DecidableEq, Repr

/-- An entry of the hot-page table of a DIMM controller (R343). -/
structure HotEntry where
  page     : Nat
  count    : Nat
  notified : Bool
  deriving DecidableEq, Repr

/-- What a DIMM controller keeps for its notices: its hot table, keyed by set × 16 + way, and the notices it sent. -/
structure HotSt where
  table : SMap HotEntry
  seq   : Nat
  deriving DecidableEq, Repr

/-- A line held by a cluster cache, tagged by partition (R385). -/
structure CcLine where
  line : Nat
  part : Nat
  data : Line
  deriving DecidableEq, Repr

/-- A network message in a flit slot: its class, the line it concerns (R80), its 64 bytes (R72). -/
structure LinkMsg where
  cls  : Nat
  addr : Nat
  body : Line
  deriving DecidableEq, Repr

/-- A flit as sent: its SEQ and its valid slots (R72). -/
structure SentFlit where
  seq   : Nat
  slots : List (Nat × LinkMsg)
  deriving DecidableEq, Repr

/-- One end of a die-to-die link (R72–R82). As a sender: the SEQ of its next flit, the replay buffer, how many flits at its end are still
to be replayed, the credits of each class, the messages to be re-sent from a link that left service, whether the pair's list still
holds it although it left service, or does not yet although it entered. As a receiver: the last SEQ accepted, whether a NAK stands
and how often the flit it names was NAKed, credits to be returned, corrected errors of each physical lane in this window, messages
delivered. Of both: trainings so far, and the physical lane of each logical lane (R76). -/
structure LinkSt where
  nextSeq   : Nat
  replay    : List SentFlit
  again     : Nat
  credits   : List Nat
  resend    : List LinkMsg
  leaving   : Bool
  joining   : Bool
  lastAcc   : Nat
  naking    : Bool
  nakRun    : Nat
  due       : List Nat
  laneErr   : SMap Nat
  delivered : List LinkMsg
  trainings : Nat
  lanes     : List Nat
  deriving DecidableEq, Repr

/-- An entry of a GANG record (R99). -/
structure Gang where
  cluster : Nat
  arrays  : Nat
  shape   : Nat
  dissolved : Bool
  deriving DecidableEq, Repr

/-- The configuration in force of one partition: its PARTITION, GANG, TIER, POLICY and TARGET 3 FIRMWARE records. -/
structure PartRec where
  regions   : Nat
  groups    : Nat
  vault     : Bool
  aFromPte  : Bool
  nearBase  : Nat
  ctxBase   : Nat
  ctxCount  : Nat
  vf        : Nat
  gangs     : List Gang
  hostOff   : Nat
  hostSize  : Nat
  hotThreshold : Nat
  t2Compress : Bool
  td500     : Bool
  notice    : Bool
  policy    : List Byte
  loadAddr  : Nat
  entry     : Nat
  hasEntry  : Bool
  deriving DecidableEq, Repr

/-- A record of an image as parsed: type, scope, bytes (header included), index. -/
structure ImgRec where
  type  : Nat
  scope : Nat
  index : Nat
  bytes : List Byte
  deriving DecidableEq, Repr

/-- A spare entry in force (R102): kind and its seven bytes. -/
structure Spare where
  kind : Nat
  b1   : Nat
  b2   : Nat
  b3   : Nat
  b45  : Nat
  b6   : Nat
  deriving DecidableEq, Repr

/-- The fuses (R86): contents fixed at manufacture but for the floor, the revocation bits and the attestation bank. -/
structure Fuses where
  options   : Nat
  rollback  : Nat
  revoked   : Nat
  keyHash   : List Nat
  attNext   : Nat
  slots     : List Nat
  spares    : List Spare
  waves     : List (Nat × Nat)
  trim      : List Nat
  discId    : Nat
  capcBudget : Nat
  seed      : Nat
  deriving DecidableEq, Repr

/-- Start-up and reload (file 04): when the reset began; the slot being read (2: staging); the code of
the last slot that failed; the verified records of the full image, its serial, the hash of the key that verified it; which parts of
steps 5 and 6 have ended; and the reload: its
image's bytes and records, the core's partition that wrote GO, its target, whether its partition reset has been taken. -/
structure BootSt where
  start     : Nat
  slot      : Nat
  lastCode  : Nat
  records   : List ImgRec
  serial    : Nat
  keyHash   : List Byte
  stacksDone : Bool
  dimmsDone : Bool
  fwDone    : Bool
  reload    : List ImgRec
  reloadBytes : List Byte
  reloadErr : Option Nat
  reloadWho : Option Nat
  reloadPart : Option Nat
  reloadStage : Nat
  deriving DecidableEq, Repr

/-- A scale-plane header as read at the check of its descriptor (R165, R167): the offset of the field that names it. -/
structure ScaleHdr where
  field  : Nat
  addr   : Nat
  split  : Bool
  stride : Nat
  vanish : Nat
  deriving DecidableEq, Repr

/-- A (key, contributor) entry of a table in progress (R232). -/
structure PairEntry where
  key     : List Byte
  contrib : Nat
  rows    : Nat
  sums    : List Int
  deriving DecidableEq, Repr

/-- An event record to be written: code, DETAIL, ADDRESS (R277, R295). -/
structure EvRec where
  code    : Nat
  detail  : Nat
  address : Nat
  deriving DecidableEq, Repr

/-- An accepted descriptor (files 08 to 10). pos is its first position, 2^32 and more standing for a slot of a fallback list;
head is the position of the first member of its chain, its own outside a chain; members counts the chain's descriptors at that
first member. base is the lowest tile not finished and fin the finished tiles above it. status is how it ends, once that is
settled; stopped holds the status with which it ends when its started tiles have ended; queued once its record is due. -/
structure Desc where
  pos      : Nat
  bytes    : List Byte
  seed     : Word
  accepted : Nat
  head     : Nat
  members  : Nat
  tiles    : Nat
  issued   : Bool
  base     : Nat
  fin      : List Nat
  hdrs     : List ScaleHdr
  exp      : List Byte
  status   : Option Nat
  detail   : Nat
  address  : Nat
  stopped  : Option Nat
  queued   : Bool
  post     : List EvRec
  arrived  : Option Nat
  acqDone  : Bool
  pairs    : List PairEntry
  rowsRead : Nat
  buckets  : SMap Nat
  deriving DecidableEq, Repr

/-- A record waiting for the completion ring (R276): a completion of the descriptor at a position, or an event with the
HEAD and the opcode it carries. -/
inductive CqRec where
  | completion (pos : Nat)
  | event (e : EvRec) (pos op : Nat)
  deriving DecidableEq, Repr

/-- A descriptor as fetched, not yet accepted (R261): its position, the slots read, or the code and address of a read that
failed. -/
structure Fetched where
  pos   : Nat
  bytes : List Byte
  err   : Option (Resp × Nat)
  deriving DecidableEq, Repr

/-- A false start being waited on (R262): its position, when the mismatch was seen, when the next reread is due and the wait
after it, the GEN last read. -/
structure FalseStart where
  pos   : Nat
  since : Nat
  due   : Nat
  wait  : Nat
  gen   : Nat
  deriving DecidableEq, Repr

/-- A fallback list being fetched (R299): the next slot, the number of slots, the base. -/
structure Fallback where
  next  : Nat
  slots : Nat
  base  : Nat
  deriving DecidableEq, Repr

/-- A queue beyond its registers: accepted descriptors in queue order, records waiting in order, the next record position, the
descriptors fetched, a false start, the fallback list in progress, the time of its last MSI and whether one is deferred, when its
last descriptor completed, and whether a SKIP waits for the read of its slot (R263). -/
structure QueueSt where
  inflight : List Desc
  records  : List CqRec
  cqPos    : Nat
  fetched  : List Fetched
  fstart   : Option FalseStart
  fallback : Option Fallback
  lastMsi  : Option Nat
  msiPend  : Bool
  lastDone : Nat
  skip     : Bool
  deriving DecidableEq, Repr

/-- The procedure a context runs (R291, R293, R300, R302). -/
inductive Proc where
  | none
  | preempt (hold : Bool)
  | restore
  | fault
  | disable (trigger : Nat)
  deriving DecidableEq, Repr

/-- The pacer of a context (R296–R299); credit is that of the window's completed descriptors, done how many of its slots have
completed. -/
structure Pacer where
  armed    : Bool
  t0       : Nat
  pStart   : Nat
  pEnd     : Nat
  deadline : Nat
  margin   : Nat
  workEst  : Nat
  slots    : Nat
  base     : Nat
  n        : Nat
  sum      : Nat
  credit   : Nat
  riskSent : Bool
  switch   : Option Nat
  deriving DecidableEq, Repr

/-- What a saved context's queue manager keeps (R291–R293): the descriptors as saved, the CHECK it wrote. -/
structure Saved where
  descs : List Desc
  check : Nat
  deriving DecidableEq, Repr

/-- A context beyond its registers: since when it has been eligible, when its lap began, its procedure and when that began,
whether a preemption was counted LATE, saves since binding, what is saved, whether the closing event of its procedure is queued,
the event it will write, its pacer. -/
structure CtxSt where
  eligible : Option Nat
  lapStart : Nat
  proc     : Proc
  procStart : Nat
  late     : Bool
  saves    : Nat
  saved    : Option Saved
  closed   : Bool
  closing  : EvRec
  pacer    : Pacer
  deriving DecidableEq, Repr

/-- A tile of an accepted descriptor or chain: global queue index, position of the (first) descriptor, tile index. -/
structure Tile where
  q   : Nat
  pos : Nat
  ix  : Nat
  deriving DecidableEq, Repr

/-- A matrix tile on a logical array (R129): whether its first pass has started, the column fold and the passes of it that are done,
the columns written, when a HELD period began and whether its limit was signalled, the expansion table once read (R124), the two sets of
the sum buffer (R122), by rows and columns, set j mod 2 that of fold j, the products that the passes of the chunks in hand have summed so
far (R195), by chunk, row and column, and for each member of its chain what its writes count (vanished, split, saturated,
non-finite; R176). -/
structure MxRun where
  tile   : Tile
  run    : Bool
  fold   : Nat
  pass   : Nat
  cols   : Nat
  held   : Option Nat
  heldLogged : Bool
  exp    : List Byte
  even   : List (List Sum)
  odd    : List (List Sum)
  part   : List (List (List Num))
  stats  : List (Nat × Nat × Nat × Nat)
  deriving DecidableEq, Repr

/-- The weight registers of a logical array's cells (R118): the context of the pass that loaded them, and the active and the shadow
weights, by reduction element of the pass and column; a cell that none is listed for holds zero. -/
structure CellSt where
  ctx    : Nat
  active : List (List Num)
  shadow : List (List Num)
  deriving DecidableEq, Repr

/-- A partition beyond its registers: times of its context faults and of its escalated resets (R301), the cause of the reset
under way and when it was asked for, whether it fails at its end, whether a reload follows, the dies whose release it waits for. -/
structure PartSt where
  faults   : List Nat
  escs     : List Nat
  cause    : Nat
  resetAt  : Option Nat
  fails    : Bool
  reload   : Bool
  deriving DecidableEq, Repr

/-- A channel map-out in progress or waiting (R317, R318): channel and cause. -/
structure MapOut where
  chan  : Nat
  cause : Nat
  started : Bool
  deriving DecidableEq, Repr

/-- MGMT's view of one die (R66, R523, R527–R529): the REFCLK count of its last heartbeat and the snapshot it carried, its latest
error-log entry, its error count, its relock tries, the trigger of the reset under way, whether it has relocked and its memories
or ports have trained since, the samples in window since its rail left it, the context and block of an engine hang on it, and whether
the reset under way began with its clock or rail lost (R363). -/
structure DieSt where
  lastHb   : Nat
  snapshot : List Byte
  lastErr  : List Byte
  errors   : Nat
  tries    : Nat
  trigger  : Nat
  trained  : Bool
  calm     : Nat
  hungCtx  : Nat
  hungBlock : Nat
  dark     : Bool
  deriving DecidableEq, Repr

end Sys2Proof.Machine
end

