-- ==== Sys2Proof/Machine/Types2.lean ====
section
/-! DEFINITION. The records of the units that meet the world outside the package: the optical fabric, the PCI Express port,
the vaults, power and pins; and the messages the device sends out. -/

namespace Sys2Proof.Machine

/-- An answer of an SC slice to a request of its own queue (R329, R331). -/
structure ScDone where
  region : Nat
  tag    : Nat
  code   : Resp
  data   : Line
  deriving DecidableEq, Repr

/-- A request in remote form on its way out (R426, R441): who asks (its agent and the tag of its engine), what it asks,
its address in remote form, bytes, the mask of a byte-enabled write, the partition and context it is made for. -/
structure RemReq where
  src  : Agent
  tag  : Nat
  kind : ReqKind
  addr : Nat
  len  : Nat
  data : List Byte
  mask : BitVec 64
  part : Nat
  ctx  : Option Nat
  hint : Hint
  deriving DecidableEq, Repr

/-- The answer of another device to a remote request, kept for the engine that waits for it. -/
structure RemDone where
  tag  : Nat
  kind : ReqKind
  addr : Nat
  code : Resp
  data : List Byte
  deriving DecidableEq, Repr

/-- A report of an error on its way to MGMT (R516–R518). -/
structure ErrRep where
  cls    : Nat
  die    : Nat
  part   : Option Nat
  block  : Nat
  code   : Nat
  ctx    : Option Nat
  addr   : Nat
  detail : Nat
  deriving DecidableEq, Repr

/-- What the device sends out of the modelled block: MSI-X writes, completions and posted writes of the PCI Express port,
answers to non-caching requesters and CTRL accesses, serial-bus answers, scan data, frames of the optical ports, the in-band interrupt of
the I3C bus (R531). -/
inductive Out where
  | msix (func vec : Nat)
  | completion (func tag code : Nat) (data : List Byte)
  | posted (vf addr : Nat) (data : List Byte)
  | resp (dst : Agent) (tag : Nat) (code : Resp) (data : Option Line)
  | ctrl (who : Who) (code : Resp) (data : Option Word)
  | serial (data : List Byte)
  | scan (data : Nat)
  | frame (port : Nat) (bytes : List Byte)
  | ibi
  deriving DecidableEq, Repr

/-- A GX operation in progress (R491, R498): its kind, SEQ, addresses and length, the header of the record, the next cell or byte, the
noise key (R492), the salt of an export, the stream produced so far and how much of it has been written upstream, and, once nothing more
is produced, the RESULT it ends with. -/
structure GxOp where
  kind    : Nat
  seq     : Nat
  src     : Nat
  aux     : Nat
  len     : Nat
  hdr     : List Byte
  next    : Nat
  nk      : List Byte
  salt    : List Byte
  stream  : List Byte
  written : Nat
  fin     : Option Nat
  deriving DecidableEq, Repr

/-- A vault's seal (R479, R483): SEAL_SERIAL, its RTAG key and VAULT_KEY, the policy that GX accepted and whether one was
refused, the operation in progress. -/
structure VaultSt where
  serial   : Nat
  rtagKey  : List Byte
  vaultKey : List Byte
  policy   : Option (List Byte)
  refused  : Bool
  op       : Option GxOp
  deriving DecidableEq, Repr

/-- A flit on its way to a link end: its KIND, the messages of its slots, and what the way does to it: each bit that arrives inverted, by
physical lane and unit interval. SEQ, ACK_SEQ, NAK and CREDITS are the sending end's own (R72). -/
structure Flit where
  kind  : Nat
  slots : List (Nat × LinkMsg)
  errs  : List (Nat × Nat)
  deriving DecidableEq, Repr

/-- A frame as sent (R423, R430): its SEQ, its KIND, its 512 payload bytes, and the packets that begin in it. -/
structure SentFrame where
  seq   : Nat
  kind  : Nat
  body  : List Byte
  pkts  : List (List Byte)
  deriving DecidableEq, Repr

/-- The key of one direction of a port (R433): key, salt, key number, frames sent or the last counter accepted, its KEY_EPOCH. -/
structure DirKey where
  key   : List Byte
  salt  : List Byte
  num   : Nat
  ctr   : Nat
  epoch : Bool
  deriving DecidableEq, Repr

/-- An optical port (R422–R433, R442, R446–R448): whether the training under way is full and when it began; the round trips of its
ECHO packets; the peer's CAP granule; the messages of key establishment received and sent, with the fragments of the one arriving;
whether keys stand; the keys of both directions; frames sent and not acknowledged, the last SEQ accepted, a NAK outstanding and how often
the frame it names was NAKed; granules of a packet that continues; packets received and not yet taken, with the granules each holds of its
channel's own and of the pool; packets waiting for credits; the credits in use by channel (13 entries) and of the pool, the granules that
the receive buffer holds of each, and those to be returned; packets held since the port left service, and since when; the DISC_ID of the
peer; the quarantine window's start; uncorrectable codewords by wavelength. -/
structure PortSt where
  full    : Bool
  began   : Nat
  echoes  : List Nat
  cap     : List Byte
  offer   : List Byte
  accept  : List Byte
  parts   : List Byte
  frag    : Nat
  keyed   : Bool
  tx      : DirKey
  rx      : DirKey
  nextSeq : Nat
  replay  : List SentFrame
  lastAcc : Nat
  naking  : Bool
  nakRun  : Nat
  cont    : List Byte
  inbox   : List (List Byte × Nat × Nat)
  queue   : List (List Byte)
  used    : List Nat
  pool    : Nat
  rused   : List Nat
  rpool   : Nat
  owed    : List Nat
  owedPool : Nat
  held    : List (Option Nat × List Byte)
  heldAt  : Option Nat
  peer    : Nat
  winAt   : Nat
  rsErrs  : SMap Nat
  deriving DecidableEq, Repr

/-- A link-state advertisement as held (R434, R435): its origin and the bytes of its four fragments, its SEQ, fragments of a newer one
arriving. -/
structure Lsa where
  disc   : Nat
  seq    : Nat
  frags  : SMap (List Byte)
  next   : SMap (List Byte)
  nextSeq : Nat
  deriving DecidableEq, Repr

/-- A remote request in flight (R441): its transaction number, target device, route, and the request. -/
structure OpenTxn where
  txn   : Nat
  dst   : Nat
  route : List Nat
  req   : RemReq
  deriving DecidableEq, Repr

/-- The fabric router (R434–R451): parameters by ID, the link-state map, the SEQ of its own last LSA, bindings of DISC_IDs to device
IDs, the sequence number of its own DISC packets and the highest seen of each starter, the route table (link IDs of each route, by destination), whether the map has changed since it was
computed, DNFs forwarded, the next transaction number, requests in flight. -/
structure FabSt where
  params  : SMap Nat
  map     : List Lsa
  seq     : Nat
  bound   : List (Nat × Nat)
  discSeq : Nat
  discSeen : SMap Nat
  routes  : SMap (List (List Nat))
  stale   : Bool
  dnfs    : List (Nat × Nat)
  txn     : Nat
  opens   : List OpenTxn
  deriving DecidableEq, Repr

/-- A PCI Express function: Bus Master Enable, the vectors unmasked, the Pending Bits, when its Function Level Reset began. -/
structure PciFn where
  bme     : Bool
  open_   : List Nat
  pend    : List Nat
  flr     : Option Nat
  deriving DecidableEq, Repr

/-- A memory request of the port that waits for the homes (R472): function, whether it writes, its pieces (line address, data, mask)
not yet answered, the lines read, context, hint, partition, tag, the first error so far; whether it waits for earlier writes (0), is issued (1), or is a read to be completed with a
status c (c + 2). -/
structure PciReq where
  func   : Nat
  write  : Bool
  pieces : List (Nat × Line × BitVec 64)
  got    : List Byte
  skip   : Nat
  len    : Nat
  ctx    : Nat
  hint   : Hint
  part   : Nat
  tag    : Nat
  err    : Option (Resp × Nat)
  issued : Nat
  deriving DecidableEq, Repr

/-- The port: its functions by FUNC code, CRASH_SEL and what ACTION reads (R477), the requests that wait. -/
structure PciSt where
  fns   : SMap PciFn
  sel   : Nat
  action : Nat
  reqs  : List PciReq
  deriving DecidableEq, Repr

/-- An attestation request (R504): the partition whose core wrote GO (none: PF0, MGMT or I3C), the partition reported or none for a
package report, the address of REPORT_DATA and of the report, or the REPORT_DATA of an I3C request. -/
structure AttReq where
  who     : Option Nat
  target  : Option Nat
  dataAt  : Nat
  outAt   : Nat
  i3c     : Option (List Byte)
  deriving DecidableEq, Repr

/-- The attestation block (R111, R501, R502): the level-0 leaf reserved, the session key's seed and I, its public key and certificate, the
next level-1 leaf, whether certified, whether exhausted, requests that wait; the serial of the last partial image of each partition. -/
structure AttSt where
  leaf    : Nat
  seed    : List Byte
  ident   : List Byte
  cert    : List Byte
  next    : Nat
  certified : Bool
  exhausted : Bool
  waiting : List AttReq
  partial_ : SMap Nat
  deriving DecidableEq, Repr

/-- The current limiter of a die (R508): the estimates of its last 10,000 ticks, latest first, and calm. -/
structure LimSt where
  hist  : List Nat
  calm  : Nat
  deriving DecidableEq, Repr

/-- A thermal zone (R513): its level and its sensors' last readings in degrees. -/
structure ZoneSt where
  level : Nat
  reads : SMap Int
  deriving DecidableEq, Repr

/-- A learned entry of CAPC (R512), most recently used first in its list. -/
structure Learned where
  sig   : Nat
  need  : Nat
  count : Nat
  deriving DecidableEq, Repr

/-- Power control: limiters by die; zones by region (32 the core die, 33 and 34 the I/O dies); CAPC's entries by region; the calm
comparisons of each region limiter; regions whose level was above 0 in this epoch; alert groups whose input is low and when each
input that rose did so; tiles and hurdles of each phase class since the epoch began, by region × 8 + class; consecutive samples of
each rail in its window, and the rails whose excursion holds a reset (R528); the sum and the number of each rail's output-power samples of
this epoch (R511); the divider steps taken (R63), of a region's engines by region, of the cores as 32, of a die's routers as 40 + die. -/
structure PwrSt where
  lims    : SMap LimSt
  zones   : SMap ZoneSt
  learned : SMap (List Learned)
  calm    : SMap Nat
  raised  : List Nat
  alerts  : List Nat
  rising  : SMap Nat
  phase   : SMap Nat
  inWin   : SMap Nat
  railHold : List Nat
  polls   : SMap (Nat × Nat)
  steps   : SMap Nat
  deriving DecidableEq, Repr

/-- Who waits for an answer that its bound may end (R522): an engine by its number, for an address; an access of a core at its L2 (a
line) or a non-caching one (an address); a request of the port by its place; a queue manager's read, by queue; a walk of the HTU. -/
inductive Requester where
  | engine (e : Fin 960) (addr : Nat)
  | l2 (core : CoreIx) (line : Nat)
  | core (core : CoreIx) (addr : Nat)
  | pcie (ix : Nat)
  | queue (q : QueueIx)
  | walk (c : ClusterIx) (ctx : CtxIx) (vpage : Nat)
  deriving DecidableEq, Repr

/-- A DIMM as its SPD and its training show it (R319, R321): whether the SPD can be read, a registered module with ECC and two 40-bit
subchannels, the width of its devices, the height of its packages, package ranks, capacity in GiB, rated MT/s, whether it trains. -/
structure DimmSpd where
  read       : Bool
  registered : Bool
  width      : Nat
  high       : Nat
  ranks      : Nat
  gib        : Nat
  rate       : Nat
  trains     : Bool
  deriving DecidableEq, Repr

/-- A line as a message names it, and how the message's flits came (R310): 0 whole or corrected, 1 with words that cannot be corrected and the
header intact, 2 with the header gone. -/
structure NetLine where
  line : Nat
  flit : Fin 3
  deriving DecidableEq, Repr

/-- A line as a snoop names it, and whether the L2's copy of it cannot be read (R310, R364). -/
structure SnpLine where
  line : Nat
  bad  : Bool
  deriving DecidableEq, Repr

/-- An atomic operation as its request carries it, with the allocation hint (R351). -/
structure HintedOp where
  op   : AtomOp
  hint : Hint
  deriving DecidableEq, Repr

/-- A core at the privilege at which it makes an access (R57). -/
structure CoreAt where
  core : CoreIx
  lvl  : Level
  deriving DecidableEq, Repr

/-- An entry of a store buffer, and whether the L2's copy of its line cannot be read (R310, R364). -/
structure SbPick where
  ix  : Fin 64
  bad : Bool
  deriving DecidableEq, Repr

/-- The accesses before a FENCE that it orders (R372): loads, stores, device reads, device writes. -/
structure FencePre where
  r : Bool
  w : Bool
  i : Bool
  o : Bool
  deriving DecidableEq, Repr

/-- The release bit of an atomic access of a core (R372), and whether the L2's copy of its line cannot be read (R310, R364). -/
structure AmoMark where
  rl  : Bool
  bad : Bool
  deriving DecidableEq, Repr

/-- An engine that looks for a tile, and the tiles whose first weight slices its mover has yet to stage (R138). -/
structure TileSeek where
  e        : Fin 896
  unstaged : List Tile
  deriving DecidableEq, Repr

/-- An MCTP control message that MGMT's endpoint serves (R531). -/
inductive MctpCtl where
  | setEndpointId (eid : BitVec 8)
  | getEndpointId
  | getVersions (type : BitVec 8)
  | getMessageTypes
  deriving DecidableEq, Repr

/-- A numeric sensor of the PLDM monitoring endpoint (R531). -/
inductive Sensor where
  | tmax (d : DieIx)
  | railVoltage (n : RailIx)
  | railCurrent (n : RailIx)
  | packagePower
  deriving DecidableEq, Repr

/-- The low-speed pins (R548–R551, R560): PWRGOOD, SYS_RST_N and PERST_N as accepted, THERMTRIP_N's latch, whether outputs float, REFCLK,
the straps as sampled, the TAP's instruction and boundary register, MGMT's I3C dynamic address and MCTP endpoint ID; whether a thermal trip has stopped every
divided clock (R513). -/
structure PinSt where
  pwrgood : Bool
  sysLow  : Bool
  perstLow : Bool
  tripped : Bool
  floating : Bool
  refclk  : Bool
  bootSrc : Nat
  i3cSa   : Nat
  tapIr   : Nat
  bsr     : Nat
  i3cAddr : Option Nat
  eid     : Nat
  stopped : Bool
  deriving DecidableEq, Repr

end Sys2Proof.Machine
end

