-- ==== Sys2Proof/Syntax.lean ====
section
/-! DEFINITION. The commands of the device: one constructor for each row of spec/opcode_table.json. The table gives a row
no operand fields; a command's operands name the unit it acts on and carry what comes to the device from outside. -/

namespace Sys2Proof

open Sys2Proof.Machine

/-- The operations and events of the device. -/
inductive Instr where
  /-- PWRGOOD_RISE (R108). Rise of PWRGOOD samples the straps, starts MGMT on REFCLK and begins the power-on start-up sequence. -/
  | pwrgoodRise (bootSrc i3cSa : Fin 4)
  /-- PWRGOOD_FALL (R551). A low level of PWRGOOD for 1 µs or more starts a power-on reset, floats the outputs and releases the THERMTRIP_N latch and FAULT_N. -/
  | pwrgoodFall
  /-- SYS_RST_N_LOW (R524). SYS_RST_N held low for 16 REFCLK cycles or more starts a package reset that lasts until deassertion. -/
  | sysRstNLow
  /-- PERST_N_LOW (R524). PERST_N held low for 16 REFCLK cycles or more is a PCI Express fundamental reset and a package reset. -/
  | perstNLow
  /-- PERST_N_DEASSERT (R474). Deassertion of PERST_N lets PCI Express link training begin at the later of this and the end of start-up step 2. -/
  | perstNDeassert
  /-- FUSES_LOADED (R86). The end of fuse loading lets every die's PLL begin to lock. -/
  | fusesLoaded
  /-- PLL_LOCK (R66). A die's root PLL locks, its divided clocks start, SLOW_COUNT starts from zero and lock is reported to MGMT. -/
  | pllLock (d : DieIx)
  /-- LOCK_LOST (R67). A die loses PLL lock, stops its divided clocks, sets LOCK_LOST and reports the loss to MGMT. -/
  | lockLost (d : DieIx)
  /-- DIVIDER_STEP (R63). A block steps its own divider to ×2 or ×4 within CLK_STEP_LIMIT, and the step takes effect at a common rising edge. -/
  | dividerStep (d : DieIx) (clk : Fin 3)
  /-- IMAGE_READ_DONE (R94). The last image byte is staged, and the image is verified check by check, with halt, slot B or the staging wait on failure. -/
  | imageReadDone (image : Option (Nat × List Byte))
  /-- BOOT_GO (R113). Writing GO in PHASE 8 resumes start-up at check 1 of verification on the staged image. -/
  | bootGo (who : Who)
  /-- RECORDS_APPLIED (R107). The records of the full image are applied, and image lock takes effect. -/
  | recordsApplied (differ : List VaultIx)
  /-- STACK_TRAINING_DONE (R313). Stacks finish training and the zero fill under generation 255, and absent or wrong stacks are mapped out. -/
  | stackTrainingDone (d : Fin 8) (absent : List (Fin 2)) (failed : List (Fin 32)) (badSlices : List (Fin 4))
  /-- DIMM_TRAINING_DONE (R110). DIMMs are read through SPD and trained, and the populated HOSTMEM capacity and HOSTMEM_SHORT are set. -/
  | dimmTrainingDone (spd : List (List DimmSpd))
  /-- FIRMWARE_COPY_DONE (R108). TARGET 3 firmware has been copied to HOSTMEM, which ends start-up step 6. -/
  | firmwareCopyDone
  /-- ATTEST_LEAF_RESERVE (R111). The next attestation bank bit is burned and read back, with up to four tries, setting LEAF_RESERVED or ATTEST_EXHAUSTED. -/
  | attestLeafReserve (readbacks : List Bool)
  /-- RELEASE (R112). PHASE becomes 7, the port serves requests, every defined partition enters RUN and its cores start at ENTRY. -/
  | release
  /-- LEVEL1_CERTIFIED (R111). The session's level-1 tree is certified with the reserved leaf, and waiting attestation requests are answered. -/
  | level1Certified
  /-- RELOAD_GO (R116). A write of GO to RELOAD_CTRL starts copying a partial image into the reload buffer, unless BUSY. -/
  | reloadGo (who : Who)
  /-- RELOAD_VERIFY_DONE (R116). The copied partial image is verified, and then fails with FAILED and CODE or sends the partition through QUIESCE and RESET. -/
  | reloadVerifyDone
  /-- RELOAD_LOADING_DONE (R116). The partial records are applied and the firmware is copied, so the partition enters RUN and DONE is set. -/
  | reloadLoadingDone (differ : Bool)
  /-- LINK_TRAINING_START (R82). When both dies of a link are out of reset with locked PLLs, full training of the link begins. -/
  | linkTrainingStart (e : LinkEnd)
  /-- LINK_TRAINING_END (R82). Training ends, and the link applies its lane map, sizes credits, replays and takes state UP, HALF, QUARTER or FAILED. -/
  | linkTrainingEnd (e : LinkEnd) (good : BitVec 34) (rtt : Nat) (late : Bool) (rails : List Nat)
  /-- LANE_LOCK_LOSS (R77). A physical lane loses lock, is failed in LANE_MAP and starts a fast retrain. -/
  | laneLockLoss (e : LinkEnd) (lane : Fin 34)
  /-- LANE_ERR_WINDOW_END (R77). At the end of each WINDOW, a lane whose corrected-error count exceeds LIMIT fails. -/
  | laneErrWindowEnd (e : LinkEnd)
  /-- FLIT_RECEIVE (R74). A flit arrives, and is delivered, corrected, discarded or NAKed, and the sender replays from ACK_SEQ + 1. -/
  | flitReceive (e : LinkEnd) (f : Flit)
  /-- LINK_RETRAIN (R82). A write of RETRAIN to LINK_CTRL starts a fast retrain, or a full training from FAILED. -/
  | linkRetrain (who : Who) (e : LinkEnd)
  /-- REGISTER_WRITE (R14). A write to a register that has no step of its own sets its fields according to their access codes. -/
  | registerWrite (who : Who) (off : BitVec 32) (w : Word)
  /-- NOP (R257). A NOP descriptor completes with no work. -/
  | nop (q : QueueIx)
  /-- SET_SEED (R265). A SET_SEED descriptor sets the job seed that the descriptors accepted after it take. -/
  | setSeed (q : QueueIx)
  /-- MATMUL (R129). A MATMUL tile runs on a logical array through folds and chunks and is written out through the writer. -/
  | matmul (a : ArrayIx)
  /-- CONV (R134). A CONV tile runs as a matrix operation whose activation addresses are generated from the convolution mapping. -/
  | conv (a : ArrayIx)
  /-- VX_EW (R216). A VX_EW tile computes an elementwise function and rounds each result once. -/
  | vxEw (c : ClusterIx)
  /-- VX_ACT (R217). A VX_ACT tile computes an activation function and rounds each result once. -/
  | vxAct (c : ClusterIx)
  /-- VX_REDUCE (R218). A VX_REDUCE tile reduces each row exactly and writes one element per row. -/
  | vxReduce (c : ClusterIx)
  /-- VX_SOFTMAX (R219). A VX_SOFTMAX tile computes a masked softmax over each row. -/
  | vxSoftmax (c : ClusterIx)
  /-- VX_NORM (R220). A VX_NORM tile computes RMSNORM or LAYERNORM over each row. -/
  | vxNorm (c : ClusterIx)
  /-- VX_OPTIM (R221). A VX_OPTIM tile updates the weights and moments in place under ADAMW or SGDM. -/
  | vxOptim (c : ClusterIx)
  /-- SP_GATHER (R223). An SP_GATHER tile copies indexed table rows with their scales, and writes zero rows for indices out of range. -/
  | spGather (c : ClusterIx)
  /-- SP_SCATTER (R227). An SP_SCATTER tile copies rows into indexed table rows, or adds them by floating-point atomic add. -/
  | spScatter (c : ClusterIx)
  /-- SP_EMBED (R223). An SP_EMBED tile sums weighted table rows per bag exactly and rounds each sum once. -/
  | spEmbed (c : ClusterIx)
  /-- SP_SPMV (R225). An SP_SPMV tile multiplies a block-sparse matrix by vectors with correct rounding, and faults on a malformed format. -/
  | spSpmv (c : ClusterIx)
  /-- TB_PARTITION (R231). A TB_PARTITION tile copies input rows into hashed buckets and counts them. -/
  | tbPartition (g : RegionIx)
  /-- TB_AGGREGATE (R232). A TB_AGGREGATE tile groups rows by key and contributor, and the last tile writes the result table with its RTAG. -/
  | tbAggregate (g : RegionIx)
  /-- CD_COMPRESS (R238). A CD_COMPRESS tile shuffles pages, LZ4-encodes them into containers and writes a status entry per page. -/
  | cdCompress (g : RegionIx)
  /-- CD_DECOMPRESS (R240). A CD_DECOMPRESS tile checks, decodes and unshuffles containers into pages and writes a status entry per page. -/
  | cdDecompress (g : RegionIx)
  /-- MV_COPY (R243). An MV_COPY tile copies up to 256 KiB of strided bytes in bursts. -/
  | mvCopy (c : ClusterIx)
  /-- MV_FILL (R242). An MV_FILL tile writes the repeated 8-byte pattern to its destination. -/
  | mvFill (c : ClusterIx)
  /-- MV_PAGES (R242). An MV_PAGES tile feeds containers through the region's CDE into pages and writes a status entry per page. -/
  | mvPages (c : ClusterIx)
  /-- MXA_TILE_START (R148). A matrix tile is assigned to an idle or off array or gang, which powers up if needed and starts its first pass. -/
  | mxaTileStart (a : ArrayIx)
  /-- MXA_PASS_END (R139). A pass admits its last activation row, and the array starts the next pass, enters HELD or writes the fold out. -/
  | mxaPassEnd (a : ArrayIx) (staged : Bool)
  /-- MXA_WEIGHTS_AVAILABLE (R139). The weights of a HELD array become available, and its next pass starts 64 cycles after its shadow write begins. -/
  | mxaWeightsAvailable (a : ArrayIx)
  /-- MXA_HOLD_LIMIT_EXPIRE (R141). A HELD period reaches MXA_HOLD_LIMIT, so HOLD_EXPIRED is set and the queue manager writes a HOLD_EXPIRED event record. -/
  | mxaHoldLimitExpire (a : ArrayIx)
  /-- MXA_SELFTEST_REQUEST (R149). A write of START in CL_SELFTEST_CTRL requests a self-test of the named arrays. -/
  | mxaSelftestRequest (who : Who) (c : ClusterIx) (w : Word)
  /-- MXA_SELFTEST_BEGIN (R149). At its tile boundary, or from IDLE or OFF, the array enters TEST and streams fixed patterns. -/
  | mxaSelftestBegin (a : ArrayIx)
  /-- MXA_SELFTEST_END (R148). The self-test signature is compared, and the array sets LAST_PASS or enters FAULT with SELFTEST_FAIL. -/
  | mxaSelftestEnd (a : ArrayIx) (good : Bool)
  /-- MXA_POWER_GATE (R505). An array idle for ARRAY_IDLE CK_ARITH cycles is power-gated to OFF. -/
  | mxaPowerGate (a : ArrayIx)
  /-- MXA_POWER_UP_DONE (R505). A powering array completes power-up and starts its tile or its due self-test. -/
  | mxaPowerUpDone (a : ArrayIx)
  /-- SELFTEST_DUE (R540). An array's periodic self-test falls due and is requested as CL_SELFTEST_CTRL requests it. -/
  | selftestDue (a : ArrayIx)
  /-- PAD_READ (R152). A pad read is classified by the 80/64 code and may answer DATA_ERR or mark its row for substitution. -/
  | padRead (c : ClusterIx) (off : Fin 4194304) (arr : Option (Fin 4))
  /-- ENGINE_TILE_TAKE (R286). An idle engine takes the first runnable tile from the head of its own deque. -/
  | engineTileTake (t : TileSeek)
  /-- TILE_STEAL (R287). An engine with no runnable tile steals the last runnable tile from a victim deque, searching its tiers in order. -/
  | tileSteal (t : TileSeek)
  /-- TABLE_QUEUE_TAKE (R288). An idle TBE or CDE takes the oldest tile from its own region's table queue, then from the others in order. -/
  | tableQueueTake (u : Fin 64)
  /-- MVE_STAGE_WRITE (R210). A write to STAGE_BASE requests a new split between the software area and the staging area. -/
  | mveStageWrite (who : Who) (c : ClusterIx) (w : Word)
  /-- STAGE_SPLIT_EFFECT (R210). Once the cluster has no tile in flight, the pending ACTIVE_BASE takes effect. -/
  | stageSplitEffect (c : ClusterIx)
  /-- ENGINE_RESPONSE_ERROR (R250). A tile request answered with a code other than OK ends the tile, sets OPERAND_ERR and faults the context. -/
  | engineResponseError (e : Fin 960) (code : Resp) (addr : Word)
  /-- TBE_LOCKSTEP_MISMATCH (R539). The two TBE datapaths disagree, so the tile ends unwritten and the context faults with RESPONSE. -/
  | tbeLockstepMismatch (g : RegionIx)
  /-- DOORBELL (R260). A write to DB_q is ignored, counted or accepted as the new TAIL, and an accepted one starts a reread in WAITING. -/
  | doorbell (who : Who) (q : QueueIx) (v : Word)
  /-- DESCRIPTOR_FETCH (R261). While HEAD differs from TAIL and the queue is ACTIVE, the queue manager reads the slots at HEAD. -/
  | descriptorFetch (q : QueueIx)
  /-- DESCRIPTOR_ACCEPT (R266). A read descriptor is checked whole and accepted, or ends FORMAT or RESPONSE, and HEAD passes it. -/
  | descriptorAccept (q : QueueIx)
  /-- FALSE_START_REREAD (R262). The back-off wait ends and the slot is reread, returning the queue to ACTIVE on a match. -/
  | falseStartReread (q : QueueIx)
  /-- FALSE_START_STOP (R262). QM_FS_LIMIT passes without a match, so the queue stops with CAUSE FALSE_START and writes a FALSE_START record. -/
  | falseStartStop (q : QueueIx)
  /-- QUEUE_RESUME (R263). A write of RESUME to a STOPPED queue makes it ACTIVE and restarts the fetch at HEAD. -/
  | queueResume (who : Who) (q : QueueIx)
  /-- QUEUE_SKIP (R263). A write of SKIP after a false-start stop completes the descriptor at HEAD as SKIPPED, and otherwise acts as RESUME. -/
  | queueSkip (who : Who) (q : QueueIx) (resume : Bool)
  /-- QUEUE_ENABLE (R264). A write of ENABLE = 1 with a valid binding in RUN zeroes the positions, takes the seed and binds the context. -/
  | queueEnable (who : Who) (q : QueueIx) (cfg : Word)
  /-- QUEUE_DISABLE (R302). A write of ENABLE = 0 starts the disable procedure for the bound context. -/
  | queueDisable (who : Who) (q : QueueIx) (cfg : Word)
  /-- TILE_ISSUE (R285). Tiles of accepted descriptors of RUNNING contexts are pushed onto the shortest deque of the region. -/
  | tileIssue (q : QueueIx)
  /-- HURDLE_ARRIVE (R270). A hurdle arrives after every earlier descriptor has completed, applies its signal and evaluates its condition. -/
  | hurdleArrive (q : QueueIx)
  /-- HURDLE_POLL (R270). Every QM_HURDLE_POLL cycles a memory hurdle reads its word at home and passes if the conditions hold. -/
  | hurdlePoll (q : QueueIx)
  /-- HURDLE_EXPIRE (R270). LIMIT passes without a pass, so the hurdle ends HURDLE_EXPIRED and the queue stops. -/
  | hurdleExpire (q : QueueIx)
  /-- TOKEN_WRITE (R273). A write to TOKEN_t sets the token, and the hurdles that name it re-evaluate. -/
  | tokenWrite (who : Who) (g : RegionIx) (t : Fin 4096) (v : Word)
  /-- DESCRIPTOR_COMPLETE (R274). A descriptor completes once its writes are visible, subject to REL, and its record is queued. -/
  | descriptorComplete (q : QueueIx)
  /-- COMPLETION_RECORD_WRITE (R276). A completion or event record is written to the completion ring in order once there is room. -/
  | completionRecordWrite (q : QueueIx)
  /-- MSI_HOLDOFF_EXPIRE (R278). At the end of a HOLDOFF interval, one deferred MSI is sent for all the records in between. -/
  | msiHoldoffExpire (q : QueueIx)
  /-- CQ_HEAD_WRITE (R276). A write of Q_CQ_HEAD frees room in the completion ring, so waiting records may be written. -/
  | cqHeadWrite (who : Who) (q : QueueIx) (v : Word)
  /-- PART_RESET_REQUEST (R281). A write of RESET in PART_CTRL, or an escalation, moves a RUN partition to QUIESCE and stops fetch and issue. -/
  | partResetRequest (who : Who) (p : PartIx)
  /-- QUIESCE_DONE (R281). Every started tile reaches its boundary and every request is answered, so Partition state clears and the partition enters RESET. -/
  | quiesceDone (p : PartIx)
  /-- QUIESCE_LIMIT_EXPIRE (R281). QUIESCE_LIMIT passes, so the running tiles are discarded and the partition enters RESET. -/
  | quiesceLimitExpire (p : PartIx) (hung : List CoreIx)
  /-- PART_RESET_DONE (R281). The partition reset completes, and the partition enters RUN, LOADING or FAILED. -/
  | partResetDone (p : PartIx)
  /-- RUN_SLOT_GRANT (R289). A free run slot goes to the highest-priority eligible context, which restores from its save area if PREEMPTED. -/
  | runSlotGrant (p : PartIx)
  /-- LAP_END (R290). A context's lap ends, and it is preempted if an eligible context of equal or higher priority waits. -/
  | lapEnd (c : CtxIx)
  /-- PREEMPT_GRACE_EXPIRE (R291). GRACE passes during a preemption, so HELD tiles are abandoned, or LATE is counted where abandonment would tear. -/
  | preemptGraceExpire (c : CtxIx)
  /-- SAVE_AREA_WRITE_DONE (R291). The save area is written, and the context becomes PREEMPTED or HELD, or FAULTED on an error. -/
  | saveAreaWriteDone (c : CtxIx)
  /-- RESTORE_READ_DONE (R293). The save area read on a grant is checked, and issue resumes or the context faults with SAVE_CORRUPT or RESPONSE. -/
  | restoreReadDone (c : CtxIx)
  /-- CTX_HOLD (R284). A write of HOLD in CTX_CTRL moves the context to HELD, preempting it if it is RUNNING. -/
  | ctxHold (who : Who) (c : CtxIx) (w : Word)
  /-- CTX_RELEASE (R284). A write of RELEASE in CTX_CTRL returns a HELD context to READY. -/
  | ctxRelease (who : Who) (c : CtxIx) (w : Word)
  /-- CTX_CLEAR (R300). A write of CLEAR with DRAINED set returns a FAULTED or TORN context to READY. -/
  | ctxClear (who : Who) (c : CtxIx) (w : Word)
  /-- CTX_DISABLE (R302). A write of DISABLE in CTX_CTRL starts the disable procedure. -/
  | ctxDisable (who : Who) (c : CtxIx) (w : Word)
  /-- CONTEXT_DRAINED (R300). Nothing of a faulted or disabled context remains in flight, so DRAINED is set and a disabled context becomes FREE. -/
  | contextDrained (c : CtxIx)
  /-- DRAIN_LIMIT_EXPIRE (R301). DRAINED is not set within DRAIN_LIMIT, so the partition escalates to QUIESCE. -/
  | drainLimitExpire (c : CtxIx)
  /-- PACER_ARM (R296). A write of ARM in CTX_PACE records t0 and P_START and latches the window settings. -/
  | pacerArm (who : Who) (c : CtxIx) (w : Word)
  /-- PACER_POLL (R297). Every 256 cycles, and at each completion, the pacer predicts and judges completion, deadline and risk. -/
  | pacerPoll (c : CtxIx)
  /-- T1_CHANNEL_ACCESS (R315). A T1 channel controller performs one burst, classifying and writing back every word under the 80/64 code. -/
  | t1ChannelAccess (ch : ChanIx) (arrive : List ChReq) (upset : List (Nat × Nat × Byte))
  /-- T2_CHANNEL_ACCESS (R320). A DIMM controller performs one 256-byte access, classifying every word under the 80/64 code. -/
  | t2ChannelAccess (m : DimmIx) (arrive : List ChReq) (upset : List (Nat × Nat × Byte))
  /-- AGE_FALLBACK (R326). An entry waiting AGE_LIMIT CK_MEM cycles puts the controller into strict oldest-first order. -/
  | ageFallback (ctl : CtlIx)
  /-- PATROL_SCRUB (R311). The scrub reads a word at low priority and rewrites it corrected or STALE. -/
  | patrolScrub (ctl : CtlIx) (upset : List (Nat × Byte))
  /-- CHANNEL_MAPOUT (R317). A write of MAPOUT, or UE_LIMIT reached, starts the in-service map-out of a T1 channel. -/
  | channelMapout (who : Who) (ch : ChanIx)
  /-- MAPOUT_COMPLETE (R318). Accepted requests drain, lines are invalidated, WGEN advances, the channel leaves the list and held requests resume. -/
  | mapoutComplete (p : PartIx)
  /-- DIMM_TEMP_READ (R319). The DIMM temperature sensor is read every 10,000,000 CK_SLOW cycles and sets the refresh rate. -/
  | dimmTempRead (m : DimmIx) (temp : Int)
  /-- HOT_DECAY (R343). Every HOT_DECAY × 65,536 cycles every access count is halved and NOTIFIED is reset. -/
  | hotDecay (m : DimmIx)
  /-- SC_REQUEST (R329). An SC slice serves a request under its hint, hitting or missing, allocating and evicting. -/
  | scRequest (g : RegionIx) (chan : Fin 8) (blk : Nat) (r : ScReq) (fault : Fin 4)
  /-- SC_FILL (R331). A miss fill returns, and the merged requests are served in arrival order. -/
  | scFill (g : RegionIx) (chan : Fin 8) (blk : Nat)
  /-- SC_PREFETCH_FILL (R334). A prefetched line enters the side buffer, or is discarded after a write or an error. -/
  | scPrefetchFill (g : RegionIx) (chan : Fin 8) (blk : Nat)
  /-- SC_PRELOAD_GO (R335). A write of GO empties the locked ways and starts preloading the range into them. -/
  | scPreloadGo (who : Who) (g : RegionIx)
  /-- SC_PRELOAD_DONE (R335). The preload ends, and GO reads 0. -/
  | scPreloadDone (g : RegionIx)
  /-- SC_UNLOCK (R336). A write of UNLOCK clears LOCK, and the locked lines stay as ordinary lines. -/
  | scUnlock (who : Who) (g : RegionIx)
  /-- SC_WAY_WINDOW (R506). At the end of WAY_WINDOW a slice powers one way up or starts powering one way down. -/
  | scWayWindow (g : RegionIx)
  /-- SC_WAY_POWER_DOWN_DONE (R337). A way finishes writing back and invalidating its lines and is gated. -/
  | scWayPowerDownDone (g : RegionIx) (way : Fin 16)
  /-- EPOCH_WRITE (R342). A write of EPOCH reaches every HOME of the partition within 100 cycles. -/
  | epochWrite (who : Who) (p : PartIx) (epoch : BitVec 16)
  /-- RD_SHARED (R355). A home serves an L2 read for a copy, granting S or E and snooping an owner. -/
  | rdShared (core : CoreIx) (line : NetLine)
  /-- RD_UNIQUE (R355). A home serves an L2 read for ownership, invalidating other copies and granting M. -/
  | rdUnique (core : CoreIx) (line : NetLine)
  /-- UPGRADE (R355). A home grants ownership of an S line, or serves it as RD_UNIQUE if the sender was removed. -/
  | upgrade (core : CoreIx) (line : NetLine)
  /-- MAKE_UNIQUE (R355). A home grants ownership without data, clearing any lost-line entry. -/
  | makeUnique (core : CoreIx) (line : NetLine)
  /-- RD_ONCE (R355). A home serves a non-caching read, snooping an owner to S. -/
  | rdOnce (src : Agent) (tag : Nat) (line : NetLine) (part ctx : Option Nat) (hint : Hint) (mask : BitVec 64)
  /-- WR_LINE (R355). A home invalidates the copies, writes the whole line and clears a LOST entry. -/
  | wrLine (src : Agent) (tag : Nat) (line : NetLine) (part ctx : Option Nat) (hint : Hint) (data : Line)
  /-- WR_PART (R355). A home invalidates the copies and merges a byte-enabled write. -/
  | wrPart (src : Agent) (tag : Nat) (line : NetLine) (part ctx : Option Nat) (hint : Hint) (data : Line) (mask : BitVec 64)
  /-- ATOMIC (R201). A home performs an atomic, including a floating-point add, as one indivisible line update. -/
  | atomic (src : Agent) (tag : Nat) (line : NetLine) (part ctx : Option Nat) (op : HintedOp) (data : Line) (mask : BitVec 64)
  /-- WB_DIRTY (R360). A home takes an M-line eviction, or discards it when crossed by a snoop or sent by a dead L2. -/
  | wbDirty (core : CoreIx) (line : Nat)
  /-- EVICT_CLEAN (R355). A home removes a clean copy from the snoop filter without answering. -/
  | evictClean (core : CoreIx) (line : Nat)
  /-- LOST_NOTE (R355). An L2's destroyed dirty copy makes the line LOST with a lost-line entry. -/
  | lostNote (core : CoreIx) (line : Nat)
  /-- SNP_SHARE (R356). An L2 keeps at most S and answers SNP_DATA or SNP_ACK. -/
  | snpShare (core : CoreIx) (line : SnpLine)
  /-- SNP_INV (R356). An L2 invalidates its copy and answers SNP_DATA or SNP_ACK, from its writeback buffer if needed. -/
  | snpInv (core : CoreIx) (line : SnpLine)
  /-- SNP_ACK (R355). A home receives a snoop answer without dirty data and proceeds toward closing the request. -/
  | snpAck (core : CoreIx) (line : Nat)
  /-- SNP_DATA (R355). A home receives a dirty line in answer to a snoop and writes or forwards it. -/
  | snpData (core : CoreIx) (line : Nat)
  /-- GRANT (R356). An L2 receives ownership without data and holds the line in M. -/
  | grant (core : CoreIx) (line : Nat) (evict : List (Nat × Bool))
  /-- COMP (R356). A requester receives a completion code, and an L2 frees its writeback buffer or raises a core access fault. -/
  | comp (dst : Agent) (line : NetLine) (tag : Nat)
  /-- DATA (R352). A requester receives line data with its grant. -/
  | data (dst : Agent) (line : NetLine) (tag : Nat) (evict : List (Nat × Bool))
  /-- SNOOP_TIMEOUT (R359). A snoop unanswered after SNOOP_LIMIT sets SNOOP_TIMEOUT and resets the silent core's partition. -/
  | snoopTimeout (h : HomeIx) (line : Nat) (core : CoreIx)
  /-- RECLAIM_ORDER (R361). Each home walks its filter for dead L2s and makes their E and M lines LOST. -/
  | reclaimOrder (h : HomeIx)
  /-- L2_FLUSH_LIMIT_EXPIRE (R362). An L2 not flushed within 100,000 cycles is declared dead. -/
  | l2FlushLimitExpire (core : CoreIx)
  /-- CORE_LOAD (R374). A core load is served from its buffer, L2 or home, or raises an exception. -/
  | coreLoad (n : CoreAt) (pa : BitVec 56) (size : Fin 9) (pbmt : Fin 4) (bad : Bool)
  /-- CORE_STORE (R374). A core store retires into the store buffer or the write-combining buffer. -/
  | coreStore (n : CoreAt) (pa : BitVec 56) (data : List Byte) (pbmt : Fin 4) (merge : Bool)
  /-- STORE_PERFORM (R373). A buffered store is written into its line in M and becomes visible to all. -/
  | storePerform (n : CoreIx) (i : SbPick)
  /-- WC_DRAIN (R375). A write-combining entry open 256 CK_CORE cycles, or displaced, drains as WR_LINE or WR_PART. -/
  | wcDrain (n : CoreIx) (i : Fin 8)
  /-- CORE_FENCE (R375). A FENCE orders accesses and waits for drained writes to complete. -/
  | coreFence (n : CoreIx) (pre : FencePre) (sr sw si so : Bool)
  /-- CORE_AMO (R376). An AMO is performed in the L2 or as an ATOMIC at the home. -/
  | coreAmo (n : CoreIx) (pa : BitVec 56) (size : Fin 9) (fn : AmoFn) (x : Word) (pbmt : Fin 4) (mark : AmoMark)
  /-- CORE_LR (R376). An LR reserves a weak normal cacheable line, or faults elsewhere. -/
  | coreLr (n : CoreIx) (pa : BitVec 56) (size : Fin 9) (pbmt : Fin 4) (mark : AmoMark)
  /-- CORE_SC (R376). An SC conditionally stores to its reservation, or faults off cacheable memory. -/
  | coreSc (n : CoreIx) (pa : BitVec 56) (data : List Byte) (pbmt : Fin 4) (mark : AmoMark)
  /-- STRICT_DEVICE_ACCESS (R371). A strict device access is performed once, in order, waiting for its response. -/
  | strictDeviceAccess (n : CoreIx) (lvl : Level) (pa : BitVec 56) (size : Fin 9) (store : Option (BitVec 64))
  /-- CORE_TRAP (R390). A trap leaves older buffered stores to be performed and discards younger ones. -/
  | coreTrap (n : CoreIx)
  /-- IMSIC_MSI (R389). An MSI write reaches an IMSIC file and may make a hart take an external interrupt. -/
  | imsicMsi (i : Nat)
  /-- CORE_WAKE (R505). An interrupt returns a power-gated core after 2,000 CK_SLOW cycles. -/
  | coreWake (n : CoreIx)
  /-- CORE_POWER_GATE (R505). A core in WFI for CORE_IDLE cycles drains its buffers, flushes its L2 and is power-gated. -/
  | corePowerGate (n : CoreIx)
  /-- CC_DROP (R387). A write of DROP in CC_CTRL drops every line of the cluster cache. -/
  | ccDrop (who : Who) (c : ClusterIx)
  /-- CC_ENABLE_WRITE (R385). A write of ENABLE = 0 in CC_CTRL drops every line and makes every read bypass the cache. -/
  | ccEnableWrite (who : Who) (c : ClusterIx) (enable : Bool)
  /-- ATC_MISS (R403). A request missing in the ATC merges with an outstanding miss or sends a walk to the HTU. -/
  | atcMiss (c : ClusterIx) (ctx : CtxIx) (va : Word) (tag : Nat) (need : Right)
  /-- HTU_WALK (R399). The HTU walks the context's page tables with non-caching PTE reads. -/
  | htuWalk (c : ClusterIx) (ctx : CtxIx) (vpage : Nat)
  /-- WALK_DONE (R400). The leaf is judged and installs a translation, answers XLATE or raises a page request. -/
  | walkDone (c : ClusterIx) (ctx : CtxIx) (vpage : Nat)
  /-- PR_HEAD_WRITE (R414). A write of XP_PR_HEAD frees room in the page request ring for waiting records. -/
  | prHeadWrite (who : Who) (p : PartIx) (head : BitVec 32)
  /-- PR_RESP_RETRY (R415). A RETRY answer makes every request of the entry walk again and frees the entry. -/
  | prRespRetry (who : Who) (p : PartIx) (id : BitVec 8)
  /-- PR_RESP_FAIL (R415). A FAIL answer makes every request of the entry answer XLATE and frees the entry. -/
  | prRespFail (who : Who) (p : PartIx) (id : BitVec 8)
  /-- PR_LIMIT_EXPIRE (R416). An entry unanswered within XP_PR_LIMIT answers XLATE and is freed. -/
  | prLimitExpire (p : PartIx) (ix : Fin 64)
  /-- INVALIDATION_GO (R410). A write of GO drops the walk cache and sends the invalidation to every ATC of the partition, or sets ERROR. -/
  | invalidationGo (who : Who) (p : PartIx) (ctrl : Word)
  /-- ATC_INV_ACK (R411). An ATC whose earlier requests are complete drops its cluster cache and acknowledges, and DONE follows on the last ack. -/
  | atcInvAck (p : PartIx) (c : ClusterIx)
  /-- INVALIDATION_LATE (R412). The 50 µs bound passes without every ack, so LATE is set and the partition is reset. -/
  | invalidationLate (p : PartIx)
  /-- CHECK_FLUSH (R408). A write of FLUSH drops the partition's context-check entries in every HOME. -/
  | checkFlush (who : Who) (p : PartIx)
  /-- PORT_TRAINING_START (R431). An I/O die out of reset with a locked PLL starts full training of a port. -/
  | portTrainingStart (f : FPort)
  /-- ECHO (R427). ECHO packets measure the round trip of the port. -/
  | echo (f : FPort) (rtt : Nat)
  /-- CAP (R428). A CAP packet exchanges capabilities and fails training on a mismatch. -/
  | cap (f : FPort) (g : List Byte)
  /-- KX (R432). KX packets carry the ML-KEM OFFER and ACCEPT of link key establishment. -/
  | kx (f : FPort) (p : List Byte)
  /-- PORT_TRAINING_DONE (R431). Port training ends, and credits and replay are sized, or the port enters FAILED. -/
  | portTrainingDone (f : FPort) (good : Fin 32) (late : Bool)
  /-- FRAME_RECEIVE (R430). A received frame is decrypted, checked, delivered or NAKed, and violations are counted. -/
  | frameReceive (f : FPort) (head body : List Byte) (errs : List (Fin 68 × Fin 80)) (rs : List (Fin 5))
  /-- FRAME_SILENCE (R430). No intact frame for 1,000 cycles starts a fast retrain. -/
  | frameSilence (f : FPort)
  /-- REKEY (R433). After 2^28 frames under one key the sender moves to the next key and toggles KEY_EPOCH. -/
  | rekey (f : FPort)
  /-- WAVELENGTH_LOSS (R448). Loss of light on a wavelength starts a fast retrain with the spare wavelength. -/
  | wavelengthLoss (f : FPort) (w : Fin 5)
  /-- RS_ERROR_WINDOW_END (R448). More than 16 uncorrectable codewords in the window fail the wavelength. -/
  | rsErrorWindowEnd (f : FPort)
  /-- PORT_RETRAIN (R431). A write of RETRAIN in PORT_CTRL starts a fast retrain, or a full training from FAILED. -/
  | portRetrain (who : Who) (f : FPort)
  /-- HOLD_LSA_TIMEOUT (R442). No LSA within 20,000 cycles drops the held packets. -/
  | holdLsaTimeout (f : FPort)
  /-- LSA (R434). A newer LSA is stored, forwarded and may release held packets. -/
  | lsa (f : FPort)
  /-- LSA_PERIODIC (R434). Every 1,000,000 cycles the device sends its LSA. -/
  | lsaPeriodic
  /-- LSA_AGE_OUT (R439). An origin whose LSA has not been refreshed for 3,000,000 cycles is removed from the map. -/
  | lsaAgeOut (origin : Word)
  /-- STARTER_ELECT (R436). After DISC_QUIET without a new origin, the lowest eligible DISC_ID takes the starter role and assigns IDs. -/
  | starterElect
  /-- DISC (R438). A DISC packet assigns a device ID or orders rediscovery and is forwarded. -/
  | disc (f : FPort)
  /-- REDISCOVER (R438). A write of REDISCOVER floods a DISC with OP 2 and discards IDs and bindings. -/
  | rediscover (who : Who)
  /-- MAP_CONVERGE (R439). After MAP_QUIET without change the map is converged and adaptive routes are used. -/
  | mapConverge
  /-- ROUTE_RECOMPUTE (R440). After a map change the device computes ROUTE_0 to ROUTE_3 for each destination. -/
  | routeRecompute
  /-- FABRIC_PACKET_SEND (R441). An admitted remote request chooses a route and is sent as a packet. -/
  | fabricPacketSend
  /-- FABRIC_PACKET_FORWARD (R441). An intermediate device forwards a packet by its ROUTE field. -/
  | fabricPacketForward (f : FPort)
  /-- FABRIC_RD (R444). The target router admits a remote read, issues RD_ONCE per line and answers DATA. -/
  | fabricRd (f : FPort)
  /-- FABRIC_WR (R444). The target router admits a whole-line remote write, issues WR_LINE per line and answers COMP. -/
  | fabricWr (f : FPort)
  /-- FABRIC_WR_PART (R444). The target router admits a byte-enabled remote write and answers COMP. -/
  | fabricWrPart (f : FPort)
  /-- FABRIC_ATOMIC (R444). The target router performs an integer or floating-point atomic and answers. -/
  | fabricAtomic (f : FPort)
  /-- FABRIC_COMP (R445). A remote completion reaches its source, carrying a code per line. -/
  | fabricComp (f : FPort)
  /-- FABRIC_DATA (R445). Remote read data or old values reach their source. -/
  | fabricData (f : FPort)
  /-- FAB_DNF_RAISE (R450). A write of FAB_DNF_RAISE raises a DNF for a valid job entry. -/
  | fabDnfRaise (who : Who) (job : BitVec 16)
  /-- DNF (R451). A DNF is forwarded and, on a matching entry, sets ABORTED and disables the job's contexts. -/
  | dnf (f : FPort)
  /-- CONFIG_REQUEST (R112). A PCI Express configuration request is answered with Retry Status before release, and served otherwise. -/
  | configRequest (f : FuncIx) (tag : BitVec 14) (off : BitVec 12) (write : Option (BitVec 32))
  /-- APERTURE_WRITE (R470). A memory write through an aperture is split into lines and issued, ordered under Relaxed Ordering. -/
  | apertureWrite (f : FuncIx) (off : BitVec 36) (data : List (Option Byte)) (ro : Bool) (tc : Fin 8)
  /-- APERTURE_READ (R470). A memory read through an aperture completes successfully or with Completer Abort. -/
  | apertureRead (f : FuncIx) (tag : BitVec 14) (off : BitVec 36) (len : Fin 4097) (tc : Fin 8) (atomicOp : Bool)
  /-- BAR0_CTRL_ACCESS (R469). A PF0 BAR0 access is a CTRL access from PF0. -/
  | bar0CtrlAccess (tag : BitVec 14) (off : BitVec 32) (size : Fin 9) (write : Option Word)
  /-- STAGING_BAR_ACCESS (R469). A PF0 BAR2 access reaches the staging pads in PHASE 8, and is aborted or discarded otherwise. -/
  | stagingBarAccess (tag : BitVec 14) (off : BitVec 29) (write : Option (List (Option Byte))) (len : Fin 4097)
  /-- APER_REGISTER_WRITE (R470). A write to APER_a sets the aperture, and an invalid ENABLE is ignored. -/
  | aperRegisterWrite (who : Who) (a : Fin 144) (w : Word)
  /-- FLR (R475). A Function Level Reset disables the contexts of the function and completes within 100 ms. -/
  | flr (f : FuncIx) (tag : BitVec 14)
  /-- VF_ENABLE_WRITE (R467). A write of VF Enable enables the VFs, or sets NO_ARI without ARI, and a clear acts as an FLR. -/
  | vfEnableWrite (tag : BitVec 14) (enable : Bool) (numVfs : Fin 33) (ari : Bool)
  /-- BUS_MASTER_CLEAR (R475). Clearing Bus Master Enable acts as an FLR of the function. -/
  | busMasterClear (f : FuncIx) (tag : BitVec 14)
  /-- HOT_RESET (R475). A Hot Reset or link down acts as an FLR of every function. -/
  | hotReset
  /-- POISONED_WRITE (R476). A poisoned memory write is discarded whole and counted. -/
  | poisonedWrite
  /-- UNEXPECTED_COMPLETION (R476). A received completion is an Unexpected Completion and is counted. -/
  | unexpectedCompletion
  /-- MALFORMED_TLP (R476). A malformed TLP is discarded and counted. -/
  | malformedTlp
  /-- PCI_NOTIFY (R473). A write of PCI_NOTIFY raises an MSI-X vector of a function, unless the vector is reserved. -/
  | pciNotify (who : Who) (func vec : BitVec 6)
  /-- MSIX_UNMASK (R473). Unmasking a vector with its Pending Bit set sends its MSI-X write. -/
  | msixUnmask (f : FuncIx) (v : Fin 64)
  /-- DVSEC_PARTITION_RESET (R477). A keyed DVSEC ACTION write requests a partition reset. -/
  | dvsecPartitionReset (tag : BitVec 14) (p : PartIx) (key : BitVec 8)
  /-- DVSEC_PACKAGE_RESET (R477). A keyed DVSEC ACTION write starts the package quiesce-and-reset. -/
  | dvsecPackageReset (tag : BitVec 14) (key : BitVec 8)
  /-- CRASH_DATA_READ (R477). A read of CRASH_DATA returns a crash-record dword and advances CRASH_SEL. -/
  | crashDataRead (tag : BitVec 14)
  /-- GX_RELEASE (R491). A GO of KIND 0 checks, debits and releases an aggregate table with withholding and noise. -/
  | gxRelease (who : Who) (p : VaultIx) (agree : Fin 3)
  /-- GX_EXPORT (R498). A GO of KIND 1 encrypts vault memory into a sealed export. -/
  | gxExport (who : Who) (p : VaultIx) (agree : Fin 3)
  /-- GX_IMPORT (R499). A GO of KIND 2 checks and decrypts a sealed container into the vault. -/
  | gxImport (who : Who) (p : VaultIx)
  /-- GX_CHUNK (R493). Both channels compare a chunk digest, and channel A writes the chunk or the vault enters BLOCKED. -/
  | gxChunk (p : VaultIx) (agree : Fin 3)
  /-- GX_DEST_HEAD_WRITE (R495). A write of HEAD frees room in the destination ring for a waiting operation. -/
  | gxDestHeadWrite (who : Who) (p : VaultIx) (head : BitVec 32)
  /-- ATTEST_REQUEST (R504). A GO in ATT_CTRL builds and signs a report with one level-1 leaf and writes it out. -/
  | attestRequest (who : Who) (w : Word)
  /-- NSE_HEALTH_FAIL (R500). A failed health or known-answer test stops the NSE and logs a SAFETY entry. -/
  | nseHealthFail (d : Fin 2) (which : Fin 3)
  /-- RAIL_LIMITER_TICK (R508). Every 10 CK_SLOW cycles the rail limiter raises or lowers the limit level from the current estimate. -/
  | railLimiterTick (d : Fin 9) (amps : Nat)
  /-- REGION_LIMITER_COMPARE (R512). Every 100 ticks the region level is compared against B_g and moved. -/
  | regionLimiterCompare (g : RegionIx) (watts : Nat)
  /-- CAPC_EPOCH (R512). At each epoch CAPC learns the phase signatures and sets the region budgets. -/
  | capcEpoch (watts : List Nat)
  /-- VR_ALERT_ASSERT (R510). An accepted VR_ALERT_N forces the rail group to its reduced state. -/
  | vrAlertAssert (j : DieIx)
  /-- VR_ALERT_HOLD_EXPIRE (R510). 1,000 cycles after the alert rises the group returns to the other controls. -/
  | vrAlertHoldExpire (j : DieIx)
  /-- THERMAL_SAMPLE (R513). Each junction sensor is read every 100 CK_SLOW cycles. -/
  | thermalSample (d : DieIx) (readings : List Int)
  /-- THERMAL_LEVEL_RISE (R513). A sensor at THROTTLE for 10,000 cycles raises the region's thermal level. -/
  | thermalLevelRise (z : Fin 33)
  /-- THERMAL_LEVEL_FALL (R513). 10,000 cycles with every sensor 3 °C below THROTTLE lower the thermal level. -/
  | thermalLevelFall (z : Fin 33)
  /-- THERMTRIP (R513). A sensor at TRIP asserts THERMTRIP_N, and MGMT stops every divided clock. -/
  | thermtrip (d : DieIx)
  /-- RAIL_SAMPLE (R514). Each rail's ADC is sampled every 1,000 cycles, and three out-of-window samples trigger the rail reaction. -/
  | railSample (n : RailIx) (mv : Nat)
  /-- PMBUS_POLL (R514). Every 100,000 cycles MGMT reads each regulator's telemetry over PMBus. -/
  | pmbusPoll (n : RailIx) (r : Option (Nat × Nat × Nat))
  /-- ERROR_REPORT (R517). A reported error is written to the error log and may raise the ELOG MSI. -/
  | errorReport
  /-- ELOG_SAFETY_CLEAR (R516). Clearing SAFETY in ELOG_STATUS releases FAULT_N unless another cause holds it. -/
  | elogSafetyClear (who : Who)
  /-- HEARTBEAT (R523). A die whose network probe returned sends a heartbeat with its snapshot to MGMT. -/
  | heartbeat (d : DieIx)
  /-- HEARTBEAT_LIMIT_EXPIRE (R521). No heartbeat within HB_LIMIT resets the die with trigger HEARTBEAT. -/
  | heartbeatLimitExpire (d : DieIx)
  /-- ENGINE_HANG_EXPIRE (R521). An engine idle on its tile for HANG_LIMIT resets the partition and captures a crash record. -/
  | engineHangExpire (e : Fin 960)
  /-- REQUEST_TIMEOUT (R522). A request unanswered at its requester's bound answers TIMEOUT. -/
  | requestTimeout (r : Requester)
  /-- FORCED_RESET_EXPIRE (R532). A partition not at RESET within the bound has every die it touches reset. -/
  | forcedResetExpire (p : PartIx)
  /-- DIE_RESET (R525). MGMT holds a die in reset, and its links go down and its partitions enter RESET. -/
  | dieReset (who : Who) (d : DieIx)
  /-- RESET_CTRL_DIE (R525). A keyed write of a DIE bit in RESET_CTRL requests a die reset. -/
  | resetCtrlDie (who : Who) (mask : BitVec 11) (key : BitVec 8)
  /-- RESET_CTRL_PACKAGE (R533). A keyed write of PACKAGE in RESET_CTRL starts the package quiesce-and-reset. -/
  | resetCtrlPackage (who : Who) (key : BitVec 8)
  /-- PACKAGE_DRAIN_DONE (R533). The drain ends, the crash record is captured and the package reset begins. -/
  | packageDrainDone
  /-- DIE_RELEASE (R527). After relock, training and reapplication of the image the die is released, or it becomes DEAD. -/
  | dieRelease (d : DieIx) (relocked : Bool) (bad : List (Fin 4))
  /-- I3C_ADDRESS_ASSIGN (R531). ENTDAA or SETDASA gives MGMT its I3C dynamic address. -/
  | i3cAddressAssign (static : Option (BitVec 7)) (addr : BitVec 7)
  /-- I3C_STATUS (R531). The vendor STATUS command returns DVSEC status bytes. -/
  | i3cStatus
  /-- I3C_CRASH_READ (R531). The vendor CRASH_READ command returns crash-record dwords. -/
  | i3cCrashRead (first : BitVec 16) (count : BitVec 8)
  /-- I3C_ELOG_READ (R531). The vendor ELOG_READ command returns error-log entries. -/
  | i3cElogRead (first : BitVec 16) (count : BitVec 8)
  /-- I3C_PARTITION_RESET (R531). The keyed vendor PARTITION_RESET command requests a partition reset. -/
  | i3cPartitionReset (key p : BitVec 8)
  /-- I3C_PACKAGE_RESET (R531). The keyed vendor PACKAGE_RESET command starts the package quiesce-and-reset. -/
  | i3cPackageReset (key : BitVec 8)
  /-- I3C_DIE_RESET (R531). The keyed vendor DIE_RESET command resets a die. -/
  | i3cDieReset (key d : BitVec 8)
  /-- I3C_ATTEST (R504). The vendor ATTEST command requests an attestation report over MCTP. -/
  | i3cAttest (p : PartIx) (package : Bool) (data : List Byte)
  /-- MCTP_CONTROL (R531). An MCTP control message is served by the MGMT endpoint. -/
  | mctpControl (m : MctpCtl)
  /-- PLDM_REQUEST (R531). A PLDM monitoring request returns sensor readings. -/
  | pldmRequest (x : Sensor)
  /-- BYPASS (R560). The BYPASS instruction selects the bypass register. -/
  | bypass
  /-- IDCODE (R560). The IDCODE instruction returns 0x1090_0B67. -/
  | idcode
  /-- SAMPLE_PRELOAD (R560). The SAMPLE/PRELOAD instruction samples or preloads the boundary register. -/
  | samplePreload (v : Word)
  /-- EXTEST (R560). EXTEST drives the boundary pins in PHASE 8 or 9, and acts as BYPASS otherwise. -/
  | extest (v : Word)
  /-- CLAMP (R560). CLAMP holds the boundary outputs in PHASE 8 or 9, and acts as BYPASS otherwise. -/
  | clamp
  /-- HIGHZ (R560). HIGHZ floats the outputs in PHASE 8 or 9, and acts as BYPASS otherwise. -/
  | highz
  /-- SYS_RST_N_DEASSERT (R524). SYS_RST_N rises, ending the held package reset so that start-up runs and its 2.5 s bound starts. -/
  | sysRstNDeassert
  /-- VR_ALERT_DEASSERT (R510). A VR_ALERT_N input rises, starting the 1,000 CK_SLOW cycle hold after which the group is released. -/
  | vrAlertDeassert (j : DieIx)
  /-- CHANNEL_TRAINING_LOST (R317). A T1 channel controller or DIMM controller loses training in service and retrains, mapping the T1 channel out or failing the DIMM channel if the retrain fails. -/
  | channelTrainingLost (ctl : CtlIx) (retrained : Bool)
  /-- REFCLK_STOP (R561). REFCLK stops while PWRGOOD is high, so MGMT and every die stop and only the trip comparator acts. -/
  | refclkStop
  /-- VDD_IO_FALL (R551). VDD_IO falls below 1.0 V, releasing the latched THERMTRIP_N. -/
  | vddIoFall
  /-- FLR_COMPLETE (R475). A Function Level Reset completes within 100 ms, and the function stops answering Unsupported Request and discarding its posted requests. -/
  | flrComplete (f : FuncIx)
  /-- PCIE_LINK_UP (R474). PCI Express link training reaches L0, and rate, width and flit mode are set in PCI_STATUS. -/
  | pcieLinkUp (rate : Fin 7) (width : Fin 3) (flit : Bool)
  deriving DecidableEq, Repr

end Sys2Proof
end

