-- ==== Sys2Proof/Decode.lean ====
section
/-! DEFINITION. Words and commands: spec/opcode_table.json gives no row bits, so no word spells a command. -/

namespace Sys2Proof

/-- The command that a word spells by the table's bits: none. -/
def decodeTableWord (_nbits _w : Nat) : Option Instr := none

end Sys2Proof
end

