-- ==== Sys2Proof/Config.lean ====
section
/-! DEFINITION. What the spec leaves to the part at hand or does not fix: constants without a body, so that nothing can
be proved about their values. A free value is one of these functions applied to the counter Dev.draws, or to the
operands it may depend on. -/

namespace Sys2Proof.Config

open Sys2Proof Sys2Proof.Machine

/-- A free value: any number, one for each draw. -/
opaque freeValue : Nat → Nat

/-- A result that the spec leaves open although the same descriptor, operands and seed always give the same one (R203): a function of
them. -/
opaque openResult : List Nat → Nat

/-- The symbols that the DRAM devices of a DIMM word hold at a power-on (R313): power-on count, cell address. -/
opaque openDram : Nat → Nat → Byte

/-- The refresh rate a DIMM controller runs at for a temperature (R319 names no threshold). -/
opaque refreshRate : Int → Nat

/-- What manufacture fuses into the part (R86): options, the key hashes of the four slots, the clusters' physical slots, the
spare maps, the wavelengths substituted (port, wavelength), the pad banks of each physical cluster (17 × die + slot, R102), the trims,
the DISC_ID (R434), CAPC's default budget in watts (R512), the identity seed. -/
opaque fuseOptions : Nat
opaque fuseKeyHash : List Nat
opaque fuseSlots : List Nat
opaque fuseSpares : List Spare
opaque fuseWaves : List (Nat × Nat)
opaque fuseBanks : Nat → BitVec 32
opaque fuseTrim : List Nat
opaque fuseDiscId : Nat
opaque fuseBudget : Nat
opaque fuseSeed : Nat

/-- Octair's PCI Vendor ID (R467, R477), which the spec does not state. -/
opaque vendorId : Nat

/-- Entropy of the noise sources (R500): the bytes that a DRBG instantiation takes, by draw. -/
opaque entropy : Nat → Nat

/-- Octair's published certificate for a DISC_ID names this level-0 public key (R503). -/
opaque octairCert : Nat → Nat → Bool

/-- The shared secret that ML-KEM-1024 gives for an encapsulation key and a ciphertext (R432). -/
opaque kemSecret : Nat → Nat → Nat

/-- What a noise sample would be whose rejection sampling (R492) ran past the model's bound on repetitions: cell, value. -/
opaque lateNoise : Nat → Nat → Int

end Sys2Proof.Config
end

