-- ==== Sys2Proof/Machine/State.lean ====
section
/-! DEFINITION. The state of the device: everything the spec gives it, as plain data, and the state right after reset.
The registers are one store (R16) keyed by RegId.key, in which an unlisted register holds the reset value of its map; the
stores of units are keyed by the unit's number, an unlisted unit being at its initial value. -/

namespace Sys2Proof.Machine

open Sys2Proof

/-- The reasons for which the model stops. -/
inductive Fault where
  /-- Raised by the meaning of a command whose payload has not the fixed shape the spec gives it (WellFormed): the spec has no such
  event. Every well-formed command has a next state. Safe: the model stops. -/
  | illFormed
  deriving DecidableEq, Repr

/-- The refusals. -/
inductive Refusal where
  /-- A command the model gives no meaning to, by its mnemonic: raised by Dispatch alone. Safe: the model stops. -/
  | notModelled (mnemonic : String)
  deriving DecidableEq, Repr

/-- A channel controller at start. -/
def ChanSt.init : ChanSt := ⟨[], [], false, [], [], 0, false, false, 0, 0, 0, [], 0⟩
/-- A hot-page table, empty. -/
def HotSt.init : HotSt := ⟨[], 0⟩
/-- An SC slice, empty. -/
def ScSt.init : ScSt := ⟨[], [], [], [], [], [], [], [], [], [], 0⟩
/-- A home, empty. -/
def HomeSt.init : HomeSt := ⟨[], [], [], [], [], false, [], []⟩

/-- An L2, empty. -/
def L2St.init : L2St := ⟨[], [], [], false⟩

/-- A hart at reset. -/
def Hart.init : Hart := ⟨[], [], [], none, .none, [], [], false, 0, false, true, 0⟩

/-- No page requests. -/
def PrSt.init : PrSt := ⟨[], [], [], []⟩

/-- A queue, a context, a partition at reset. -/
def QueueSt.init : QueueSt := ⟨[], [], 0, [], none, none, none, false, 0, false⟩
def Pacer.init : Pacer := ⟨false, 0, 0, 0, 0, 0, 0, 0, 0, 0, 0, 0, false, none⟩
def CtxSt.init : CtxSt := ⟨none, 0, .none, 0, false, 0, none, false, ⟨0, 0, 0⟩, .init⟩
def VaultSt.init : VaultSt := ⟨0, [], [], none, false, none⟩
def PartSt.init : PartSt := ⟨[], [], 0, none, false, false⟩

/-- The device: everything the spec gives it but the fuses' own bits. -/
structure Dev where
  /-- REFCLK cycles since power-on, as MGMT counts them (R517): one for each idle step -/
  time : Nat
  /-- the model's own counter of free values drawn; not the spec's -/
  draws : Nat
  /-- names the contents that unwritten DIMM words hold (R313): one more at each power-off and at each change of the DIMM decode -/
  powerOns : Nat
  regs : SMap Word
  mem : Mem
  /-- 1 GiB units of HOSTMEM written since power-on (R313) -/
  t2Units : List Nat
  /-- generations of HOSTMEM units: what every unit has advanced, and each unit beyond it, and the count
  of each unit at its last full pass (R314) -/
  ugenAll : Nat
  ugen : SMap Nat
  ugenBase : SMap Nat
  /-- the channel list under which the words of HOSTMEM lie in their DIMMs (R321) -/
  t2Map : List Nat
  chans : SMap ChanSt
  hots : SMap HotSt
  /-- age stamps that homes have still to write (R341): home, partition, page, EPOCH -/
  stampsDue : List (Nat × Nat × Nat × Nat)
  /-- migration notices on their way to the tier blocks (R344): the partition and the record without GEN -/
  notices : List (Nat × List Byte)
  mapouts : List MapOut
  scs : SMap ScSt
  scOut : List ScDone
  /-- pad rows that await substitution: cluster × 16384 + bank × 512 + row; corrections of a pad word since its last
  write (R152) -/
  padMarked : List Nat
  padCorr : SMap Nat
  /-- pad rows that images have substituted since power-on (R102); the pads of physical clusters that serve no cluster (17 × die + slot,
  R34): bank map, spare rows used; and the physical slot whose pad each cluster has -/
  padTaken : List Spare
  padAside : SMap (Nat × Nat × Nat)
  padSeat : SMap Nat
  /-- SPARE entries that images have put in force beside the fused ones since the last load of the fuses (R102) -/
  applied : List Spare
  homes : SMap HomeSt
  /-- ranges that the homes guard for a running GX operation (R490): vault ↦ record base, length, bitmap base, length -/
  gxGuard : SMap (Nat × Nat × Nat × Nat)
  l2s : SMap L2St
  ccs : SMap (List CcLine)
  harts : SMap Hart
  msis : List Msi
  /-- MSIs refused, by senders that have no register for the count (R57); doorbell writes of engines on their way to their queue
  managers (R56): partition, queue, word -/
  msiRefused : SMap Nat
  doorbells : List (Nat × Nat × Word)
  atcs : SMap (List AtcEntry)
  /-- walks at the HTU, and its walk cache (R399), the most recent entry first -/
  walks : List Walk
  wcache : List WalkEntry
  prs : SMap PrSt
  invs : SMap InvSt
  /-- the tile on each engine, by the engine's number; the addresses answered XLATE after a wait, by their waiter's number -/
  engs : SMap Tile
  xfail : SMap (List Nat)
  /-- remote requests not yet sent, and answers that their engines have not yet used -/
  remQ : List RemReq
  remSent : List RemReq
  remDone : List RemDone
  /-- answers that a requester discarded because its bound had passed or the device was lost, by its number (R60, R449) -/
  late : SMap Nat
  net : List NetMsg
  recs : SMap PartRec
  /-- error reports on their way to MGMT (R517), and, per block, when it last reported a CORRECTED entry and its count since -/
  reports : List ErrRep
  corr : SMap (Nat × Nat)
  /-- IMSIC interrupt files: core × 16 + page, the identities pending (R389) -/
  files : SMap (List Nat)
  parts : SMap PartSt
  queues : SMap QueueSt
  ctxs : SMap CtxSt
  /-- the deque of each cluster, head first, and the table queue of each region (R285, R288) -/
  deques : SMap (List Tile)
  tableQs : SMap (List Tile)
  /-- the matrix tile on each logical array, by its lowest-numbered array -/
  arrays : SMap MxRun
  /-- the weight registers of the cells, by logical array (R118, R133); none listed: all zero -/
  cells : SMap CellSt
  /-- logical arrays powering up, by lowest array (R148, R505) -/
  powering : List Nat
  /-- arrays whose due self-test waits for their next power-up (R541), and when each array was last tested (R540) -/
  dueTests : List Nat
  lastTests : SMap Nat
  /-- clusters whose staging area has held a tile's data since their pad was zeroed -/
  padUsed : List Nat
  /-- generate requests that the DRBG of each I/O die has served since its last seeding (R500) -/
  nseUsed : SMap Nat
  /-- memory keys of partitions in force (R483); seals of vaults -/
  memKeys : SMap Nat
  vaults : SMap VaultSt
  /-- start-up and reload; MGMT's view of the dies; the die-to-die link ends; the optical ports and the router; the PCI Express
  port; attestation; power control; pins -/
  boot : BootSt
  /-- the fuses as loaded at the last start-up (R86) -/
  fused : Fuses
  dies : SMap DieSt
  links : SMap LinkSt
  ports : SMap PortSt
  fab : FabSt
  pci : PciSt
  att : AttSt
  pwr : PwrSt
  pins : PinSt
  /-- crash records captured since power-on (R529); a package quiesce-and-reset under way: when it was asked for, its trigger and
  die (R533) -/
  crashes : Nat
  drain : Option (Nat × Nat × Nat)
  out : List Out
  deriving DecidableEq, Repr

/-- The state of the model: the commands that wait, the fuse array (R86), and the device. Only a command that burns a fuse
writes the fuse array; no command writes the queue. -/
structure State where
  /-- commands that wait, first in first out -/
  pending : List Instr
  /-- the fuse array of the part (R86) -/
  fuses : Fuses
  dev : Dev
  deriving DecidableEq, Repr

/-- Units at power-on. -/
def BootSt.init : BootSt := ⟨0, 0, 0, [], 0, [], false, false, false, [], [], none, none, none, 0⟩
def DieSt.init : DieSt := ⟨0, [], [], 0, 0, 0, false, 0, 0, 0xFF, false⟩
def LinkSt.init : LinkSt := ⟨0, [], 0, [], [], false, false, 255, false, 0, [], [], [], 0, []⟩
def DirKey.init : DirKey := ⟨[], [], 0, 0, false⟩
def PortSt.init : PortSt :=
  ⟨false, 0, [], [], [], [], [], 0, false, .init, .init, 0, [], 65535, false, 0, [], [], [], List.replicate 13 0, 0, List.replicate 13 0, 0, List.replicate 13 0, 0, [], none, 0, 0, []⟩
def FabSt.init : FabSt := ⟨[], [], 0, [], 0, [], [], true, [], 0, []⟩
def PciFn.init : PciFn := ⟨false, [], [], none⟩
def PciSt.init : PciSt := ⟨[], 0, 0, []⟩
def AttSt.init : AttSt := ⟨0, [], [], [], 0, false, false, [], []⟩
def LimSt.init : LimSt := ⟨[], 0⟩
def ZoneSt.init : ZoneSt := ⟨0, []⟩
def PwrSt.init : PwrSt := ⟨[], [], [], [], [], [], [], [], [], [], [], []⟩
def PinSt.init : PinSt := ⟨false, false, false, false, true, true, 0, 0, 0, 0, none, 0, false⟩

/-- The device in power-on reset: every register at the reset value of its map (R20), memory with nothing listed, every unit at
its initial value, PWRGOOD low. -/
def Dev.reset : Dev where
  time := 0
  draws := 0
  powerOns := 0
  regs := []
  mem := ⟨[], [], []⟩
  t2Units := []
  ugenAll := 0
  ugen := []
  ugenBase := []
  t2Map := []
  chans := []
  hots := []
  stampsDue := []
  notices := []
  mapouts := []
  scs := []
  scOut := []
  padMarked := []
  padCorr := []
  padTaken := []
  padAside := []
  padSeat := []
  applied := []
  homes := []
  gxGuard := []
  l2s := []
  ccs := []
  harts := []
  msis := []
  msiRefused := []
  doorbells := []
  atcs := []
  walks := []
  wcache := []
  prs := []
  invs := []
  engs := []
  xfail := []
  remQ := []
  remSent := []
  remDone := []
  late := []
  net := []
  recs := []
  reports := []
  corr := []
  files := []
  parts := []
  queues := []
  ctxs := []
  deques := []
  tableQs := []
  arrays := []
  cells := []
  powering := []
  dueTests := []
  lastTests := []
  padUsed := []
  nseUsed := []
  memKeys := []
  vaults := []
  boot := .init
  fused := ⟨0, 0, 0, [], 0, [], [], [], [], 0, 0, 0⟩
  dies := []
  links := []
  ports := []
  fab := .init
  pci := .init
  att := .init
  pwr := .init
  pins := .init
  crashes := 0
  drain := none
  out := []

/-- The fuses of a part as made: what manufacture writes is the part's own (constants of Config); no image has advanced the floor or
revoked a key, and no attestation bit is burned. -/
def Fuses.made : Fuses where
  options := Config.fuseOptions
  rollback := 0
  revoked := 0
  keyHash := Config.fuseKeyHash
  attNext := 0
  slots := Config.fuseSlots
  spares := Config.fuseSpares
  waves := Config.fuseWaves
  trim := Config.fuseTrim
  discId := Config.fuseDiscId
  capcBudget := Config.fuseBudget
  seed := Config.fuseSeed

/-- The state right after reset: an empty queue, a part as made, the device in power-on reset. -/
def State.reset : State := ⟨[], .made, .reset⟩

end Sys2Proof.Machine
end

