-- ==== Sys2Proof/Machine/Ops.lean ====
section
/-! DEFINITION. Named operations over the state that every family shares: registers and their fields, free values,
messages sent, error reports, message-signalled interrupts. -/

namespace Sys2Proof.Machine

open Sys2Proof

/-- The field's value in a register's word (R5). -/
def Fld.get (f : Fld) (w : Word) : Nat := bitsOf w.toNat f.lo f.width

/-- The word with the field set to the low bits of a value, its other bits unchanged. -/
def Fld.put (f : Fld) (w : Word) (v : Nat) : Word :=
  let m : Word := BitVec.ofNat 64 (2 ^ f.width - 1) <<< f.lo
  (w &&& ~~~m) ||| (BitVec.ofNat 64 (v % 2 ^ f.width) <<< f.lo)

/-- A register's value: the listed one, or the reset value of its map. -/
def Dev.reg (s : Dev) (r : RegName) (i : Nat) : Word :=
  SMap.get s.regs (BitVec.ofNat 64 r.resetValue) (RegId.key ⟨r, i⟩)

/-- A register set whole. -/
def Dev.setReg (s : Dev) (r : RegName) (i : Nat) (w : Word) : Dev :=
  { s with regs := SMap.set s.regs (RegId.key ⟨r, i⟩) w }

/-- A field of unit i's register. -/
def Dev.fld (s : Dev) (f : Fld) (i : Nat) : Nat := f.get (s.reg f.reg i)

/-- A field set. -/
def Dev.setFld (s : Dev) (f : Fld) (i v : Nat) : Dev := s.setReg f.reg i (f.put (s.reg f.reg i) v)

/-- A one-bit field as a truth value. -/
def Dev.flag (s : Dev) (f : Fld) (i : Nat) : Bool := s.fld f i == 1

/-- A one-bit field set. -/
def Dev.setFlag (s : Dev) (f : Fld) (i : Nat) (b : Bool) : Dev := s.setFld f i (if b then 1 else 0)

/-- A counting field raised, saturating at its largest value. -/
def Dev.count (s : Dev) (f : Fld) (i n : Nat) : Dev := s.setFld f i (satAdd (2 ^ f.width - 1) (s.fld f i) n)

/-- A counting field raised, wrapping at its width. -/
def Dev.bump (s : Dev) (f : Fld) (i n : Nat) : Dev := s.setFld f i (s.fld f i + n)

/-- The register of unit i returned to the reset value of its map. -/
def Dev.clearReg (s : Dev) (r : RegName) (i : Nat) : Dev := { s with regs := SMap.del s.regs (RegId.key ⟨r, i⟩) }

/-- Every register that a test names returned to its reset value. -/
def Dev.clearRegs (s : Dev) (p : Nat → Bool) : Dev := { s with regs := SMap.delWhere s.regs p }

/-- A free value below a bound (the bound positive), and the state with the counter moved on. -/
def Dev.free (s : Dev) (bound : Nat) : Nat × Dev :=
  (Config.freeValue s.draws % bound, { s with draws := s.draws + 1 })

/-- A free truth value. -/
def Dev.freeBool (s : Dev) : Bool × Dev :=
  let r := s.free 2
  (r.1 == 1, r.2)

/-- A message sent out of the device. -/
def Dev.emit (s : Dev) (o : Out) : Dev := { s with out := s.out ++ [o] }

/-- A message sent between a home and a requester. -/
def Dev.send (s : Dev) (m : NetMsg) : Dev := { s with net := s.net ++ [m] }

/-- The first message that meets a test taken from the list, if there is one. -/
def takeFirst {α : Type} (p : α → Bool) : List α → Option (α × List α)
  | [] => none
  | x :: xs =>
    if p x then some (x, xs)
    else match takeFirst p xs with
      | some (y, ys) => some (y, x :: ys)
      | none => none

/-- The unit stores, each read with its initial value. -/
def Dev.chan (s : Dev) (c : Nat) : ChanSt := SMap.get s.chans .init c
def Dev.setChan (s : Dev) (c : Nat) (x : ChanSt) : Dev := { s with chans := SMap.set s.chans c x }
def Dev.sc (s : Dev) (g : Nat) : ScSt := SMap.get s.scs .init g
def Dev.setSc (s : Dev) (g : Nat) (x : ScSt) : Dev := { s with scs := SMap.set s.scs g x }
def Dev.home (s : Dev) (h : Nat) : HomeSt := SMap.get s.homes .init h
def Dev.setHome (s : Dev) (h : Nat) (x : HomeSt) : Dev := { s with homes := SMap.set s.homes h x }

/-- The state of a die as DIE_STATE shows it (R525): 0 RUN, 1 RESET, 2 DEAD. -/
def Dev.dieState (s : Dev) (d : Nat) : Nat := bitsOf (s.fld F.DIE_STATE_STATE 0) (2 * d) 2

/-- A die out of reset whose divided clocks run: its PLL is locked (R66, R67, R525). -/
def Dev.dieRuns (s : Dev) (d : Nat) : Bool := s.dieState d == 0 && s.flag F.CLK_STATUS_PLL_LOCK d

/-- DIE_STATE with a die's entry set. -/
def Dev.setDieState (s : Dev) (d v : Nat) : Dev :=
  let w := s.fld F.DIE_STATE_STATE 0
  s.setFld F.DIE_STATE_STATE 0 (w - (bitsOf w (2 * d) 2 <<< (2 * d)) + ((v % 4) <<< (2 * d)))

/-- The die of a global region, of a channel, of a cluster (R61). -/
def dieOfRegion (g : Nat) : Nat := g / 4
def regionOfChan (c : Nat) : Nat := c / 8
def regionOfCluster (c : Nat) : Nat := c / 4

/-! Error reports (R516–R518). -/

/-- A report sent to MGMT: a CONTAINED report is counted at its die. -/
def Dev.report (s : Dev) (e : ErrRep) : Dev :=
  let s := if e.cls = 1 then s.count F.DIE_ERR_COUNTS_CONTAINED e.die 1 else s
  { s with reports := s.reports ++ [e] }

/-- The block of a report as a number: die, BLOCK code, unit. -/
def blockKey (die block unit : Nat) : Nat := die * 1048576 + block * 65536 + unit

/-- A corrected word: counted at its die, and reported at most once per block per 1,000,000 CK_SLOW cycles (R516). -/
def Dev.reportCorrected (s : Dev) (die block unit code : Nat) (part : Option Nat) (addr : Nat) : Dev :=
  let k := blockKey die block unit
  let s := s.count F.DIE_ERR_COUNTS_CORRECTED die 1
  match SMap.find s.corr k with
  | some (t, n) =>
    if s.time < t + 1000000 then { s with corr := SMap.set s.corr k (t, n + 1) }
    else { s with corr := SMap.set s.corr k (s.time, 0) }.report ⟨0, die, part, block, code, none, addr, n + 1⟩
  | none => { s with corr := SMap.set s.corr k (s.time, 0) }.report ⟨0, die, part, block, code, none, addr, 1⟩

/-! The order of response codes (R59), as register and log fields number them. -/

/-- The number of a response code: OK 0, then the order of the table of R59. -/
def Resp.num : Resp → Nat
  | .ok => 0 | .dataErr => 1 | .dataLost => 2 | .homeAbsent => 3 | .perm => 4 | .xlate => 5 | .ctxMismatch => 6 | .timeout => 7

/-- The precedence of R60 among the codes its answerers give: the first that applies has the lower rank. -/
def Resp.rank : Resp → Nat
  | .xlate => 0 | .homeAbsent => 1 | .ctxMismatch => 2 | .perm => 3 | .dataLost => 4 | .dataErr => 5 | .ok => 6 | .timeout => 7

/-- Of two codes, the one that R60 puts first. -/
def Resp.first (a b : Resp) : Resp := if a.rank ≤ b.rank then a else b

end Sys2Proof.Machine
end

