-- ==== Sys2Proof/Machine/AddressMap.lean ====
section
/-! DEFINITION. The physical address space (file 02): address forms, the local map, windows and interleave, ownership, and
the index of a code word in the memory store. -/

namespace Sys2Proof.Machine

open Sys2Proof

/-- The partition that owns a global region (R98). -/
def Dev.partOfRegion (s : Dev) (g : Nat) : Option Nat :=
  (s.recs.find? (fun e => bitOf e.2.regions g)).map (·.1)

/-- The partition that owns a core group (R98). -/
def Dev.partOfGroup (s : Dev) (n : Nat) : Option Nat :=
  (s.recs.find? (fun e => bitOf e.2.groups n)).map (·.1)

/-- The partition of a core (R61). -/
def Dev.partOfCore (s : Dev) (n : Nat) : Option Nat := s.partOfGroup (n / 4)

/-- The partition of a context (R98). -/
def Dev.partOfCtx (s : Dev) (c : Nat) : Option Nat :=
  (s.recs.find? (fun e => decide (e.2.ctxBase ≤ c ∧ c < e.2.ctxBase + e.2.ctxCount))).map (·.1)

/-- The record in force of a partition. -/
def Dev.partRec (s : Dev) (p : Nat) : Option PartRec := SMap.find s.recs p

/-- A partition is a vault (R98). -/
def Dev.isVault (s : Dev) (p : Nat) : Bool := match s.partRec p with | some r => r.vault | none => false

/-- The regions of a partition, ascending. -/
def Dev.regionsOf (s : Dev) (p : Nat) : List Nat :=
  match s.partRec p with
  | some r => (List.range 32).filter (bitOf r.regions)
  | none => []

/-- The clusters of a partition's regions, ascending (R61). -/
def Dev.clustersOf (s : Dev) (p : Nat) : List Nat :=
  (s.regionsOf p).flatMap (fun g => [4 * g, 4 * g + 1, 4 * g + 2, 4 * g + 3])

/-- The cores of a partition's core groups, ascending (R61). -/
def Dev.coresOf (s : Dev) (p : Nat) : List Nat :=
  match s.partRec p with
  | some r => ((List.range 16).filter (bitOf r.groups)).flatMap (fun n => [4 * n, 4 * n + 1, 4 * n + 2, 4 * n + 3])
  | none => []

/-- The channel list of a partition: its in-service channels in ascending order (R51). -/
def Dev.chanList (s : Dev) (p : Nat) : List Nat :=
  (s.regionsOf p).flatMap (fun g =>
    (List.range 8).filterMap (fun k => if s.flag F.CH_STATUS_IN_SERVICE (8 * g + k) then some (8 * g + k) else none))

/-- Bytes of a channel (R51). -/
def chanBytes : Nat := 8 * 2 ^ 30

/-- The partition whose NEAR window holds an address, with the window's base and its channel list (R50). -/
def Dev.windowOf (s : Dev) (a : Nat) : Option (Nat × Nat × List Nat) :=
  (s.recs.findSome? fun e =>
    let l := s.chanList e.1
    if e.2.nearBase ≤ a ∧ a < e.2.nearBase + l.length * chanBytes then some (e.1, e.2.nearBase, l) else none)

/-- Near decode (R51): the channel and its offset, from the offset in the window. -/
def nearDecode (l : List Nat) (off : Nat) : Nat × Nat :=
  let k := off / 4096
  (l.getD (k % l.length) 0, (k / l.length) * 4096 + off % 4096)

/-- The DIMM channels of the channel list (R321). -/
def Dev.dimmList (s : Dev) : List Nat := (List.range 12).filter (s.flag F.T2_STATUS_USED)

/-- Cmin of R321, in GiB: the smallest capacity among the listed channels. -/
def Dev.dimmMin (s : Dev) : Nat :=
  match s.dimmList.map (s.fld F.T2_STATUS_CAPACITY) with
  | [] => 0
  | c :: cs => cs.foldl Nat.min c

/-- The populated HOSTMEM capacity in bytes (R48, R321). -/
def Dev.hostBytes (s : Dev) : Nat := s.dimmList.length * s.dimmMin * 2 ^ 30

/-- HOSTMEM decode (R321): the DIMM channel and its offset. -/
def Dev.hostDecode (s : Dev) (o : Nat) : Nat × Nat :=
  let l := s.dimmList
  let k := o / 4096
  (l.getD (k % l.length) 0, (k / l.length) * 4096 + o % 4096)

/-- The offset in HOSTMEM of a DIMM channel's offset: the inverse of R321. -/
def Dev.hostOffset (s : Dev) (m choff : Nat) : Nat :=
  let l := s.dimmList
  ((choff / 4096) * l.length + l.findIdx (· == m)) * 4096 + choff % 4096

/-- The partition that owns a HOSTMEM offset (R48, R103). -/
def Dev.hostOwner (s : Dev) (o : Nat) : Option Nat :=
  (s.recs.find? fun e => decide (e.2.hostOff * 2 ^ 30 ≤ o ∧ o < (e.2.hostOff + e.2.hostSize) * 2 ^ 30)).map (·.1)

/-- The base addresses of R47. -/
def hostBase : Nat := 0x080000000000
def padBase : Nat := 0x100000000000
def ctrlBase : Nat := 0x180000000000
def ctrlLimit : Nat := 0x1800AFFFFFFF

/-- The size of a cluster's pad: 128 KiB per bank in service (R151). -/
def Dev.padSize (s : Dev) (c : Nat) : Nat := s.fld F.CL_PAD_STATUS_BANKS c * 131072

/-- Where a local-form address leads (R47–R51): a T1 word of a window (its partition, channel and channel offset), a
HOSTMEM offset with its owner, a pad offset with its owner, CTRL, or no home. -/
inductive Place where
  | near (part chan choff : Nat)
  | host (owner : Option Nat) (off : Nat)
  | pad (part cluster off : Nat)
  | ctrl (off : Nat)
  | absent
  deriving DecidableEq, Repr

/-- The decode of a local-form address. -/
def Dev.place (s : Dev) (a : Nat) : Place :=
  if a < 0x020000000000 then
    match s.windowOf a with
    | some (p, base, l) => let d := nearDecode l (a - base); .near p d.1 d.2
    | none => .absent
  else if hostBase ≤ a ∧ a < 0x100000000000 then
    if a - hostBase < s.hostBytes then .host (s.hostOwner (a - hostBase)) (a - hostBase) else .absent
  else if padBase ≤ a ∧ a < padBase + 0x20000000 then
    let c := (a - padBase) / 0x400000
    match s.partOfRegion (c / 4) with
    | some p => if (a - padBase) % 0x400000 < s.padSize c then .pad p c ((a - padBase) % 0x400000) else .absent
    | none => .absent
  else if ctrlBase ≤ a ∧ a ≤ ctrlLimit then .ctrl (a - ctrlBase)
  else .absent

/-- A 56-bit address in remote form (R41). -/
def remoteForm (a : Nat) : Bool := bitOf a 55

/-- The device's own ID, when discovery has assigned one. -/
def Dev.ownId (s : Dev) : Option Nat :=
  if s.flag F.FAB_SELF_ASSIGNED 0 then some (s.fld F.FAB_SELF_DEVICE_ID 0) else none

/-- The local-form address that a request stands for (R43, R44): a local-form address with bits [54:45] clear, or a remote
form that names the device's own ID; none for a reserved local form or another device. -/
def Dev.localForm (s : Dev) (a : Nat) : Option Nat :=
  if remoteForm a then
    if s.ownId = some (bitsOf a 45 10) then some (bitsOf a 0 45) else none
  else if bitsOf a 45 10 = 0 then some (bitsOf a 0 45) else none

/-- Ownership of R48–R50 under R562: the party a request is made for. None stands for a request of the device for PF0 or
MGMT: it reaches every owned place but a vault's. -/
def Dev.ownsPlace (s : Dev) (party : Option Nat) : Place → Bool
  | .near p _ _ => match party with | some q => p == q | none => !s.isVault p
  | .host o _ => match o, party with
    | some p, some q => p == q
    | some p, none => !s.isVault p
    | none, _ => false
  | .pad p _ _ => match party with | some q => p == q | none => !s.isVault p
  | .ctrl _ => false
  | .absent => false

/-! The index of a code word in the memory store. -/

/-- The word at a T1 channel offset, a HOSTMEM offset, a pad offset. -/
def t1Word (chan choff : Nat) : Nat := chan * 2 ^ 30 + choff / 8
def t2Word (off : Nat) : Nat := 2 ^ 38 + off / 8
def padWord (cluster off : Nat) : Nat := 2 ^ 41 + cluster * 2 ^ 19 + off / 8

/-- The home of a line (R346): the region's HOME, or the HOSTMEM home slice by the address hash. -/
def homeOfPlace (a : Nat) : Place → Option Nat
  | .near _ c _ => some (c / 8)
  | .host _ _ => some (32 + ((bitsOf a 6 4 ^^^ bitsOf a 10 4) ^^^ bitsOf a 14 4))
  | _ => none

/-- The die a home sits on. -/
def dieOfHome (h : Nat) : Nat := if h < 32 then h / 4 else 8

end Sys2Proof.Machine
end

