-- ==== Sys2Proof/Machine/Routes.lean ====
section
/-! DEFINITION. The wiring of the dies (R26, R71), the links in service between them, the die routes of the image (R27, R81, R101), and
whether a die reaches another. -/

namespace Sys2Proof.Machine

open Sys2Proof

/-- Groups of n elements. -/
def groups {α : Type} (n : Nat) : Nat → List α → List (List α)
  | 0, _ => []
  | k + 1, l => l.take n :: groups n k (l.drop n)

/-- The joined pairs of dies, with their number of links. -/
def diePairs : List (Nat × Nat × Nat) :=
  [(0, 1, 4), (1, 2, 4), (2, 3, 4), (4, 5, 4), (5, 6, 4), (6, 7, 4), (0, 4, 4), (1, 5, 4), (2, 6, 4), (3, 7, 4),
   (0, 8, 2), (1, 8, 2), (2, 8, 2), (3, 8, 2), (4, 9, 8), (7, 10, 8), (5, 9, 4), (6, 10, 4)]

/-- How many links join two dies. -/
def linkCount (a b : Nat) : Nat :=
  match diePairs.find? (fun e => (e.1 == a && e.2.1 == b) || (e.1 == b && e.2.1 == a)) with
  | some e => e.2.2
  | none => 0

/-- The links of a die in order of L: partner, and index within the pair. -/
def linksOf (d : Nat) : List (Nat × Nat) := (List.range 11).flatMap (fun p => (List.range (linkCount d p)).map (fun i => (p, i)))

/-- The partner die of a link end, its index within the pair, and the end at the partner. -/
def partnerOf (e : Nat) : Option (Nat × Nat × Nat) :=
  match (linksOf (e / 16))[e % 16]? with
  | some (p, i) => some (p, i, 16 * p + (linksOf p).idxOf (e / 16, i))
  | none => none

/-- Every link end of a die. -/
def endsOf (d : Nat) : List Nat := (List.range (linksOf d).length).map (16 * d + ·)

/-- The in-service link ends of a pair of dies at one of them, in ascending L (R80). -/
def Dev.pairLinks (s : Dev) (a b : Nat) : List Nat :=
  (endsOf a).filter (fun e => match partnerOf e with | some (p, _, _) => p == b && s.flag F.LINK_STATUS_IN_SERVICE e | none => false)

/-- The ends of the pair that a link end belongs to, at its own die. -/
def pairEnds (e : Nat) : List Nat :=
  (endsOf (e / 16)).filter (fun k => (partnerOf k).map (·.1) == (partnerOf e).map (·.1))

def Dev.link (s : Dev) (e : Nat) : LinkSt := SMap.get s.links .init e
def Dev.setLink (s : Dev) (e : Nat) (x : LinkSt) : Dev := { s with links := SMap.set s.links e x }
def Dev.linkState (s : Dev) (e : Nat) : Nat := s.fld F.LINK_STATUS_STATE e

/-- The list of an end's pair is to change: its die sends no new flits to the partner (R80 step 1). -/
def Dev.pairChanging (s : Dev) (e : Nat) : Bool := (pairEnds e).any (fun k => (s.link k).leaving || (s.link k).joining)

/-- The link of a line between two joined dies, from their list (R80). -/
def Dev.linkOfLine (s : Dev) (a b addr : Nat) : Option Nat :=
  let l := s.pairLinks a b
  l[(bitsOf addr 6 8 ^^^ bitsOf addr 14 8) % l.length]?

def otherEnd (e : Nat) : Nat := match partnerOf e with | some (_, _, f) => f | none => e
def linkExists (e : Nat) : Bool := (partnerOf e).isSome

/-- The die route of the image for an ordered pair of dies (R27, R101): the dies after the source, the destination last. -/
def Dev.dieRoute (s : Dev) (a b : Nat) : Option (List Nat) :=
  let ents := (s.boot.records.filter (fun r => r.type == 4)).flatMap (fun r => groups 8 ((r.bytes.length - 16) / 8) (r.bytes.drop 16))
  (ents.find? (fun e => fieldAt e 0 1 == 0 && fieldAt e 1 1 == a && fieldAt e 2 1 == b)).map (fun e =>
    (((bytesAt e 3 4).map (·.toNat)).filter (· != 0xFF)) ++ [b])

/-- The die a message from a die to another crosses first: the other where a link of the pair is in service, else the first of the image's
route (R81). -/
def Dev.firstHop (s : Dev) (a b : Nat) : Option Nat :=
  if !(s.pairLinks a b).isEmpty then some b
  else match s.dieRoute a b with
    | some (h :: _) => if (s.pairLinks a h).isEmpty then none else some h
    | _ => none

/-- Die to die: a way of in-service links from a die to another (R27, R81). -/
def Dev.reaches (s : Dev) (a b : Nat) : Bool :=
  if !(s.pairLinks a b).isEmpty then true
  else match s.dieRoute a b with
    | some r => ((a :: r).zip r).all (fun e => !(s.pairLinks e.1 e.2).isEmpty)
    | none => false

/-- The pairs of dies that traffic from a die to another crosses (R27, R81). -/
def Dev.hops (s : Dev) (a b : Nat) : List (Nat × Nat) :=
  if a = b then []
  else if !(s.pairLinks a b).isEmpty then [(a, b)]
  else match s.dieRoute a b with
    | some r => (a :: r).zip r
    | none => []

/-- What a die sends to another about a line is held: on its way, the line's link is in training, or a pair's list is about to change
(R78, R80, R84). -/
def Dev.wayHeld (s : Dev) (a b addr : Nat) : Bool :=
  (s.hops a b).any (fun h => match s.linkOfLine h.1 h.2 addr with
    | some e => s.linkState e == 1 || s.pairChanging e
    | none => false)

/-- The die that a requester sits on. -/
def agentDie : Agent → Option Nat
  | .core _ | .htu => some 8
  | .mxa a => some (a / 64)
  | .vxe c | .spe c | .mve c => some (c / 16)
  | .tbe g | .cde g | .queueMgr g => some (g / 4)
  | .home h => some (dieOfHome h)
  | .pcie _ | .mgmt => none
  | .fabric d => some d
  | .gx _ => some 9

/-- The die that a requester's traffic enters the network at: the port and MGMT sit on I/O die 0. -/
def agentGate (a : Agent) : Nat := (agentDie a).getD 9

/-- The dies from which a request goes out: a read of GX is made by both channels, channel B from I/O die 1 (R491). -/
def agentGates (a : Agent) (k : ReqKind) : List Nat :=
  match a, k with
  | .gx _, .rdOnce => [9, 10]
  | _, _ => [agentGate a]

/-- A way leads from a die to another: they are one, or R27 and R81 join them. -/
def Dev.joined (s : Dev) (a b : Nat) : Bool := a == b || s.reaches a b

/-- The I/O die of a fabric port (R419). -/
def dieOfPort (f : Nat) : Nat := 9 + f / 24

/-- The die that serves a place. -/
def Place.die : Place → Option Nat
  | .near _ c _ => some (c / 32)
  | .host _ _ => some 8
  | .pad _ c _ => some (c / 16)
  | .ctrl _ | .absent => none

/-- The dies a request goes out from reach the die of a place (R81). -/
def Dev.placeReached (s : Dev) (a : Agent) (k : ReqKind) (pl : Place) : Bool :=
  match pl.die with
  | none => true
  | some d => (agentGates a k).all (fun g => s.joined g d)

/-- A request for a place waits at its source: a link of its way trains or changes (R78, R80, R84). -/
def Dev.placeHeld (s : Dev) (a : Agent) (k : ReqKind) (pl : Place) (addr : Nat) : Bool :=
  match pl.die with
  | none => false
  | some d => (agentGates a k).any (fun g => s.wayHeld g d addr)

end Sys2Proof.Machine
end

