-- ==== Sys2Proof/Machine/Sha.lean ====
section
/-! DEFINITION. SHA-256 and HMAC-SHA-256, which the spec names for its measurements, tags and key derivations. The round constants
and the initial values are computed from the primes they stand for. -/

namespace Sys2Proof.Machine

open Sys2Proof

/-- The first n primes from a candidate on, with fuel. -/
def primesFrom : Nat → Nat → Nat → List Nat
  | 0, _, _ => []
  | _ + 1, 0, _ => []
  | f + 1, n + 1, c =>
    if (List.range c).all (fun d => d < 2 || c % d != 0) then c :: primesFrom f n (c + 1) else primesFrom f (n + 1) (c + 1)

/-- The largest r below 2^k with r^e ≤ x, bit by bit from the top. -/
def rootBits (e x : Nat) : Nat → Nat → Nat
  | 0, r => r
  | k + 1, r => if (r + 2 ^ k) ^ e ≤ x then rootBits e x k (r + 2 ^ k) else rootBits e x k r

/-- The first 32 bits of the fraction of the e-th root of a number. -/
def rootWord (e p : Nat) : BitVec 32 := BitVec.ofNat 32 (rootBits e (p * 2 ^ (32 * e)) 40 0)

def shaPrimes : List Nat := primesFrom 320 64 2
def shaK : List (BitVec 32) := shaPrimes.map (rootWord 3)
def shaInit : List (BitVec 32) := (shaPrimes.take 8).map (rootWord 2)

def rotr (x : BitVec 32) (n : Nat) : BitVec 32 := x.rotateRight n

/-- The message schedule beyond its first sixteen words: l holds the words so far, latest first. -/
def shaSchedule : Nat → List (BitVec 32) → List (BitVec 32)
  | 0, l => l.reverse
  | n + 1, l =>
    let w := fun i => l.getD i 0
    let s0 := rotr (w 14) 7 ^^^ rotr (w 14) 18 ^^^ (w 14 >>> 3)
    let s1 := rotr (w 1) 17 ^^^ rotr (w 1) 19 ^^^ (w 1 >>> 10)
    shaSchedule n ((w 15 + s0 + w 6 + s1) :: l)

/-- One round over the eight working words. -/
def shaRound (h : List (BitVec 32)) (kw : BitVec 32 × BitVec 32) : List (BitVec 32) :=
  match h with
  | [a, b, c, d, e, f, g, x] =>
    let s1 := rotr e 6 ^^^ rotr e 11 ^^^ rotr e 25
    let ch := (e &&& f) ^^^ (~~~e &&& g)
    let t1 := x + s1 + ch + kw.1 + kw.2
    let s0 := rotr a 2 ^^^ rotr a 13 ^^^ rotr a 22
    let mj := (a &&& b) ^^^ (a &&& c) ^^^ (b &&& c)
    [t1 + s0 + mj, a, b, c, d + t1, e, f, g]
  | l => l

/-- A big-endian 32-bit word of four bytes. -/
def beWord (bs : List Byte) : BitVec 32 := BitVec.ofNat 32 (bs.foldl (fun n b => n * 256 + b.toNat) 0)

/-- The big-endian bytes of a number. -/
def beBytes (n v : Nat) : List Byte := (leBytes n v).reverse

/-- One 64-byte block. -/
def shaBlock (h : List (BitVec 32)) (blk : List Byte) : List (BitVec 32) :=
  let w0 := (List.range 16).map (fun i => beWord ((blk.drop (4 * i)).take 4))
  let w := shaSchedule 48 w0.reverse
  let r := (shaK.zip w).foldl shaRound h
  (h.zip r).map (fun p => p.1 + p.2)

def shaBlocks : Nat → List (BitVec 32) → List Byte → List (BitVec 32)
  | 0, h, _ => h
  | n + 1, h, bs => shaBlocks n (shaBlock h (bs.take 64)) (bs.drop 64)

/-- SHA-256. -/
def sha256 (m : List Byte) : List Byte :=
  let pad := (119 - m.length % 64) % 64
  let bs := m ++ [0x80] ++ List.replicate pad 0 ++ beBytes 8 (8 * m.length)
  (shaBlocks (bs.length / 64) shaInit bs).flatMap (fun w => beBytes 4 w.toNat)

/-- HMAC-SHA-256. -/
def hmacSha256 (key m : List Byte) : List Byte :=
  let k := bytesAt (if key.length > 64 then sha256 key else key) 0 64
  let x := fun (c : Byte) => k.map (fun b => b ^^^ c)
  sha256 (x 0x5C ++ sha256 (x 0x36 ++ m))

end Sys2Proof.Machine
end

