-- ==== Sys2Proof/Machine/Aes.lean ====
section
/-! DEFINITION. The ciphers the spec names by their standards: AES-256 (FIPS 197), AES-256-GCM (SP 800-38D), the counter-mode
KDF of SP 800-108r1 with HMAC-SHA-256. The standards' own text is not part of the spec (log entry). -/

namespace Sys2Proof.Machine

open Sys2Proof

/-- Doubling in GF(2^8) modulo x^8 + x^4 + x^3 + x + 1. -/
def xtime (a : Nat) : Nat := if a < 128 then 2 * a else (2 * a) % 256 ^^^ 0x1B

/-- A product in GF(2^8), over n bits of the second factor. -/
def gmul (a b : Nat) : Nat → Nat
  | 0 => 0
  | n + 1 => (if b % 2 = 1 then a else 0) ^^^ gmul (xtime a) (b / 2) n

/-- Powers of the generator 3, from a start. -/
def gpows : Nat → Nat → List Nat
  | 0, _ => []
  | n + 1, x => x :: gpows n (x ^^^ xtime x)

/-- The multiplicative inverse by the powers of 3: the inverse of 3^i is 3^(255 − i). -/
def ginv (ps : List Nat) (a : Nat) : Nat := if a = 0 then 0 else ps.getD ((255 - ps.idxOf a) % 255) 0

/-- The affine map of SubBytes. -/
def affine (b : Nat) : Nat :=
  let rot := fun n => (b * 2 ^ n) % 256 ||| b / 2 ^ (8 - n)
  b ^^^ rot 1 ^^^ rot 2 ^^^ rot 3 ^^^ rot 4 ^^^ 0x63

/-- The S-box, as a table. -/
def aesSbox : List Nat :=
  let ps := gpows 255 1
  (List.range 256).map (fun a => affine (ginv ps a))

def subByte (b : Nat) : Nat := aesSbox.getD b 0

/-- The key schedule of AES-256: words from the eighth, latest first. -/
def aesExpand : Nat → Nat → Nat → List (List Nat) → List (List Nat)
  | 0, _, _, ws => ws
  | n + 1, i, rcon, ws =>
    let t := ws.getD 0 []
    let b := ws.getD 7 []
    let t := if i % 8 = 0 then
        let r := (t.drop 1 ++ t.take 1).map subByte
        (r.headD 0 ^^^ rcon) :: r.drop 1
      else if i % 8 = 4 then t.map subByte else t
    aesExpand n (i + 1) (if i % 8 = 0 then xtime rcon else rcon) (List.zipWith (· ^^^ ·) b t :: ws)

/-- The fifteen round keys of 16 bytes. -/
def aesKeys (key : List Byte) : List (List Nat) :=
  let k := (bytesAt key 0 32).map (·.toNat)
  let ws := (aesExpand 52 8 1 (groups 4 8 k).reverse).reverse
  (groups 4 15 ws).map List.flatten

/-- ShiftRows: byte 4c + r of the result is byte 4((c + r) mod 4) + r. -/
def shiftRows (st : List Nat) : List Nat := (List.range 16).map (fun i => st.getD (4 * ((i / 4 + i % 4) % 4) + i % 4) 0)

/-- MixColumns. -/
def mixColumns (st : List Nat) : List Nat :=
  (groups 4 4 st).flatMap (fun c => (List.range 4).map (fun r =>
    let x := fun i => c.getD ((r + i) % 4) 0
    xtime (x 0) ^^^ (xtime (x 1) ^^^ x 1) ^^^ x 2 ^^^ x 3))

/-- The rounds over the remaining round keys; the last has no MixColumns. -/
def aesRounds : List (List Nat) → List Nat → List Nat
  | [], st => st
  | [k], st => List.zipWith (· ^^^ ·) (shiftRows (st.map subByte)) k
  | k :: ks, st => aesRounds ks (List.zipWith (· ^^^ ·) (mixColumns (shiftRows (st.map subByte))) k)

/-- One block enciphered under expanded keys. -/
def aesBlock (ks : List (List Nat)) (blk : List Byte) : List Byte :=
  let st := List.zipWith (· ^^^ ·) ((bytesAt blk 0 16).map (·.toNat)) (ks.headD [])
  (aesRounds ks.tail st).map (BitVec.ofNat 8)

/-- AES-256-Encrypt of one block. -/
def aes256 (key blk : List Byte) : List Byte := aesBlock (aesKeys key) blk

/-- A byte string as a number, first byte most significant. -/
def beNat (bs : List Byte) : Nat := bs.foldl (fun n b => n * 256 + b.toNat) 0

/-- The product of GCM: bit 127 of a number is the first bit of the block. -/
def ghashMul (x h : Nat) : Nat → Nat → Nat
  | 0, _ => 0
  | n + 1, v => (if bitOf x n then v else 0) ^^^ ghashMul x h n (v / 2 ^^^ (if v % 2 = 1 then 0xE1 * 2 ^ 120 else 0))

/-- GHASH over whole blocks. -/
def ghash (h : Nat) (blocks : List (List Byte)) : Nat := blocks.foldl (fun y b => ghashMul (y ^^^ beNat b) h 128 h) 0

/-- 16-byte blocks of a byte string, the last padded with zeros. -/
def blocks16 (bs : List Byte) : List (List Byte) := (groups 16 (ceilDiv bs.length 16) bs).map (fun b => bytesAt b 0 16)

/-- The key stream of counter mode from a counter, over n blocks, XORed to a byte string. -/
def gcmStream (ks : List (List Nat)) (iv : List Byte) (bs : List Byte) : List Byte :=
  (List.range (ceilDiv bs.length 16)).flatMap (fun i =>
    List.zipWith (· ^^^ ·) ((bs.drop (16 * i)).take 16) (aesBlock ks (iv ++ beBytes 4 (i + 2))))

/-- The tag over additional data and ciphertext. -/
def gcmTag (ks : List (List Nat)) (iv aad ct : List Byte) : List Byte :=
  let h := beNat (aesBlock ks (List.replicate 16 0))
  let y := ghash h (blocks16 aad ++ blocks16 ct ++ [beBytes 8 (8 * aad.length) ++ beBytes 8 (8 * ct.length)])
  beBytes 16 (y ^^^ beNat (aesBlock ks (iv ++ beBytes 4 1)))

/-- AES-256-GCM: ciphertext and tag, for a 12-byte IV. -/
def gcmSeal (key iv aad pt : List Byte) : List Byte × List Byte :=
  let ks := aesKeys key
  let ct := gcmStream ks iv pt
  (ct, gcmTag ks iv aad ct)

/-- The plaintext, where the tag verifies. -/
def gcmOpen (key iv aad ct tag : List Byte) : Option (List Byte) :=
  let ks := aesKeys key
  if gcmTag ks iv aad ct = tag then some (gcmStream ks iv ct) else none

/-- The bytes of a label, one ASCII code a character. -/
def ascii (s : String) : List Byte := s.toList.map (fun c => BitVec.ofNat 8 c.toNat)

/-- The counter-mode KDF with HMAC-SHA-256 (R432, R483): a 32-bit counter before the label, the context and the length after it. -/
def kdf (key : List Byte) (label : String) (ctx : List Byte) (n : Nat) : List Byte :=
  ((List.range (ceilDiv n 32)).flatMap (fun i =>
    hmacSha256 key (beBytes 4 (i + 1) ++ ascii label ++ [0] ++ ctx ++ beBytes 4 (8 * n)))).take n

end Sys2Proof.Machine
end

