-- ==== Sys2Proof/Machine/Ecc.lean ====
section
/-! DEFINITION. The 80/64 code (R305–R309): arithmetic in GF(2⁸), the check symbols of a word, and the class of a read. -/

namespace Sys2Proof.Machine

/-- α times a field element (R306: polynomial 0x11D). -/
def gfDouble (a : Byte) : Byte := if a.msb then (a <<< 1) ^^^ 0x1D#8 else a <<< 1

/-- αⁿ times a field element. -/
def gfShift : Nat → Byte → Byte
  | 0, a => a
  | n + 1, a => gfShift n (gfDouble a)

/-- The product in GF(2⁸), over the bits of the second factor. -/
def gfMul (a b : Byte) : Byte :=
  (List.range 8).foldl (fun acc i => if b.getLsbD i then acc ^^^ gfShift i a else acc) 0

/-- a raised to 2ⁿ. -/
def gfSquares : Nat → Byte → Byte
  | 0, a => a
  | n + 1, a => gfSquares n (gfMul a a)

/-- The inverse a²⁵⁴ of a nonzero field element. -/
def gfInv (a : Byte) : Byte :=
  (List.range 7).foldl (fun acc i => gfMul acc (gfSquares (i + 1) a)) 1

/-- Byte i of a word. -/
def wordByte (w : Word) (i : Nat) : Byte := (w >>> (8 * i)).setWidth 8

/-- The word of eight bytes, byte 0 lowest. -/
def wordOfBytes (bs : List Byte) : Word := BitVec.ofNat 64 (leNat (bytesAt bs 0 8))

/-- The ten symbols of a data word under a fold (R305, R306). -/
def encodeSymbols (d : Word) (fold : BitVec 16) : List Byte :=
  let ds := (List.range 8).map (wordByte d)
  let P := ds.foldl (· ^^^ ·) (fold.setWidth 8)
  let Q := (List.range 8).foldl (fun acc i => acc ^^^ gfShift i (wordByte d i)) ((fold >>> 8).setWidth 8)
  let c8 := gfMul (Q ^^^ gfShift 9 P) (gfInv (gfShift 8 1 ^^^ gfShift 9 1))
  ds ++ [c8, P ^^^ c8]

/-- The class of a word read (R308). -/
inductive WordClass where
  | clean
  | correctedBit (sym : Nat)
  | correctedSymbol (sym : Nat)
  | stale
  | uncorrectable
  deriving DecidableEq, Repr

/-- The CLASS code of CH_ERR_ADDR (0 for CLEAN). -/
def WordClass.code : WordClass → Nat
  | .clean => 0 | .correctedBit _ => 1 | .correctedSymbol _ => 2 | .stale => 3 | .uncorrectable => 4

/-- The symbol L of a corrected word. -/
def WordClass.symbol : WordClass → Nat
  | .correctedBit l => l | .correctedSymbol l => l | _ => 0

/-- The word cannot be delivered: STALE or UNCORRECTABLE. -/
def WordClass.bad : WordClass → Bool
  | .stale => true | .uncorrectable => true | _ => false

/-- The word was delivered corrected. -/
def WordClass.corrected : WordClass → Bool
  | .correctedBit _ => true | .correctedSymbol _ => true | _ => false

/-- Bits set in a byte. -/
def popcount8 (b : Byte) : Nat := (List.range 8).foldl (fun n i => if b.getLsbD i then n + 1 else n) 0

/-- Classification of ten symbols under a fold, with the symbols as delivered (R308). -/
def classify (sy : List Byte) (fold : BitVec 16) : WordClass × List Byte :=
  let s := fun i => (sy[i]?).getD 0
  let S0 := (List.range 10).foldl (fun acc i => acc ^^^ s i) (fold.setWidth 8)
  let S1 := (List.range 10).foldl (fun acc i => acc ^^^ gfShift i (s i)) ((fold >>> 8).setWidth 8)
  if S0 = 0 then (if S1 = 0 then (.clean, sy) else (.stale, sy))
  else
    match (List.range 10).find? (fun l => gfShift l S0 == S1) with
    | some l =>
      (if popcount8 S0 = 1 then .correctedBit l else .correctedSymbol l, sy.set l (s l ^^^ S0))
    | none => (.uncorrectable, sy)

/-- The data word of ten symbols. -/
def dataOf (sy : List Byte) : Word := wordOfBytes (sy.take 8)

end Sys2Proof.Machine
end

