-- ==== Sys2Proof/Machine/Dram.lean ====
section
/-! DEFINITION. The code words of the two tiers of DRAM and of the pads (file 11): their folds and generations, the
controllers' bursts and classes, the reorder queues, the patrol scrub, the hot-page table. -/

namespace Sys2Proof.Machine

open Sys2Proof

/-- The fold of a stored word under a generation (R307): by its index in the memory store. Pad words have none. -/
def foldGen (w gen : Nat) : BitVec 16 :=
  if w < 2 ^ 41 then
    let z : Word := if w < 2 ^ 38 then BitVec.ofNat 64 ((w / 2 ^ 30) * 2 ^ 40 + w % 2 ^ 30) else BitVec.ofNat 64 (2 ^ 48 + (w - 2 ^ 38))
    let h := mix z
    BitVec.ofNat 16 (bitsOf h.toNat 0 8 + ((bitsOf h.toNat 8 8 ^^^ (gen % 256)) * 256))
  else 0

/-- The generation before another (R311). -/
def genBefore (g : Nat) : Nat := (g + 255) % 256

/-- What the scrub makes of a word under the generation in force (R311): corrected when it corrects, zero data under the
generation before when STALE, unchanged otherwise. -/
def scrubSymbols (w gen : Nat) (sy : List Byte) : List Byte :=
  match classify sy (foldGen w gen) with
  | (.stale, _) => encodeSymbols 0 (foldGen w (genBefore gen))
  | (.correctedBit _, sy') => sy'
  | (.correctedSymbol _, sy') => sy'
  | _ => sy

/-- What an unlisted cell holds, where the spec gives it: a T1 word zero data under the generation of its channel's last
fill (R313), a pad word zero (R152). None for a word of HOSTMEM, whose bits are open until written (R313). -/
def Mem.dflt (m : Mem) (a : Nat) : Option Byte :=
  let w := a / 16
  if w < 2 ^ 38 then (encodeSymbols 0 (foldGen w (SMap.get m.fill 255 (w / 2 ^ 30))))[a % 16]?
  else if w < 2 ^ 41 then none
  else some 0

/-- The ten symbols an unwritten word of HOSTMEM holds: the open bits of its power-on, as the full passes of the scrub
since then have left them (R313, R314). -/
def Mem.openSymbols (m : Mem) (pow w : Nat) : List Byte :=
  (SMap.get m.t2Pass [] ((w - 2 ^ 38) / 2 ^ 27)).foldl (fun sy g => scrubSymbols w g sy)
    ((List.range 10).map fun i => Config.openDram pow (16 * w + i))

/-- The ten symbols of a word. -/
def Mem.symbols (m : Mem) (pow w : Nat) : List Byte :=
  (List.range 10).map fun i =>
    match SMap.find m.cells (16 * w + i) with
    | some b => b
    | none => match m.dflt (16 * w + i) with
      | some b => b
      | none => ((m.openSymbols pow w)[i]?).getD 0

/-- One cell written, the canonical form kept: a cell that equals what an unlisted one reads as is not listed. -/
def Mem.put (m : Mem) (a : Nat) (b : Byte) : Mem :=
  if m.dflt a = some b then { m with cells := SMap.del m.cells a } else { m with cells := SMap.set m.cells a b }

/-- The ten symbols of a word written. -/
def Mem.putSymbols (m : Mem) (w : Nat) (sy : List Byte) : Mem :=
  (List.range 10).foldl (fun m i => m.put (16 * w + i) ((sy[i]?).getD 0)) m

/-- The canonical form: addresses strictly rising, and no entry equal to what an unlisted address reads as. -/
def Mem.wf (m : Mem) : Bool :=
  SMap.rising m.cells && m.cells.all (fun e => !decide (m.dflt e.1 = some e.2))

/-- The words with a listed cell among those a test names. -/
def Mem.wordsWhere (m : Mem) (p : Nat → Bool) : List Nat := ((m.cells.map (fun e => e.1 / 16)).filter p).dedup

/-- A channel's words rewritten under a new fill: every listed word of the channel as a function gives it. -/
def Mem.refill (m : Mem) (chan gen : Nat) (ws : List (Nat × List Byte)) : Mem :=
  let m' : Mem := { m with cells := m.cells.filter (fun e => !decide (e.1 / 16 / 2 ^ 30 = chan)), fill := SMap.set m.fill chan gen }
  ws.foldl (fun m e => m.putSymbols e.1 e.2) m'

/-- The generation in force of a stored word: WGEN as its channel holds it, UGEN of its unit (R312). -/
def Dev.ugenOf (s : Dev) (unit : Nat) : Nat := (s.ugenAll + SMap.get s.ugen 0 unit) % 256

def Dev.genOf (s : Dev) (w : Nat) : Nat :=
  if w < 2 ^ 38 then s.fld F.CH_GEN_WGEN (w / 2 ^ 30)
  else if w < 2 ^ 41 then s.ugenOf ((w - 2 ^ 38) / 2 ^ 27)
  else 0

/-- The fold of a word now. -/
def Dev.foldOf (s : Dev) (w : Nat) : BitVec 16 := foldGen w (s.genOf w)

/-- The symbols a word holds, and its class and data on a read (R308). -/
def Dev.symbolsOf (s : Dev) (w : Nat) : List Byte := s.mem.symbols s.powerOns w

def Dev.readWord (s : Dev) (w : Nat) : WordClass × Word :=
  let r := classify (s.symbolsOf w) (s.foldOf w)
  (r.1, dataOf r.2)

/-- Symbols stored. -/
def Dev.putSymbols (s : Dev) (w : Nat) (sy : List Byte) : Dev := { s with mem := s.mem.putSymbols w sy }

/-- A data word stored under the generation in force (R312). -/
def Dev.writeWord (s : Dev) (w : Nat) (d : Word) : Dev := s.putSymbols w (encodeSymbols d (s.foldOf w))

/-- Faults that arise in a stored word: symbols changed by an error pattern (R305). -/
def Dev.upset (s : Dev) (w sym : Nat) (x : Byte) : Dev :=
  let sy := s.symbolsOf w
  s.putSymbols w (sy.set sym (((sy[sym]?).getD 0) ^^^ x))

/-! Map-out of a T1 channel: the trigger (R317, R318). -/

/-- The partition whose window holds a channel. -/
def Dev.partOfChan (s : Dev) (c : Nat) : Option Nat := s.partOfRegion (c / 8)

/-- A map-out is under way or waits for a channel. -/
def Dev.mapoutPending (s : Dev) (c : Nat) : Bool := s.mapouts.any (fun m => m.chan == c)

/-- Homes of a partition told to hold, or no longer to hold, new window requests (R318 steps 1 and 5). -/
def Dev.holdHomes (s : Dev) (p : Nat) (b : Bool) : Dev :=
  (s.regionsOf p).foldl (fun s g => s.setHome g { s.home g with held := b }) s

/-- The first map-out of each window starts when none of that window runs: its homes hold (R317, R318). -/
def Dev.startMapouts (s : Dev) : Dev :=
  s.mapouts.foldl (fun s m =>
    if m.started then s
    else
      let p := s.partOfChan m.chan
      if s.mapouts.any (fun n => n.started && s.partOfChan n.chan == p) then s
      else
        let s := { s with mapouts := s.mapouts.map (fun n => if n.chan = m.chan then { n with started := true } else n) }
        match p with
        | some q => s.holdHomes q true
        | none => s) s

/-- A channel is to leave service with a cause, which CAUSE shows from the trigger on: at once where no partition owns its region, else by the
sequence of R318, one at a time in each window. A channel already out, or with a map-out pending, stays as it is. -/
def Dev.mapOut (s : Dev) (c cause : Nat) : Dev :=
  if !s.flag F.CH_STATUS_IN_SERVICE c || s.mapoutPending c then s
  else match s.partOfChan c with
    | none => (s.setFlag F.CH_STATUS_IN_SERVICE c false).setFld F.CH_STATUS_CAUSE c cause
    | some _ => ({ s.setFld F.CH_STATUS_CAUSE c cause with mapouts := s.mapouts ++ [MapOut.mk c cause false] } : Dev).startMapouts

/-! Classes counted by a controller (R310, R565). -/

/-- A word read by a T1 controller: counted under its class and recorded; a corrected word written back in place. -/
def Dev.t1Seen (s : Dev) (c w : Nat) (k : WordClass) (sy : List Byte) : Dev :=
  let choff := (w % 2 ^ 30) * 8
  let part := s.partOfChan c
  let mark := fun (s : Dev) =>
    ((s.setFld F.CH_ERR_ADDR_OFFSET c choff).setFld F.CH_ERR_ADDR_CLASS c k.code).setFld F.CH_ERR_ADDR_SYMBOL c k.symbol
  match k with
  | .clean => s
  | .correctedBit _ => (mark ((s.count F.CH_ERR_CORR_BIT c 1).putSymbols w sy)).reportCorrected (c / 32) 4 c 1 part 0
  | .correctedSymbol _ => (mark ((s.count F.CH_ERR_CORR_SYMBOL c 1).putSymbols w sy)).reportCorrected (c / 32) 4 c 2 part 0
  | .stale => mark (s.count F.CH_ERR_STALE c 1)
  | .uncorrectable => mark (s.count F.CH_ERR_UNCORRECTABLE c 1)

/-- UE_LIMIT of a T1 channel reached starts its map-out, cause 3 (R317); 0 turns the rule off. -/
def Dev.t1Limit (s : Dev) (c : Nat) : Dev :=
  let l := s.fld F.CH_CTRL_UE_LIMIT c
  if l ≠ 0 ∧ l ≤ s.fld F.CH_ERR_UNCORRECTABLE c then s.mapOut c 3 else s

/-- A word read by DIMM controller m. An UNCORRECTABLE word of a unit not written since power-on does not count toward
UE_LIMIT (R313). -/
def Dev.t2Seen (s : Dev) (m w : Nat) (k : WordClass) (sy : List Byte) : Dev :=
  let off := (w - 2 ^ 38) * 8
  let mark := fun (s : Dev) =>
    ((s.setFld F.T2_ERR_ADDR_OFFSET m off).setFld F.T2_ERR_ADDR_CLASS m k.code).setFld F.T2_ERR_ADDR_SYMBOL m k.symbol
  match k with
  | .clean => s
  | .correctedBit _ => (mark ((s.count F.T2_ERR_CORR_BIT m 1).putSymbols w sy)).reportCorrected 8 15 m 1 (s.hostOwner off) 0
  | .correctedSymbol _ => (mark ((s.count F.T2_ERR_CORR_SYMBOL m 1).putSymbols w sy)).reportCorrected 8 15 m 2 (s.hostOwner off) 0
  | .stale => mark (s.count F.T2_ERR_STALE m 1)
  | .uncorrectable =>
    let s := mark (s.count F.T2_ERR_UNCORRECTABLE m 1)
    if s.t2Units.contains (off / 2 ^ 30) then
      s.setChan (256 + m) { s.chan (256 + m) with ue := (s.chan (256 + m)).ue + 1 }
    else s

/-- A DIMM channel fails in service (R323): FAILED, and an entry of class CONTAINED. -/
def Dev.dimmFail (s : Dev) (m : Nat) : Dev :=
  if s.flag F.T2_STATUS_FAILED m then s
  else (s.setFlag F.T2_STATUS_FAILED m true).report ⟨1, 8, none, 15, 1, none, 0, 0⟩

/-- UE_LIMIT of a DIMM channel reached by a word counted just now, ue standing at n before it (R323): a channel that has trained again since
serves until its next such word. -/
def Dev.t2Limit (s : Dev) (m n : Nat) : Dev :=
  let l := s.fld F.T2_LIMIT_UE_LIMIT m
  if l ≠ 0 ∧ l ≤ (s.chan (256 + m)).ue ∧ n < (s.chan (256 + m)).ue then s.dimmFail m else s

/-- A controller's count of one word of its channel. -/
def Dev.seen (s : Dev) (ctl w : Nat) : Bool × Word × Dev :=
  let r := classify (s.symbolsOf w) (s.foldOf w)
  (r.1.bad, dataOf r.2, if ctl < 256 then s.t1Seen ctl w r.1 r.2 else s.t2Seen (ctl - 256) w r.1 r.2)

/-- The words of a burst, by controller and burst number. -/
def Dev.burstWord (s : Dev) (ctl blk : Nat) : Nat :=
  if ctl < 256 then t1Word ctl (blk * 256) else t2Word (s.hostOffset (ctl - 256) (blk * 256))

/-- The limit of a controller judged after words it has read, from what it counted before them. -/
def Dev.limit (s : Dev) (ctl n : Nat) : Dev := if ctl < 256 then s.t1Limit ctl else s.t2Limit (ctl - 256) n

/-- The UNCORRECTABLE words of written units that a controller has counted (R323). -/
def Dev.ueOf (s : Dev) (ctl : Nat) : Nat := (s.chan ctl).ue

/-- A burst read (R315, R320, R565): every word classified, counted and, where corrected, written back. -/
def Dev.burstRead (s : Dev) (ctl blk : Nat) : List (Bool × Word) × Dev :=
  let w0 := s.burstWord ctl blk
  let r := (List.range 32).foldl (fun (acc : List (Bool × Word) × Dev) i =>
    let x := acc.2.seen ctl (w0 + i)
    (acc.1 ++ [(x.1, x.2.1)], x.2.2)) ([], s)
  (r.1, r.2.limit ctl (s.ueOf ctl))

/-- The bytes a request covers of word i of a burst. -/
def maskOf (mask i : Nat) : Nat := bitsOf mask (8 * i) 8

/-- The response over the words a mask covers. -/
def coveredCode (mask : Nat) (ws : List (Bool × Word)) : Resp :=
  if (List.range 32).any (fun i => maskOf mask i != 0 && (ws.getD i (false, 0)).1) then .dataErr else .ok

/-- A word with the bytes a mask selects replaced. -/
def mergeBytes (mask : Nat) (old : Word) (new : List Byte) : Word :=
  wordOfBytes ((List.range 8).map fun j => if bitOf mask j then (new[j]?).getD 0 else wordByte old j)

/-- Words stored, unit noted for HOSTMEM (R313). -/
def Dev.burstStore (s : Dev) (ctl w0 : Nat) (mask : Nat) (data : List Byte) (old : List (Bool × Word)) : Dev :=
  let s := if ctl < 256 then s
    else
      let u := (w0 - 2 ^ 38) / 2 ^ 27
      if s.t2Units.contains u then s else { s with t2Units := s.t2Units ++ [u] }
  (List.range 32).foldl (fun s i =>
    let mk := maskOf mask i
    if mk = 0 then s
    else s.writeWord (w0 + i) (mergeBytes mk (old.getD i (false, 0)).2 ((data.drop (8 * i)).take 8))) s

/-- A burst write (R324, R565): the whole burst is written outright; less than that reads the burst, merges and writes it
back, and a part of a word that reads STALE or UNCORRECTABLE answers DATA_ERR and stores nothing. -/
def Dev.burstWrite (s : Dev) (ctl blk mask : Nat) (data : List Byte) : Resp × Dev :=
  let w0 := s.burstWord ctl blk
  if mask = 2 ^ 256 - 1 then (.ok, s.burstStore ctl w0 mask data [])
  else
    let r := s.burstRead ctl blk
    let s := if ctl < 256 then r.2.count F.CH_COUNTS_MERGE_WRITES ctl 1 else r.2.count F.T2_COUNTS_MERGE_WRITES (ctl - 256) 1
    if (List.range 32).any (fun i => maskOf mask i != 0 && maskOf mask i != 255 && (r.1.getD i (false, 0)).1) then (.dataErr, s)
    else (.ok, s.burstStore ctl w0 mask data r.1)

/-! Reorder queues (R325, R326). -/

/-- A channel that serves nothing now: a T1 channel being mapped out (R318 step 2), a DIMM channel that has failed. -/
def Dev.ctlFailed (s : Dev) (ctl : Nat) : Bool :=
  if ctl < 256 then s.mapouts.any (fun m => m.chan == ctl && m.started) || !s.flag F.CH_STATUS_IN_SERVICE ctl
  else s.flag F.T2_STATUS_FAILED (ctl - 256)

/-- One queued request performed. -/
def Dev.performReq (s : Dev) (ctl : Nat) (q : ChReq) : ChDone × Dev :=
  if s.ctlFailed ctl then (⟨q, .dataErr, []⟩, s)
  else if q.write then
    let r := s.burstWrite ctl q.blk q.mask q.data
    (⟨q, r.1, []⟩, r.2)
  else
    let r := s.burstRead ctl q.blk
    (⟨q, coveredCode q.mask r.1, r.1⟩, r.2)

/-- A queue holds at most 64 requests (R325). -/
def queueRoom : Nat := 64

/-- A request joins its queue while it has room and no request of its queue or of its burst waits before it; else it waits. -/
def ChanSt.join (c : ChanSt) (q : ChReq) : ChanSt :=
  if c.held.any (fun x => x.write == q.write || x.blk == q.blk) then { c with held := c.held ++ [q] }
  else if q.write then (if c.wrq.length < queueRoom then { c with wrq := c.wrq ++ [q] } else { c with held := c.held ++ [q] })
  else if c.rdq.length < queueRoom then { c with rdq := c.rdq ++ [q] } else { c with held := c.held ++ [q] }

/-- A request arrives. -/
def ChanSt.arrive (c : ChanSt) (now : Nat) (q : ChReq) : ChanSt :=
  ({ c with seq := c.seq + 1 } : ChanSt).join { q with arrived := now, seq := c.seq }

/-- Requests that waited join the queues that have room now. -/
def ChanSt.joinHeld (c : ChanSt) : ChanSt := c.held.foldl ChanSt.join { c with held := [] }

/-- Every queued or waiting request that a test names performed, in order of arrival. -/
def Dev.drainWhere (s : Dev) (ctl : Nat) (mine : ChReq → Bool) : Dev :=
  let c := s.chan ctl
  let qs := (c.wrq.filter mine ++ c.rdq.filter mine ++ c.held.filter mine).mergeSort (fun a b => decide (a.seq ≤ b.seq))
  let out := fun (l : List ChReq) => l.filter (fun q => !mine q)
  let s := s.setChan ctl (ChanSt.joinHeld { c with wrq := out c.wrq, rdq := out c.rdq, held := out c.held })
  qs.foldl (fun s q =>
    let r := s.performReq ctl q
    r.2.setChan ctl { r.2.chan ctl with done := (r.2.chan ctl).done ++ [r.1] }) s

/-- Every request to one burst performed: the controller never reorders two requests that touch the same burst (R325), so an access that
comes later waits for them. -/
def Dev.drainBurst (s : Dev) (ctl blk : Nat) : Dev := s.drainWhere ctl (fun q => q.blk == blk)

/-- A burst read or written for an access that is whole and indivisible: after what is queued for that burst. -/
def Dev.chanRead (s : Dev) (ctl blk : Nat) : List (Bool × Word) × Dev :=
  let s := s.drainBurst ctl blk
  if s.ctlFailed ctl then ((List.range 32).map (fun _ => (true, 0)), s) else s.burstRead ctl blk

def Dev.chanWrite (s : Dev) (ctl blk mask : Nat) (data : List Byte) : Resp × Dev :=
  let s := s.drainBurst ctl blk
  if s.ctlFailed ctl then (.dataErr, s) else s.burstWrite ctl blk mask data

/-- Bank and row of a burst (R315). -/
def bankOf (blk : Nat) : Nat := bitsOf blk 0 4 ^^^ bitsOf blk 9 4
def rowOf (blk : Nat) : Nat := bitsOf blk 9 16

/-- The oldest of two queues' heads. -/
def oldestOf (a b : List ChReq) : Option ChReq :=
  match a, b with
  | [], [] => none
  | x :: _, [] => some x
  | [], y :: _ => some y
  | x :: _, y :: _ => if x.seq ≤ y.seq then some x else some y

/-- The request served next: in fallback the oldest of both queues; else, of the reads, or of the writes while the write
queue is being drained or no read waits, the oldest that hits an open row and has no older request to its burst, then the
oldest. -/
def ChanSt.pick (c : ChanSt) (fallback : Bool) : Option ChReq :=
  if fallback then oldestOf c.rdq c.wrq
  else
    let q := if c.draining || c.rdq.isEmpty then c.wrq else c.rdq
    let other := if c.draining || c.rdq.isEmpty then c.rdq else c.wrq
    match q.find? (fun x => SMap.find c.rows (bankOf x.blk) == some (rowOf x.blk)) with
    | some x =>
      match other.find? (fun y => y.blk == x.blk && decide (y.seq < x.seq)) with
      | some y => some y
      | none => some x
    | none => match q with
      | x :: _ => match other.find? (fun y => y.blk == x.blk && decide (y.seq < x.seq)) with
        | some y => some y
        | none => some x
      | [] => none

/-- Write mode: entered at 48 entries, left at 16 (R325). -/
def ChanSt.mode (c : ChanSt) : ChanSt :=
  if c.wrq.length ≥ 48 then { c with draining := true }
  else if c.wrq.length ≤ 16 then { c with draining := false } else c

/-- A controller in strict oldest-first order (R326). -/
def Dev.inFallback (s : Dev) (ctl : Nat) : Bool :=
  if ctl < 256 then s.flag F.CH_STATUS_FALLBACK ctl else (s.chan ctl).fallback

def Dev.setFallback (s : Dev) (ctl : Nat) (b : Bool) : Dev :=
  if ctl < 256 then s.setFlag F.CH_STATUS_FALLBACK ctl b else s.setChan ctl { s.chan ctl with fallback := b }

/-- AGE_LIMIT of a controller, in CK_MEM cycles. -/
def Dev.ageLimit (s : Dev) (ctl : Nat) : Nat :=
  if ctl < 256 then s.fld F.CH_CTRL_AGE_LIMIT ctl else s.fld F.T2_CTRL_AGE_LIMIT (ctl - 256)

/-- The strict order ends when no entry has waited AGE_LIMIT / 2 cycles: six CK_MEM cycles to one REFCLK cycle (R62). -/
def Dev.ageCalm (s : Dev) (ctl : Nat) : Dev :=
  let c := s.chan ctl
  if (c.rdq ++ c.wrq).all (fun q => decide (2 * (6 * (s.time - q.arrived)) < s.ageLimit ctl)) then s.setFallback ctl false else s

/-- One request of a controller's queues served. -/
def Dev.serveQueue (s : Dev) (ctl : Nat) : Option ChDone × Dev :=
  let c := (s.chan ctl).mode
  let s := s.setChan ctl c
  match c.pick (s.inFallback ctl) with
  | none => (none, s)
  | some q =>
    let rest := fun (l : List ChReq) => l.erase q
    let s := s.setChan ctl (ChanSt.joinHeld { c with
      rdq := if q.write then c.rdq else rest c.rdq, wrq := if q.write then rest c.wrq else c.wrq,
      rows := SMap.set c.rows (bankOf q.blk) (rowOf q.blk) })
    let r := s.performReq ctl q
    let s := r.2.setChan ctl { r.2.chan ctl with done := (r.2.chan ctl).done ++ [r.1] }
    let s := s.setChan ctl (s.chan ctl).mode
    (some r.1, s.ageCalm ctl)

/-! The hot-page table and its notices (R343, R344). -/

/-- A way of the hot table's set. -/
def HotSt.way (h : HotSt) (set w : Nat) : Option HotEntry := SMap.find h.table (set * 16 + w)

/-- The table after a counted read of a page, with the entry that the read touched or none. -/
def HotSt.read (h : HotSt) (page : Nat) : Option Nat × HotSt :=
  let set := (page ^^^ (page / 128) ^^^ (page / 16384)) % 128
  let ways := List.range 16
  match ways.find? (fun w => (h.way set w).map (·.page) == some page) with
  | some w =>
    let e := (h.way set w).getD ⟨page, 0, false⟩
    (some (set * 16 + w), { h with table := SMap.set h.table (set * 16 + w) { e with count := satAdd 65535 e.count 1 } })
  | none =>
    match ways.find? (fun w => (h.way set w).isNone) with
    | some w => (some (set * 16 + w), { h with table := SMap.set h.table (set * 16 + w) ⟨page, 1, false⟩ })
    | none =>
      let cnt := fun w => ((h.way set w).getD ⟨0, 0, false⟩).count
      let v := ways.foldl (fun b w => if cnt w < cnt b then w else b) 0
      if cnt v ≤ 1 then (some (set * 16 + v), { h with table := SMap.set h.table (set * 16 + v) ⟨page, 1, false⟩ })
      else
        let e := (h.way set v).getD ⟨0, 0, false⟩
        (none, { h with table := SMap.set h.table (set * 16 + v) { e with count := e.count - 1 } })

/-- A 256-byte read counted by controller m for a partition, with the notice it may bring (R343, R344, R340): the record
without GEN, which the tier block gives it. A line request is served by reading its burst, and counts as one read (DEDUCED, log entry
109). -/
def Dev.hotRead (s : Dev) (m off : Nat) (part : Option Nat) (ctx : Nat) (cde : Bool) : Dev :=
  match part with
  | none => s
  | some p => match s.partRec p with
    | none => s
    | some r =>
      if !r.notice || r.hotThreshold == 0 then s
      else
        let h := (SMap.get s.hots .init m).read (off / 4096)
        let s := { s with hots := SMap.set s.hots m h.2 }
        match h.1 with
        | none => s
        | some k => match SMap.find h.2.table k with
          | none => s
          | some e =>
            if e.count = r.hotThreshold && !e.notified then
              let body := leBytes 1 3 ++ leBytes 1 (if cde && r.t2Compress then 1 else 0) ++ leBytes 1 m ++ leBytes 2 e.count
                ++ leBytes 2 (ctx % 4096) ++ leBytes 8 (hostBase + (off / 4096) * 4096) ++ leBytes 4 h.2.seq ++ leBytes 12 0
              { s with hots := SMap.set s.hots m { table := SMap.set h.2.table k { e with notified := true }, seq := h.2.seq + 1 },
                       notices := s.notices ++ [(p, body)] }
            else s

/-! Generations (R312–R314). -/

/-- The words of a pass classified and counted by their controllers as the scrub reads them, each limit judged at the end. -/
def Dev.passCount (s : Dev) (ctl : Nat) (ws : List Nat) : Dev :=
  (ws.foldl (fun (t : Dev) w => (t.seen ctl w).2.2) s).limit ctl (s.ueOf ctl)

/-- A full pass of the scrub over one channel at channel rate (R314): every word counted as R311 has it, those that
the current pass has visited too, and the next pass begins at the first word (DEDUCED, log entry 108). -/
def Dev.passChan (s : Dev) (c : Nat) : Dev :=
  let g := s.fld F.CH_GEN_WGEN c
  let ws := (s.mem.wordsWhere (fun w => decide (w / 2 ^ 30 = c))).map (fun w => (w, scrubSymbols w g (s.symbolsOf w)))
  let f := SMap.get s.mem.fill 255 c
  let mem := s.mem.refill c (if f = g then f else genBefore g) ws
  let s := s.passCount c ((List.range (2 ^ 30)).map (fun i => t1Word c (8 * i)))
  { s.setChan c { s.chan c with scrub := 0 } with mem := mem }

/-- WGEN of a partition's window advances (R313): after 127 advances in one pass, the pass is completed first. -/
def Dev.advanceWgen (s : Dev) (p : Nat) : Dev :=
  let adv := fun (s : Dev) c =>
    let s := if s.fld F.CH_GEN_PASS_ADVANCES c ≥ 127 then (s.passChan c).setFld F.CH_GEN_PASS_ADVANCES c 0 else s
    let s := s.setFld F.CH_GEN_WGEN c ((s.fld F.CH_GEN_WGEN c + 1) % 256)
    s.setFld F.CH_GEN_PASS_ADVANCES c (s.fld F.CH_GEN_PASS_ADVANCES c + 1)
  (s.regionsOf p).foldl (fun s g => (List.range 8).foldl (fun s k => adv s (8 * g + k)) s) s

/-- A full pass over one unit of HOSTMEM, by the controllers that hold its words (R314, R321). -/
def Dev.passUnit (s : Dev) (u : Nat) : Dev :=
  let g := s.ugenOf u
  let ws := (s.mem.wordsWhere (fun w => decide (2 ^ 38 ≤ w ∧ w < 2 ^ 41 ∧ (w - 2 ^ 38) / 2 ^ 27 = u))).map
    (fun w => (w, scrubSymbols w g (s.symbolsOf w)))
  let m := { s.mem with t2Pass := SMap.set s.mem.t2Pass u (SMap.get s.mem.t2Pass [] u ++ [g]) }
  let s := if (u + 1) * 2 ^ 30 ≤ s.hostBytes then
      s.dimmList.foldl (fun (s : Dev) d => s.passCount (256 + d)
        (((List.range (2 ^ 27)).filter (fun i => (s.hostDecode (u * 2 ^ 30 + 8 * i)).1 == d)).map (fun i => t2Word (u * 2 ^ 30 + 8 * i)))) s
    else s
  { s with mem := ws.foldl (fun m e => m.putSymbols e.1 e.2) m }

/-- Advances of a unit since its last full pass (R314). -/
def Dev.ugenPassed (s : Dev) (u : Nat) : Nat := s.ugenAll + SMap.get s.ugen 0 u - SMap.get s.ugenBase 0 u

/-- A unit that has advanced 127 times within one pass completes the pass first. -/
def Dev.passDue (s : Dev) (u : Nat) : Dev :=
  if s.ugenPassed u ≥ 127 then { s.passUnit u with ugenBase := SMap.set s.ugenBase u (s.ugenAll + SMap.get s.ugen 0 u) } else s

/-- UGEN of one unit advances. -/
def Dev.advanceUgen (s : Dev) (u : Nat) : Dev :=
  let s := s.passDue u
  { s with ugen := SMap.set s.ugen u (SMap.get s.ugen 0 u + 1) }

/-- UGEN of every unit advances (a package reset, R313). -/
def Dev.advanceUgens (s : Dev) : Dev :=
  let s := (List.range 8192).foldl Dev.passDue s
  { s with ugenAll := s.ugenAll + 1 }

end Sys2Proof.Machine
end

