-- ==== Sys2Proof/Machine/Lost.lean ====
section
/-! DEFINITION. Lines and their bytes, and the lost-line tables of the homes (R364–R367). -/

namespace Sys2Proof.Machine

open Sys2Proof

/-- The 64 bytes of a line, byte 0 first, and a line of bytes (R6). -/
def lineBytes (l : Line) : List Byte := leBytes 64 l.toNat
def lineOf (bs : List Byte) : Line := BitVec.ofNat 512 (leNat (bytesAt bs 0 64))

/-- A line with the bytes a mask selects replaced. -/
def mergeLine (mask : BitVec 64) (old new : Line) : Line :=
  lineOf ((List.range 64).map fun i =>
    if mask.getLsbD i then (new >>> (8 * i)).setWidth 8 else (old >>> (8 * i)).setWidth 8)

/-- The line of eight words of a burst, from word 8 × sector. -/
def wordsLine (ws : List (Bool × Word)) (sector : Nat) : Line :=
  lineOf (((ws.drop (8 * sector)).take 8).flatMap (fun w => leBytes 8 w.2.toNat))

/-- Every word of a sector can be delivered. -/
def sectorGood (ws : List (Bool × Word)) (sector : Nat) : Bool := ((ws.drop (8 * sector)).take 8).all (fun w => !w.1)

/-- The mask of n bytes from an address within its line, and of the bytes of a range that lie in a line. -/
def byteMask (a n : Nat) : BitVec 64 := BitVec.ofNat 64 ((2 ^ n - 1) * 2 ^ (a % 64))
def rangeMask (a n line : Nat) : BitVec 64 :=
  let lo := max a (line * 64)
  byteMask lo (min (a + n) (line * 64 + 64) - lo)

/-- Every word of a sector that a mask touches can be delivered (R565). -/
def coverGood (ws : List (Bool × Word)) (sector : Nat) (mask : BitVec 64) : Bool :=
  (List.range 8).all fun i => bitsOf mask.toNat (8 * i) 8 == 0 || !(ws.getD (8 * sector + i) (false, 0)).1

/-- The full byte mask of a line, and a line's mask moved to its sector in a burst. -/
def fullMask : BitVec 64 := BitVec.allOnes 64
def burstMask (sector : Nat) (mask : BitVec 64) : Nat := mask.toNat * 2 ^ (64 * sector)

/-- The NEAR address of a channel offset: the inverse of R51 in the window of the partition that owns the channel. -/
def Dev.nearAddr (s : Dev) (chan choff : Nat) : Option Nat :=
  match s.partOfChan chan with
  | none => none
  | some p => match s.partRec p with
    | none => none
    | some r =>
      let l := s.chanList p
      if l.contains chan then some (r.nearBase + ((choff / 4096) * l.length + l.findIdx (· == chan)) * 4096 + choff % 4096) else none

/-- The index of the LLT register that holds entry i of home h, and its fields (R365). -/
def lltIx (h i : Nat) : Nat := h * 4096 + i
def lltValid (w : Word) : Bool := bitOf w.toNat 0
def lltLine (w : Word) : Nat := bitsOf w.toNat 1 50

/-- The LLT entries of a home that are listed in the register store: only those can be valid. -/
def Dev.lltEntries (s : Dev) (h : Nat) : List (Nat × Word) :=
  let base := RegId.key ⟨.LLT, lltIx h 0⟩
  s.regs.filterMap (fun e => if base ≤ e.1 ∧ e.1 < base + 4096 ∧ lltValid e.2 then some (e.1 - base, e.2) else none)

/-- A line is in LOST: its home's table records it. -/
def Dev.isLost (s : Dev) (h line : Nat) : Bool := (s.lltEntries h).any (fun e => lltLine e.2 == line)

/-- The entry of a line removed (R366). -/
def Dev.lltRemove (s : Dev) (h line : Nat) : Dev :=
  match (s.lltEntries h).find? (fun e => lltLine e.2 == line) with
  | some e => (s.setReg .LLT (lltIx h e.1) 0).setFld F.HOME_STATUS_LLT_USED h ((s.lltEntries h).length - 1)
  | none => s

/-- The words of a line where it is stored. -/
def Dev.lineWord (s : Dev) (line : Nat) : Option Nat :=
  match s.place (line * 64) with
  | .near _ c o => some (t1Word c o)
  | .host _ o => some (t2Word o)
  | .pad _ c o => some (padWord c o)
  | _ => none

/-- A line marked in place: zero data in its eight words under the generation before the one in force (R367). -/
def Dev.markStale (s : Dev) (w0 : Nat) : Dev :=
  (List.range 8).foldl (fun s i => s.putSymbols (w0 + i) (encodeSymbols 0 (foldGen (w0 + i) (genBefore (s.genOf (w0 + i)))))) s

/-- The SC copy of a line dropped, one sector, and with it what the slice's side buffer holds or fetches of its line (R367). -/
def Dev.dropSector (s : Dev) (line : Nat) : Dev :=
  match s.place (line * 64) with
  | .near _ c o =>
    let sc := s.sc (c / 8)
    let blk := o / 256
    s.setSc (c / 8) { sc with
      lines := sc.lines.map (fun l =>
        if l.chan = c % 8 ∧ l.blk = blk then { l with sec := l.sec.set (o % 256 / 64) ⟨false, false, false, 0⟩ } else l),
      buffer := sc.buffer.filter (fun e => !(e.1 == c % 8 && e.2.1 == blk)),
      pfDead := if sc.pfOut.contains (c % 8, blk) then (c % 8, blk) :: sc.pfDead else sc.pfDead }
  | _ => s

/-! The Bosin L2s, and the directory, as the homes see them (R354, R356, R357). -/

def Dev.l2 (s : Dev) (n : Nat) : L2St := SMap.get s.l2s .init n
def Dev.setL2 (s : Dev) (n : Nat) (x : L2St) : Dev := { s with l2s := SMap.set s.l2s n x }
def Dev.hart (s : Dev) (n : Nat) : Hart := SMap.get s.harts .init n
def Dev.setHart (s : Dev) (n : Nat) (x : Hart) : Dev := { s with harts := SMap.set s.harts n x }

/-- A line of an L2. -/
def L2St.find (c : L2St) (line : Nat) : Option L2Line := c.lines.find? (fun l => l.line == line)

/-- A line gone from an L2: a reservation on it is gone too (R376). -/
def Dev.l2Drop (s : Dev) (n line : Nat) : Dev :=
  let s := s.setL2 n { s.l2 n with lines := (s.l2 n).lines.filter (fun l => l.line != line) }
  if (s.hart n).resv = some line then s.setHart n { s.hart n with resv := none } else s

/-- The directory entry of a line; none in I and LOST. -/
def Dev.dir (s : Dev) (h line : Nat) : Option FiltEntry := (s.home h).filter.find? (fun e => e.line == line)

/-- A home's filter replaced, SF_USED with it. -/
def Dev.setFilter (s : Dev) (h : Nat) (f : List FiltEntry) : Dev :=
  (s.setHome h { s.home h with filter := f }).setFld F.HOME_STATUS_SF_USED h f.length

/-- A line's entry freed. -/
def Dev.freeDir (s : Dev) (h line : Nat) : Dev := s.setFilter h ((s.home h).filter.filter (fun x => x.line != line))

/-- Every Bosin copy that the filter records of a line gone, and its entry with them: the line then is in no cache, as LOST asks
(R354, R357). -/
def Dev.uncopy (s : Dev) (h line : Nat) : Dev :=
  match s.dir h line with
  | some e => (e.holders.foldl (fun s n => s.l2Drop n line) s).freeDir h line
  | none => s

/-- The dirty copy that a live L2 recorded as a line's owner holds. -/
def Dev.ownerData (s : Dev) (h line : Nat) : Option Line :=
  match s.dir h line with
  | some e => e.holders.findSome? (fun n => if (s.l2 n).dead then none else match (s.l2 n).find line with
    | some l => if l.st == .m then some l.data else none
    | none => none)
  | none => none

/-- What a controller has queued for the burst of a line performed, so that no older write follows what comes next. -/
def Dev.drainQueued (s : Dev) (line : Nat) : Dev :=
  match s.place (line * 64) with
  | .near _ c o => s.drainBurst c (o / 256)
  | .host _ o => let d := s.hostDecode o; s.drainBurst (256 + d.1) (d.2 / 256)
  | _ => s

/-- A line becomes LOST (R365, R367): the lowest free entry of the home's table records it, or, with the table full, the
line is marked in place. An addition is reported to the error log. -/
def Dev.lose (s : Dev) (h line cause agent : Nat) : Dev :=
  let es := s.lltEntries h
  let die := dieOfHome h
  let part := match s.place (line * 64) with
    | .near p _ _ => some p
    | .host o _ => o
    | _ => none
  if es.any (fun e => lltLine e.2 == line) then s
  else
  let s := s.uncopy h line
  match (List.range 4096).find? (fun i => !(es.any (fun e => e.1 == i))) with
    | some i =>
      let w : Word := BitVec.ofNat 64 (1 + 2 * (line % 2 ^ 50) + cause * 2 ^ 51 + agent * 2 ^ 55)
      let s := (s.setReg .LLT (lltIx h i) w).setFld F.HOME_STATUS_LLT_USED h (es.length + 1)
      (s.setFlag F.HOME_EVENT_LLT_ADD h true).report ⟨1, die, part, 2, 0x10, none, line * 64, cause⟩
    | none =>
      let s := (s.dropSector line).drainQueued line
      let s := match s.lineWord line with
        | some w => s.markStale w
        | none => s
      s.setFlag F.HOME_EVENT_LLT_OVERFLOW h true

/-- Every entry of a home whose line a test names removed: the line's generation has advanced (R366). -/
def Dev.lltForget (s : Dev) (h : Nat) (p : Nat → Bool) : Dev :=
  (s.lltEntries h).foldl (fun s e => if p (lltLine e.2) then s.lltRemove h (lltLine e.2) else s) s

end Sys2Proof.Machine
end

