-- ==== Sys2Proof/Machine/Pad.lean ====
section
/-! DEFINITION. The pads (R151, R152, R210): reads classified, rows marked, rows substituted and banks mapped out at the
reset of the partition, the split between software and staging area. -/

namespace Sys2Proof.Machine

open Sys2Proof

/-- The banks in service of a cluster's pad, ascending (R151). -/
def Dev.padBanks (s : Dev) (c : Nat) : List Nat := (List.range 32).filter (bitOf (s.fld F.CL_PAD_STATUS_BANK_MAP c))

/-- The bank and row of a pad offset (R151), as bank × 512 + row. -/
def Dev.padRow (s : Dev) (c off : Nat) : Nat :=
  let l := s.padBanks c
  let k := off / 256
  (l.getD (k % l.length) 0) * 512 + k / l.length

/-- Spare rows of a bank in use (CL_PAD_SPARE_LO and _HI), and one more taken. -/
def Dev.padSpare (s : Dev) (c bank : Nat) : Nat :=
  if bank < 16 then bitsOf (s.fld F.CL_PAD_SPARE_LO_USED c) (4 * bank) 4 else bitsOf (s.fld F.CL_PAD_SPARE_HI_USED c) (4 * (bank - 16)) 4

def Dev.padSpareTake (s : Dev) (c bank : Nat) : Dev :=
  if bank < 16 then s.setFld F.CL_PAD_SPARE_LO_USED c (s.fld F.CL_PAD_SPARE_LO_USED c + 2 ^ (4 * bank))
  else s.setFld F.CL_PAD_SPARE_HI_USED c (s.fld F.CL_PAD_SPARE_HI_USED c + 2 ^ (4 * (bank - 16)))

/-- A row that failed is marked for substitution at the next reset of the partition; a bank with no unused spare row shows
in MAPOUT. -/
def Dev.padMark (s : Dev) (c row : Nat) : Dev :=
  let key := c * 16384 + row
  if s.padMarked.contains key then s
  else
    let s := { s with padMarked := s.padMarked ++ [key] }
    let n := (s.padMarked.filter (fun k => k / 16384 == c)).length
    let s := s.setFld F.CL_PAD_PENDING_ROW_PENDING c (min n 0xFFFFFFFF)
    let bank := row / 512
    let due := (s.padMarked.filter (fun k => k / 512 == (c * 16384 + bank * 512) / 512)).length
    if s.padSpare c bank + due > 8 then
      s.setFld F.CL_PAD_PENDING_MAPOUT c (s.fld F.CL_PAD_PENDING_MAPOUT c ||| 2 ^ bank)
    else s

/-- One word of a pad read: delivered corrected but not written back; the second correction since its last write, or a word
that cannot be read, marks its row (R152). -/
def Dev.padWordRead (s : Dev) (c off : Nat) : Bool × Word × Dev :=
  let w := padWord c off
  let r := classify (s.symbolsOf w) 0
  let part := s.partOfRegion (c / 4)
  match r.1 with
  | .clean => (false, dataOf r.2, s)
  | .correctedBit _ | .correctedSymbol _ =>
    let n := SMap.get s.padCorr 0 w + 1
    let s := { s with padCorr := SMap.set s.padCorr w n }
    let s := s.reportCorrected (c / 16) 5 c (if r.1 == .correctedBit r.1.symbol then 1 else 2) part 0
    (false, dataOf r.2, if n ≥ 2 then s.padMark c (s.padRow c off) else s)
  | _ => (true, dataOf r.2, s.padMark c (s.padRow c off))

/-- A line of a pad read: of its words, those that a mask touches. -/
def Dev.padRead (s : Dev) (c off : Nat) (mask : BitVec 64) : Resp × Line × Dev :=
  let base := off / 64 * 64
  let r := (List.range 8).foldl (fun (acc : List (Bool × Word) × Dev) i =>
    let x := if bitsOf mask.toNat (8 * i) 8 = 0 then (false, 0, acc.2) else acc.2.padWordRead c (base + 8 * i)
    (acc.1 ++ [(x.1, x.2.1)], x.2.2)) ([], s)
  (if r.1.any (·.1) then .dataErr else .ok, wordsLine r.1 0, r.2)

/-- Bytes of a line of a pad written: a word written in part is read for its other bytes, as a read of the pad is (R152), and one that
cannot be read answers DATA_ERR. -/
def Dev.padWrite (s : Dev) (c off : Nat) (mask : BitVec 64) (d : Line) : Resp × Dev :=
  let base := off / 64 * 64
  let need := (List.range 8).filter fun i =>
    let m := bitsOf mask.toNat (8 * i) 8
    m != 0 && m != 255
  let r := need.foldl (fun (acc : Bool × Dev) i => let x := acc.2.padWordRead c (base + 8 * i); (acc.1 || x.1, x.2.2)) (false, s)
  if r.1 then (.dataErr, r.2)
  else (.ok, (List.range 8).foldl (fun s i =>
    let m := bitsOf mask.toNat (8 * i) 8
    let w := padWord c (base + 8 * i)
    if m = 0 then s
    else
      let s := s.writeWord w (mergeBytes m (s.readWord w).2 (((lineBytes d).drop (8 * i)).take 8))
      { s with padCorr := SMap.del s.padCorr w }) r.2)

/-- Every word of a cluster's pad zero (R152): nothing listed. -/
def Dev.padZero (s : Dev) (c : Nat) : Dev :=
  let mine := fun w => decide (padWord c 0 ≤ w ∧ w < padWord (c + 1) 0)
  { s with mem := { s.mem with cells := s.mem.cells.filter (fun e => !mine (e.1 / 16)) }, padCorr := SMap.delWhere s.padCorr mine }

/-- The split that a cluster's STAGE_BASE and pad size ask for (R210). -/
def Dev.stageSplit (s : Dev) (c : Nat) : Nat :=
  min (s.fld F.MVE_STAGE_STAGE_BASE c) ((s.padSize c - 3 * 1048576) / 65536)

/-- A pad offset lies in the staging area (R210). -/
def Dev.inStaging (s : Dev) (c off : Nat) : Bool := decide (s.fld F.MVE_STAGE_ACTIVE_BASE c * 65536 ≤ off)

/-- The pad at the reset of its partition (R152): marked rows take spare rows, banks without one are mapped out, and every
word is zero. -/
def Dev.padReset (s : Dev) (c : Nat) : Dev :=
  let mine := s.padMarked.filter (fun k => k / 16384 == c)
  let s := mine.foldl (fun s k =>
    let bank := k % 16384 / 512
    if s.padSpare c bank < 8 then s.padSpareTake c bank
    else s.setFld F.CL_PAD_STATUS_BANK_MAP c (s.fld F.CL_PAD_STATUS_BANK_MAP c &&& (0xFFFFFFFF - 2 ^ bank))) s
  let s := s.setFld F.CL_PAD_STATUS_BANKS c (s.padBanks c).length
  let s := { s with padMarked := s.padMarked.filter (fun k => k / 16384 != c) }
  let s := (s.setFld F.CL_PAD_PENDING_ROW_PENDING c 0).setFld F.CL_PAD_PENDING_MAPOUT c 0
  s.padZero c

end Sys2Proof.Machine
end

