-- ==== Sys2Proof/Machine/SysCache.lean ====
section
/-! DEFINITION. The system cache slices (R327–R338, R506): hints, miss registers, prefetch, way locks, way power, loss. -/

namespace Sys2Proof.Machine

open Sys2Proof

/-- What an SRAM read of the slice meets: nothing, a corrected data word, an unreadable data sector, an unreadable tag. -/
abbrev ScFault := Fin 4

/-- The set of a line (R327). -/
def scSet (k blk : Nat) : Nat := (blk ^^^ (blk / 4096) ^^^ (k * 512)) % 4096

/-- The line's place in the slice. -/
def ScSt.find (c : ScSt) (k blk : Nat) : Option ScLine := c.lines.find? (fun l => l.chan == k && l.blk == blk)

/-- The slice without a line. -/
def ScSt.without (c : ScSt) (k blk : Nat) : List ScLine := c.lines.filter (fun l => !(l.chan == k && l.blk == blk))

/-- A sector that holds nothing. -/
def noSector : Sector := ⟨false, false, false, 0⟩

/-- The sector of a line. -/
def ScLine.sector (l : ScLine) (i : Nat) : Sector := (l.sec[i]?).getD noSector

/-- The sectors a fill makes valid (R565): those whose words can all be delivered. -/
def fillSectors (ws : List (Bool × Word)) : List Sector :=
  (List.range 4).map fun i => if sectorGood ws i then ⟨true, false, false, wordsLine ws i⟩ else noSector

/-- The partition whose TIER record rules a slice, and TD500_COMPAT (R338). -/
def Dev.scTd (s : Dev) (g : Nat) : Bool :=
  match s.partOfRegion g with
  | some p => match s.partRec p with | some r => r.td500 | none => false
  | none => false

/-- A hint as the slice reads it: with TD500_COMPAT, codes 0 NORMAL, 1 KEEP, 2 STREAM and 3 STREAM (R338, R245). -/
def tdHint (td : Bool) (h : Hint) : Hint :=
  if td then (match h with | .normal => .normal | .stream => .keep | .keep => .stream | .last => .stream) else h

/-- A context holds the DISCARD right (R330). -/
def Dev.discards (s : Dev) (ctx : Option Nat) : Bool :=
  match ctx with
  | some c => bitOf (s.reg .TIER_DISCARD (c / 64)).toNat (c % 64)
  | none => false

/-- A way takes allocations: powered, unlocked, not powering down (R328, R336, R337). -/
def Dev.scWayFree (s : Dev) (g w : Nat) : Bool :=
  bitOf (s.fld F.SC_STATUS_WAYS_ON g) w && !bitOf (s.fld F.SC_WAYS_LOCK g) w && !(s.sc g).downing.contains w

/-- The bytes of a line's four sectors. -/
def ScLine.bytes (l : ScLine) : List Byte := (List.range 4).flatMap (fun i => lineBytes (l.sector i).data)

/-- A line's dirty sectors written back, R332 applied to those it cannot read: recorded in the home's lost-line table with
the cause, unless a Bosin L2 owns the line with newer data. A line with all four sectors valid takes one whole burst write (R324). -/
def Dev.scWriteBack (s : Dev) (g : Nat) (l : ScLine) (cause : Nat) : Dev :=
  let chan := 8 * g + l.chan
  let s := (List.range 4).foldl (fun s i =>
    let x := l.sector i
    if x.valid && x.dirty && x.bad then
      match s.nearAddr chan (l.blk * 256 + 64 * i) with
      | some a => if (s.ownerData g (a / 64)).isSome then s else s.lose g (a / 64) cause 0
      | none => s
    else s) s
  let good := fun i => (l.sector i).valid && !(l.sector i).bad
  let dirty := fun i => good i && (l.sector i).dirty
  if (List.range 4).any dirty then
    let mask := if (List.range 4).all good then 2 ^ 256 - 1
      else (List.range 4).foldl (fun m i => if dirty i then m + burstMask i fullMask else m) 0
    (s.chanWrite chan l.blk mask l.bytes).2
  else s

/-- A line of the slice replaced, at the front (most recent) or the back (least recent) of the order. -/
def Dev.scPut (s : Dev) (g : Nat) (l : ScLine) (recent : Bool) : Dev :=
  let c := s.sc g
  let rest := c.without l.chan l.blk
  s.setSc g { c with lines := if recent then l :: rest else rest ++ [l] }

/-- A line leaves the slice. -/
def Dev.scDrop (s : Dev) (g k blk : Nat) : Dev := s.setSc g { s.sc g with lines := (s.sc g).without k blk }

/-- A way for a new line (R328): an invalid one, the least recently used one not marked KEEP, the least recently used one;
the victim's dirty sectors are written back. None when no way takes allocations. -/
def Dev.scAllocate (s : Dev) (g k blk : Nat) (ways : List Nat) : Option Nat × Dev :=
  let inSet := (s.sc g).lines.filter (fun l => scSet l.chan l.blk == scSet k blk)
  match ways.find? (fun w => !(inSet.any (fun l => l.way == w))) with
  | some w => (some w, s)
  | none =>
    let cand := (inSet.filter (fun l => ways.contains l.way)).reverse
    match (cand.find? (fun l => !l.keep)).orElse (fun _ => cand.head?) with
    | some v => (some v.way, (s.scWriteBack g v 3).scDrop g v.chan v.blk)
    | none => (none, s)

def Dev.scFreeWays (s : Dev) (g : Nat) : List Nat := (List.range 16).filter (s.scWayFree g)

/-- The line after another in a direction; 2²⁵ stands for none, past the channel's ends. -/
def nextLine (down : Bool) (blk : Nat) : Nat := if !down then blk + 1 else if blk = 0 then 2 ^ 25 else blk - 1

/-- One stream of the detector advances, or a new one begins (R334): four streams for each channel, the least recent one
replaced; a stream of two or more misses expects the line after the last it missed or fetched. -/
def ScSt.detect (c : ScSt) (k blk : Nat) : Stream × ScSt :=
  let hit := fun (t : Stream) => t.chan == k &&
    (if t.hits < 2 then (blk == t.next + 1 || blk + 1 == t.next) else blk == t.next)
  match takeFirst hit c.streams with
  | some (t, rest) =>
    let down := if t.hits < 2 then blk + 1 == t.next else t.down
    let t' : Stream := ⟨k, nextLine down blk, down, t.hits + 1⟩
    (t', { c with streams := t' :: rest })
  | none =>
    let t : Stream := ⟨k, blk, false, 1⟩
    let mine := (c.streams.filter (fun x => x.chan == k)).take 3
    (t, { c with streams := t :: (mine ++ c.streams.filter (fun x => x.chan != k)) })

/-- A line is held by the slice, its buffer, a miss register or a prefetch under way. -/
def ScSt.holds (c : ScSt) (k blk : Nat) : Bool :=
  (c.find k blk).isSome || c.buffer.any (fun b => b.1 == k && b.2.1 == blk)
    || c.miss.any (fun m => m.chan == k && m.blk == blk) || c.pfOut.contains (k, blk)

/-- One line of a stream's direction prefetched: the next line it expects, unless the slice holds or fetches it; the channel's read queue must
hold fewer than 32. A line that it takes or skips leaves the line after it as the next. -/
def Dev.scPrefetchLine (s : Dev) (g k : Nat) (down : Bool) (b : Nat) : Option Nat × Dev :=
  let ctl := 8 * g + k
  if b ≥ 2 ^ 25 then (none, s)
  else if (s.sc g).holds k b then (some (nextLine down b), s)
  else if (s.chan ctl).rdq.length ≥ 32 then (none, s)
  else
    let s := s.setChan ctl ((s.chan ctl).arrive s.time ⟨b, false, [], 2 ^ 256 - 1, 0, .scPrefetch, s.time, none, 0, false, 0⟩)
    (some (nextLine down b), s.setSc g { s.sc g with pfOut := (s.sc g).pfOut ++ [(k, b)] })

/-- At most n lines prefetched from one on: the line the stream then expects. -/
def Dev.scPrefetchLines (s : Dev) (g k : Nat) (down : Bool) : Nat → Nat → Nat × Dev
  | b, 0 => (b, s)
  | b, n + 1 =>
    let x := s.scPrefetchLine g k down b
    match x.1 with
    | none => (b, x.2)
    | some b' => x.2.scPrefetchLines g k down b' n

/-- The prefetches a stream brings (R334): up to DEPTH further lines. -/
def Dev.scPrefetch (s : Dev) (g k : Nat) (t : Stream) : Dev :=
  if !s.flag F.SC_PF_CFG_ENABLE g || t.hits < 2 then s
  else
    let x := s.scPrefetchLines g k t.down t.next (s.fld F.SC_PF_CFG_DEPTH_M1 g + 1)
    let s := x.2
    let t' : Stream := { t with next := x.1 }
    s.setSc g { s.sc g with streams := (s.sc g).streams.map (fun y => if y = t then t' else y) }

/-- A demand miss in slice and buffer, counted and shown to the detector. -/
def Dev.scMissed (s : Dev) (g k blk : Nat) : Dev :=
  let s := s.count F.SC_MISSES_COUNT g 1
  let r := (s.sc g).detect k blk
  let s := s.setSc g { r.2 with misses := r.2.misses + 1 }
  s.scPrefetch g k r.1

/-- A hit counted at its way. -/
def Dev.scHitAt (s : Dev) (g w : Nat) : Dev :=
  let s := s.count F.SC_HITS_COUNT g 1
  let c := s.sc g
  s.setSc g { c with hits := SMap.set c.hits w (SMap.get c.hits 0 w + 1) }

/-- The slice is lost (R333): what it can read is written back, the rest is recorded as lost, and it enters bypass. -/
def Dev.scLose (s : Dev) (g : Nat) : Dev :=
  let s := (s.sc g).lines.foldl (fun s l => s.scWriteBack g l 4) s
  let running := s.flag F.SC_PRELOAD_CTRL_GO g
  let left := match (s.sc g).preload with | [n] => n | _ => 0
  let s := s.setSc g { ScSt.init with miss := (s.sc g).miss, waiting := (s.sc g).waiting }
  let s := s.setFlag F.SC_STATUS_LOST g true
  if running then
    ((s.setFlag F.SC_PRELOAD_CTRL_GO g false).setFld F.SC_WAYS_LOCK g 0).count F.SC_COUNTS_PRELOAD_DROPPED g left
  else s

/-- The bytes a read of the slice asks for: 0 stands for the sector. -/
def ScReq.cover (r : ScReq) : BitVec 64 := if r.mask = 0 then fullMask else r.mask

/-- A write reaches a line held, or under way, in the side buffer (R334). -/
def Dev.scBufferWrite (s : Dev) (g k blk : Nat) : Dev :=
  let c := s.sc g
  s.setSc g { c with buffer := c.buffer.filter (fun b => !(b.1 == k && b.2.1 == blk)),
                     pfDead := if c.pfOut.contains (k, blk) then c.pfDead ++ [(k, blk)] else c.pfDead }

/-- A read or write through the channel with no allocation (R324, R329): with the words already fetched, or by a burst. -/
def Dev.scThrough (s : Dev) (g k blk : Nat) (r : ScReq) (fetched : Option (List (Bool × Word))) : Resp × Line × Dev :=
  let ctl := 8 * g + k
  if r.write then
    let w := (s.scBufferWrite g k blk).chanWrite ctl blk (burstMask r.sector r.mask) (List.replicate (64 * r.sector) 0 ++ lineBytes r.data)
    (w.1, 0, w.2)
  else match fetched with
    | some ws => (if coverGood ws r.sector r.cover then .ok else .dataErr, wordsLine ws r.sector, s)
    | none =>
      let x := s.chanRead ctl blk
      (if coverGood x.1 r.sector r.cover then .ok else .dataErr, wordsLine x.1 r.sector, x.2)

/-- A write accepted in a sector of a held line: dirty; under TD500_COMPAT it is written to the channel before it is answered, the line
staying clean, and a write that the channel does not take answers its code and changes nothing (R338). -/
def Dev.scStore (s : Dev) (g : Nat) (l : ScLine) (r : ScReq) (old : Line) (recent : Bool) : Resp × Dev :=
  let s := s.scBufferWrite g l.chan l.blk
  let d := mergeLine r.mask old r.data
  if s.scTd g then
    let w := s.chanWrite (8 * g + l.chan) l.blk (burstMask r.sector fullMask) (List.replicate (64 * r.sector) 0 ++ lineBytes d)
    if w.1 == .ok then (.ok, w.2.scPut g { l with sec := l.sec.set r.sector ⟨true, false, false, d⟩ } recent) else (w.1, w.2)
  else (.ok, s.scPut g { l with sec := l.sec.set r.sector ⟨true, true, false, d⟩ } recent)

/-- A LAST request has delivered: the line is dropped (R330), its dirty sectors discarded for a context with the DISCARD
right and written back otherwise; a line in a locked way stays and is counted. -/
def Dev.scLast (s : Dev) (g : Nat) (l : ScLine) (discard : Bool) : Dev :=
  if bitOf (s.fld F.SC_WAYS_LOCK g) l.way then s.count F.SC_COUNTS_LAST_LOCKED g 1
  else
    let cur := ((s.sc g).find l.chan l.blk).getD l
    let s := if discard then s else s.scWriteBack g cur 3
    s.scDrop g l.chan l.blk

/-- A request that hits a valid sector of a held line (R329, R332). -/
def Dev.scHit (s : Dev) (g : Nat) (l : ScLine) (h : Hint) (r : ScReq) : Resp × Line × Dev :=
  let x := l.sector r.sector
  let s := s.scHitAt g l.way
  if x.bad && !(r.write && r.mask == fullMask) then (.dataErr, 0, s)
  else
    let recent := match h with | .stream => false | _ => true
    let l' := match h with | .keep => { l with keep := true } | _ => l
    let w := if r.write then s.scStore g l' r x.data recent else (.ok, s.scPut g l' recent)
    if w.1 != .ok then (w.1, 0, w.2)
    else
      let s := match h with
        | .last => w.2.scLast g l' (!r.write && w.2.discards r.ctx)
        | _ => w.2
      (.ok, x.data, s)

/-- A line entered into the slice for an allocating request, when a way takes it. -/
def Dev.scEnter (s : Dev) (g k blk : Nat) (secs : List Sector) (keep : Bool) : Option ScLine × Dev :=
  match (s.sc g).find k blk with
  | some l =>
    let merged := (List.range 4).map fun i => if (l.sector i).valid then l.sector i else (secs[i]?).getD noSector
    let l' := { l with sec := merged, keep := l.keep || keep }
    (some l', s.scPut g l' true)
  | none =>
    let a := s.scAllocate g k blk (s.scFreeWays g)
    match a.1 with
    | some w =>
      let l : ScLine := ⟨k, blk, w, keep, secs⟩
      (some l, a.2.scPut g l true)
    | none => (none, a.2)

/-- A miss served with the line's words in hand (R328, R329, R565). A write whose sector has a word that cannot be read
goes to the channel, as does every request for which no way takes the line. -/
def Dev.scMissServe (s : Dev) (g k blk : Nat) (h : Hint) (r : ScReq) (ws : List (Bool × Word)) : Resp × Line × Dev :=
  match h with
  | .normal | .keep =>
    let e := s.scEnter g k blk (fillSectors ws) (h == .keep)
    match e.1 with
    | none => e.2.scThrough g k blk r (some ws)
    | some l =>
      let x := l.sector r.sector
      if r.write then
        if x.valid && !x.bad || r.mask == fullMask then
          let w := e.2.scStore g l r x.data true
          (w.1, 0, w.2)
        else e.2.scThrough g k blk r (some ws)
      else if x.valid then (.ok, x.data, e.2)
      else e.2.scThrough g k blk r (some ws)
  | _ => s.scThrough g k blk r (some ws)

/-- A hit in the side buffer (R334): served as a hit; under NORMAL or KEEP the line moves into the slice. -/
def Dev.scBufferHit (s : Dev) (g k blk : Nat) (h : Hint) (r : ScReq) (secs : List Sector) : Resp × Line × Dev :=
  let s := (s.count F.SC_PF_USED_COUNT g 1).count F.SC_HITS_COUNT g 1
  let s := s.setSc g { s.sc g with buffer := (s.sc g).buffer.filter (fun b => !(b.1 == k && b.2.1 == blk)) }
  let x := (secs[r.sector]?).getD noSector
  match h with
  | .normal | .keep => (.ok, x.data, (s.scEnter g k blk secs (h == .keep)).2)
  | _ => (.ok, x.data, s)

/-- The burst of a line a slice misses, read now: after any fetch of that line under way. -/
def Dev.scFetch (s : Dev) (g k blk : Nat) : List (Bool × Word) × Dev := s.chanRead (8 * g + k) blk

/-- A request served whole: hit, buffer hit, or a miss with its fill. -/
def Dev.scServe (s : Dev) (g k blk : Nat) (r : ScReq) : Resp × Line × Dev :=
  if s.flag F.SC_STATUS_LOST g then s.scThrough g k blk r none
  else
    let h := tdHint (s.scTd g) r.hint
    match (s.sc g).find k blk with
    | some l =>
      if (l.sector r.sector).valid then s.scHit g l h r
      else
        let s := s.scMissed g k blk
        let f := s.scFetch g k blk
        f.2.scMissServe g k blk h r f.1
    | none =>
      match (s.sc g).buffer.find? (fun b => b.1 == k && b.2.1 == blk) with
      | some b =>
        if r.write then
          let s := s.scBufferWrite g k blk
          let s := s.scMissed g k blk
          match h with
          | .stream | .last => s.scThrough g k blk r none
          | _ =>
            let f := s.scFetch g k blk
            f.2.scMissServe g k blk h r f.1
        else s.scBufferHit g k blk h r b.2.2
      | none =>
        let s := if r.write then s.scBufferWrite g k blk else s
        let s := s.scMissed g k blk
        if r.write && (h == .stream || h == .last) then s.scThrough g k blk r none
        else
          let f := s.scFetch g k blk
          f.2.scMissServe g k blk h r f.1

/-- An answer of the slice to a request of its own queue. -/
def Dev.scAnswer (s : Dev) (g tag : Nat) (code : Resp) (d : Line) : Dev := { s with scOut := s.scOut ++ [⟨g, tag, code, d⟩] }

/-- Merged requests served in arrival order once their line's words are in hand (R331): each as the hit or miss it now is, or, where the
slice has been lost meanwhile, at the channel (R333). -/
def Dev.scServeFill (s : Dev) (g k blk : Nat) (ws : List (Bool × Word)) : List ScReq → Dev
  | [] => s
  | r :: rs =>
    let h := tdHint (s.scTd g) r.hint
    let x := if s.flag F.SC_STATUS_LOST g then s.scThrough g k blk r none else match (s.sc g).find k blk with
      | some l => if (l.sector r.sector).valid then s.scHit g l h r else s.scMissServe g k blk h r ws
      | none => s.scMissServe g k blk h r ws
    (x.2.2.scAnswer g r.tag x.1 x.2.1).scServeFill g k blk ws rs

/-- The fill of a line: the answer of its burst taken and the miss register served and freed. -/
def Dev.scFillOp (s : Dev) (g k blk : Nat) : Dev :=
  let ctl := 8 * g + k
  match takeFirst (fun (m : MissReg) => m.chan == k && m.blk == blk) (s.sc g).miss,
        takeFirst (fun (d : ChDone) => d.req.src == .scFill && d.req.blk == blk) (s.chan ctl).done with
  | some (m, rest), some (d, left) =>
    let s := s.setChan ctl { s.chan ctl with done := left }
    let s := s.setSc g { s.sc g with miss := rest }
    let ws := if d.words.isEmpty then (List.range 32).map (fun _ => (true, (0 : Word))) else d.words
    s.scServeFill g k blk ws m.reqs
  | _, _ => s

/-- A fetch under way for a line completed now, so that an access that is whole and indivisible meets no half of it. -/
def Dev.scSettle (s : Dev) (g k blk : Nat) : Dev :=
  if (s.sc g).miss.any (fun m => m.chan == k && m.blk == blk) then (s.drainBurst (8 * g + k) blk).scFillOp g k blk else s

/-- One access of a home to its slice, whole: read or write of one sector. -/
def Dev.scAccess (s : Dev) (g k blk : Nat) (r : ScReq) : Resp × Line × Dev := (s.scSettle g k blk).scServe g k blk r

/-- A request of the slice's own queue (R329, R331): served at once when it hits or needs no fetch; else it joins or takes
a miss register, or waits, which is counted the first time. -/
def Dev.scQueue (s : Dev) (g k blk : Nat) (r : ScReq) (again : Bool) : Dev :=
  let ctl := 8 * g + k
  let now := fun (s : Dev) =>
    let x := s.scServe g k blk r
    x.2.2.scAnswer g r.tag x.1 x.2.1
  if s.flag F.SC_STATUS_LOST g then now s
  else
    let c := s.sc g
    let h := tdHint (s.scTd g) r.hint
    match takeFirst (fun (m : MissReg) => m.chan == k && m.blk == blk) c.miss with
    | some (m, _) =>
      if m.reqs.length < 32 then
        s.setSc g { c with miss := c.miss.map (fun x => if x.chan = k ∧ x.blk = blk then { m with reqs := m.reqs ++ [r] } else x) }
      else s.setSc g { c with waiting := c.waiting ++ [(k, blk, r)] }
    | none =>
      let hit := match c.find k blk with
        | some l => (l.sector r.sector).valid
        | none => !r.write && c.buffer.any (fun b => b.1 == k && b.2.1 == blk)
      if hit || (r.write && (h == .stream || h == .last)) then now s
      else if c.miss.length ≥ 256 then
        (s.setSc g { c with waiting := c.waiting ++ [(k, blk, r)] }).count F.SC_COUNTS_MSR_FULL g (if again then 0 else 1)
      else if (s.chan ctl).rdq.length ≥ queueRoom then s.setSc g { c with waiting := c.waiting ++ [(k, blk, r)] }
      else
        let s := if r.write then s.scBufferWrite g k blk else s
        let s := s.scMissed g k blk
        let s := s.setChan ctl ((s.chan ctl).arrive s.time
          ⟨blk, false, [], burstMask r.sector fullMask, r.tag, .scFill, s.time, none, 0, false, 0⟩)
        s.setSc g { s.sc g with miss := (s.sc g).miss ++ [⟨k, blk, [r]⟩] }

/-- Requests that waited at the slice tried again in order. -/
def Dev.scRetry (s : Dev) (g : Nat) : Dev :=
  let w := (s.sc g).waiting
  w.foldl (fun s x => s.scQueue g x.1 x.2.1 x.2.2 true) (s.setSc g { s.sc g with waiting := [] })

/-! Preload and way lock (R335, R336). -/

/-- One line of the preload's range: moved from an unlocked way, or fetched, into a free locked way of its set; dropped and
counted where there is none; a line of the range outside the window is counted too. -/
def Dev.scPreloadLine (s : Dev) (g a : Nat) : Dev :=
  let drop := fun (s : Dev) => s.count F.SC_COUNTS_PRELOAD_DROPPED g 1
  match s.place a with
  | .near p c o =>
    if s.partOfRegion g != some p then drop s
    else if c / 8 ≠ g then s
    else
      let k := c % 8
      let blk := o / 256
      let lock := fun w => bitOf (s.fld F.SC_WAYS_LOCK g) w
      let inSet := (s.sc g).lines.filter (fun l => scSet l.chan l.blk == scSet k blk)
      let free := (List.range 16).find? (fun w => lock w && !(inSet.any (fun l => l.way == w)))
      match (s.sc g).find k blk with
      | some l =>
        if lock l.way then s
        else match free with
          | some w => s.scPut g { l with way := w } true
          | none => drop s
      | none => match free with
        | some w =>
          let f := s.scFetch g k blk
          f.2.scPut g ⟨k, blk, w, false, fillSectors f.1⟩ true
        | none => drop s
  | _ => drop s

/-- The lines of the range in ascending address. -/
def Dev.scPreloadRange (s : Dev) (g base : Nat) : Nat → Dev
  | 0 => s
  | n + 1 => (s.scPreloadLine g base).scPreloadRange g (base + 256) n

/-- GO (R335 step 1): the locked ways powered on, written back and emptied. -/
def Dev.scPreloadStart (s : Dev) (g : Nat) : Dev :=
  if s.flag F.SC_STATUS_LOST g then s
  else
    let lock := s.fld F.SC_WAYS_LOCK g
    let s := s.setFld F.SC_STATUS_WAYS_ON g (s.fld F.SC_STATUS_WAYS_ON g ||| lock)
    let s := s.setSc g { s.sc g with downing := (s.sc g).downing.filter (fun w => !bitOf lock w) }
    let mine := (s.sc g).lines.filter (fun l => bitOf lock l.way)
    let s := mine.foldl (fun s l => (s.scWriteBack g l 3).scDrop g l.chan l.blk) s
    let s := s.setSc g { s.sc g with preload := [s.fld F.SC_PRELOAD_CTRL_LINES g] }
    s.setFlag F.SC_PRELOAD_CTRL_GO g true

/-! The owner's access to slice registers. -/

/-- A slice's lines of its partition's window invalidated without writeback (R318 step 3, R524). -/
def Dev.scInvalidate (s : Dev) (g : Nat) : Dev :=
  s.setSc g { s.sc g with lines := [], buffer := [], pfDead := (s.sc g).pfOut }

end Sys2Proof.Machine
end

