-- ==== Sys2Proof/Machine/Home.lean ====
section
/-! DEFINITION. The homes (file 12): snoop filter, directory states, the effect of each request, requests served one at a
time for each line, lost lines, the context check (R406), the age stamps (R341). -/

namespace Sys2Proof.Machine

open Sys2Proof

/-! The Bosin L2s as the homes see them (R356). -/

/-- A line put into an L2. -/
def Dev.l2Put (s : Dev) (n : Nat) (l : L2Line) : Dev :=
  s.setL2 n { s.l2 n with lines := l :: (s.l2 n).lines.filter (fun x => x.line != l.line) }

/-- An L2's answer to a snoop (R356): the dirty line, or none for SNP_ACK. -/
def Dev.l2Snoop (s : Dev) (n line : Nat) (inv : Bool) : Option Line × Dev :=
  match (s.l2 n).find line with
  | some l =>
    let s' := if inv then s.l2Drop n line else s.l2Put n { l with st := .s }
    (if l.st == .m then some l.data else none, s')
  | none => (((s.l2 n).wb.find? (fun w => w.1 == line)).map (·.2), s)

/-! The snoop filter (R357, R358). -/

/-- The set of a line (R357). -/
def filterSet (line : Nat) : Nat := bitsOf line 0 13 ^^^ bitsOf line 13 13

/-- A line's entry set: in place where it has one, else allocated last. -/
def Dev.setDir (s : Dev) (h line : Nat) (st : DirSt) (holders : List Nat) : Dev :=
  let f := (s.home h).filter
  let e : FiltEntry := ⟨line, st, holders⟩
  if f.any (fun x => x.line == line) then s.setFilter h (f.map (fun x => if x.line = line then e else x))
  else s.setFilter h (f ++ [e])

/-- A line has an open request. -/
def Dev.lineOpen (s : Dev) (h line : Nat) : Bool := (s.home h).opens.any (fun o => o.req.line == line)

/-- A request open or queued at the home about a line: what comes later about it waits behind (R347). -/
def Dev.lineBusy (s : Dev) (h line : Nat) : Bool := s.lineOpen h line || (s.home h).queue.any (fun q => q.line == line)

/-- A grant on its way to an L2 for a line: a snoop about it that the home sent later is taken after it, so that no copy outlives
the request that removes it (R373). -/
def Dev.granting (s : Dev) (n line : Nat) : Bool :=
  s.net.any (fun m => match m with
    | .data a l _ (some _) _ => a == .core n && l == line
    | .grant c l => c == n && l == line
    | _ => false)

/-- The core of an L2's request. -/
def Agent.coreOf : Agent → Option Nat
  | .core n => some n
  | _ => none

/-- A request of an L2 that needs a filter entry. -/
def ReqKind.caching : ReqKind → Bool
  | .rdShared | .rdUnique | .upgrade | .makeUnique => true
  | _ => false

/-- A request that writes. -/
def ReqKind.writes : ReqKind → Bool
  | .wrLine | .wrPart | .atomic _ => true
  | _ => false

/-! Memory as a home reaches it: the SC slice for NEAR, the DIMM controller for HOSTMEM (R355). -/

/-- An SC request of a home. -/
def scReqOf (write : Bool) (o : Nat) (d : Line) (mask : BitVec 64) (hint : Hint) (ctx : Option Nat) : ScReq :=
  ⟨0, write, o % 256 / 64, d, mask, hint, ctx⟩

/-- The bytes an atomic touches: its integer operand, or every element under its mask (R201, R376). -/
def atomMask (op : AtomOp) (mask : BitVec 64) : BitVec 64 :=
  let low := ((List.range 64).find? (fun i => mask.getLsbD i)).getD 0
  match op with
  | .int _ w => BitVec.ofNat 64 ((2 ^ w - 1) * 2 ^ low)
  | .fpAdd code =>
    let w := match Fmt.ofCode code with | some f => f.bits / 8 | none => 0
    if w = 0 then mask
    else BitVec.ofNat 64 ((List.range (64 / w)).foldl (fun m e => if mask.getLsbD (e * w) then m + (2 ^ w - 1) * 2 ^ (e * w) else m) 0)

/-- The bytes a request reads, whose words decide its answer (R565): a read's own, 0 standing for the whole line; an
atomic's operand; the line of an L2's request. -/
def Req.cover (r : Req) : BitVec 64 :=
  match r.kind with
  | .rdOnce => if r.mask = 0 then fullMask else r.mask
  | .atomic op => atomMask op r.mask
  | _ => fullMask

/-- A line read from memory, judged by the words the request covers. -/
def Dev.memRead (s : Dev) (r : Req) : Resp × Line × Dev :=
  match s.place (r.line * 64) with
  | .near _ c o => s.scAccess (c / 8) (c % 8) (o / 256) (scReqOf false o 0 r.cover r.hint r.ctx)
  | .host _ o =>
    let d := s.hostDecode o
    let x := s.chanRead (256 + d.1) (d.2 / 256)
    let cde := match r.src with | .cde _ => true | _ => false
    let s := x.2.hotRead d.1 o r.part (r.ctx.getD 0) cde
    (if coverGood x.1 (o % 256 / 64) r.cover then .ok else .dataErr, wordsLine x.1 (o % 256 / 64), s)
  | _ => (.dataErr, 0, s)

/-- A mask covers every 64-bit word whole that it touches. -/
def wholeWords (mask : BitVec 64) : Bool :=
  (List.range 8).all fun i => let m := bitsOf mask.toNat (8 * i) 8; m == 0 || m == 255

/-- Room made in a DIMM controller's write queue: its oldest write performed (R85, R325). -/
def Dev.wrqRoom (s : Dev) (ctl : Nat) : Dev :=
  match (s.chan ctl).wrq with
  | q :: _ => if (s.chan ctl).wrq.length ≥ queueRoom then s.drainBurst ctl q.blk else s
  | [] => s

/-- Bytes of a line written to memory. A HOSTMEM write of whole words is answered once it sits in the controller's write
queue (R85); one of part of a word waits for its merge (R324). -/
def Dev.memWrite (s : Dev) (r : Req) (d : Line) (mask : BitVec 64) : Resp × Dev :=
  match s.place (r.line * 64) with
  | .near _ c o =>
    let x := s.scAccess (c / 8) (c % 8) (o / 256) (scReqOf true o d mask r.hint r.ctx)
    (x.1, x.2.2)
  | .host _ o =>
    let dd := s.hostDecode o
    let ctl := 256 + dd.1
    let sec := o % 256 / 64
    let bytes := List.replicate (64 * sec) 0 ++ lineBytes d
    if s.ctlFailed ctl then (.dataErr, s)
    else if wholeWords mask then
      let s := s.wrqRoom ctl
      (.ok, s.setChan ctl ((s.chan ctl).arrive s.time ⟨dd.2 / 256, true, bytes, burstMask sec mask, 0, .other, s.time, none, 0, false, 0⟩))
    else s.chanWrite ctl (dd.2 / 256) (burstMask sec mask) bytes
  | _ => (.dataErr, s)

/-! Atomics (R201, R376). -/

/-- An integer atomic of w bytes: the new value. -/
def amoValue (fn : AmoFn) (w old x : Nat) : Nat :=
  let m := 2 ^ (8 * w)
  let sg := fun (v : Nat) => signed (8 * w) (v % m)
  match fn with
  | .swap => x % m
  | .add => (old + x) % m
  | .xor => (old ^^^ x) % m
  | .and => (old &&& x) % m
  | .or => (old ||| x) % m
  | .min => if sg old ≤ sg x then old else x
  | .max => if sg x ≤ sg old then old else x
  | .minu => if old ≤ x then old else x
  | .maxu => if x ≤ old then old else x

/-- One floating-point element added (R201). -/
def fpAddValue (fmt : Fmt) (old x : Nat) : Nat := (convertTo fmt .rne ((fmt.decode old).add (fmt.decode x))).code

/-- The first byte a mask covers. -/
def maskLow (mask : BitVec 64) : Nat := ((List.range 64).find? (fun i => mask.getLsbD i)).getD 0

/-- A line after an atomic: the integer operand at the lowest byte of the mask, or every element under the mask. R201 names floating-point
adds of BF16, FP16 and PAIR16 whole elements only: those of other formats of 8 bits or more add alike, and an element is under the mask
where its first byte is (DESIGN CHOICE, log entry 114). -/
def atomLine (op : AtomOp) (mask : BitVec 64) (old operand : Line) : Line :=
  let ob := lineBytes old
  let xb := lineBytes operand
  match op with
  | .int fn w =>
    let i := maskLow mask
    let v := amoValue fn w (fieldAt ob i w) (fieldAt xb i w)
    lineOf (ob.take i ++ leBytes w v ++ ob.drop (i + w))
  | .fpAdd code =>
    match Fmt.ofCode code with
    | some f =>
      let w := f.bits / 8
      if w = 0 then old
      else lineOf ((List.range (64 / w)).flatMap fun e =>
        if mask.getLsbD (e * w) then leBytes w (fpAddValue f (fieldAt ob (e * w) w) (fieldAt xb (e * w) w))
        else bytesAt ob (e * w) w)
    | none => old

/-! The effect of a request once its snoops are answered (R355). -/

/-- What a request ends with: its code, the line delivered (the old line for an atomic), and the grant of an L2 request,
with or without data. -/
structure Effect where
  code  : Resp
  data  : Line
  grant : Option DirSt
  bare  : Bool

/-- The line's data: what a snoop returned, or memory. -/
def Dev.lineData (s : Dev) (r : Req) (dirty : Option Line) : Resp × Line × Dev :=
  match dirty with
  | some d => (.ok, d, s)
  | none => s.memRead r

/-- A request to a line in LOST (R355, R366): none when the line goes on as in I. -/
def Dev.lostEffect (s : Dev) (h : Nat) (r : Req) : Option (Effect × Dev) :=
  match r.kind with
  | .wrLine =>
    let w := s.memWrite r r.data fullMask
    some (⟨w.1, 0, none, false⟩, if w.1 == .ok then w.2.lltRemove h r.line else w.2)
  | .makeUnique => none
  | _ => some (⟨.dataLost, 0, none, false⟩, s.count F.HOME_COUNTS_LOST_ANSWERS h 1)

/-- The effect of a request whose snoops, if any, are answered, dirty being the data they returned. -/
def Dev.homeEffect (s : Dev) (h : Nat) (r : Req) (dirty : Option Line) : Effect × Dev :=
  let d := s.dir h r.line
  let core := r.src.coreOf.getD 0
  let holders := match d with | some e => e.holders | none => []
  let owned := match d with | some e => e.st != .s | none => false
  let none' := fun (c : Resp) => (⟨c, 0, none, false⟩ : Effect)
  match r.kind with
  | .rdShared =>
    if owned && holders != [core] then
      let x := s.lineData r dirty
      let s := match dirty with
        | some dd => (x.2.2.memWrite r dd fullMask).2
        | none => x.2.2
      if x.1 == .ok then (⟨.ok, x.2.1, some .s, false⟩, s.setDir h r.line .s (holders ++ [core]))
      else (none' x.1, s.setDir h r.line .s holders)
    else
      let x := s.memRead r
      if x.1 == .ok then
        let st : DirSt := if d.isSome && !owned then .s else .e
        let hs := if st == .s then (if holders.contains core then holders else holders ++ [core]) else [core]
        (⟨.ok, x.2.1, some st, false⟩, x.2.2.setDir h r.line st hs)
      else (none' x.1, x.2.2)
  | .upgrade =>
    if !owned && holders.contains core then (⟨.ok, 0, some .m, true⟩, s.setDir h r.line .m [core])
    else
      let x := s.lineData r dirty
      if x.1 == .ok then (⟨.ok, x.2.1, some .m, false⟩, x.2.2.setDir h r.line .m [core]) else (none' x.1, x.2.2.freeDir h r.line)
  | .rdUnique =>
    let x := s.lineData r dirty
    if x.1 == .ok then (⟨.ok, x.2.1, some .m, false⟩, x.2.2.setDir h r.line .m [core]) else (none' x.1, x.2.2.freeDir h r.line)
  | .makeUnique =>
    let s := s.lltRemove h r.line
    (⟨.ok, 0, some .m, true⟩, s.setDir h r.line .m [core])
  | .rdOnce =>
    let x := s.lineData r dirty
    let s := match dirty with
      | some dd => (x.2.2.memWrite r dd fullMask).2
      | none => x.2.2
    let s := if owned then s.setDir h r.line .s holders else s
    (⟨x.1, x.2.1, none, false⟩, s)
  | .wrLine =>
    let w := s.memWrite r r.data fullMask
    (none' w.1, w.2.freeDir h r.line)
  | .wrPart =>
    let w := match dirty with
      | some dd => s.memWrite r (mergeLine r.mask dd r.data) fullMask
      | none => s.memWrite r r.data r.mask
    (none' w.1, w.2.freeDir h r.line)
  | .atomic op =>
    let x := s.lineData r dirty
    if x.1 == .ok then
      let w := x.2.2.memWrite r (atomLine op r.mask x.2.1 r.data) (if dirty.isSome then fullMask else r.cover)
      (⟨w.1, x.2.1, none, false⟩, w.2.freeDir h r.line)
    else (none' x.1, x.2.2.freeDir h r.line)
  | .evict =>
    let s := match dirty with
      | some dd => (s.memWrite r dd fullMask).2
      | none => s
    (none' .ok, (s.freeDir h r.line).count F.SF_COUNTS_SF_EVICTIONS h 1)

/-- The L2s to snoop, and whether with SNP_INV (R355): the requester's own is left out where the request is its L2's. -/
def Dev.snoopsFor (s : Dev) (h : Nat) (r : Req) : List Nat × Bool :=
  match s.dir h r.line with
  | none => ([], false)
  | some e =>
    let others := if r.kind.caching then e.holders.filter (fun n => some n != r.src.coreOf) else e.holders
    match r.kind with
    | .rdShared | .rdOnce => if e.st == .s then ([], false) else (others, false)
    | _ => (others, true)

/-! Refusals before a request reaches its line's state (R60). -/

/-- The die that serves a place is in service (R81, R526). -/
def Dev.placeUp (s : Dev) : Place → Bool
  | .near _ c _ => s.dieState (c / 32) == 0
  | .host _ _ => s.dieState 8 == 0
  | .pad _ c _ => s.dieState (c / 16) == 0
  | .ctrl _ => true
  | .absent => false

/-- The index of an address in the check table of its partition (R406). -/
def PartRec.checkIndex (r : PartRec) (a : Nat) : Nat :=
  let owned := ((List.range 32).filter (bitOf r.regions)).length
  if a < hostBase then (a - r.nearBase) / 2 ^ 21
  else 32768 * owned + (a - hostBase - r.hostOff * 2 ^ 30) / 2 ^ 21

/-- The verdict of a check entry (R407). -/
def checkEntry (e : BitVec 16) (ctx : Nat) (writes : Bool) : Resp :=
  let n := e.toNat
  if !bitOf n 15 || bitOf n 14 || (bitsOf n 0 12 != ctx && !bitOf n 12) then .ctxMismatch
  else if writes && !bitOf n 13 then .perm
  else .ok

/-- The bytes a running GX operation guards (R490). -/
def Dev.gxRefuses (s : Dev) (a : Nat) (mask : BitVec 64) : Bool :=
  s.gxGuard.any fun e =>
    let inR := fun (b len : Nat) => (List.range 64).any (fun i => mask.getLsbD i && decide (b ≤ a + i ∧ a + i < b + len))
    inR e.2.1 e.2.2.1 || inR e.2.2.2.1 e.2.2.2.2

/-- Place (R81), ownership and vault rules of a request: the first code of R60 that applies before the line's state, the context
check apart. -/
def Dev.ownCode (s : Dev) (r : Req) : Resp :=
  let a := r.line * 64
  let pl := s.place a
  match pl with
  | .absent => .homeAbsent
  | .ctrl _ => .perm
  | _ =>
    if !s.placeUp pl || !s.placeReached r.src r.kind pl then .homeAbsent
    else if !s.ownsPlace r.part pl then .perm
    else match pl with
      | .pad _ c o => if s.inStaging c o then .perm else .ok
      | _ => if r.kind.writes && s.gxRefuses a r.mask then .perm else .ok

/-! Requests served whole: by agents whose access the model takes as one step. -/

/-- An answer that carries data: a read, or an atomic that returns the old value (R352). -/
def ReqKind.givesData : ReqKind → Bool
  | .rdOnce | .atomic (.int _ _) => true
  | _ => false

/-- The request of an L2 that is dead when its snoops are answered: it is granted nothing. Dirty data goes to memory, and who
still holds the line stays recorded (R361). -/
def Dev.endDead (s : Dev) (h : Nat) (o : OpenReq) : Dev :=
  let core := o.req.src.coreOf.getD 0
  let s := match o.dirty with
    | some d => (s.memWrite o.req d fullMask).2
    | none => s
  match s.dir h o.req.line with
  | none => s
  | some e =>
    let rest := if o.req.kind == .rdShared then e.holders.filter (fun n => n != core) else []
    if rest.isEmpty then s.freeDir h o.req.line else s.setDir h o.req.line .s rest

/-- A request whose snoops are answered: its effect, and the last message the home sends for it (R352). -/
def Dev.finishOpen (s : Dev) (h : Nat) (o : OpenReq) : Dev :=
  let s := s.setHome h { s.home h with opens := (s.home h).opens.filter (fun x => x.req.line != o.req.line) }
  if o.req.kind.caching && (match o.req.src.coreOf with | some n => (s.l2 n).dead | none => false) then s.endDead h o
  else
    let e := s.homeEffect h o.req o.dirty
    let s := e.2
    match o.req.kind with
    | .evict => s
    | _ =>
      match e.1.grant, o.req.src.coreOf with
      | some g, some n =>
        if e.1.bare then s.send (.grant n o.req.line) else s.send (.data (.core n) o.req.line o.req.tag (some g) e.1.data)
      | _, _ =>
        if o.req.kind.givesData && e.1.code == .ok then s.send (.data o.req.src o.req.line o.req.tag none e.1.data)
        else s.send (.comp o.req.src o.req.line o.req.tag e.1.code)

/-- Snoops that a home has outstanding to an L2. -/
def Dev.snoopsOut (s : Dev) (h n : Nat) : Nat :=
  ((s.home h).opens.filter (fun o => o.waits.contains n)).length - ((s.home h).unsent.filter (fun x => x.1 == n)).length

/-- Snoops of open requests sent in order, at most 4 outstanding to any one L2 (R353). -/
def Dev.sendSnoops (s : Dev) (h : Nat) : Nat → Dev
  | 0 => s
  | k + 1 =>
    match takeFirst (fun (x : Nat × Nat × Bool) => decide (s.snoopsOut h x.1 < 4)) (s.home h).unsent with
    | none => s
    | some (x, rest) =>
      let s := (s.setHome h { s.home h with unsent := rest }).count F.HOME_COUNTS_SNOOPS h 1
      (s.send (if x.2.2 then .snpInv x.1 x.2.1 else .snpShare x.1 x.2.1)).sendSnoops h k

/-- A snoop answer taken by a home (R355). -/
def Dev.takeAnswer (s : Dev) (h n line : Nat) (d : Option Line) : Dev :=
  match (s.home h).opens.find? (fun o => o.req.line == line && o.waits.contains n) with
  | none => s
  | some o =>
    let o' : OpenReq := { o with waits := o.waits.filter (fun x => x != n), dirty := match d with | some x => some x | none => o.dirty }
    let x := s.home h
    let s := s.setHome h { x with opens := x.opens.map (fun x => if x.req.line = line then o' else x),
                                  unsent := x.unsent.filter (fun u => !(u.1 == n && u.2.1 == line)) }
    let s := if o'.waits.isEmpty then s.finishOpen h o' else s
    s.sendSnoops h (s.home h).unsent.length

/-- The page of a partition's pool that a line lies in (R341). -/
def Dev.poolPage (s : Dev) (p line : Nat) : Option Nat :=
  let base := s.fld F.TIER_POOL_BASE_BASE p * 65536
  let pages := s.fld F.TIER_POOL_CFG_PAGES p
  if base ≤ line * 64 ∧ line * 64 < base + pages * 65536 then some ((line * 64 - base) / 65536) else none

/-- The stamp table lies in the window and outside the pool (R341). -/
def Dev.stampTableOk (s : Dev) (p : Nat) : Bool :=
  let t := s.fld F.TIER_STAMP_BASE_BASE p * 64
  let n := 2 * s.fld F.TIER_POOL_CFG_PAGES p
  let b := s.fld F.TIER_POOL_BASE_BASE p * 65536
  let e := b + s.fld F.TIER_POOL_CFG_PAGES p * 65536
  let inW := fun a => match s.windowOf a with | some w => w.1 == p | none => false
  inW t && inW (t + n - 1) && decide (t + n ≤ b ∨ e ≤ t)

/-- A home serves a request to a line (R341): a pool page that its filter does not show at EPOCH is recorded there, and its stamp
falls due. -/
def Dev.stamp (s : Dev) (line : Nat) : Dev :=
  match s.place (line * 64) with
  | .near p c _ =>
    match s.poolPage p line with
    | none => s
    | some pg =>
      let h := c / 8
      let epoch := s.fld F.TIER_POOL_CFG_EPOCH p
      if SMap.find (s.home h).stamps (pg % 512) = some (pg, epoch) || !s.stampTableOk p then s
      else
        let s := s.setHome h { s.home h with stamps := SMap.set (s.home h).stamps (pg % 512) (pg, epoch) }
        { s with stampsDue := s.stampsDue ++ [(h, p, pg, epoch)] }
  | _ => s

/-- A request taken: its pool page is stamped; it is answered when its line is LOST; else its snoops are sent and it is open until
they are answered. -/
def Dev.startReq (s : Dev) (h : Nat) (r : Req) : Dev :=
  let s := if r.kind == .evict then s else s.stamp r.line
  let lost := if s.isLost h r.line then s.lostEffect h r else none
  match lost with
  | some e => e.2.send (.comp r.src r.line r.tag e.1.code)
  | none =>
    let t := s.snoopsFor h r
    let o : OpenReq := ⟨r, t.1, none⟩
    if t.1.isEmpty then s.finishOpen h o
    else
      let x := s.home h
      let s := s.setHome h { x with opens := x.opens ++ [o], unsent := x.unsent ++ t.1.map (fun n => (n, r.line, t.2)) }
      s.sendSnoops h (s.home h).unsent.length

/-- The set of a request that needs an entry is full (R358). -/
def Dev.setFull (s : Dev) (h : Nat) (r : Req) : Bool :=
  r.kind.caching && (s.dir h r.line).isNone &&
    decide (((s.home h).filter.filter (fun e => filterSet e.line == filterSet r.line)).length ≥ 16)

/-- The victim of a full set: the least recently allocated entry whose line has no open request (R358). -/
def Dev.victim (s : Dev) (h : Nat) (r : Req) : Option FiltEntry :=
  (s.home h).filter.find? (fun e => filterSet e.line == filterSet r.line && !s.lineOpen h e.line)

/-- A queued request is the next of its line to be taken: none of its line is open or before it, its window is not held, and the
home has room for an open request (R347, R353). -/
def Dev.mayTake (s : Dev) (h : Nat) (r : Req) : Bool :=
  (s.home h).queue.find? (fun q => q.line == r.line) == some r && !s.lineOpen h r.line && !((s.home h).held && decide (h < 32))
    && decide ((s.home h).opens.length < 512)

/-- Of the requests that wait for room in a set, up to one of them, more than there are evictions under way in that set: it takes a
victim of its own. -/
def Dev.wantsVictim (s : Dev) (h : Nat) (r : Req) : Bool :=
  let same := fun (q : Req) => filterSet q.line == filterSet r.line
  let before := ((s.home h).queue.takeWhile (fun q => q != r)).filter (fun q => same q && s.mayTake h q && s.setFull h q)
  decide (((s.home h).opens.filter (fun o => o.req.kind == .evict && same o.req)).length ≤ before.length)

/-- Requests that wait because every entry of their set has an open request, each counted once (R358). -/
def Dev.noteBlocked (s : Dev) (h : Nat) : Dev :=
  let x := s.home h
  let new := x.queue.filter (fun r => s.mayTake h r && s.setFull h r && (s.victim h r).isNone && !x.blocked.contains r)
  if new.isEmpty then s else (s.setHome h { x with blocked := x.blocked ++ new }).count F.SF_COUNTS_SF_WAIT h new.length

/-- Requests that wait taken in order while one may be; one that needs an entry in a full set has a victim evicted first, as a
request of the home's own (R347, R358). -/
def Dev.pumpHome (s : Dev) (h : Nat) : Nat → Dev
  | 0 => s
  | n + 1 =>
    match takeFirst (fun (r : Req) => s.mayTake h r && !s.setFull h r) (s.home h).queue with
    | some (r, rest) =>
      ((s.setHome h { s.home h with queue := rest, blocked := (s.home h).blocked.erase r }).startReq h r).pumpHome h n
    | none =>
      match (s.home h).queue.find? (fun r => s.mayTake h r && s.setFull h r && s.wantsVictim h r && (s.victim h r).isSome) with
      | some r => match s.victim h r with
        | some v => (s.startReq h ⟨.evict, v.line, .home h, 0, none, none, .normal, 0, 0⟩).pumpHome h n
        | none => s
      | none => s.noteBlocked h

/-- What waits at a home goes on. -/
def Dev.pump (s : Dev) (h : Nat) : Dev := s.pumpHome h (2 * (s.home h).queue.length + 1)

/-- A request reaches its home (R347): it waits behind what is open or queued for its line, else it is taken. -/
def Dev.arriveReq (s : Dev) (h : Nat) (r : Req) : Dev := (s.setHome h { s.home h with queue := (s.home h).queue ++ [r] }).pump h

/-- Everything in flight about the snoops of one line delivered: L2s answer, homes take the answers. -/
def Dev.settleLine (s : Dev) (h line : Nat) : Nat → Dev
  | 0 => s
  | n + 1 =>
    let mine := fun (m : NetMsg) => match m with
      | .snpShare c l | .snpInv c l => l == line && !(s.l2 c).dead && !s.granting c l
      | .snpAck _ l => l == line
      | .snpData _ l _ => l == line
      | _ => false
    match takeFirst mine s.net with
    | none => s
    | some (m, rest) =>
      let s := { s with net := rest }
      match m with
      | .snpShare c l =>
        let x := s.l2Snoop c l false
        (x.2.takeAnswer h c l x.1).settleLine h line n
      | .snpInv c l =>
        let x := s.l2Snoop c l true
        (x.2.takeAnswer h c l x.1).settleLine h line n
      | .snpAck c l => (s.takeAnswer h c l none).settleLine h line n
      | .snpData c l d => (s.takeAnswer h c l (some d)).settleLine h line n
      | _ => s

/-- The requests before a new one of a line brought to their ends, where the L2s they wait for answer. -/
def Dev.clearLine (s : Dev) (h line : Nat) : Nat → Dev
  | 0 => s
  | n + 1 =>
    let s := (s.settleLine h line 512).pump h
    if s.lineBusy h line then s.clearLine h line n else s

/-- A request served whole at the home of its line, after those that reached it first (R347): none while it must wait, for a held
window, a request before it or an L2 that does not answer. -/
def Dev.homeNow (s : Dev) (h : Nat) (r : Req) : Option (Resp × Line) × Dev :=
  if (s.home h).held && decide (h < 32) then (none, s)
  else
    let s := s.clearLine h r.line ((s.home h).queue.length + 2)
    if s.lineBusy h r.line || (s.home h).opens.length ≥ 512 then (none, s)
    else
      let s := s.stamp r.line
      let lost := if s.isLost h r.line then s.lostEffect h r else none
      match lost with
      | some e => (some (e.1.code, 0), e.2)
      | none =>
        let t := s.snoopsFor h r
        if t.1.any (fun n => (s.l2 n).dead || s.granting n r.line || decide (s.snoopsOut h n ≥ 4)) then (none, s)
        else
          let s := s.count F.HOME_COUNTS_SNOOPS h t.1.length
          let x := t.1.foldl (fun (acc : Option Line × Dev) n =>
            let y := acc.2.l2Snoop n r.line t.2
            (match y.1 with | some d => some d | none => acc.1, y.2)) (none, s)
          let e := x.2.homeEffect h r x.1
          (some (e.1.code, e.1.data), e.2.pump h)

/-- A request to a pad, its own home (R346, R152). -/
def Dev.padNow (s : Dev) (c off : Nat) (r : Req) : (Resp × Line) × Dev :=
  match r.kind with
  | .wrLine =>
    let w := s.padWrite c off fullMask r.data
    ((w.1, 0), w.2)
  | .wrPart =>
    let w := s.padWrite c off r.mask r.data
    ((w.1, 0), w.2)
  | .atomic op =>
    let x := s.padRead c off r.cover
    if x.1 == .ok then
      let w := x.2.2.padWrite c off r.cover (atomLine op r.mask x.2.1 r.data)
      ((w.1, x.2.1), w.2)
    else ((x.1, 0), x.2.2)
  | _ =>
    let x := s.padRead c off r.cover
    ((x.1, x.2.1), x.2.2)

/-- A request served whole, without the context check: none while it waits at its source or its home. -/
def Dev.accessBare (s : Dev) (r : Req) : Option (Resp × Line) × Dev :=
  let code := s.ownCode r
  if code == .ok then
    if s.placeHeld r.src r.kind (s.place (r.line * 64)) (r.line * 64) then (none, s)
    else match s.place (r.line * 64) with
    | .pad _ c o =>
      let x := s.padNow c o r
      (some x.1, x.2)
    | pl => match homeOfPlace (r.line * 64) pl with
      | some h => s.homeNow h r
      | none => (some (.homeAbsent, 0), s)
  else (some (code, 0), s)

/-- A request of a partition's own for n bytes at an address within one line. -/
def writeReq (src : Agent) (part : Nat) (a : Nat) (bs : List Byte) : Req :=
  let o := a % 64
  ⟨if bs.length = 64 then .wrLine else .wrPart, a / 64, src, 0, some part, none, .normal,
   lineOf (List.replicate o 0 ++ bs), BitVec.ofNat 64 ((2 ^ bs.length - 1) * 2 ^ o)⟩

/-- The stamps that have fallen due written, each as a write of its HOME (R341); one whose home must wait stays due. -/
def Dev.writeStamps (s : Dev) : Dev :=
  s.stampsDue.foldl (fun (s : Dev) (e : Nat × Nat × Nat × Nat) =>
    let a := s.fld F.TIER_STAMP_BASE_BASE e.2.1 * 64 + 2 * e.2.2.1
    let x := s.accessBare (writeReq (.home e.1) e.2.1 a (leBytes 2 e.2.2.2))
    match x.1 with
    | some _ => x.2
    | none => { x.2 with stampsDue := x.2.stampsDue ++ [e] }) { s with stampsDue := [] }

/-- The context check of a request (R406–R408): none while its table read must wait. A home may answer from an entry it
keeps: where that differs from the table, which one serves is free. -/
def Dev.ctxCheck (s : Dev) (r : Req) : Option Resp × Dev :=
  match r.ctx with
  | none => (some .ok, s)
  | some c =>
    match s.partOfCtx c with
    | none => (some .ok, s)
    | some p =>
      let a := r.line * 64
      let mine := match s.place a with
        | .near q _ _ => q == p
        | .host o _ => o == some p
        | _ => false
      match s.partRec p, homeOfPlace a (s.place a) with
      | some pr, some h =>
        if !mine || !s.flag F.XP_CHECK_CTRL_ENABLE p then (some .ok, s)
        else
          let ix := pr.checkIndex a
          let ta := s.fld F.XP_CHECK_BASE_BASE p * 4096 + 2 * ix
          let inWin := match s.windowOf ta with | some w => w.1 == p | none => false
          let x := if inWin then s.accessBare ⟨.rdOnce, ta / 64, .home h, 0, some p, none, .normal, 0, byteMask ta 2⟩
                   else (some (.homeAbsent, 0), s)
          match x.1 with
          | none => (none, s)
          | some (code, ln) =>
            let key := p * 2 ^ 24 + ix
            let cur : Option (BitVec 16) :=
              if code == .ok then some (BitVec.ofNat 16 (fieldAt (lineBytes ln) (ta % 64) 2)) else none
            let kept := SMap.find (x.2.home h).checks key
            let judge := fun (e : Option (BitVec 16)) => match e with
              | some e => checkEntry e c r.kind.writes
              | none => Resp.ctxMismatch
            let keep := fun (s : Dev) (e : Option (BitVec 16)) => match e with
              | some e => s.setHome h { s.home h with checks := (SMap.set (s.home h).checks key e).take 256 }
              | none => s
            match kept with
            | some k =>
              if some k = cur then (some (judge cur), x.2)
              else
                let f := x.2.freeBool
                if f.1 then (some (judge (some k)), f.2) else (some (judge cur), keep f.2 cur)
            | none => (some (judge cur), keep x.2 cur)
      | _, _ => (some .ok, s)

/-- A request served whole (R60): HOME_ABSENT, then the context check, then ownership, then the home. -/
def Dev.access (s : Dev) (r : Req) : Option (Resp × Line) × Dev :=
  let own := s.ownCode r
  if own == .homeAbsent then (some (.homeAbsent, 0), s)
  else
    let k := s.ctxCheck r
    match k.1 with
    | none => (none, s)
    | some .ok =>
      k.2.accessBare r
    | some c => (some (Resp.first c own, 0), k.2)

end Sys2Proof.Machine
end

