-- ==== Sys2Proof/Machine/Xlate.lean ====
section
/-! DEFINITION. Translation (file 14): the copies (ATCs), walks of the HTU and the judgement of a leaf, page requests and
their records; message-signalled interrupts on their way to the interrupt files (R57, R278). -/

namespace Sys2Proof.Machine

open Sys2Proof

/-! Message-signalled interrupts. -/

/-- The interrupt file an address names: core and page of its 64 KiB window (R53, R278). -/
def imsicFile (a : Nat) : Option (Nat × Nat) :=
  let base := ctrlBase + 8 * 0x10000000 + 0x01000000
  if base ≤ a ∧ a < base + 64 * 0x10000 then some ((a - base) / 0x10000, (a - base) % 0x10000 / 0x1000) else none

/-- An MSI of a partition (none: MGMT) is accepted into a core's files (R57): a vault reaches its own cores only, and no other
partition reaches a vault's. -/
def Dev.msiOpen (s : Dev) (part : Option Nat) (core : Nat) : Bool :=
  match part with
  | none => true
  | some p =>
    let owner := s.partOfCore core
    if s.isVault p then owner == some p
    else match owner with
      | some q => !s.isVault q
      | none => true

/-- An MSI sent: false where it goes nowhere or is refused. -/
def Dev.sendMsi (s : Dev) (part : Option Nat) (addr id : Nat) : Bool × Dev :=
  match imsicFile addr with
  | some (n, _) => if s.msiOpen part n then (true, { s with msis := s.msis ++ [⟨part, addr, id⟩] }) else (false, s)
  | none => (false, s)

/-- An MSI that its sender has refused: counted by it (R57). Senders without a register for the count: partition p's HTU block as p, MGMT
as 64, an engine as 128 and its number. -/
def Dev.msiLost (s : Dev) (sender : Nat) : Dev := { s with msiRefused := SMap.set s.msiRefused sender (SMap.get s.msiRefused 0 sender + 1) }

/-! ATCs (R402, R403). -/

def Dev.atc (s : Dev) (c : Nat) : List AtcEntry := SMap.get s.atcs [] c

/-- A copy's entries set, VALID with them. -/
def Dev.setAtc (s : Dev) (c : Nat) (l : List AtcEntry) : Dev :=
  ({ s with atcs := SMap.set s.atcs c l }).setFld F.ATC_STATUS_VALID c l.length

/-- An entry covers an address of a context. -/
def AtcEntry.covers (e : AtcEntry) (ctx va : Nat) : Bool := e.ctx == ctx && va / 2 ^ e.size == e.vpn

/-- An entry gives a right; a write or atomic also needs PTE.D (R401, R403). -/
def AtcEntry.gives (e : AtcEntry) : Right → Bool
  | .r => e.r
  | .w => e.w && e.d
  | .a => e.am && e.d

/-- The physical address an entry gives. -/
def AtcEntry.pa (e : AtcEntry) (va : Nat) : Nat := e.ppn * 2 ^ e.size + va % 2 ^ e.size

/-- An entry installed as the most recent, replacing one of its page and size; the least recent leaves when the copy is
full. -/
def Dev.atcInstall (s : Dev) (c : Nat) (e : AtcEntry) : Dev :=
  s.setAtc c ((e :: (s.atc c).filter (fun x => !(x.ctx == e.ctx && x.vpn == e.vpn && x.size == e.size))).take 2048)

/-- The virtual address space a context's MODE names. -/
def Dev.xmode (s : Dev) (ctx : Nat) : Nat := s.fld F.CTX_XLATE_MODE ctx

/-- A virtual address is sign-extended from the top bit of its space (R397, R400). -/
def canonical (mode va : Nat) : Bool :=
  let b := if mode = 9 then 47 else 56
  let top := va / 2 ^ b
  top == 0 || top == 2 ^ (64 - b) - 1

/-! Walks (R399, R400). -/

/-- How a walk ends: a leaf to be judged (level, PTE, address), a page request for a PTE that is not valid, or XLATE. -/
inductive WalkEnd where
  | leaf (level : Nat) (pte : Word) (addr : Nat)
  | notValid (level addr : Nat)
  | bad
  | wait
  deriving DecidableEq, Repr

/-- Bits of a PTE. -/
def pteBit (p : Word) (i : Nat) : Bool := p.getLsbD i
def pteReserved (p : Word) : Bool := bitsOf p.toNat 54 7 != 0 || bitsOf p.toNat 61 2 == 3
def ptePpn (p : Word) : Nat := bitsOf p.toNat 10 44

/-- A PTE read for a context at its home (R349, R399). -/
def Dev.readPte (s : Dev) (ctx a : Nat) : Option (Resp × Word) × Dev :=
  let x := s.access ⟨.rdOnce, a / 64, .htu, 0, s.partOfCtx ctx, some ctx, .normal, 0, byteMask a 8⟩
  (x.1.map (fun y => (y.1, BitVec.ofNat 64 (fieldAt (lineBytes y.2) (a % 64) 8))), x.2)

/-- The entry of the walk cache that names the table below a level for an address of a context (R399). -/
def Dev.wcFind (s : Dev) (ctx level va : Nat) : Option WalkEntry :=
  s.wcache.find? (fun e => e.ctx == ctx && e.level == level && e.vpn == va / 2 ^ (12 + 9 * level))

/-- A non-leaf entry kept by the walk cache, of at most 8,192 (R399). -/
def Dev.wcKeep (s : Dev) (e : WalkEntry) : Dev :=
  { s with wcache := (e :: s.wcache.filter (fun x => !(x.ctx == e.ctx && x.level == e.level && x.vpn == e.vpn))).take 8192 }

/-- One level of a walk and those below it. Whether the walk cache still holds an entry that it has kept is free, since the spec gives it no
order of replacement; one that it holds serves until it is dropped (R399, R409, R411; log entry 116). A table in the form of another
device, ROOT too, ends the walk with XLATE (R399; DEDUCED, log entry 112). -/
def Dev.walk (s : Dev) (ctx va table : Nat) : Nat → WalkEnd × Dev
  | 0 => (.bad, s)
  | n + 1 =>
    let a := table + 8 * bitsOf va (12 + 9 * n) 9
    let k := s.wcFind ctx n va
    let u := if k.isSome then s.freeBool else (false, s)
    match u.1, k with
    | true, some e => u.2.walk ctx va e.table n
    | _, _ =>
      if remoteForm a then (.bad, u.2)
      else
        let x := u.2.readPte ctx a
        match x.1 with
        | none => (.wait, s)
        | some (code, pte) =>
          let next := ptePpn pte * 4096
          if code != .ok then (.bad, x.2)
          else if !pteBit pte 0 || (pteBit pte 2 && !pteBit pte 1) then (.notValid n a, x.2)
          else if pteBit pte 1 || pteBit pte 3 then (.leaf n pte a, x.2)
          else if pteReserved pte || pteBit pte 63 || n == 0 || remoteForm next then (.bad, x.2)
          else (x.2.wcKeep ⟨ctx, n, va / 2 ^ (12 + 9 * n), next⟩).walk ctx va next n

/-- The walk of a context's tables from ROOT. -/
def Dev.walkFrom (s : Dev) (ctx va : Nat) : WalkEnd × Dev :=
  let m := s.xmode ctx
  if !canonical m va then (.bad, s)
  else s.walk ctx va (s.fld F.CTX_XLATE_ROOT ctx * 4096) (if m = 9 then 4 else 5)

/-- The judgement of a leaf (R400): a translation, XLATE, or a page request with its CAUSE. -/
inductive Verdict where
  | install (e : AtcEntry)
  | xlate
  | pageRequest (cause level addr : Nat)
  deriving DecidableEq, Repr

/-- R400 over the end of a walk, for a request of a context whose partition has the given A_FROM_PTE. -/
def judge (ctx va : Nat) (need : Right) (aFromPte : Bool) : WalkEnd → Verdict
  | .bad => .xlate
  | .wait => .xlate
  | .notValid l a => .pageRequest 1 l a
  | .leaf l pte a =>
    let ppn := ptePpn pte
    let napot := pteBit pte 63
    let size := if napot then 16 else 12 + 9 * l
    let misaligned := !napot && ppn % 2 ^ (9 * l) != 0
    let badN := napot && !(l == 0 && ppn % 16 == 8)
    if pteReserved pte || decide (l > 2) || misaligned || badN then .xlate
    else
      let r := pteBit pte 1
      let w := pteBit pte 2
      let am := if aFromPte then pteBit pte 8 else w
      let given := match need with | .r => r | .w => w | .a => am
      let writes := match need with | .r => false | _ => true
      if !pteBit pte 4 || !given then .pageRequest 2 l a
      else if !pteBit pte 6 then .pageRequest 3 l a
      else if writes && !pteBit pte 7 then .pageRequest 4 l a
      else .install ⟨ctx, va / 2 ^ size, size, ppn * 4096 / 2 ^ size, r, w, am, true, pteBit pte 7⟩

/-! Page requests (R413–R416). -/

def Dev.pr (s : Dev) (p : Nat) : PrSt := SMap.get s.prs .init p

/-- A partition's page-request side set, PENDING with it. -/
def Dev.setPr (s : Dev) (p : Nat) (x : PrSt) : Dev :=
  ({ s with prs := SMap.set s.prs p x }).setFld F.XP_PR_STATUS_PENDING p x.entries.length

/-- Access bits of a record. -/
def Right.bits : Right → Nat
  | .r => 1
  | .w => 2
  | .a => 4

/-- Records written to the page request ring while it has room (R414): each as one 32-byte request, then its MSI; one that
would overwrite an entry not yet consumed waits and FULL is set. -/
def Dev.prFlush (s : Dev) (p : Nat) : Nat → Dev
  | 0 => s
  | n + 1 =>
    match (s.pr p).records with
    | [] => s.setFlag F.XP_PR_STATUS_FULL p false
    | (ix, ctx, body) :: rest =>
      let pos := s.fld F.XP_PR_STATUS_POSITION p
      let size := 2 ^ (6 + s.fld F.XP_PR_BASE_SIZE p)
      let gap := (pos + 2 ^ 32 - s.fld F.XP_PR_HEAD_HEAD p) % 2 ^ 32
      if gap ≥ size then s.setFlag F.XP_PR_STATUS_FULL p true
      else
        let base := s.fld F.XP_PR_BASE_BASE p * 4096
        let a := (s.localForm base).getD base + pos % size * 32
        let gen := 1 + pos / size % 255
        let x := s.accessBare (writeReq .htu p a (leBytes 1 gen ++ body))
        match x.1 with
        | none => s
        | some _ =>
          let s := x.2.bump F.XP_PR_STATUS_POSITION p 1
          let q := s.pr p
          let es := q.entries.map (fun e => if e.ix = ix then { e with written := some s.time } else e)
          let s := s.setPr p { q with records := rest, entries := es }
          let s := s.count F.CTX_XLATE_COUNTS_PAGE_REQUESTS ctx 1
          let id := s.fld F.XP_PR_MSI_DATA p
          let m := s.sendMsi (some p) (s.fld F.XP_PR_MSI_ADDR_ADDR p * 4) id
          let s := if id = 0 then s else if m.1 then m.2 else s.msiLost p
          s.prFlush p n

/-- A page request raised (R413): merged into the pending entry of its context and page, else it takes a free entry, the
lowest index, and its record is due; with all 64 pending it waits at the HTU. -/
def Dev.raisePr (s : Dev) (p ctx : Nat) (q : XReq) (cause level addr : Nat) : Dev :=
  let st := s.pr p
  let vp := q.va / 4096
  if st.entries.any (fun e => e.ctx == ctx && e.vpage == vp) then
    s.setPr p { st with entries := st.entries.map (fun e =>
      if e.ctx = ctx ∧ e.vpage = vp then { e with reqs := e.reqs ++ [q] } else e) }
  else match (List.range 64).find? (fun i => !(st.entries.any (fun e => e.ix == i))) with
    | some i =>
      let u := SMap.get st.uses 0 i
      let seq := s.fld F.XP_PR_STATUS_POSITION p + st.records.length
      let body := leBytes 1 4 ++ leBytes 1 q.need.bits ++ leBytes 1 cause ++ leBytes 1 (i + 64 * (u % 4)) ++ leBytes 1 level
        ++ leBytes 2 ctx ++ leBytes 8 (vp * 4096) ++ leBytes 8 addr ++ leBytes 4 seq ++ leBytes 1 q.cluster ++ leBytes 3 0
      let s := s.setPr p { st with entries := st.entries ++ [⟨i, u % 4, ctx, vp, [q], none⟩], uses := SMap.set st.uses i (u + 1),
                                   records := st.records ++ [(i, ctx, body)] }
      s.prFlush p 65
    | none => (s.setPr p { st with waiting := st.waiting ++ [(ctx, vp, cause, level, addr, q)] }).count F.XP_PR_STATUS_PR_FULL p 1

/-- What a translation request comes to. -/
inductive Xlated where
  | pa (a : Nat)
  | xlate
  | wait
  deriving DecidableEq, Repr

/-- A request answered XLATE, counted for its context. -/
def Dev.xlateFail (s : Dev) (ctx : Nat) : Xlated × Dev := (.xlate, s.count F.CTX_XLATE_COUNTS_XLATE ctx 1)

/-- A translated request whole (R397–R405, R413): through the copy of a cluster, by a walk where it misses, to a page request
that waits where a leaf does not serve. -/
def Dev.xlate (s : Dev) (cluster ctx : Nat) (need : Right) (va tag : Nat) : Xlated × Dev :=
  let m := s.xmode ctx
  match s.partOfCtx ctx with
  | none => s.xlateFail ctx
  | some p =>
    if m = 0 then
      if va < 2 ^ 56 && s.flag F.XP_CHECK_CTRL_ENABLE p then (.pa va, s) else s.xlateFail ctx
    else if !(m = 9 || m = 10) then s.xlateFail ctx
    else
      match (s.atc cluster).find? (fun e => e.covers ctx va && e.gives need) with
      | some e =>
        let s := s.count F.ATC_HITS_COUNT cluster 1
        (.pa (e.pa va), s.setAtc cluster (e :: (s.atc cluster).filter (fun x => !(x == e))))
      | none =>
        let s := s.count F.ATC_MISSES_COUNT cluster 1
        let q : XReq := ⟨cluster, tag, need, va⟩
        if s.dieState 8 != 0 then s.xlateFail ctx
        else
          let w := s.walkFrom ctx va
          if w.1 = .wait then (.wait, s)
          else
            let fromPte := match s.partRec p with | some r => r.aFromPte | none => false
            match judge ctx va need fromPte w.1 with
            | .install e => (.pa (e.pa va), w.2.atcInstall cluster e)
            | .xlate => w.2.xlateFail ctx
            | .pageRequest cause level addr =>
              if !s.flag F.CTX_XLATE_PR_ENABLE ctx || s.fld F.XP_PR_BASE_BASE p == 0 then w.2.xlateFail ctx
              else (.wait, w.2.raisePr p ctx q cause level addr)

end Sys2Proof.Machine
end

