-- ==== Sys2Proof/Machine/CtrlMap.lean ====
section
/-! DEFINITION. CTRL space (R53–R58): where an address leads, who may reach it, what a plain write stores. -/

namespace Sys2Proof.Machine

open Sys2Proof

/-- Where a CTRL offset leads (R53): a block with its unit and the offset in it, an interrupt file, or no window. -/
inductive CtrlPlace where
  | block (b : Block) (unit off : Nat)
  | imsic (core page off : Nat)
  | absent
  deriving DecidableEq, Repr

/-- The place of an offset in the window of a compute die. -/
def computeCtrl (d o : Nat) : CtrlPlace :=
  if o < 0x04000000 then
    let g := 4 * d + o / 0x01000000
    let x := o % 0x01000000
    if x < 0x400000 then
      match x / 0x10000 with
      | 1 => .block .home g (x % 0x10000)
      | 2 => .block .sysCache g (x % 0x10000)
      | 3 => .block .tbe g (x % 0x10000)
      | 4 => .block .cde g (x % 0x10000)
      | n => if 8 ≤ n ∧ n < 16 then .block .channel (8 * g + (n - 8)) (x % 0x10000) else .block .queueManager g x
    else if x < 0x800000 then
      let c := 4 * g + (x - 0x400000) / 0x100000
      let y := x % 0x100000
      match y / 0x10000 with
      | 1 => .block .mxa (4 * c) (y % 0x10000)
      | 2 => .block .mxa (4 * c + 1) (y % 0x10000)
      | 3 => .block .mxa (4 * c + 2) (y % 0x10000)
      | 4 => .block .mxa (4 * c + 3) (y % 0x10000)
      | 5 => .block .vxe c (y % 0x10000)
      | 6 => .block .spe c (y % 0x10000)
      | 7 => .block .mve c (y % 0x10000)
      | 8 => .block .atc c (y % 0x10000)
      | 9 => .block .clusterCache c (y % 0x10000)
      | _ => .block .clusterCtl c y
    else .absent
  else .absent

/-- The place of an offset in the window of the core die. -/
def coreCtrl (o : Nat) : CtrlPlace :=
  if o < 0x01000000 then .block .coreGroup (o / 0x100000) (o % 0x100000)
  else if o < 0x01400000 then .imsic ((o - 0x01000000) / 0x10000) (o % 0x10000 / 0x1000) (o % 0x1000)
  else if 0x02000000 ≤ o ∧ o < 0x03000000 then .block .htu 0 (o - 0x02000000)
  else if 0x03000000 ≤ o ∧ o < 0x030C0000 then .block .dimm ((o - 0x03000000) / 0x10000) (o % 0x10000)
  else if 0x04000000 ≤ o ∧ o < 0x05000000 then .block .hostHomes 0 (o - 0x04000000)
  else if 0x05000000 ≤ o ∧ o < 0x05080000 then .block .hostLink ((o - 0x05000000) / 0x10000) (o % 0x10000)
  else .absent

/-- The place of an offset in the window of an I/O die. -/
def ioCtrl (d o : Nat) : CtrlPlace :=
  if o < 0x180000 then .block .port (24 * (d - 9) + o / 0x10000) (o % 0x10000)
  else if 0x01000000 ≤ o ∧ o < 0x02000000 then .block .fabric (d - 9) (o - 0x01000000)
  else if 0x02000000 ≤ o ∧ o < 0x03000000 then .block (if d = 9 then .gx else .gxB) 0 (o - 0x02000000)
  else if 0x03000000 ≤ o ∧ o < 0x04000000 then .block .nse (d - 9) (o - 0x03000000)
  else if d = 9 ∧ 0x04000000 ≤ o ∧ o < 0x05000000 then .block .pcie 0 (o - 0x04000000)
  else if d = 9 ∧ 0x05000000 ≤ o ∧ o < 0x06000000 then .block .mgmt 0 (o - 0x05000000)
  else if d = 9 ∧ 0x06000000 ≤ o ∧ o < 0x07000000 then .block .serial 0 (o - 0x06000000)
  else if d = 9 ∧ 0x07000000 ≤ o ∧ o < 0x08000000 then .block .capc 0 (o - 0x07000000)
  else .absent

/-- The place of an offset in CTRL space. -/
def ctrlPlace (off : Nat) : CtrlPlace :=
  let d := off / 0x10000000
  let o := off % 0x10000000
  if d > 10 then .absent
  else if o ≥ 0x08000000 then .block .dieCommon d (o - 0x08000000)
  else if d < 8 then computeCtrl d o
  else if d = 8 then coreCtrl o
  else ioCtrl d o

/-- The instance of a map row at an offset in its block. -/
def MapRow.at (m : MapRow) (unit off : Nat) : Option RegId :=
  if off < m.off then none
  else
    let x := off - m.off
    let i := if m.count = 1 then 0 else x / m.stride
    let rest := if m.count = 1 then x else x % m.stride
    let j := if m.count2 = 1 then 0 else rest / m.stride2
    let outer := if m.count2 = 1 then rest else rest % m.stride2
    if i < m.count ∧ j < m.count2 ∧ outer = 0 then some ⟨m.name, (m.ixBase + unit * m.count + i) * m.count2 + j⟩ else none

/-- The register at an offset of a block; none where its map lists nothing (R54). The router window of I/O die 1 holds no
registers (file 15), nor do the link windows of the core die's die-common window (R70). -/
def regAt (b : Block) (unit off : Nat) : Option RegId :=
  if b = .fabric ∧ unit ≠ 0 then none
  else if b = .dieCommon ∧ unit = 8 ∧ 0x100000 ≤ off ∧ off < 0x200000 then none
  else mapRows.findSome? (fun m => if m.block = b then m.at unit off else none)

/-- The blocks of partitions, contexts and job entries within a package block: the register that stands for one, its window, the offset
of the first, their distance and their number. -/
def ctrlBands : List (RegName × Block × Nat × Nat × Nat) :=
  [(.PART_STATUS, .mgmt, 0x100000, 0x40, 32), (.CTX_STATE, .mgmt, 0x200000, 0x80, 4096), (.TIER_POOL_BASE, .mgmt, 0x300000, 0x80, 32),
   (.TIER_DISCARD, .mgmt, 0x310000, 0x8, 64), (.ATT_STATUS, .mgmt, 0x400000, 0x20, 1), (.XP_CHECK_BASE, .htu, 0x100000, 0x100, 32),
   (.CTX_XLATE, .htu, 0x200000, 0x10, 4096), (.JOB_CFG, .fabric, 0x1000, 0x100, 64), (.GX_STATUS, .gx, 0, 0x100, 32)]

/-- The register that stands for the block of a partition, context or job that an offset lies in: who reaches that block reaches the
offsets its map does not list (R54). -/
def bandOf (b : Block) (unit off : Nat) : Option RegId :=
  if unit ≠ 0 then none
  else ctrlBands.findSome? (fun (r, w, base, step, n) =>
    if w = b ∧ base ≤ off ∧ off < base + step * n then some ⟨r, (off - base) / step⟩ else none)

/-- The size and alignment that a place takes (R55). -/
def ctrlSized (off size : Nat) : CtrlPlace → Bool
  | .imsic _ _ _ => (size == 8 || size == 4) && off % size == 0
  | _ => size == 8 && off % 8 == 0

/-- How many units a block has. -/
def Block.units : Block → Nat
  | .queueManager | .home | .sysCache | .tbe | .cde => 32
  | .channel => 256
  | .clusterCtl | .vxe | .spe | .mve | .atc | .clusterCache => 128
  | .mxa => 512
  | .coreGroup => 16
  | .dimm => 12
  | .hostLink => 8
  | .port => 48
  | .nse => 2
  | .dieCommon => 11
  | .htu | .hostHomes | .fabric | .gx | .gxB | .pcie | .mgmt | .serial | .capc => 1

/-- The block and unit that hold a register. -/
def RegId.unitOf (r : RegId) : Option (Block × Nat) :=
  mapRows.findSome? fun m =>
    let k := r.ix / m.count2
    if m.name = r.name ∧ !(m.block == .dieCommon && m.count == 16 && k / 16 == 8) ∧ m.ixBase ≤ k ∧ k < m.ixBase + m.block.units * m.count then some (m.block, (k - m.ixBase) / m.count) else none

/-- The region of a region or cluster block (R53); none for the die-common, core-die, I/O-die and package blocks. -/
def Block.region (unit : Nat) : Block → Option Nat
  | .queueManager | .home | .sysCache | .tbe | .cde => some unit
  | .channel => some (unit / 8)
  | .clusterCtl | .vxe | .spe | .mve | .atc | .clusterCache => some (unit / 4)
  | .mxa => some (unit / 16)
  | _ => none

/-- The die of a block that stops answering with it; none for MGMT, the port and the die-common blocks, which the
management sideband reaches (R28, R477). -/
def Block.die (unit : Nat) : Block → Option Nat
  | .coreGroup | .htu | .dimm | .hostHomes | .hostLink => some 8
  | .port => some (9 + unit / 24)
  | .nse => some (9 + unit)
  | .fabric => some (9 + unit)
  | .gx => some 9
  | .gxB => some 10
  | .pcie | .mgmt | .serial | .capc | .dieCommon => none
  | b => (b.region unit).map (· / 4)

/-- The partition's state as PART_STATUS shows it: 0 OFF, 1 LOADING, 2 RUN, 3 QUIESCE, 4 RESET, 5 FAILED (R281). -/
def Dev.partState (s : Dev) (p : Nat) : Nat := s.fld F.PART_STATUS_STATE p

/-- A vault is sealed while its partition is in RUN (R479). -/
def Dev.sealedVault (s : Dev) (p : Nat) : Bool := s.isVault p && s.partState p == 2

/-- Registers of a context, indexed by it (R303), and of its translation. -/
def RegName.ofCtx : RegName → Bool
  | .CTX_STATE | .CTX_CTRL | .CTX_SAVE | .CTX_FAULT | .CTX_FAULT_ADDR | .CTX_PACE | .CTX_PACE_WORK | .CTX_FALLBACK
  | .CTX_PACE_STATUS | .CTX_ACCT_RUN | .CTX_ACCT_WAIT | .CTX_ACCT_PREEMPT | .CTX_ACCT_HOLD => true
  | _ => false
def RegName.ofCtxXlate : RegName → Bool
  | .CTX_XLATE | .CTX_XLATE_COUNTS => true
  | _ => false

/-- Registers of a partition's translation block, its control block, its tier block, its vault's GX block. -/
def RegName.ofXlate : RegName → Bool
  | .XP_CHECK_BASE | .XP_CHECK_CTRL | .XP_INV_ADDR | .XP_INV_CTRL | .XP_INV_STATUS | .XP_PR_BASE | .XP_PR_HEAD
  | .XP_PR_MSI_ADDR | .XP_PR_MSI | .XP_PR_RESP | .XP_PR_STATUS | .XP_PR_LIMIT => true
  | _ => false
def RegName.ofPart : RegName → Bool
  | .PART_STATUS | .PART_CTRL | .PART_LAP | .PART_LIMITS | .PART_ESC => true
  | _ => false
def RegName.ofTier : RegName → Bool
  | .TIER_POOL_BASE | .TIER_POOL_CFG | .TIER_STAMP_BASE | .TIER_NOTICE_BASE | .TIER_NOTICE_HEAD | .TIER_NOTICE_STATUS => true
  | _ => false
def RegName.ofGx : RegName → Bool
  | .GX_STATUS | .GX_LEDGER | .GX_SRC | .GX_AUX | .GX_LEN | .GX_CTRL | .GX_DEST_BASE | .GX_DEST_CFG | .GX_DEST_POS
  | .GX_COUNTS => true
  | _ => false
def RegName.ofJob : RegName → Bool
  | .JOB_CFG | .JOB_RANGE | .JOB_MEMBERS => true
  | _ => false
def RegName.ofAtt : RegName → Bool
  | .ATT_STATUS | .ATT_DATA_ADDR | .ATT_OUT_ADDR | .ATT_CTRL => true
  | _ => false

/-- The job entry of a job register. -/
def RegId.job (r : RegId) : Nat := if r.name = .JOB_MEMBERS then r.ix / 16 else r.ix

/-- A register belongs to the blocks of a partition outside its regions: its control, context, tier and translation
registers, its job entries, its GX block. -/
def Dev.regOfPart (s : Dev) (p : Nat) (r : RegId) : Bool :=
  ((r.name.ofPart || r.name.ofTier || r.name.ofXlate || r.name.ofGx) && r.ix == p)
    || (r.name == .GX_OWNER && r.ix / 4 == p)
    || ((r.name.ofCtx || r.name.ofCtxXlate) && s.partOfCtx r.ix == some p)
    || (r.name.ofJob && s.fld F.JOB_CFG_PARTITION r.job == p)

/-- PERM of a CTRL access (R56–R58, R303, R480, the translation block): true when the access may go on. The spec names no code for a
core's access to a region or cluster block of a region that no partition owns: such a block is of no partition, and the model answers
a core's access PERM and serves PF0 and MGMT (DESIGN CHOICE, log entry 97). -/
def Dev.ctrlOpen (s : Dev) (who : Who) (b : Block) (unit : Nat) (r : Option RegId) : Bool :=
  match b.region unit with
  | some g => match who with
    | .pf0 | .mgmt => true
    | .core n _ => match s.partOfCore n with
      | some p => s.partOfRegion g == some p
      | none => false
    | .engine p => s.partOfRegion g == some p.val && (match r with | some r => r.name == .DB | none => false)
  | none => match who with
    | .pf0 | .mgmt => true
    | .engine _ => false
    | .core n .machine => match s.partOfCore n with
      | none => false
      | some p =>
        match r with
        | none => !s.sealedVault p
        | some r =>
          let own := s.regOfPart p r
          if s.sealedVault p then own || r.name == .TIER_DISCARD || r.name.ofAtt
          else if r.name.ofCtx || r.name.ofCtxXlate || r.name.ofXlate then own
          else true
    | .core _ _ => false

/-- The bits of TIER_DISCARD word w that stand for a partition's contexts. -/
def Dev.discardMask (s : Dev) (p w : Nat) : Word :=
  BitVec.ofNat 64 ((List.range 64).foldl (fun m i => if s.partOfCtx (64 * w + i) = some p then m + 2 ^ i else m) 0)

/-- What of a machine-level core's write to a block outside the regions is taken (R58): the word to write, or none. -/
def Dev.coreTakes (s : Dev) (n : Nat) (r : RegId) (w : Word) : Option Word :=
  match s.partOfCore n with
  | none => none
  | some p =>
    let own := s.regOfPart p r
    match r.name with
    | .TIER_DISCARD =>
      let m := s.discardMask p r.ix
      some ((s.reg r.name r.ix &&& ~~~m) ||| (w &&& m))
    | .FAB_DNF_RAISE =>
      if (List.range 64).any (fun j => s.flag F.JOB_CFG_VALID j && s.fld F.JOB_CFG_PARTITION j == p
          && s.fld F.JOB_CFG_JOB j == F.FAB_DNF_RAISE_JOB.get w) then some w else none
    | .PCI_NOTIFY =>
      match s.partRec p with
      | some pr => if pr.vf ≠ 0 ∧ F.PCI_NOTIFY_FUNC.get w = pr.vf + 1 then some w else none
      | none => none
    | .RELOAD_ADDR | .RELOAD_CTRL | .ATT_DATA_ADDR | .ATT_OUT_ADDR | .ATT_CTRL => some w
    | .GX_SRC | .GX_AUX | .GX_LEN | .GX_CTRL => if own && s.isVault p then some w else none
    | .CORE_SL_ADDR | .CORE_SL_INFO => if s.partOfCore r.ix == some p then some w else none
    | .GX_DEST_BASE | .GX_DEST_CFG => none
    | nm => if own && (nm.ofPart || nm.ofCtx || nm.ofCtxXlate || nm.ofTier || nm.ofXlate || nm.ofJob) then some w else none

/-- What of a write by PF0 or MGMT is taken (R480): nothing of a sealed vault's blocks but the listed exceptions. -/
def Dev.hostTakes (s : Dev) (b : Block) (unit : Nat) (r : RegId) (w : Word) : Option Word :=
  let vault := match b.region unit with
    | some g => match s.partOfRegion g with | some p => s.sealedVault p | none => false
    | none => (List.range 32).any (fun p => s.sealedVault p && s.regOfPart p r && !r.name.ofPart)
  if !vault then
    match r.name with
    | .TIER_DISCARD =>
      let m := (List.range 32).foldl (fun m p => if s.sealedVault p then m ||| s.discardMask p r.ix else m) 0
      some ((w &&& ~~~m) ||| (s.reg r.name r.ix &&& m))
    | _ => some w
  else match r.name with
    | .CH_CTRL => if F.CH_CTRL_MAPOUT.get w = 1 then some (s.reg .CH_CTRL r.ix ||| 1) else none
    | .GX_DEST_BASE | .GX_DEST_CFG => some w
    | _ => none

/-- What of a write that R57 lets through is taken. -/
def Dev.takes (s : Dev) (who : Who) (b : Block) (unit : Nat) (r : RegId) (w : Word) : Option Word :=
  match who with
  | .pf0 | .mgmt => s.hostTakes b unit r w
  | .core n _ => match b.region unit with
    | some _ => some w
    | none => s.coreTakes n r w
  | .engine _ => some w

/-- The block's die answers. -/
def Dev.blockUp (s : Dev) (b : Block) (unit : Nat) : Bool :=
  match b.die unit with
  | some d => s.dieState d == 0
  | none => true

/-- The die whose window holds a block (R53). -/
def Block.seat (b : Block) (unit : Nat) : Nat :=
  match b with
  | .dieCommon => unit
  | .pcie | .mgmt | .serial | .capc => 9
  | b => (b.die unit).getD 9

/-- A way leads from who makes the access to the die of the block (R81): a core sits on the core die, PF0 enters at I/O die 0, MGMT
reaches every die by its sideband (R28); an engine's write has been carried to its queue manager. -/
def Dev.ctrlReached (s : Dev) (who : Who) (d : Nat) : Bool :=
  match who with
  | .pf0 => d == 9 || s.reaches 9 d
  | .core _ _ => d == 8 || s.reaches 8 d
  | .mgmt | .engine _ => true

/-- The block answers who makes the access: its die is up and reached. -/
def Dev.blockAnswers (s : Dev) (who : Who) (b : Block) (unit : Nat) : Bool := s.blockUp b unit && s.ctrlReached who (b.seat unit)

/-- A register as software reads it (R14): a WO field reads zero. -/
def Dev.readReg (s : Dev) (r : RegId) : Word :=
  r.name.fields.foldl (fun w f => if f.acc = .wo then (⟨r.name, f.lo, f.width⟩ : Fld).put w 0 else w) (s.reg r.name r.ix)

/-- What a plain write stores (R14): each field by its access code; a value outside the field's range leaves it.
An RWL field is written by the starting block alone (R107), whose writes do not come this way. -/
def Dev.storeReg (s : Dev) (r : RegId) (w : Word) : Dev :=
  let old := s.reg r.name r.ix
  let new := r.name.fields.foldl (fun (acc : Word) f =>
    let fl : Fld := ⟨r.name, f.lo, f.width⟩
    let v := fl.get w
    let inside := decide (f.least ≤ v ∧ v ≤ f.most)
    match f.acc with
    | .rw => if inside then fl.put acc v else acc
    | .w1c => fl.put acc (fl.get acc &&& (2 ^ f.width - 1 - v))
    | .w1s => fl.put acc (fl.get acc ||| v)
    | _ => acc) old
  s.setReg r.name r.ix new

/-- A write command of a named register by someone: refused with PERM, ignored, or taken, in which case it does its work
with the word as taken. -/
def Dev.asWriter (s : Dev) (who : Who) (r : RegId) (w : Word) (work : Dev → Word → Dev) : Dev :=
  match r.unitOf with
  | none => s.emit (.ctrl who .homeAbsent none)
  | some (b, u) =>
    if !s.blockAnswers who b u then s.emit (.ctrl who .homeAbsent none)
    else if !s.ctrlOpen who b u (some r) then s.emit (.ctrl who .perm none)
    else match s.takes who b u r w with
      | none => s.emit (.ctrl who .ok none)
      | some w => (work s w).emit (.ctrl who .ok none)

end Sys2Proof.Machine
end

