-- ==== Sys2Proof/Machine/Access.lean ====
section
/-! DEFINITION. The requests of engines and queue managers: translated, served at their homes, through a cluster cache where
one serves, with results written once a tile's work is done. -/

namespace Sys2Proof.Machine

open Sys2Proof

/-! Notices (R344). -/

/-- An address of NEAR or HOSTMEM. -/
def Dev.tierMemory (s : Dev) (a : Nat) : Bool :=
  match s.place a with
  | .near _ _ _ | .host _ _ => true
  | _ => false

/-- Migration notices written to their rings in the order in which they reach the tier block. -/
def Dev.flushNotices (s : Dev) : Nat → Dev
  | 0 => s
  | n + 1 =>
    match s.notices with
    | [] => s
    | (p, body) :: rest =>
      let drop := fun (s : Dev) => { s.count F.TIER_NOTICE_STATUS_DROPPED p 1 with notices := rest }
      let base := (s.localForm (s.fld F.TIER_NOTICE_BASE_BASE p * 4096)).getD 0
      let size := 2 ^ (6 + s.fld F.TIER_NOTICE_BASE_SIZE p)
      let pos := s.fld F.TIER_NOTICE_STATUS_POSITION p
      let gap := (pos + 2 ^ 32 - s.fld F.TIER_NOTICE_HEAD_HEAD p) % 2 ^ 32
      if base = 0 || gap ≥ size then (drop s).flushNotices n
      else
        let a := base + pos % size * 32
        let r := writeReq .mgmt p a (leBytes 1 (1 + pos / size % 255) ++ body)
        if s.ownCode r != .ok || !s.tierMemory a then (drop s).flushNotices n
        else
          let x := s.accessBare r
          match x.1 with
          | none => s
          | some _ => ({ x.2.bump F.TIER_NOTICE_STATUS_POSITION p 1 with notices := rest }).flushNotices n

/-- A request served whole, with the notices it brings. -/
def Dev.request (s : Dev) (r : Req) : Option (Resp × Line) × Dev :=
  let x := s.access r
  (x.1, x.2.flushNotices (x.2.notices.length))

/-! Cluster caches (R385–R388). -/

def Dev.cc (s : Dev) (c : Nat) : List CcLine := SMap.get s.ccs [] c

/-- Every line of a cluster's cache dropped (R387). -/
def Dev.ccDrop (s : Dev) (c : Nat) : Dev :=
  { (s.count F.CC_DROPS_COUNT c 1).setFld F.CC_STATUS_VALID_LINES c 0 with ccs := SMap.del s.ccs c }

/-- Every cluster cache of a partition dropped. -/
def Dev.ccDropPart (s : Dev) (p : Nat) : Dev := (s.clustersOf p).foldl Dev.ccDrop s

/-- A line kept by a cluster's cache, of at most 8,192. -/
def Dev.ccKeep (s : Dev) (c : Nat) (l : CcLine) : Dev :=
  let ls := (l :: (s.cc c).filter (fun x => !(x.line == l.line && x.part == l.part))).take 8192
  { s.setFld F.CC_STATUS_VALID_LINES c ls.length with ccs := SMap.set s.ccs c ls }

/-- A write from the cluster's own interface updates the bytes its cache holds (R386). -/
def Dev.ccWrite (s : Dev) (c part line : Nat) (d : Line) (mask : BitVec 64) : Dev :=
  if (s.cc c).any (fun x => x.line == line && x.part == part) then
    { s with ccs := SMap.set s.ccs c ((s.cc c).map (fun x =>
        if x.line = line ∧ x.part = part then { x with data := mergeLine mask x.data d } else x)) }
  else s

/-- Who makes a request: its agent, the number of its engine, the cluster whose copy translates, the cluster whose cache
serves it, if one does, its context and partition. -/
structure EngId where
  agent   : Agent
  tag     : Nat
  cluster : Nat
  cache   : Option Nat
  ctx     : Nat
  part    : Nat
  deriving DecidableEq, Repr

/-- Why a tile's run stops short: it must wait (with a page request raised, or for a home or another device), or a request
of it was answered with another code than OK, for an address. -/
inductive Stop where
  | wait (paged : Bool)
  | err (code : Resp) (addr : Nat)
  deriving DecidableEq, Repr

/-- A result not yet written: its virtual address and bytes, its hint, whether it is an atomic add of a format, and the number of the
plane of a descriptor that it belongs to, 0 for none (R182), and the place in its chain of the member that writes it (R248). -/
structure Pend where
  va   : Nat
  data : List Byte
  hint : Hint
  atom : Option Nat
  plane : Nat
  member : Nat
  deriving DecidableEq, Repr

/-- The device and the results of the run so far, with the bytes it has read and written, and those fetched in 256-byte bursts and
not used (R244), and the member of the chain that runs. -/
structure EngSt where
  dev    : Dev
  writes : List Pend
  rd     : Nat
  wr     : Nat
  waste  : Nat
  member : Nat

/-- A run of a tile. -/
abbrev Eng := ExceptT Stop (StateM EngSt)

/-- A step of a run on the device alone. -/
def onDev {α : Type} (f : Dev → α × Dev) : Eng α := do
  let st ← get
  let r := f st.dev
  set { st with dev := r.2 }
  return r.1

/-- What the device gives a read that changes nothing. -/
def look {α : Type} (f : Dev → α) : Eng α := do
  let st ← get
  return f st.dev

/-- A waiter has a request at the HTU that waits for software (R413). -/
def Dev.paged (s : Dev) (tag : Nat) : Bool :=
  s.prs.any (fun p => p.2.entries.any (fun e => e.reqs.any (fun q => q.tag == tag)) || p.2.waiting.any (fun w => w.2.2.2.2.2.tag == tag))

/-- One address translated for a right, or the run stops; one in a page whose page request was refused during this run answers XLATE. -/
def xlateE (e : EngId) (need : Right) (va : Nat) : Eng Nat := do
  if ← look (fun s => (SMap.get s.xfail [] e.tag).any (fun a => a / 4096 == va / 4096)) then throw (.err .xlate va)
  match ← onDev (fun s => s.xlate e.cluster e.ctx need va e.tag) with
  | .pa a => return a
  | .xlate => throw (.err .xlate va)
  | .wait => throw (.wait (← look (fun s => s.paged e.tag)))

/-- A remote request: its answer where it has come, else it is queued to be sent, once, and the run waits. -/
def remoteE (e : EngId) (kind : ReqKind) (a : Nat) (va len : Nat) (data : List Byte) (mask : BitVec 64) (hint : Hint) : Eng (List Byte) := do
  let done ← look (fun s => s.remDone.find? (fun d => d.tag == e.tag && d.kind == kind && d.addr == a))
  match done with
  | some d => if d.code == .ok then return d.data else throw (.err d.code va)
  | none =>
    let q : RemReq := ⟨e.agent, e.tag, kind, a, len, data, mask, e.part, some e.ctx, hint⟩
    onDev (fun s => ((), if s.remQ.contains q || s.remSent.contains q then s else { s with remQ := s.remQ ++ [q] }))
    throw (.wait false)

/-- Every word of a line's stored copy can be delivered: a cache may keep the line. -/
def Dev.lineSound (s : Dev) (line : Nat) : Bool :=
  let stored := match s.lineWord line with
    | some w => (List.range 8).all (fun i => !(s.readWord (w + i)).1.bad)
    | none => false
  match s.place (line * 64) with
  | .near _ c o => match (s.sc (c / 8)).find (c % 8) (o / 256) with
    | some l => let x := l.sector (o % 256 / 64)
                if x.valid then !x.bad else stored
    | none => stored
  | _ => stored

/-- A read that a cluster's cache does not serve: the line is kept where every word of it can be. -/
def Dev.ccMiss (s : Dev) (c : Nat) (l : CcLine) : Dev := if s.lineSound l.line then (s.count F.CC_MISSES_COUNT c 1).ccKeep c l else s

/-- The line that a cluster's cache may still hold for a read, where the cache serves the read at all (R385): of memory, with hint NORMAL or
KEEP, while it is enabled. -/
def Dev.ccHeld (s : Dev) (e : EngId) (a : Nat) (hint : Hint) : Option (Nat × Option CcLine) :=
  match e.cache, s.place a with
  | some c, .near _ _ _ | some c, .host _ _ =>
    if (hint == .normal || hint == .keep) && s.flag F.CC_CTRL_ENABLE c then
      some (c, (s.cc c).find? (fun x => x.line == a / 64 && x.part == e.part))
    else none
  | _, _ => none

/-- A line read at its home, n bytes of it from an address, or from the cluster cache: whether a line that the cache has filled and not
dropped is still held is free (R385). -/
def readLineE (e : EngId) (va pa n : Nat) (hint : Hint) : Eng (List Byte × Bool) := do
  match ← look (fun s => s.localForm pa) with
  | none =>
    if remoteForm pa then do
      let bs ← remoteE e .rdOnce (pa / 64 * 64) va 64 [] 0 hint
      return (bs, false)
    else throw (.err .homeAbsent va)
  | some a =>
    let held ← look (fun s => s.ccHeld e a hint)
    let served ← match held with
      | some (_, some _) => onDev Dev.freeBool
      | _ => pure false
    match served, held with
    | true, some (c, some h) =>
      onDev (fun s => ((), s.count F.CC_HITS_COUNT c 1))
      return (lineBytes h.data, false)
    | _, _ =>
      match ← onDev (fun s => s.request ⟨.rdOnce, a / 64, e.agent, 0, some e.part, some e.ctx, hint, 0, byteMask pa n⟩) with
      | none => throw (.wait false)
      | some (code, d) =>
        if code != .ok then throw (.err code va)
        match held with
        | some (c, _) => onDev (fun s => ((), s.ccMiss c ⟨a / 64, e.part, d⟩))
        | none => pure ()
        return (lineBytes d, ← look (fun s => s.tierMemory a))

/-- The pieces of a byte range within lines: address and length. -/
def pieces (va n : Nat) : List (Nat × Nat) :=
  let first := va / 64
  let last := (va + n - 1) / 64
  if n = 0 then []
  else (List.range (last - first + 1)).map fun i =>
    let lo := max va ((first + i) * 64)
    let hi := min (va + n) ((first + i + 1) * 64)
    (lo, hi - lo)

/-- The other lines of the 256-byte burst of a line, before it or after it. -/
def burstRest (line : Nat) (first last : Bool) : List Nat :=
  (List.range 4).filterMap (fun i =>
    let l := line / 4 * 4 + i
    if (first && decide (l < line)) || (last && decide (line < l)) then some l else none)

/-- A line of a burst that a read of a mover covers only in part (R244): requested with the rest of the burst and not used, whatever its
answer (DEDUCED, log entry 118). -/
def fillBurst (e : EngId) (hint : Hint) (l : Nat) : Eng Unit := do
  match ← onDev (fun s => s.request ⟨.rdOnce, l, e.agent, 0, some e.part, some e.ctx, hint, 0, 0⟩) with
  | none => throw (.wait false)
  | some _ => pure ()

/-- Bytes read from an address, with what a result holds of them. -/
def Pend.cover (w : Pend) (va : Nat) (bs : List Byte) : List Byte :=
  bs.zipIdx.map (fun x => if w.va ≤ va + x.2 then w.data.getD (va + x.2 - w.va) x.1 else x.1)

/-- The member of a chain that runs from here on. -/
def asMember (m : Nat) : Eng Unit := modify (fun st => { st with member := m })

/-- n bytes read from a virtual address; a later member of a chain reads what the earlier ones write (R248). A mover fetches what T1 and T2
serve in whole bursts, and counts what it does not use (R244). -/
def readE (e : EngId) (va n : Nat) (hint : Hint) : Eng (List Byte) := do
  let ps := pieces va n
  let mut out : List Byte := []
  for x in ps.zipIdx do
    let p := x.1
    let pa ← xlateE e .r p.1
    let l ← readLineE e p.1 pa p.2 hint
    out := out ++ (l.1.drop (p.1 % 64)).take p.2
    if l.2 && e.tag < 896 then
      let rest := burstRest ((← look (fun s => (s.localForm pa).getD pa)) / 64) (x.2 == 0) (x.2 + 1 == ps.length)
      for k in rest do fillBurst e hint k
      modify (fun st => { st with waste := st.waste + 64 * (rest.length + 1) - p.2 })
  modify (fun st => { st with rd := st.rd + n })
  let st ← get
  return (st.writes.filter (fun w => decide (w.member < st.member))).foldl (fun b w => w.cover va b) out

/-- A little-endian number read. -/
def readNumE (e : EngId) (va n : Nat) (hint : Hint) : Eng Nat := do
  let bs ← readE e va n hint
  return leNat bs

/-- Bytes to be written when the tile's work is done. -/
def writeE (va : Nat) (bs : List Byte) (hint : Hint) : Eng Unit :=
  modify (fun st => { st with writes := st.writes ++ [⟨va, bs, hint, none, 0, st.member⟩] })

/-- Bytes of a plane of the descriptor to be written when the tile's work is done: kind 0 its elements, 1 its scale entries, 2 its vanish
table, at the plane's base. -/
def writePlane (base kind va : Nat) (bs : List Byte) : Eng Unit :=
  modify (fun st => { st with writes := st.writes ++ [⟨va, bs, .normal, none, 3 * base + kind + 1, st.member⟩] })

/-- An atomic add of one element, to be made when the tile's work is done (R201, R227). -/
def atomE (va : Nat) (bs : List Byte) (fmt : Nat) : Eng Unit :=
  modify (fun st => { st with writes := st.writes ++ [⟨va, bs, .normal, some fmt, 0, st.member⟩] })

/-- Two results of different planes of one descriptor share a byte. -/
def Pend.meets (w p : Pend) : Bool :=
  w.member == p.member && w.plane != 0 && p.plane != 0 && w.plane != p.plane && decide (w.va < p.va + p.data.length) && decide (p.va < w.va + w.data.length)

/-- The bytes that a result shares with an earlier one of another plane: which of the two each ends holding is free (R182). -/
def Dev.pickBytes (s : Dev) (w p : Pend) : Pend × Dev :=
  if !w.meets p then (w, s)
  else
    let r := s.free (2 ^ w.data.length)
    ({ w with data := (w.data.zip (List.range w.data.length)).map (fun x =>
        if p.va ≤ w.va + x.2 ∧ bitOf r.1 x.2 then p.data.getD (w.va + x.2 - p.va) x.1 else x.1) }, r.2)

/-- The results with every byte that planes share settled. -/
def Dev.pickAll (s : Dev) (ws : List Pend) : List Pend × Dev :=
  ws.foldl (fun (x : List Pend × Dev) w =>
    let r := x.1.foldl (fun (y : Pend × Dev) p => y.2.pickBytes y.1 p) (w, x.2)
    (x.1 ++ [r.1], r.2)) ([], s)

/-- The least and the greatest address of each plane's results. -/
def planeHulls (ws : List Pend) : SMap (Nat × Nat) :=
  ws.foldl (fun m w =>
    if w.plane = 0 then m
    else
      let h := SMap.get m (w.va, w.va + w.data.length) w.plane
      SMap.set m w.plane (min h.1 w.va, max h.2 (w.va + w.data.length))) []

/-- Results of different planes may share bytes. -/
def planesMeet (ws : List Pend) : Bool :=
  let hs := planeHulls ws
  hs.any (fun a => hs.any (fun b => a.1 != b.1 && decide (a.2.1 < b.2.2) && decide (b.2.1 < a.2.2)))

/-- The write requests of the results: one for each line a result touches, with its translated address. -/
def placeWrites (e : EngId) (ws : List Pend) : Eng (List (Pend × Nat × Nat × Nat)) := do
  let mut out : List (Pend × Nat × Nat × Nat) := []
  for w in ws do
    for p in pieces w.va w.data.length do
      let pa ← xlateE e (if w.atom.isSome then .a else .w) p.1
      out := out ++ [(w, p.1, p.2, pa)]
  return out

/-- The request that a piece of a result makes. -/
def pendReq (e : EngId) (w : Pend) (va n a : Nat) : Req :=
  let o := a % 64
  let bs := (w.data.drop (va - w.va)).take n
  let mask := byteMask a n
  ⟨match w.atom with | some f => .atomic (.fpAdd f) | none => if n = 64 then .wrLine else .wrPart,
   a / 64, e.agent, 0, some e.part, some e.ctx, w.hint, lineOf (List.replicate o 0 ++ bs), mask⟩

/-- A write of an engine to CTRL (R56, R382): an MSI for an interrupt file, which is then on its way there, or a doorbell of a queue manager
of its partition, which its tile's end delivers; any other answers PERM. -/
def Dev.engCtrl (s : Dev) (e : EngId) (off n : Nat) (bs : List Byte) : Resp × Dev :=
  let pl := ctrlPlace off
  match pl with
  | .absent => (.homeAbsent, s)
  | .imsic core _ o =>
    if s.dieState 8 != 0 || !s.joined (agentGate e.agent) 8 then (.homeAbsent, s)
    else if !ctrlSized off n pl then (.perm, s)
    else if !s.msiOpen (some e.part) core then (.perm, s.msiLost (128 + e.tag))
    else (.ok, if o = 0 then { s with msis := s.msis ++ [⟨some e.part, ctrlBase + off, bitsOf (leNat bs) 0 32⟩] } else s)
  | .block b u o =>
    if !s.blockUp b u || !s.joined (agentGate e.agent) (b.seat u) then (.homeAbsent, s)
    else match regAt b u o with
      | some r =>
        if r.name == .DB && ctrlSized off n pl && s.partOfRegion u == some e.part then
          (.ok, { s with doorbells := s.doorbells ++ [(e.part, r.ix, BitVec.ofNat 64 (leNat bs))] })
        else (.perm, s)
      | none => (.perm, s)

/-- One piece of a result requested: of CTRL by the rules above, else at its home. -/
def Dev.pieceWrite (s : Dev) (e : EngId) (w : Pend) (va n a : Nat) : Option Resp × Dev :=
  if ctrlBase ≤ a ∧ a ≤ ctrlLimit then
    if w.atom.isSome then (some .perm, s)
    else
      let x := s.engCtrl e (a - ctrlBase) n ((w.data.drop (va - w.va)).take n)
      (some x.1, x.2)
  else
    let x := s.request (pendReq e w va n a)
    (x.1.map (·.1), x.2)

/-- Results in the order of the members that write them (R248). -/
def byMember (ws : List Pend) : List Pend :=
  (List.range ((ws.map (·.member)).foldl max 0 + 1)).flatMap (fun m => ws.filter (fun w => w.member == m))

/-- Every result written, a member's after those of the members before it: translated first, then those of other devices, then those of this one. -/
def flushE (e : EngId) : Eng Unit := do
  let st ← get
  let ws ← if planesMeet st.writes then onDev (fun s => s.pickAll (byMember st.writes)) else pure (byMember st.writes)
  let ps ← placeWrites e ws
  for p in ps do
    let a := p.2.2.2
    if remoteForm a && (← look (fun s => (s.localForm a).isNone)) then
      let r := pendReq e p.1 p.2.1 p.2.2.1 a
      discard (remoteE e r.kind a p.2.1 p.2.2.1 ((p.1.data.drop (p.2.1 - p.1.va)).take p.2.2.1) r.mask p.1.hint)
  for p in ps do
    match ← look (fun s => s.localForm p.2.2.2) with
    | none => if !remoteForm p.2.2.2 then throw (.err .homeAbsent p.2.1)
    | some a =>
      let r := pendReq e p.1 p.2.1 p.2.2.1 a
      match e.cache with
      | some c => onDev (fun s => ((), if r.kind.writes && p.1.atom.isNone then s.ccWrite c e.part r.line r.data r.mask else s))
      | none => pure ()
      match ← onDev (fun s => s.pieceWrite e p.1 p.2.1 p.2.2.1 a) with
      | none => throw (.wait false)
      | some code => if code != .ok then throw (.err code p.2.1)
  modify (fun st => { st with writes := [], wr := st.wr + (ps.map (fun p => p.2.2.1)).sum })

/-- A run whole: its work, then its results. While a request of it waits for software, it waits; one that software refused
answers XLATE until the run ends. A run that must wait for a home or another device leaves nothing but its requests to other devices; one that
waits on a page request leaves that request. What an engine of a cluster reads and writes goes through the cluster's mover, which
counts it (R209, R244). -/
def runEng {α : Type} (s : Dev) (e : EngId) (m : Eng α) : Except Stop α × Dev :=
  if s.drain.isSome then (.error (.wait false), s)
  else if s.paged e.tag then (.error (.wait true), s)
  else
    let r := (do let x ← m; flushE e; return x : Eng α).run { dev := s, writes := [], rd := 0, wr := 0, waste := 0, member := 0 }
    match r.1 with
    | .error (.wait false) => (.error (.wait false), { s with remQ := r.2.dev.remQ })
    | .error (.wait true) => (.error (.wait true), r.2.dev)
    | y =>
      let s' := { r.2.dev with xfail := SMap.del r.2.dev.xfail e.tag }
      (y, if e.tag < 896 then ((s'.bump F.MVE_BYTES_RD_COUNT e.cluster r.2.rd).bump F.MVE_BYTES_WR_COUNT e.cluster
          r.2.wr).bump F.MVE_BURST_WASTE_COUNT e.cluster r.2.waste else s')

end Sys2Proof.Machine
end

