-- ==== Sys2Proof/WellFormed.lean ====
section
/-! DEFINITION. The fixed shapes of what a command carries: a list that stands for something of a fixed length in the spec has that
length, a number that stands for a field fits it. A command of another shape is no event of the device, and its meaning stops. -/

namespace Sys2Proof

open Sys2Proof.Machine

/-- A request of a channel controller's reorder queue (R325): it covers bytes of one 256-byte burst, and a write brings all 256. -/
def chReqShape (q : ChReq) : Bool := decide (q.mask < 2 ^ 256) && (!q.write || q.data.length == 256)

/-- A request of an SC slice names one of four sectors (R327). -/
def scReqShape (r : ScReq) : Bool := decide (r.sector < 4)

/-- A flit (R72): KIND of 2 bits, each of four slots at most once, messages of four classes, lanes 0–33. -/
def flitShape (f : Flit) : Bool :=
  decide (f.kind < 4) && f.slots.all (fun m => decide (m.1 < 4) && decide (m.2.cls < 4)) && decide (f.slots.map (·.1)).Nodup
    && f.errs.all (fun l => decide (l.1 < 34))

/-- A load moves 1 to 8 bytes (R377). -/
def loadShape (size : Nat) : Bool := decide (1 ≤ size)

/-- A store moves 1 to 8 bytes, or the 64 bytes of cbo.zero (R377, R352). -/
def storeShape (data : List Byte) : Bool := (decide (1 ≤ data.length) && decide (data.length ≤ 8)) || (data.length == 64 && data.all (· == 0))

/-- What training finds in each DIMM channel (R319, R321): twelve channels of at most two DIMMs. -/
def spdShape (spd : List (List DimmSpd)) : Bool := spd.length == 12 && spd.all (fun l => decide (l.length ≤ 2))

/-- The forty rails (R549). -/
def railsShape (rails : List Nat) : Bool := rails.length == 40

/-- A CAP granule of 32 bytes (R428), a frame of four header words and 512 bytes (R423), a REPORT_DATA of 64 (R504). -/
def capShape (g : List Byte) : Bool := g.length == 32
def frameShape (head body : List Byte) : Bool := head.length == 32 && body.length == 512
def dataShape (d : List Byte) : Bool := d.length == 64

/-- The power of the 32 regions (R512). -/
def wattsShape (w : List Nat) : Bool := w.length == 32

/-- The temperature sensors of a die (R513). -/
def sensorsOf (d : Nat) : Nat := if d < 8 then 16 else if d = 8 then 8 else 4

def readingsShape (d : Nat) (r : List Int) : Bool := r.length == sensorsOf d

/-- The shape of a command: true for every command but those of the shapes above. -/
def Instr.wf : Instr → Bool
  | .pwrgoodRise _ _ => true
  | .pwrgoodFall => true
  | .sysRstNLow => true
  | .perstNLow => true
  | .perstNDeassert => true
  | .fusesLoaded => true
  | .pllLock _ => true
  | .lockLost _ => true
  | .dividerStep _ _ => true
  | .imageReadDone _ => true
  | .bootGo _ => true
  | .recordsApplied _ => true
  | .stackTrainingDone _ _ _ _ => true
  | .dimmTrainingDone xspd => spdShape xspd
  | .firmwareCopyDone => true
  | .attestLeafReserve _ => true
  | .release => true
  | .level1Certified => true
  | .reloadGo _ => true
  | .reloadVerifyDone => true
  | .reloadLoadingDone _ => true
  | .linkTrainingStart _ => true
  | .linkTrainingEnd _ _ _ _ xrails => railsShape xrails
  | .laneLockLoss _ _ => true
  | .laneErrWindowEnd _ => true
  | .flitReceive _ xf => flitShape xf
  | .linkRetrain _ _ => true
  | .registerWrite _ _ _ => true
  | .nop _ => true
  | .setSeed _ => true
  | .matmul _ => true
  | .conv _ => true
  | .vxEw _ => true
  | .vxAct _ => true
  | .vxReduce _ => true
  | .vxSoftmax _ => true
  | .vxNorm _ => true
  | .vxOptim _ => true
  | .spGather _ => true
  | .spScatter _ => true
  | .spEmbed _ => true
  | .spSpmv _ => true
  | .tbPartition _ => true
  | .tbAggregate _ => true
  | .cdCompress _ => true
  | .cdDecompress _ => true
  | .mvCopy _ => true
  | .mvFill _ => true
  | .mvPages _ => true
  | .mxaTileStart _ => true
  | .mxaPassEnd _ _ => true
  | .mxaWeightsAvailable _ => true
  | .mxaHoldLimitExpire _ => true
  | .mxaSelftestRequest _ _ _ => true
  | .mxaSelftestBegin _ => true
  | .mxaSelftestEnd _ _ => true
  | .mxaPowerGate _ => true
  | .mxaPowerUpDone _ => true
  | .selftestDue _ => true
  | .padRead _ _ _ => true
  | .engineTileTake _ => true
  | .tileSteal _ => true
  | .tableQueueTake _ => true
  | .mveStageWrite _ _ _ => true
  | .stageSplitEffect _ => true
  | .engineResponseError _ _ _ => true
  | .tbeLockstepMismatch _ => true
  | .doorbell _ _ _ => true
  | .descriptorFetch _ => true
  | .descriptorAccept _ => true
  | .falseStartReread _ => true
  | .falseStartStop _ => true
  | .queueResume _ _ => true
  | .queueSkip _ _ _ => true
  | .queueEnable _ _ _ => true
  | .queueDisable _ _ _ => true
  | .tileIssue _ => true
  | .hurdleArrive _ => true
  | .hurdlePoll _ => true
  | .hurdleExpire _ => true
  | .tokenWrite _ _ _ _ => true
  | .descriptorComplete _ => true
  | .completionRecordWrite _ => true
  | .msiHoldoffExpire _ => true
  | .cqHeadWrite _ _ _ => true
  | .partResetRequest _ _ => true
  | .quiesceDone _ => true
  | .quiesceLimitExpire _ _ => true
  | .partResetDone _ => true
  | .runSlotGrant _ => true
  | .lapEnd _ => true
  | .preemptGraceExpire _ => true
  | .saveAreaWriteDone _ => true
  | .restoreReadDone _ => true
  | .ctxHold _ _ _ => true
  | .ctxRelease _ _ _ => true
  | .ctxClear _ _ _ => true
  | .ctxDisable _ _ _ => true
  | .contextDrained _ => true
  | .drainLimitExpire _ => true
  | .pacerArm _ _ _ => true
  | .pacerPoll _ => true
  | .t1ChannelAccess _ xarrive _ => xarrive.all chReqShape
  | .t2ChannelAccess _ xarrive _ => xarrive.all chReqShape
  | .ageFallback _ => true
  | .patrolScrub _ _ => true
  | .channelMapout _ _ => true
  | .mapoutComplete _ => true
  | .dimmTempRead _ _ => true
  | .hotDecay _ => true
  | .scRequest _ _ _ xr _ => scReqShape xr
  | .scFill _ _ _ => true
  | .scPrefetchFill _ _ _ => true
  | .scPreloadGo _ _ => true
  | .scPreloadDone _ => true
  | .scUnlock _ _ => true
  | .scWayWindow _ => true
  | .scWayPowerDownDone _ _ => true
  | .epochWrite _ _ _ => true
  | .rdShared _ _ => true
  | .rdUnique _ _ => true
  | .upgrade _ _ => true
  | .makeUnique _ _ => true
  | .rdOnce _ _ _ _ _ _ _ => true
  | .wrLine _ _ _ _ _ _ _ => true
  | .wrPart _ _ _ _ _ _ _ _ => true
  | .atomic _ _ _ _ _ _ _ _ => true
  | .wbDirty _ _ => true
  | .evictClean _ _ => true
  | .lostNote _ _ => true
  | .snpShare _ _ => true
  | .snpInv _ _ => true
  | .snpAck _ _ => true
  | .snpData _ _ => true
  | .grant _ _ _ => true
  | .comp _ _ _ => true
  | .data _ _ _ _ => true
  | .snoopTimeout _ _ _ => true
  | .reclaimOrder _ => true
  | .l2FlushLimitExpire _ => true
  | .coreLoad _ _ xsize _ _ => loadShape xsize
  | .coreStore _ _ xdata _ _ => storeShape xdata
  | .storePerform _ _ => true
  | .wcDrain _ _ => true
  | .coreFence _ _ _ _ _ _ => true
  | .coreAmo _ _ _ _ _ _ _ => true
  | .coreLr _ _ _ _ _ => true
  | .coreSc _ _ _ _ _ => true
  | .strictDeviceAccess _ _ _ _ _ => true
  | .coreTrap _ => true
  | .imsicMsi _ => true
  | .coreWake _ => true
  | .corePowerGate _ => true
  | .ccDrop _ _ => true
  | .ccEnableWrite _ _ _ => true
  | .atcMiss _ _ _ _ _ => true
  | .htuWalk _ _ _ => true
  | .walkDone _ _ _ => true
  | .prHeadWrite _ _ _ => true
  | .prRespRetry _ _ _ => true
  | .prRespFail _ _ _ => true
  | .prLimitExpire _ _ => true
  | .invalidationGo _ _ _ => true
  | .atcInvAck _ _ => true
  | .invalidationLate _ => true
  | .checkFlush _ _ => true
  | .portTrainingStart _ => true
  | .echo _ _ => true
  | .cap _ xg => capShape xg
  | .kx _ _ => true
  | .portTrainingDone _ _ _ => true
  | .frameReceive _ xhead xbody _ _ => frameShape xhead xbody
  | .frameSilence _ => true
  | .rekey _ => true
  | .wavelengthLoss _ _ => true
  | .rsErrorWindowEnd _ => true
  | .portRetrain _ _ => true
  | .holdLsaTimeout _ => true
  | .lsa _ => true
  | .lsaPeriodic => true
  | .lsaAgeOut _ => true
  | .starterElect => true
  | .disc _ => true
  | .rediscover _ => true
  | .mapConverge => true
  | .routeRecompute => true
  | .fabricPacketSend => true
  | .fabricPacketForward _ => true
  | .fabricRd _ => true
  | .fabricWr _ => true
  | .fabricWrPart _ => true
  | .fabricAtomic _ => true
  | .fabricComp _ => true
  | .fabricData _ => true
  | .fabDnfRaise _ _ => true
  | .dnf _ => true
  | .configRequest _ _ _ _ => true
  | .apertureWrite _ _ _ _ _ => true
  | .apertureRead _ _ _ _ _ _ => true
  | .bar0CtrlAccess _ _ _ _ => true
  | .stagingBarAccess _ _ _ _ => true
  | .aperRegisterWrite _ _ _ => true
  | .flr _ _ => true
  | .vfEnableWrite _ _ _ _ => true
  | .busMasterClear _ _ => true
  | .hotReset => true
  | .poisonedWrite => true
  | .unexpectedCompletion => true
  | .malformedTlp => true
  | .pciNotify _ _ _ => true
  | .msixUnmask _ _ => true
  | .dvsecPartitionReset _ _ _ => true
  | .dvsecPackageReset _ _ => true
  | .crashDataRead _ => true
  | .gxRelease _ _ _ => true
  | .gxExport _ _ _ => true
  | .gxImport _ _ => true
  | .gxChunk _ _ => true
  | .gxDestHeadWrite _ _ _ => true
  | .attestRequest _ _ => true
  | .nseHealthFail _ _ => true
  | .railLimiterTick _ _ => true
  | .regionLimiterCompare _ _ => true
  | .capcEpoch xwatts => wattsShape xwatts
  | .vrAlertAssert _ => true
  | .vrAlertHoldExpire _ => true
  | .thermalSample xd xreadings => readingsShape xd xreadings
  | .thermalLevelRise _ => true
  | .thermalLevelFall _ => true
  | .thermtrip _ => true
  | .railSample _ _ => true
  | .pmbusPoll _ _ => true
  | .errorReport => true
  | .elogSafetyClear _ => true
  | .heartbeat _ => true
  | .heartbeatLimitExpire _ => true
  | .engineHangExpire _ => true
  | .requestTimeout _ => true
  | .forcedResetExpire _ => true
  | .dieReset _ _ => true
  | .resetCtrlDie _ _ _ => true
  | .resetCtrlPackage _ _ => true
  | .packageDrainDone => true
  | .dieRelease _ _ _ => true
  | .i3cAddressAssign _ _ => true
  | .i3cStatus => true
  | .i3cCrashRead _ _ => true
  | .i3cElogRead _ _ => true
  | .i3cPartitionReset _ _ => true
  | .i3cPackageReset _ => true
  | .i3cDieReset _ _ => true
  | .i3cAttest _ _ xdata => dataShape xdata
  | .mctpControl _ => true
  | .pldmRequest _ => true
  | .bypass => true
  | .idcode => true
  | .samplePreload _ => true
  | .extest _ => true
  | .clamp => true
  | .highz => true
  | .sysRstNDeassert => true
  | .vrAlertDeassert _ => true
  | .channelTrainingLost _ _ => true
  | .refclkStop => true
  | .vddIoFall => true
  | .flrComplete _ => true
  | .pcieLinkUp _ _ _ => true

end Sys2Proof
end

