-- ==== Sys2Proof/Machine/MemoryCmds.lean ====
section
/-! DEFINITION. The commands of the two tiers of memory and of the system cache (files 11 and 19). -/

namespace Sys2Proof.Machine

open Sys2Proof

/-- A rail whose excursion holds the package in reset (R528). -/
def packageRail (n : Nat) : Bool := n == 25 || decide (n ≥ 27)

/-- The divided clocks may run (R66, R513, R524, R528, R561): PWRGOOD is high, REFCLK runs, no thermal trip stands, and nothing holds the
package in reset. -/
def Dev.clocked (s : Dev) : Bool :=
  s.pins.pwrgood && s.pins.refclk && !s.pins.stopped && !s.pins.sysLow && !s.pins.perstLow && !s.pwr.railHold.any packageRail

/-- A command's effect on the device, whose queue and fuses stay as they were: nothing happens while the clocks cannot run. -/
def State.after (s : State) (d : Dev) : Host.Outcome State Fault Refusal := .next (if s.dev.clocked then { s with dev := d } else s)

/-- MGMT runs: PWRGOOD is high and REFCLK runs (R66, R477, R561). -/
def Dev.mgmtRuns (s : Dev) : Bool := s.pins.pwrgood && s.pins.refclk

/-- The effect of a command that needs MGMT alone. -/
def State.afterMgmt (s : State) (d : Dev) : Host.Outcome State Fault Refusal := .next (if s.dev.mgmtRuns then { s with dev := d } else s)

/-- The effect of an event outside the reach of any clock: a pin, a comparator. -/
def State.afterPin (s : State) (d : Dev) : Host.Outcome State Fault Refusal := .next { s with dev := d }

/-- The meaning of a command whose payload has a fixed shape: of another shape, it is no event of the device. -/
def shaped (ok : Bool) (o : Host.Outcome State Fault Refusal) : Host.Outcome State Fault Refusal := if ok then o else .fault .illFormed

/-- The die of a memory controller is in RUN and its clocks run. -/
def Dev.ctlUp (s : Dev) (ctl : Nat) : Bool := s.dieRuns (if ctl < 256 then ctl / 32 else 8)

/-- A DIMM read counted in the hot-page table (R343). -/
def Dev.countHot (s : Dev) (ctl : Nat) (q : ChReq) : Dev :=
  if ctl < 256 || q.write then s else s.hotRead (ctl - 256) (s.hostOffset (ctl - 256) (q.blk * 256)) q.part q.ctx q.cde

/-- One access of a controller (R315, R320, R325): requests arrive, upsets of the served burst come about, one queued request
is served. -/
def Dev.channelAccess (s : Dev) (ctl : Nat) (arrive : List ChReq) (upset : List (Nat × Nat × Byte)) : Dev :=
  if !s.ctlUp ctl then s
  else
    let c := (arrive.foldl (fun c q => c.arrive s.time q) (s.chan ctl)).mode
    let s := s.setChan ctl c
    match c.pick (s.inFallback ctl) with
    | none => s
    | some q =>
      let w0 := s.burstWord ctl q.blk
      let s := upset.foldl (fun s u => s.upset (w0 + u.1 % 32) u.2.1 u.2.2) s
      let r := (s.serveQueue ctl).2.countHot ctl q
      r.flushNotices r.notices.length

def execT1ChannelAccess (ch : ChanIx) (arrive : List ChReq) (upset : List (Nat × Nat × Byte)) (s : State) :
    Host.Outcome State Fault Refusal := shaped (arrive.all chReqShape) (s.after (s.dev.channelAccess ch arrive upset))

def execT2ChannelAccess (m : DimmIx) (arrive : List ChReq) (upset : List (Nat × Nat × Byte)) (s : State) :
    Host.Outcome State Fault Refusal := shaped (arrive.all chReqShape) (s.after (s.dev.channelAccess (256 + m) arrive upset))

/-- R326: an entry has waited AGE_LIMIT. -/
def Dev.ageFallback (s : Dev) (ctl : Nat) : Dev :=
  let c := s.chan ctl
  if s.inFallback ctl || (c.rdq ++ c.wrq).isEmpty || !s.ctlUp ctl then s
  else
    let s := s.setFallback ctl true
    if ctl < 256 then s.count F.CH_COUNTS_FALLBACKS ctl 1 else s.count F.T2_COUNTS_FALLBACKS (ctl - 256) 1

def execAgeFallback (ctl : CtlIx) (s : State) : Host.Outcome State Fault Refusal := s.after (s.dev.ageFallback ctl)

/-- Words of a controller's channel that its scrub reads. -/
def Dev.scrubWords (s : Dev) (ctl : Nat) : Nat := if ctl < 256 then 2 ^ 30 else s.dimmMin * 2 ^ 27

/-- A pass of the scrub over all of HOSTMEM is complete once every listed controller has wrapped (R314). -/
def Dev.t2PassDone (s : Dev) : Dev :=
  if s.dimmList.all (fun m => (s.chan (256 + m)).wrapped) then
    let s := s.dimmList.foldl (fun s m => s.setChan (256 + m) { s.chan (256 + m) with wrapped := false }) s
    { s with ugenBase := (List.range (s.hostBytes / 2 ^ 30)).foldl (fun b u => SMap.set b u (s.ugenAll + SMap.get s.ugen 0 u)) s.ugenBase }
  else s

/-- The scrub pointer moves on; at the end of the channel a pass ends. -/
def Dev.scrubNext (s : Dev) (ctl : Nat) : Dev :=
  let c := s.chan ctl
  if c.scrub + 1 < s.scrubWords ctl then s.setChan ctl { c with scrub := c.scrub + 1 }
  else if ctl < 256 then (s.setChan ctl { c with scrub := 0 }).setFld F.CH_GEN_PASS_ADVANCES ctl 0
  else (s.setChan ctl { c with scrub := 0, wrapped := true }).t2PassDone

/-- SCRUB_PERIOD of a controller. -/
def Dev.scrubPeriod (s : Dev) (ctl : Nat) : Nat :=
  if ctl < 256 then s.fld F.CH_CTRL_SCRUB_PERIOD ctl else s.fld F.T2_CTRL_SCRUB_PERIOD (ctl - 256)

/-- The word of a channel at a byte offset. -/
def Dev.ctlWord (s : Dev) (ctl choff : Nat) : Nat :=
  if ctl < 256 then t1Word ctl choff else t2Word (s.hostOffset (ctl - 256) choff)

/-- R311: one word read by the scrub, upsets of it first. -/
def Dev.patrolScrub (s : Dev) (ctl : Nat) (upset : List (Nat × Byte)) : Dev :=
  if !s.ctlUp ctl || s.ctlFailed ctl || s.scrubPeriod ctl = 0 || s.scrubWords ctl = 0
      || (decide (256 ≤ ctl) && !s.flag F.T2_STATUS_USED (ctl - 256)) then s
  else
    let w := s.ctlWord ctl (8 * (s.chan ctl).scrub)
    let n := s.ueOf ctl
    let s := upset.foldl (fun s u => s.upset w u.1 u.2) s
    let x := s.seen ctl w
    let s := x.2.2
    let s := s.putSymbols w (scrubSymbols w (s.genOf w) (s.symbolsOf w))
    (s.limit ctl n).scrubNext ctl

def execPatrolScrub (ctl : CtlIx) (upset : List (Nat × Byte)) (s : State) : Host.Outcome State Fault Refusal :=
  s.after (s.dev.patrolScrub ctl upset)

/-- A write of CH_CTRL (R317): its plain fields, then MAPOUT. -/
def Dev.writeChCtrl (s : Dev) (c : Nat) (w : Word) : Dev :=
  let s := (s.storeReg ⟨.CH_CTRL, c⟩ w).setFlag F.CH_CTRL_MAPOUT c false
  if F.CH_CTRL_MAPOUT.get w = 1 then s.mapOut c 4 else s

def execChannelMapout (who : Who) (ch : ChanIx) (s : State) : Host.Outcome State Fault Refusal :=
  s.after (s.dev.asWriter who ⟨.CH_CTRL, ch⟩ (s.dev.reg .CH_CTRL ch ||| 1) (fun d w => d.writeChCtrl ch w))

/-- R319: the DIMM temperature read, the refresh rate set. -/
def Dev.dimmTemp (s : Dev) (m : Nat) (temp : Int) : Dev :=
  if s.flag F.T2_STATUS_POPULATED m && s.ctlUp (256 + m) then
    s.setChan (256 + m) { s.chan (256 + m) with temp := temp, refresh := Config.refreshRate temp }
  else s

def execDimmTempRead (m : DimmIx) (temp : Int) (s : State) : Host.Outcome State Fault Refusal := s.after (s.dev.dimmTemp m temp)

/-- HOT_THRESHOLD of the partition that owns a 4 KiB page of HOSTMEM. -/
def Dev.hotThresholdOf (s : Dev) (page : Nat) : Nat :=
  (((s.hostOwner (page * 4096)).bind s.partRec).map (·.hotThreshold)).getD 0

/-- R343: every count halved, NOTIFIED cleared where the count falls below half the threshold; HOT_DECAY = 0 means never. -/
def Dev.hotDecay (s : Dev) (m : Nat) : Dev :=
  if s.fld F.T2_CTRL_HOT_DECAY m = 0 then s
  else
    let h := SMap.get s.hots .init m
    { s with hots := SMap.set s.hots m { h with table := h.table.map (fun e => (e.1, { e.2 with
      count := e.2.count / 2, notified := e.2.notified && !decide (e.2.count / 2 < (s.hotThresholdOf e.2.page + 1) / 2) })) } }

def execHotDecay (m : DimmIx) (s : State) : Host.Outcome State Fault Refusal := s.after (s.dev.hotDecay m)

/-- R317, R323: a controller loses training and retrains; where the retrain fails, the T1 channel is mapped out, the DIMM
channel fails. -/
def Dev.trainingLost (s : Dev) (ctl : Nat) (retrained : Bool) : Dev :=
  if retrained then s else if ctl < 256 then s.mapOut ctl 2 else s.dimmFail (ctl - 256)

def execChannelTrainingLost (ctl : CtlIx) (retrained : Bool) (s : State) : Host.Outcome State Fault Refusal :=
  s.after (s.dev.trainingLost ctl retrained)

/-! The slices. -/

/-- The slice can serve: its die is in RUN and its clocks run. -/
def Dev.scUp (s : Dev) (g : Nat) : Bool := s.dieRuns (g / 4)

/-- What an SRAM read meets (R310, R332, R333): 1 a corrected data word, 2 a data sector that cannot be read, which stays
where it is dirty and is not held where it is clean, 3 a tag word that cannot be read, which loses the slice. -/
def Dev.scMeets (s : Dev) (g k blk sector : Nat) (f : ScFault) : Dev :=
  match f.val with
  | 1 => s.reportCorrected (g / 4) 3 g 1 (s.partOfRegion g) 0
  | 2 => match (s.sc g).find k blk with
    | some l =>
      let x := l.sector sector
      let y : Sector := if x.valid && x.dirty then { x with bad := true } else noSector
      s.setSc g { s.sc g with lines := (s.sc g).lines.map (fun z => if z.chan = k ∧ z.blk = blk then { z with sec := z.sec.set sector y } else z) }
    | none => s
  | 3 => if s.flag F.SC_STATUS_LOST g then s else s.scLose g
  | _ => s

def Dev.scRequest (s : Dev) (g k blk : Nat) (r : ScReq) (f : ScFault) : Dev :=
  if s.scUp g then (s.scMeets g k blk r.sector f).scQueue g k blk r false else s

def execScRequest (g : RegionIx) (chan : Fin 8) (blk : Nat) (r : ScReq) (fault : ScFault) (s : State) :
    Host.Outcome State Fault Refusal := shaped (scReqShape r) (s.after (s.dev.scRequest g chan blk r fault))

/-- R331: a fill returns, its merged requests are served, and requests that waited are tried again. -/
def Dev.scFill (s : Dev) (g k blk : Nat) : Dev := if s.scUp g then (s.scFillOp g k blk).scRetry g else s

def execScFill (g : RegionIx) (chan : Fin 8) (blk : Nat) (s : State) : Host.Outcome State Fault Refusal :=
  s.after (s.dev.scFill g chan blk)

/-- R334: a prefetched line reaches the side buffer of 64 lines, the oldest leaving; one written since, one with a word that
is not CLEAN or CORRECTED, or one the slice lost meanwhile is discarded. -/
def Dev.scPrefetchFill (s : Dev) (g k blk : Nat) : Dev :=
  let ctl := 8 * g + k
  match takeFirst (fun (d : ChDone) => d.req.src == .scPrefetch && d.req.blk == blk) (s.chan ctl).done with
  | none => s
  | some (d, left) =>
    let s := s.setChan ctl { s.chan ctl with done := left }
    let c := s.sc g
    let wanted := c.pfOut.contains (k, blk)
    let dead := c.pfDead.contains (k, blk)
    let c' : ScSt := { c with pfOut := c.pfOut.erase (k, blk), pfDead := c.pfDead.erase (k, blk) }
    if !wanted || dead then s.setSc g c'
    else if d.words.length ≠ 32 || d.words.any (·.1) then (s.setSc g c').count F.SC_COUNTS_PF_DISCARD g 1
    else
      let b := c'.buffer ++ [(k, blk, fillSectors d.words)]
      s.setSc g { c' with buffer := b.drop (b.length - 64) }

def execScPrefetchFill (g : RegionIx) (chan : Fin 8) (blk : Nat) (s : State) : Host.Outcome State Fault Refusal :=
  s.after (s.dev.scPrefetchFill g chan blk)

/-- A write of SC_PRELOAD_CTRL (R335, R336): LINES, then UNLOCK, then GO, which a running preload ignores. -/
def Dev.writeScPreload (s : Dev) (g : Nat) (w : Word) : Dev :=
  let running := s.flag F.SC_PRELOAD_CTRL_GO g
  let s := (s.setFld F.SC_PRELOAD_CTRL_LINES g (F.SC_PRELOAD_CTRL_LINES.get w))
  let s := if F.SC_PRELOAD_CTRL_UNLOCK.get w = 1 then s.setFld F.SC_WAYS_LOCK g 0 else s
  if F.SC_PRELOAD_CTRL_GO.get w = 1 && !running then s.scPreloadStart g else s

def execScPreloadGo (who : Who) (g : RegionIx) (s : State) : Host.Outcome State Fault Refusal :=
  s.after (s.dev.asWriter who ⟨.SC_PRELOAD_CTRL, g⟩ (F.SC_PRELOAD_CTRL_GO.put (s.dev.reg .SC_PRELOAD_CTRL g) 1)
    (fun d w => d.writeScPreload g w))

/-- The preload runs to its end (R335 steps 2 to 4). -/
def Dev.scPreloadDone (s : Dev) (g : Nat) : Dev :=
  if !s.flag F.SC_PRELOAD_CTRL_GO g then s
  else
    let n := (s.sc g).preload.headD 0
    let s := s.scPreloadRange g (s.fld F.SC_PRELOAD_ADDR_ADDR g * 256) n
    (s.setSc g { s.sc g with preload := [] }).setFlag F.SC_PRELOAD_CTRL_GO g false

def execScPreloadDone (g : RegionIx) (s : State) : Host.Outcome State Fault Refusal := s.after (s.dev.scPreloadDone g)

def execScUnlock (who : Who) (g : RegionIx) (s : State) : Host.Outcome State Fault Refusal :=
  s.after (s.dev.asWriter who ⟨.SC_PRELOAD_CTRL, g⟩
    (F.SC_PRELOAD_CTRL_UNLOCK.put (F.SC_PRELOAD_CTRL_GO.put (s.dev.reg .SC_PRELOAD_CTRL g) 0) 1) (fun d w => d.writeScPreload g w))

/-- A write of SC_WAYS (R335): LOCK naming more than 12 ways, or while a preload runs, is left. A locked way does not power down (R337). -/
def Dev.writeScWays (s : Dev) (g : Nat) (w : Word) : Dev :=
  let lock := F.SC_WAYS_LOCK.get w
  let n := ((List.range 16).filter (bitOf lock)).length
  let w := if n > 12 || s.flag F.SC_PRELOAD_CTRL_GO g then F.SC_WAYS_LOCK.put w (s.fld F.SC_WAYS_LOCK g) else w
  let s := s.storeReg ⟨.SC_WAYS, g⟩ w
  s.setSc g { s.sc g with downing := (s.sc g).downing.filter (fun x => !bitOf (s.fld F.SC_WAYS_LOCK g) x) }

/-- The powered unlocked way of fewest hits starts to power down; while a preload runs, none does (R515). -/
def Dev.scWayDown (s : Dev) (g on lock nOn : Nat) (hits : SMap Nat) : Dev :=
  let cand := (List.range 16).filter (fun w => bitOf on w && !bitOf lock w && !(s.sc g).downing.contains w)
  match cand with
  | [] => s
  | v0 :: vs =>
    let v := vs.foldl (fun b w => if SMap.get hits 0 w < SMap.get hits 0 b then w else b) v0
    if !s.flag F.SC_PRELOAD_CTRL_GO g && nOn - (s.sc g).downing.length > s.fld F.SC_WAYS_MIN_ON g && SMap.get hits 0 v < s.fld F.PWR_IDLE_WAY_DOWN_HITS (g / 4) then
      s.setSc g { s.sc g with downing := (s.sc g).downing ++ [v] }
    else s

/-- R506: the end of a WAY_WINDOW. -/
def Dev.scWayWindow (s : Dev) (g : Nat) : Dev :=
  let die := g / 4
  let c := s.sc g
  let s' := s.setSc g { c with hits := [], misses := 0 }
  if s.fld F.PWR_IDLE_WAY_WINDOW die = 0 || s.flag F.SC_STATUS_LOST g || !s.scUp g then s'
  else
    let on := s.fld F.SC_STATUS_WAYS_ON g
    let lock := s.fld F.SC_WAYS_LOCK g
    let nOn := ((List.range 16).filter (bitOf on)).length
    match (List.range 16).find? (fun w => !bitOf on w) with
    | some w =>
      if c.misses ≥ s.fld F.PWR_IDLE_WAY_UP_MISSES die * 256 then s'.setFld F.SC_STATUS_WAYS_ON g (on + 2 ^ w)
      else s'.scWayDown g on lock nOn c.hits
    | none => s'.scWayDown g on lock nOn c.hits
def execScWayWindow (g : RegionIx) (s : State) : Host.Outcome State Fault Refusal := s.after (s.dev.scWayWindow g)

/-- R337: a way's lines written back and invalidated, and the way gated; a way locked since, or one that MIN_ON needs, stays. -/
def Dev.scWayGated (s : Dev) (g w : Nat) : Dev :=
  let nOn := ((List.range 16).filter (bitOf (s.fld F.SC_STATUS_WAYS_ON g))).length
  if !(s.sc g).downing.contains w then s
  else if bitOf (s.fld F.SC_WAYS_LOCK g) w || nOn ≤ s.fld F.SC_WAYS_MIN_ON g then
    s.setSc g { s.sc g with downing := (s.sc g).downing.erase w }
  else
    let mine := (s.sc g).lines.filter (fun l => l.way == w)
    let s := mine.foldl (fun s l => (s.scWriteBack g l 3).scDrop g l.chan l.blk) s
    let s := s.setSc g { s.sc g with downing := (s.sc g).downing.erase w }
    s.setFld F.SC_STATUS_WAYS_ON g (s.fld F.SC_STATUS_WAYS_ON g &&& (0xFFFF - 2 ^ w))

def execScWayPowerDownDone (g : RegionIx) (way : Fin 16) (s : State) : Host.Outcome State Fault Refusal :=
  s.after (s.dev.scWayGated g way)

/-- A write of EPOCH (R342). -/
def execEpochWrite (who : Who) (p : PartIx) (epoch : BitVec 16) (s : State) : Host.Outcome State Fault Refusal :=
  s.after (s.dev.asWriter who ⟨.TIER_POOL_CFG, p⟩ (F.TIER_POOL_CFG_EPOCH.put (s.dev.reg .TIER_POOL_CFG p) epoch.toNat)
    (fun d w => d.storeReg ⟨.TIER_POOL_CFG, p⟩ w))

end Sys2Proof.Machine
end

