-- ==== Sys2Proof/Machine/Coherence.lean ====
section
/-! DEFINITION. The coherence messages as commands (R352–R367): a home takes a request or an answer, an L2 takes a snoop, a
grant, an answer. -/

namespace Sys2Proof.Machine

open Sys2Proof

/-- The class of a message, a credit class of R72: 0 REQ, 1 SNP, 2 RSP, 3 DAT (R351, R352). -/
def NetMsg.cls : NetMsg → Nat
  | .req _ | .wbDirty _ _ _ | .evictClean _ _ | .lostNote _ _ => 0
  | .snpShare _ _ | .snpInv _ _ => 1
  | .snpAck _ _ | .grant _ _ | .comp _ _ _ _ => 2
  | .snpData _ _ _ | .data _ _ _ _ _ => 3

/-- A message carries data (R352): it is then two 64-byte messages of its class, a header and the data (R351). -/
def NetMsg.carries : NetMsg → Bool
  | .req r => r.kind.writes
  | .wbDirty _ _ _ | .snpData _ _ _ | .data _ _ _ _ _ => true
  | _ => false

/-- The 64-byte messages that a message occupies (R351). -/
def NetMsg.units (m : NetMsg) : Nat := if m.carries then 2 else 1

/-- A message goes to a home; the others come from one. -/
def NetMsg.toHome : NetMsg → Bool
  | .req _ | .wbDirty _ _ _ | .evictClean _ _ | .lostNote _ _ | .snpAck _ _ | .snpData _ _ _ => true
  | _ => false

/-- The agent at a message's other end than the home's, and the line it is about. -/
def NetMsg.about : NetMsg → Agent × Nat
  | .req r => (r.src, r.line)
  | .wbDirty c l _ | .evictClean c l | .lostNote c l | .snpShare c l | .snpInv c l | .snpAck c l | .snpData c l _ | .grant c l => (.core c, l)
  | .comp a l _ _ | .data a l _ _ _ => (a, l)

/-- The network interface of an agent: the engines of one cluster share one, every other block has its own (R381). -/
def Agent.iface : Agent → Agent
  | .mxa a => .mve (a / 4)
  | .vxe c | .spe c => .mve c
  | a => a

/-- The interface and the die of the home that a line's messages go to and come from: a home's number, or that of a pad's cluster past
them. -/
def Dev.homeIface (s : Dev) (line : Nat) : Option (Nat × Nat) :=
  match s.place (line * 64) with
  | .pad _ c _ => some (1024 + c, c / 16)
  | pl => (homeOfPlace (line * 64) pl).map (fun h => (h, dieOfHome h))

/-- The lane of a message: its class and direction and the agent's interface, then the home's where both sit on one die, and the line
where the message crosses a die boundary. Messages of one lane arrive in the order sent (R353, R380, R381). -/
def Dev.lane (s : Dev) (m : NetMsg) : Nat × Bool × Agent × Bool × Nat :=
  match s.homeIface m.about.2 with
  | some (h, d) => if agentDie m.about.1 = some d then (m.cls, m.toHome, m.about.1.iface, true, h)
    else (m.cls, m.toHome, m.about.1.iface, false, m.about.2)
  | none => (m.cls, m.toHome, m.about.1.iface, false, m.about.2)

/-- A message's lane holds another sent before it. -/
def Dev.laneBefore (s : Dev) (m : NetMsg) : Bool := s.net.any (fun x => decide (s.lane x = s.lane m))

/-- A message taken from those in flight: the first that meets a test, if it is first in its lane. -/
def Dev.takeMsg (s : Dev) (p : NetMsg → Bool) : Option (NetMsg × Dev) :=
  match takeFirst p s.net with
  | some (m, rest) => if s.net.find? (fun x => decide (s.lane x = s.lane m)) = some m then some (m, { s with net := rest }) else none
  | none => none

/-- The transaction number of an L2's request for a line: its own while the request is outstanding (R351). -/
def L2St.txn (c : L2St) (line : Nat) : Nat := ((c.pend.find? (fun p => p.1 == line)).map (·.2.2)).getD 0

/-- The lowest transaction number that no outstanding request of an L2 holds. -/
def L2St.freeTxn (c : L2St) : Nat := ((List.range 48).find? (fun i => !c.pend.any (fun p => p.2.2 == i))).getD 0

/-- The requests by L2s carry their core's partition (R562) and their transaction number; a tag of a core's is four times a number
and what is answered: 0 a request of its L2, 1 a writeback, 2 a non-caching load or AMO, 3 a drained store. -/
def Dev.l2Req (s : Dev) (kind : ReqKind) (core line : Nat) : Req :=
  ⟨kind, line, .core core, 4 * (s.l2 core).txn line, s.partOfCore core, none, .normal, 0, 0⟩

/-- A request of an L2 that is dead. -/
def Dev.fromDead (s : Dev) (r : Req) : Bool := r.kind.caching && (match r.src.coreOf with | some n => (s.l2 n).dead | none => false)

/-- A request reaches the home of its line (R60, R347): refused before it reaches the line's state, or taken there; a pad is its
own home. One of a dead L2 is discarded (R361). -/
def Dev.homeTake (s : Dev) (r : Req) : Dev :=
  let own := s.ownCode r
  let refuse := fun (s : Dev) (c : Resp) => s.send (.comp r.src r.line r.tag c)
  if s.fromDead r then s
  else if own == .homeAbsent then refuse s own
  else
    let k := s.ctxCheck r
    match k.1 with
    | none => s
    | some kc =>
      let c := Resp.first kc own
      if c != .ok then refuse k.2 c
      else match k.2.place (r.line * 64) with
        | .pad _ cl o =>
          let x := k.2.padNow cl o r
          if r.kind.givesData && x.1.1 == .ok then x.2.send (.data r.src r.line r.tag none x.1.2) else refuse x.2 x.1.1
        | pl => match homeOfPlace (r.line * 64) pl with
          | some h => k.2.arriveReq h r
          | none => refuse k.2 .homeAbsent

/-- A request as its flits bring it (R310): whole or corrected, 0; with words that cannot be corrected and its header intact, 1, which its home
answers DATA_ERR; with its header gone, 2, which is dropped, so that its requester's bound yields TIMEOUT. -/
def Dev.homeTakeFlits (s : Dev) (r : Req) (flit : Nat) : Dev :=
  match flit with
  | 0 => s.homeTake r
  | 1 => s.send (.comp r.src r.line r.tag .dataErr)
  | _ => s

/-- A home takes a request: one in flight is no longer so. -/
def Dev.takeReq (s : Dev) (r : Req) (flit : Nat) : Dev :=
  match s.takeMsg (fun m => decide (m = .req r)) with
  | some (_, s') => s'.homeTakeFlits r flit
  | none => if s.laneBefore (.req r) then s else s.homeTakeFlits r flit

/-- A home takes an L2's request: the request must be in flight. -/
def Dev.takeL2Req (s : Dev) (kind : ReqKind) (core line flit : Nat) : Dev :=
  match s.takeMsg (fun m => match m with | .req r => r.kind == kind && r.src == .core core && r.line == line | _ => false) with
  | some (.req r, s') => s'.homeTakeFlits r flit
  | _ => s

def execRdShared (core : CoreIx) (line : NetLine) (s : State) : Host.Outcome State Fault Refusal :=
  s.after (s.dev.takeL2Req .rdShared core line.line line.flit)
def execRdUnique (core : CoreIx) (line : NetLine) (s : State) : Host.Outcome State Fault Refusal :=
  s.after (s.dev.takeL2Req .rdUnique core line.line line.flit)
def execUpgrade (core : CoreIx) (line : NetLine) (s : State) : Host.Outcome State Fault Refusal :=
  s.after (s.dev.takeL2Req .upgrade core line.line line.flit)
def execMakeUnique (core : CoreIx) (line : NetLine) (s : State) : Host.Outcome State Fault Refusal :=
  s.after (s.dev.takeL2Req .makeUnique core line.line line.flit)
def execRdOnce (src : Agent) (tag : Nat) (line : NetLine) (part ctx : Option Nat) (hint : Hint) (mask : BitVec 64) (s : State) :
    Host.Outcome State Fault Refusal := s.after (s.dev.takeReq ⟨.rdOnce, line.line, src, tag, part, ctx, hint, 0, mask⟩ line.flit)
def execWrLine (src : Agent) (tag : Nat) (line : NetLine) (part ctx : Option Nat) (hint : Hint) (data : Line) (s : State) :
    Host.Outcome State Fault Refusal := s.after (s.dev.takeReq ⟨.wrLine, line.line, src, tag, part, ctx, hint, data, fullMask⟩ line.flit)
def execWrPart (src : Agent) (tag : Nat) (line : NetLine) (part ctx : Option Nat) (hint : Hint) (data : Line) (mask : BitVec 64)
    (s : State) : Host.Outcome State Fault Refusal :=
  s.after (s.dev.takeReq ⟨.wrPart, line.line, src, tag, part, ctx, hint, data, mask⟩ line.flit)
def execAtomic (src : Agent) (tag : Nat) (line : NetLine) (part ctx : Option Nat) (op : HintedOp) (data : Line) (mask : BitVec 64)
    (s : State) : Host.Outcome State Fault Refusal :=
  s.after (s.dev.takeReq ⟨.atomic op.op, line.line, src, tag, part, ctx, op.hint, data, mask⟩ line.flit)

/-! Messages that an L2 sends of itself (R355, R360). -/

/-- The home of a line, where it has one. -/
def Dev.homeOf (s : Dev) (line : Nat) : Option Nat := homeOfPlace (line * 64) (s.place (line * 64))

/-- The filter records an L2 as the line's owner. -/
def Dev.ownerIs (s : Dev) (h line core : Nat) : Bool :=
  match s.dir h line with
  | some e => e.st != .s && e.holders == [core]
  | none => false

/-- A writeback taken by its home: written when the filter records the sender as owner, discarded and counted otherwise
(R360). The code of its COMP, and the state. -/
def Dev.wbTaken (s : Dev) (h core line : Nat) (d : Line) : Resp × Dev :=
  if s.ownerIs h line core then
    let w := s.memWrite (s.l2Req .wrLine core line) d fullMask
    (w.1, (w.2.freeDir h line).stamp line)
  else (.ok, s.count F.HOME_COUNTS_CROSSINGS h 1)

/-- A clean eviction taken by its home: the sender removed (R355). -/
def Dev.cleanTaken (s : Dev) (h core line : Nat) : Dev :=
  match s.dir h line with
  | none => s
  | some e =>
    if !e.holders.contains core then s
    else
      let rest := e.holders.filter (fun n => n != core)
      if rest.isEmpty then s.freeDir h line else s.setDir h line e.st rest

def Dev.wbDirtyCmd (s : Dev) (core line : Nat) : Dev :=
  match s.homeOf line, s.takeMsg (fun m => match m with | .wbDirty c l _ => c == core && l == line | _ => false) with
  | some h, some (.wbDirty _ _ d, s') =>
    if (s.l2 core).dead then s'
    else if s.lineBusy h line then s
    else
      let x := s'.wbTaken h core line d
      x.2.send (.comp (.core core) line 1 x.1)
  | none, some (_, s') => if (s.l2 core).dead then s' else s'.send (.comp (.core core) line 1 .homeAbsent)
  | _, _ => s

def execWbDirty (core : CoreIx) (line : Nat) (s : State) : Host.Outcome State Fault Refusal :=
  s.after (s.dev.wbDirtyCmd core line)

def Dev.evictCleanCmd (s : Dev) (core line : Nat) : Dev :=
  match s.homeOf line, s.takeMsg (fun m => decide (m = .evictClean core line)) with
  | some h, some (_, s') =>
    if (s.l2 core).dead then s' else if s.lineBusy h line then s else s'.cleanTaken h core line
  | none, some (_, s') => s'
  | _, none => s

def execEvictClean (core : CoreIx) (line : Nat) (s : State) : Host.Outcome State Fault Refusal :=
  s.after (s.dev.evictCleanCmd core line)

def Dev.lostNoteCmd (s : Dev) (core line : Nat) : Dev :=
  match s.homeOf line, s.takeMsg (fun m => decide (m = .lostNote core line)) with
  | some h, some (_, s') =>
    if s.lineBusy h line then s
    else match s'.dir h line with
      | some e => if e.holders.contains core then (s'.freeDir h line).lose h line 2 core else s'
      | none => s'
  | none, some (_, s') => s'
  | _, none => s

def execLostNote (core : CoreIx) (line : Nat) (s : State) : Host.Outcome State Fault Refusal :=
  s.after (s.dev.lostNoteCmd core line)

/-! Snoops at an L2 (R356). -/

/-- An L2 line that reads STALE or UNCORRECTABLE (R310, R364): a clean one is dropped, a dirty one is lost. -/
def Dev.l2Bad (s : Dev) (n line : Nat) : Dev :=
  match (s.l2 n).find line with
  | none => s
  | some l => (s.l2Drop n line).send (if l.st == .m then .lostNote n line else .evictClean n line)

/-- An L2 answers a snoop in flight, after a grant that was sent to it before; a dead one does not. One that finds the line unreadable
(bad) has it no longer (R360, R364). -/
def Dev.snoopCmd (s : Dev) (core line : Nat) (inv bad : Bool) : Dev :=
  let msg : NetMsg := if inv then .snpInv core line else .snpShare core line
  if (s.l2 core).dead || s.granting core line then s
  else match s.takeMsg (fun m => decide (m = msg)) with
    | none => s
    | some (_, s') =>
      let x := (if bad then s'.l2Bad core line else s').l2Snoop core line inv
      match x.1 with
      | some d => x.2.send (.snpData core line d)
      | none => x.2.send (.snpAck core line)

def execSnpShare (core : CoreIx) (line : SnpLine) (s : State) : Host.Outcome State Fault Refusal :=
  s.after (s.dev.snoopCmd core line.line false line.bad)
def execSnpInv (core : CoreIx) (line : SnpLine) (s : State) : Host.Outcome State Fault Refusal :=
  s.after (s.dev.snoopCmd core line.line true line.bad)

/-- A home takes a snoop answer in flight, and what waited for the line may go on. -/
def Dev.answerCmd (s : Dev) (core line : Nat) (withData : Bool) : Dev :=
  match s.homeOf line, s.takeMsg (fun m => match m with
      | .snpAck c l => !withData && c == core && l == line
      | .snpData c l _ => withData && c == core && l == line
      | _ => false) with
  | some h, some (m, s') =>
    let d := match m with | .snpData _ _ d => some d | _ => none
    (s'.takeAnswer h core line d).pump h
  | none, some (_, s') => s'
  | _, none => s

def execSnpAck (core : CoreIx) (line : Nat) (s : State) : Host.Outcome State Fault Refusal :=
  s.after (s.dev.answerCmd core line false)
def execSnpData (core : CoreIx) (line : Nat) (s : State) : Host.Outcome State Fault Refusal :=
  s.after (s.dev.answerCmd core line true)

/-! Answers to requesters (R356, R391). -/

/-- An L2 evicts a line it holds: dirty data goes home from its writeback buffer, of which it has 32 (R353); a line found unreadable
is lost. -/
def Dev.l2Evict (s : Dev) (core line : Nat) (bad : Bool) : Dev :=
  match (s.l2 core).find line with
  | none => s
  | some l =>
    if bad then s.l2Bad core line
    else if l.st == .m then
      if (s.l2 core).wb.length ≥ 32 then s
      else
        let s := s.l2Drop core line
        let s := s.setL2 core { s.l2 core with wb := (s.l2 core).wb ++ [(line, l.data)] }
        s.send (.wbDirty core line l.data)
    else (s.l2Drop core line).send (.evictClean core line)

/-- An L2 gets a line with a grant; of the 32,768 lines it holds, those named leave for it, each with whether it is found unreadable. -/
def Dev.l2Fill (s : Dev) (core : Nat) (l : L2Line) (evict : List (Nat × Bool)) : Dev :=
  let s := evict.foldl (fun s x => s.l2Evict core x.1 x.2) s
  let s := s.setL2 core { s.l2 core with pend := (s.l2 core).pend.filter (fun p => p.1 != l.line) }
  s.l2Put core l

/-- STORE_LOST (R391): a store that failed after retirement is discarded, and so is every later buffered store of its hart to
that line. The address is that of the first byte of the store. -/
def Dev.storeLost (s : Dev) (core line : Nat) (code : Resp) (nonCaching : Bool) (n : Nat) (mask : BitVec 64) : Dev :=
  let h := s.hart core
  let gone := n + (h.sb.filter (fun e => e.line == line)).length + (h.wc.filter (fun e => e.line == line)).length
  let s := s.setHart core { h with sb := h.sb.filter (fun e => e.line != line), wc := h.wc.filter (fun e => e.line != line) }
  let s := s.count F.CORE_SL_INFO_COUNT core gone
  if s.flag F.CORE_SL_INFO_PENDING core then s
  else
    let s := s.setFlag F.CORE_SL_INFO_PENDING core true
    let s := (s.setFld F.CORE_SL_INFO_RESPONSE core code.num).setFlag F.CORE_SL_INFO_NONCACHING core nonCaching
    s.setFld F.CORE_SL_ADDR_ADDRESS core (line * 64 + maskLow mask)

/-- The fault of a waiting access. -/
def WaitKind.fault (k : WaitKind) (a : Nat) : CoreResult :=
  match k with
  | .load | .strictLoad => .loadFault a
  | .store | .strictStore => .storeFault a
  | .amo => .amoFault a

/-- The lines an access touches. -/
def linesOf (a n : Nat) : List Nat := if n = 0 then [] else (List.range ((a + n - 1) / 64 - a / 64 + 1)).map (fun i => a / 64 + i)

/-- The access of a hart that waits for a line, of the lines it touches. -/
def Hart.waitOn (h : Hart) (line : Nat) : Option (WaitKind × Nat × Nat) := h.waits.find? (fun w => (linesOf w.2.1 w.2.2).contains line)

/-- A waiting access ends with a result. -/
def Dev.endWait (s : Dev) (core : Nat) (w : WaitKind × Nat × Nat) (r : CoreResult) : Dev :=
  let h := s.hart core
  s.setHart core { h with waits := h.waits.filter (fun x => x != w), got := h.got.filter (fun g => !(linesOf w.2.1 w.2.2).contains g.1),
                          result := r }

/-- A line of a waiting access answered: its value once every line it touches is (R377). -/
def Dev.gotLine (s : Dev) (core line : Nat) (d : Line) (w : WaitKind × Nat × Nat) : Dev :=
  let h := s.hart core
  let got := (line, d) :: h.got.filter (fun g => g.1 != line)
  let ls := linesOf w.2.1 w.2.2
  let have_ := ls.filterMap (fun l => (got.find? (fun g => g.1 == l)).map (·.2))
  if have_.length = ls.length then s.endWait core w (.value (fieldAt (have_.flatMap lineBytes) (w.2.1 % 64) w.2.2))
  else s.setHart core { h with got := got }

/-- The lowest byte of an access that lies in a line: where its fault points (R377). -/
def faultByte (a line : Nat) : Nat := max a (line * 64)

/-- An answer that no request of a core waits for any longer: its bound has passed (R60, R522). It is discarded and counted. -/
def Dev.lateCore (s : Dev) (core : Nat) : Dev := { s with late := SMap.set s.late (8192 + core) (SMap.get s.late 0 (8192 + core) + 1) }

/-- A core's L2 has a request of its own outstanding for a line. -/
def Dev.l2Waits (s : Dev) (core line : Nat) : Bool := (s.l2 core).pend.any (fun p => p.1 == line)

/-- A core's answer with a code, by what its tag says is answered. -/
def Dev.coreComp (s : Dev) (core tag line : Nat) (code : Resp) : Dev :=
  let h := s.hart core
  match tag % 4 with
  | 0 =>
    let here := s.l2Waits core line
    let owner := (s.l2 core).pend.any (fun p => p.1 == line && p.2.1 != .rdShared)
    let s := s.setL2 core { s.l2 core with pend := (s.l2 core).pend.filter (fun p => p.1 != line) }
    if !here then s.lateCore core
    else if code = .ok then s
    else
      let s := match h.sb.find? (fun e => owner && e.line == line) with
        | some e => s.storeLost core line code false 0 e.mask
        | none => s
      match h.waitOn line with
      | some w => s.endWait core w (w.1.fault (faultByte w.2.1 line))
      | none => s
  | 1 => s.setL2 core { s.l2 core with wb := (s.l2 core).wb.filter (fun w => w.1 != line) }
  | 2 => match h.waitOn line with
    | some w => s.endWait core w (if code = .ok then .done else w.1.fault w.2.1)
    | none => s.lateCore core
  | _ =>
    match takeFirst (fun (e : BufEntry) => e.line == line) h.wcOut with
    | some (e, rest) =>
      let s := s.setHart core { h with wcOut := rest }
      if code = .ok then s else s.storeLost core line code true 1 e.mask
    | none => s.lateCore core

/-- A core's answer with data: a grant to its L2, or the value of a non-caching load or AMO. -/
def Dev.coreData (s : Dev) (core tag line : Nat) (st : Option DirSt) (d : Line) (evict : List (Nat × Bool)) : Dev :=
  match st with
  | some st => if s.l2Waits core line then s.l2Fill core ⟨line, st, d⟩ evict else s.lateCore core
  | none => match (s.hart core).waitOn line with
    | some w => if tag % 4 = 2 then s.gotLine core line d w else s
    | none => s.lateCore core

/-- Ownership without data (R352): a line held in S goes to M with its data; a MAKE_UNIQUE's line starts as zero, which the
whole-line write that asked for it stores. -/
def Dev.grantCmd (s : Dev) (core line : Nat) (evict : List (Nat × Bool)) : Dev :=
  match s.takeMsg (fun m => decide (m = .grant core line)) with
  | none => s
  | some (_, s') => if !s'.l2Waits core line then s'.lateCore core else match (s'.l2 core).find line with
    | some l => s'.l2Fill core { l with st := .m } evict
    | none => s'.l2Fill core ⟨line, .m, 0⟩ evict

def execGrant (core : CoreIx) (line : Nat) (evict : List (Nat × Bool)) (s : State) : Host.Outcome State Fault Refusal :=
  s.after (s.dev.grantCmd core line evict)

/-- A completion code taken by its requester. -/
def Dev.takeCode (s : Dev) (dst : Agent) (line tag : Nat) (code : Resp) : Dev :=
  match dst with
  | .core n => s.coreComp n tag line code
  | _ => s.emit (.resp dst tag code none)

/-- The first completion in flight for an agent about a line; with flits that cannot be corrected (1, 2) as R310 has it: DATA_ERR, or
dropped. -/
def Dev.compCmd (s : Dev) (dst : Agent) (line tag flit : Nat) : Dev :=
  match s.takeMsg (fun m => match m with | .comp a l t _ => a == dst && l == line && t == tag | _ => false) with
  | some (.comp _ _ _ code, s') => match flit with
    | 0 => s'.takeCode dst line tag code
    | 1 => s'.takeCode dst line tag .dataErr
    | _ => s'
  | _ => s

def execComp (dst : Agent) (line : NetLine) (tag : Nat) (s : State) : Host.Outcome State Fault Refusal :=
  s.after (s.dev.compCmd dst line.line tag line.flit)

/-- The first data in flight for an agent about a line; with flits that cannot be corrected (1, 2) as R310 has it: DATA_ERR, or dropped. -/
def Dev.dataCmd (s : Dev) (dst : Agent) (line tag : Nat) (evict : List (Nat × Bool)) (flit : Nat) : Dev :=
  match s.takeMsg (fun m => match m with | .data a l t _ _ => a == dst && l == line && t == tag | _ => false) with
  | some (.data _ _ _ st d, s') => match flit, dst with
    | 0, .core n => s'.coreData n tag line st d evict
    | 0, _ => s'.emit (.resp dst tag .ok (some d))
    | 1, _ => s'.takeCode dst line tag .dataErr
    | _, _ => s'
  | _ => s

def execData (dst : Agent) (line : NetLine) (tag : Nat) (evict : List (Nat × Bool)) (s : State) :
    Host.Outcome State Fault Refusal := s.after (s.dev.dataCmd dst line.line tag evict line.flit)

/-! Dead L2s (R361). -/

/-- One line of a home reclaimed for the dead L2s among its holders (R361): an open request takes each one's answer as SNP_ACK where the
line is shared; an owner's line becomes LOST, and the request ends as one to a LOST line. -/
def Dev.reclaimLine (s : Dev) (h : Nat) (e : FiltEntry) : Dev :=
  let dead := e.holders.filter (fun n => (s.l2 n).dead)
  match dead with
  | [] => s
  | n :: _ =>
    if e.st == .s then
      let s := dead.foldl (fun s n => s.takeAnswer h n e.line none) s
      match s.dir h e.line with
      | none => s
      | some d =>
        let rest := d.holders.filter (fun n => !(s.l2 n).dead)
        if d.st != .s then s
        else if !rest.isEmpty then s.setDir h e.line .s rest
        else if s.lineOpen h e.line then s else s.freeDir h e.line
    else
      let o := (s.home h).opens.find? (fun o => o.req.line == e.line)
      let x := s.home h
      let s := s.setHome h { x with opens := x.opens.filter (fun x => x.req.line != e.line), unsent := x.unsent.filter (fun u => u.2.1 != e.line) }
      let s := (s.freeDir h e.line).lose h e.line 1 n
      match o with
      | some o => if o.req.kind == .evict || s.fromDead o.req then s else s.startReq h o.req
      | none => s

/-- The reclaim order at one home: its filter walked, then what waited goes on; what dead L2s asked for is discarded. -/
def Dev.reclaim (s : Dev) (h : Nat) : Dev :=
  let s := (s.home h).filter.foldl (fun s e => s.reclaimLine h e) s
  let s := s.setHome h { s.home h with queue := (s.home h).queue.filter (fun r => !s.fromDead r) }
  ((s.setFlag F.HOME_STATUS_RECLAIM h false).setFlag F.HOME_EVENT_RECLAIM_DONE h true).pump h

/-- The order goes out to every home that records a dead L2: its reclaim runs until the order has been carried out there (R361). -/
def Dev.orderReclaim (s : Dev) : Dev :=
  (s.homes.map (·.1)).foldl (fun s h =>
    if (s.home h).filter.any (fun e => e.holders.any (fun n => (s.l2 n).dead)) then s.setFlag F.HOME_STATUS_RECLAIM h true else s) s

def execReclaimOrder (h : HomeIx) (s : State) : Host.Outcome State Fault Refusal := s.after (s.dev.reclaim h)

end Sys2Proof.Machine
end

