-- ==== Sys2Proof/Machine/Cores.lean ====
section
/-! DEFINITION. The Bosin cores (file 13, R505): loads and stores after translation, their buffers, FENCE, AMO, LR and SC,
lost stores, traps, interrupts, power gating. A command is an access at the moment the core makes it; an access that must wait
leaves the result stalled and is made again. -/

namespace Sys2Proof.Machine

open Sys2Proof

/-- What an access is, by its address and the PBMT of its leaf (R369). -/
inductive MemType where
  | cacheable | nonCaching | strict | pageFault
  deriving DecidableEq, Repr

/-- R369, over a 56-bit physical address. -/
def memType (pa : Nat) (pbmt : Fin 4) : MemType :=
  if pbmt.val = 3 then .pageFault
  else
    let ctrl := !remoteForm pa && decide (ctrlBase ≤ pa)
    let cacheable := !remoteForm pa && decide (pa < padBase)
    if ctrl then .strict
    else match pbmt.val with
      | 2 => .strict
      | 1 => .nonCaching
      | _ => if cacheable then .cacheable else .nonCaching

/-- A core can run: its hart is neither gated nor in reset, its die is in RUN, and no package quiesce stops it (R533). -/
def Dev.coreUp (s : Dev) (n : Nat) : Bool := !(s.hart n).gated && !(s.hart n).inReset && s.dieState 8 == 0 && s.drain.isNone

/-- The hart's result set. -/
def Dev.result (s : Dev) (n : Nat) (r : CoreResult) : Dev := s.setHart n { s.hart n with result := r }

/-- An access waits, noted once. -/
def Dev.stall (s : Dev) (n : Nat) (w : WaitKind × Nat × Nat) : Dev :=
  let h := s.hart n
  s.setHart n { h with result := .stalled, waits := if h.waits.contains w then h.waits else h.waits ++ [w] }

/-- An access is over. -/
def Dev.finish (s : Dev) (n : Nat) (w : WaitKind × Nat × Nat) (r : CoreResult) : Dev :=
  let h := s.hart n
  s.setHart n { h with result := r, waits := h.waits.filter (fun x => x != w) }

/-- The pieces of an access, cut at 8-byte boundaries (R377): address, offset in the access, length. -/
def pieces8 (a n : Nat) : List (Nat × Nat × Nat) :=
  if n = 0 then []
  else (List.range ((a + n - 1) / 8 - a / 8 + 1)).map fun i =>
    let lo := max a ((a / 8 + i) * 8)
    let hi := min (a + n) ((a / 8 + i + 1) * 8)
    (lo, lo - a, hi - lo)

/-- A request of the L2's own, sent once per line, of at most 48 (R353). -/
def Dev.l2Ask (s : Dev) (n line : Nat) (k : ReqKind) : Dev :=
  let c := s.l2 n
  if c.pend.any (fun p => p.1 == line) || c.pend.length ≥ 48 then s
  else
    let s := s.setL2 n { c with pend := c.pend ++ [(line, k, c.freeTxn)] }
    s.send (.req (s.l2Req k n line))

/-! The write-combining buffer (R375). -/

/-- A write-combining entry may drain: no buffered store that a FENCE put before it waits. -/
def Hart.mayDrain (h : Hart) (e : BufEntry) : Bool := h.sb.all (fun x => !decide (x.ep < e.ep))

/-- The write request of an entry: to its home, or, in remote form for another device, to the fabric. -/
def Dev.drainEntry (s : Dev) (n : Nat) (e : BufEntry) : Dev :=
  let h := s.hart n
  let s := s.setHart n { h with wc := h.wc.erase e, wcOut := h.wcOut ++ [e] }
  let whole := e.mask == fullMask
  let part := s.partOfCore n
  match s.localForm (e.line * 64) with
  | none =>
    if remoteForm (e.line * 64) then
      { s with remQ := s.remQ ++ [⟨.core n, 8256 + n, if whole then .wrLine else .wrPart, e.line * 64, 64, lineBytes e.data, e.mask,
          part.getD 0, none, .normal⟩] }
    else s.coreComp n 3 e.line .homeAbsent
  | some a => s.send (.req ⟨if whole then .wrLine else .wrPart, a / 64, .core n, 3, part, none, .normal, e.data, e.mask⟩)

/-- Every entry of a line drained, where it may be. -/
def Dev.drainLine (s : Dev) (n line : Nat) : Dev :=
  ((s.hart n).wc.filter (fun e => e.line == line && (s.hart n).mayDrain e)).foldl (fun s e => s.drainEntry n e) s

/-- A load, AMO, LR or SC that touches a line of the buffer waits for it. -/
def Dev.wcTouches (s : Dev) (n : Nat) (ls : List Nat) : Bool :=
  let h := s.hart n
  ls.any (fun l => h.wc.any (fun e => e.line == l) || h.wcOut.any (fun e => e.line == l))

/-! Loads (R374, R375, R377). -/

/-- A piece of a cacheable load: its value from the youngest older buffered store that covers it, else from the L2; none when
it must wait. -/
def Dev.loadPiece (s : Dev) (n a len : Nat) : Option Nat × Dev :=
  let m := byteMask a len
  match (s.hart n).sb.reverse.find? (fun e => e.line == a / 64 && e.mask &&& m != 0) with
  | some e => if e.mask &&& m == m then (some (fieldAt (lineBytes e.data) (a % 64) len), s) else (none, s)
  | none => match (s.l2 n).find (a / 64) with
    | some l => (some (fieldAt (lineBytes l.data) (a % 64) len), s)
    | none => (none, s.l2Ask n (a / 64) .rdShared)

/-- A non-caching access that one line holds: as a message to its home, or to the fabric; tag 2. -/
def Dev.askOnce (s : Dev) (n : Nat) (k : ReqKind) (a len : Nat) (d : Line) (mask : BitVec 64) : Dev :=
  let part := s.partOfCore n
  match s.localForm (a / 64 * 64) with
  | none =>
    if remoteForm a then
      { s with remQ := s.remQ ++ [⟨.core n, 8192 + n, k, a / 64 * 64, len, (lineBytes d), mask, part.getD 0, none, .normal⟩] }
    else s.coreComp n 2 (a / 64) .homeAbsent
  | some b => s.send (.req ⟨k, b / 64, .core n, 2, part, none, .normal, d, mask⟩)

/-- The address by which an answer names a core's line: the local form. -/
def Dev.answerAddr (s : Dev) (a : Nat) : Nat := (s.localForm a).getD a

/-- A core load of weak normal memory (R369–R377): of 1 to 8 bytes, bad saying that its line is found unreadable in the L2 first. -/
def Dev.coreLoad (s : Dev) (n pa size : Nat) (pbmt : Fin 4) (bad : Bool) : Dev :=
  if !s.coreUp n then s
  else
    let s := if bad then s.l2Bad n (pa / 64) else s
    let pa' := s.answerAddr pa
    let w : WaitKind × Nat × Nat := (.load, pa', size)
    match memType pa pbmt with
    | .pageFault => s.finish n w (.pageFault pa)
    | .strict => s.finish n w (.loadFault pa)
    | .cacheable =>
      let ls := linesOf pa size
      if s.wcTouches n ls then (ls.foldl (fun s l => s.drainLine n l) s).stall n w
      else
        let x := (pieces8 pa size).foldl (fun (acc : Option Nat × Dev) p =>
          let y := acc.2.loadPiece n p.1 p.2.2
          (match acc.1, y.1 with | some v, some u => some (v + u * 2 ^ (8 * p.2.1)) | _, _ => none, y.2)) (some 0, s)
        match x.1 with
        | some v => x.2.finish n w (.value v)
        | none => x.2.stall n w
    | .nonCaching =>
      let ls := linesOf pa' size
      if s.wcTouches n ls then (ls.foldl (fun s l => s.drainLine n l) s).stall n w
      else if ls.length = 1 || remoteForm pa' then
        if (s.hart n).waits.contains w then s.result n .stalled
        else ls.foldl (fun s l =>
          let lo := faultByte pa' l
          let len := min (pa' + size) (l * 64 + 64) - lo
          s.askOnce n .rdOnce lo len 0 (byteMask lo len)) (s.stall n w)
      else
        let x := (pieces8 pa' size).foldl (fun (acc : Option (Except Nat Nat) × Dev) p =>
          match acc.1 with
          | some (.ok v) =>
            let y := acc.2.request ⟨.rdOnce, p.1 / 64, .core n, 0, s.partOfCore n, none, .normal, 0, byteMask p.1 p.2.2⟩
            (match y.1 with
              | some (.ok, d) => some (.ok (v + fieldAt (lineBytes d) (p.1 % 64) p.2.2 * 2 ^ (8 * p.2.1)))
              | some _ => some (.error p.1)
              | none => none, y.2)
          | e => (e, acc.2)) (some (.ok 0), s)
        match x.1 with
        | some (.ok v) => x.2.finish n w (.value v)
        | some (.error a) => x.2.finish n w (.loadFault a)
        | none => s.stall n w

/-! Stores (R374, R375). -/

/-- An L2 holds a line it may write. -/
def Dev.l2Owns (s : Dev) (n line : Nat) : Bool := match (s.l2 n).find line with | some l => l.st != .s | none => false

/-- A retired store joins the store buffer: merged into the youngest entry where it may be and the core merges it. -/
def Hart.push (h : Hart) (e : BufEntry) (merge : Bool) : Hart :=
  match h.sb.getLast? with
  | some y =>
    if merge && !h.sealed && y.line == e.line && y.ep == e.ep then
      { h with sb := h.sb.dropLast ++ [{ y with data := mergeLine e.mask y.data e.data, mask := y.mask ||| e.mask }] }
    else { h with sb := h.sb ++ [e], sealed := false }
  | none => { h with sb := h.sb ++ [e], sealed := false }

/-- A store entry of a line. -/
def storeEntry (a : Nat) (bs : List Byte) (ep : Nat) : BufEntry :=
  ⟨a / 64, lineOf (List.replicate (a % 64) 0 ++ bs), byteMask a bs.length, ep⟩

/-- The whole-line zero of cbo.zero, which takes ownership without data. -/
def zeroLine (a : Nat) (bs : List Byte) : Bool := a % 64 == 0 && bs.length == 64 && allZero bs

/-- Lines asked for in ownership. -/
def Dev.askOwn (s : Dev) (n line : Nat) (zero : Bool) : Dev :=
  if s.l2Owns n line then s
  else s.l2Ask n line (if zero then .makeUnique else match (s.l2 n).find line with | some _ => .upgrade | none => .rdUnique)

/-- A store joins the write-combining buffer: merged into its line's entry, or a new one, for which the oldest drains when
all 8 are used; none when it must wait. -/
def Dev.wcStore (s : Dev) (n : Nat) (e : BufEntry) : Option Dev :=
  let h := s.hart n
  if h.wc.any (fun x => x.line == e.line && x.ep == e.ep) then
    some (s.setHart n { h with wc := h.wc.map (fun x =>
      if x.line = e.line ∧ x.ep = e.ep then { x with data := mergeLine e.mask x.data e.data, mask := x.mask ||| e.mask } else x) })
  else
    match h.wc with
    | o :: _ =>
      if h.wc.length < 8 then some (s.setHart n { h with wc := h.wc ++ [e] })
      else if h.mayDrain o then
        let s := s.drainEntry n o
        some (s.setHart n { s.hart n with wc := (s.hart n).wc ++ [e] })
      else none
    | [] => some (s.setHart n { h with wc := [e] })

/-- The store pieces of an access: of at most 8 bytes each, or the whole line of cbo.zero. -/
def storePieces (a : Nat) (bs : List Byte) : List (Nat × List Byte) :=
  if zeroLine a bs then [(a, bs)] else (pieces8 a bs.length).map (fun p => (p.1, (bs.drop p.2.1).take p.2.2))

/-- A core store of the given bytes to weak normal memory; a cbo.zero of strict device memory is refused (R55, R371). -/
def Dev.coreStore (s : Dev) (n pa : Nat) (bs : List Byte) (pbmt : Fin 4) (merge : Bool) : Dev :=
  if !s.coreUp n then s
  else
    let pa' := s.answerAddr pa
    let w : WaitKind × Nat × Nat := (.store, pa', bs.length)
    let ps := storePieces pa' bs
    match memType pa pbmt with
    | .pageFault => s.finish n w (.pageFault pa)
    | .strict => s.finish n w (.storeFault pa)
    | .cacheable =>
      let ls := linesOf pa bs.length
      let zero := zeroLine pa bs
      if ls.all (s.l2Owns n) then
        let h := s.hart n
        if h.sb.length + ps.length > 64 then s.stall n w
        else (s.setHart n (ps.foldl (fun h p => h.push (storeEntry p.1 p.2 h.epoch) merge) h)).finish n w .done
      else (ls.foldl (fun s l => s.askOwn n l zero) s).stall n w
    | .nonCaching =>
      let x := ps.foldl (fun (acc : Option Dev) p => acc.bind (fun s => s.wcStore n (storeEntry p.1 p.2 (s.hart n).epoch))) (some s)
      match x with
      | some s => s.finish n w .done
      | none => s.stall n w

/-- A buffered store performed (R373): its line is held for writing, no older store of its line waits, and no older store that
a FENCE put before it; where its line is gone, or found unreadable (bad), the L2 asks for it again. -/
def Dev.storePerform (s : Dev) (n i : Nat) (bad : Bool) : Dev :=
  let h := s.hart n
  match h.sb[i]? with
  | none => s
  | some e =>
    let s := if bad then s.l2Bad n e.line else s
    let h := s.hart n
    let older := h.sb.take i
    if h.inReset || older.any (fun x => x.line == e.line || decide (x.ep < e.ep)) then s
    else match (s.l2 n).find e.line with
      | some l =>
        if l.st == .s then s.askOwn n e.line false
        else
          let s := s.setHart n { h with sb := h.sb.eraseIdx i }
          s.l2Put n { l with st := .m, data := mergeLine e.mask l.data e.data }
      | none => s.askOwn n e.line false

def execStorePerform (n : CoreIx) (i : SbPick) (s : State) : Host.Outcome State Fault Refusal :=
  s.after (s.dev.storePerform n i.ix i.bad)

/-- An entry of the write-combining buffer drains (R375). -/
def Dev.wcDrain (s : Dev) (n i : Nat) : Dev :=
  match (s.hart n).wc[i]? with
  | some e => if (s.hart n).mayDrain e then s.drainEntry n e else s
  | none => s

def execWcDrain (n : CoreIx) (i : Fin 8) (s : State) : Host.Outcome State Fault Refusal := s.after (s.dev.wcDrain n i)

/-- An access of the hart that a FENCE's predecessor set names has not been answered: R and W the weak normal reads and writes, I and O
the strict device ones (R372). -/
def Hart.predWaits (h : Hart) (pr pw pi po : Bool) : Bool :=
  h.waits.any (fun w => match w.1 with
    | .load => pr
    | .store => pw
    | .amo => pr || pw
    | .strictLoad => pi
    | .strictStore => po)

/-- A FENCE (R372, R375): the accesses its predecessor set names have been answered; with W before it, the write-combining buffer drains
and its COMPs are awaited, and buffered stores are performed first, unless only stores follow: those are kept behind them. No store
after it merges with one before it. -/
def Dev.coreFence (s : Dev) (n : Nat) (pr pw pi po sr sw si so : Bool) : Dev :=
  if !s.coreUp n then s
  else
    let h := s.hart n
    if h.predWaits pr pw pi po then s.result n .stalled
    else if !pw then (s.setHart n { h with sealed := true }).result n .done
    else
      let s := (h.wc.filter (fun e => h.mayDrain e)).foldl (fun s e => s.drainEntry n e) s
      let h := s.hart n
      let behind := !(sr || si || so)
      let clear := h.wc.isEmpty && h.wcOut.isEmpty && (behind || h.sb.isEmpty)
      if clear then
        (s.setHart n { h with sealed := true, epoch := if sw && !h.sb.isEmpty then h.epoch + 1 else h.epoch }).result n .done
      else s.result n .stalled

def execCoreFence (n : CoreIx) (pre : FencePre) (sr sw si so : Bool) (s : State) : Host.Outcome State Fault Refusal :=
  s.after (s.dev.coreFence n pre.r pre.w pre.i pre.o sr sw si so)

/-! AMO, LR, SC (R376, R378). -/

/-- The bytes of a line replaced at an offset. -/
def setBytes (l : Line) (off : Nat) (bs : List Byte) : Line :=
  let b := lineBytes l
  lineOf (b.take off ++ bs ++ b.drop (off + bs.length))

/-- Older stores of the hart that an AMO or SC must wait for: any on its line, any that a FENCE put before it (R372), and, with rl,
every one. -/
def Dev.olderWait (s : Dev) (n line : Nat) (rl : Bool) : Bool :=
  let h := s.hart n
  h.sb.any (fun e => e.line == line || decide (e.ep < h.epoch)) || (rl && !(h.sb.isEmpty && h.wc.isEmpty && h.wcOut.isEmpty))

def Dev.coreAmo (s : Dev) (n pa size : Nat) (fn : AmoFn) (x : Nat) (pbmt : Fin 4) (rl bad : Bool) : Dev :=
  if !s.coreUp n then s
  else
    let s := if bad then s.l2Bad n (pa / 64) else s
    let pa' := s.answerAddr pa
    let w : WaitKind × Nat × Nat := (.amo, pa', size)
    if size = 0 || pa % size ≠ 0 then s.finish n w (.misaligned pa)
    else match memType pa pbmt with
      | .pageFault => s.finish n w (.pageFault pa)
      | .strict => s.finish n w (.amoFault pa)
      | .cacheable =>
        if s.wcTouches n [pa / 64] || s.olderWait n (pa / 64) rl then (s.drainLine n (pa / 64)).stall n w
        else match (s.l2 n).find (pa / 64) with
          | some l =>
            if l.st == .s then (s.askOwn n (pa / 64) false).stall n w
            else
              let old := fieldAt (lineBytes l.data) (pa % 64) size
              let s := s.l2Put n { l with st := .m, data := setBytes l.data (pa % 64) (leBytes size (amoValue fn size old x)) }
              (s.setHart n { s.hart n with sealed := true }).finish n w (.value old)
          | none => (s.askOwn n (pa / 64) false).stall n w
      | .nonCaching =>
        if s.wcTouches n [pa' / 64] || s.olderWait n (pa' / 64) rl then (s.drainLine n (pa' / 64)).stall n w
        else if (s.hart n).waits.contains w then s.result n .stalled
        else
          let d := setBytes 0 (pa' % 64) (leBytes size x)
          ((s.setHart n { s.hart n with sealed := true }).stall n w).askOnce n (.atomic (.int fn size)) pa size d (byteMask pa size)

def execCoreAmo (n : CoreIx) (pa : BitVec 56) (size : Fin 9) (fn : AmoFn) (x : Word) (pbmt : Fin 4) (mark : AmoMark) (s : State) :
    Host.Outcome State Fault Refusal := s.after (s.dev.coreAmo n pa.toNat size fn x.toNat pbmt mark.rl mark.bad)

def Dev.coreLr (s : Dev) (n pa size : Nat) (pbmt : Fin 4) (rl bad : Bool) : Dev :=
  if !s.coreUp n then s
  else
    let s := if bad then s.l2Bad n (pa / 64) else s
    let w : WaitKind × Nat × Nat := (.load, pa, size)
    if size = 0 || pa % size ≠ 0 then s.finish n w (.misaligned pa)
    else match memType pa pbmt with
      | .pageFault => s.finish n w (.pageFault pa)
      | .strict | .nonCaching => s.finish n w (.loadFault pa)
      | .cacheable =>
        if s.wcTouches n [pa / 64] || s.olderWait n (pa / 64) rl then (s.drainLine n (pa / 64)).stall n w
        else match (s.l2 n).find (pa / 64) with
          | some l =>
            let s := s.setHart n { s.hart n with resv := some (pa / 64), sealed := true }
            s.finish n w (.value (fieldAt (lineBytes l.data) (pa % 64) size))
          | none => (s.l2Ask n (pa / 64) .rdShared).stall n w

def execCoreLr (n : CoreIx) (pa : BitVec 56) (size : Fin 9) (pbmt : Fin 4) (mark : AmoMark) (s : State) :
    Host.Outcome State Fault Refusal := s.after (s.dev.coreLr n pa.toNat size pbmt mark.rl mark.bad)

/-- SC: 0 where the reservation holds and the store is done, 1 where it does not (the code of the A extension). -/
def Dev.coreSc (s : Dev) (n pa : Nat) (bs : List Byte) (pbmt : Fin 4) (rl bad : Bool) : Dev :=
  if !s.coreUp n then s
  else
    let s := if bad then s.l2Bad n (pa / 64) else s
    let w : WaitKind × Nat × Nat := (.amo, pa, bs.length)
    if bs.length = 0 || pa % bs.length ≠ 0 then s.finish n w (.misaligned pa)
    else match memType pa pbmt with
      | .pageFault => s.finish n w (.pageFault pa)
      | .strict | .nonCaching => s.finish n w (.storeFault pa)
      | .cacheable =>
        let fail := fun (s : Dev) => (s.setHart n { s.hart n with resv := none, sealed := true }).finish n w (.value 1)
        if (s.hart n).resv ≠ some (pa / 64) then fail s
        else if s.wcTouches n [pa / 64] || s.olderWait n (pa / 64) rl then (s.drainLine n (pa / 64)).stall n w
        else match (s.l2 n).find (pa / 64) with
          | none => fail s
          | some l =>
            if l.st == .s then (s.askOwn n (pa / 64) false).stall n w
            else
              let s := s.l2Put n { l with st := .m, data := setBytes l.data (pa % 64) bs }
              (s.setHart n { s.hart n with resv := none, sealed := true }).finish n w (.value 0)

def execCoreSc (n : CoreIx) (pa : BitVec 56) (data : List Byte) (pbmt : Fin 4) (mark : AmoMark) (s : State) :
    Host.Outcome State Fault Refusal := s.after (s.dev.coreSc n pa.toNat data pbmt mark.rl mark.bad)

/-! Traps, interrupts, power (R389, R390, R505). -/

/-- R390: what has retired stays in the buffers; an access that has not retired is never made. -/
def execCoreTrap (n : CoreIx) (s : State) : Host.Outcome State Fault Refusal :=
  s.after (s.dev.setHart n { s.dev.hart n with waits := [], sealed := true })

/-- R389: the i-th MSI in flight reaches its file, which holds identities 1 to 2,047. -/
def Dev.imsicTake (s : Dev) (i : Nat) : Dev :=
  match s.msis[i]? with
  | none => s
  | some m =>
    let s := { s with msis := s.msis.eraseIdx i }
    match imsicFile m.addr with
    | none => s
    | some (n, page) =>
      let k := n * 16 + page
      let f := SMap.get s.files [] k
      if m.id = 0 || m.id > 2047 || f.contains m.id || s.dieState 8 != 0 then s else { s with files := SMap.set s.files k (f ++ [m.id]) }

def execImsicMsi (i : Nat) (s : State) : Host.Outcome State Fault Refusal := s.after (s.dev.imsicTake i)

/-- An interrupt is pending for a core: an identity in one of its files, or STORE_LOST (R391). -/
def Dev.corePending (s : Dev) (n : Nat) : Bool :=
  (List.range 16).any (fun g => !(SMap.get s.files [] (n * 16 + g)).isEmpty) || s.flag F.CORE_SL_INFO_PENDING n

/-- R505: an interrupt brings a gated core back. -/
def Dev.coreWake (s : Dev) (n : Nat) : Dev :=
  if (s.hart n).gated && s.corePending n then s.setHart n { s.hart n with gated := false } else s

def execCoreWake (n : CoreIx) (s : State) : Host.Outcome State Fault Refusal := s.after (s.dev.coreWake n)

/-- A line of an L2 sent home and taken there at once: none while another request of its line is open. -/
def Dev.l2Home (s : Dev) (n line : Nat) : Option Dev :=
  match (s.l2 n).find line, s.homeOf line with
  | some l, some h =>
    let s := s.settleLine h line 512
    if s.lineBusy h line || s.laneBefore (.evictClean n line) then none
    else match (s.l2 n).find line with
      | none => some s
      | some _ =>
        let s := s.l2Drop n line
        if l.st == .m then some (s.wbTaken h n line l.data).2 else some (s.cleanTaken h n line)
  | some _, none => some (s.l2Drop n line)
  | none, _ => some s

/-- The buffered stores of a hart performed in order, where their lines are held. -/
def Dev.sbDrain (s : Dev) (n : Nat) : Nat → Dev
  | 0 => s
  | k + 1 => (s.storePerform n 0 false).sbDrain n k

/-- An L2 flushed (R362, R392): the retired stores of its hart are performed and answered, its writebacks are taken, then every line of it
goes home. False while something of it is still under way. -/
def Dev.l2Flush (s : Dev) (n : Nat) : Bool × Dev :=
  let s := s.sbDrain n (s.hart n).sb.length
  let h := s.hart n
  let s := (h.wc.filter (fun e => h.mayDrain e)).foldl (fun s e => s.drainEntry n e) s
  let s := ((s.l2 n).wb.map (·.1)).foldl (fun s l => (s.wbDirtyCmd n l).compCmd (.core n) l 1 0) s
  let h := s.hart n
  if !(h.sb.isEmpty && h.wc.isEmpty && h.wcOut.isEmpty && (s.l2 n).pend.isEmpty && (s.l2 n).wb.isEmpty) then (false, s)
  else (s.l2 n).lines.foldl (fun (acc : Bool × Dev) l =>
    if acc.1 then match acc.2.l2Home n l.line with
      | some s => (true, s)
      | none => (false, acc.2)
    else acc) (true, s)

/-- R505, R392: a core in WFI for CORE_IDLE cycles drains both buffers and flushes its L2, and the gate closes; it stays open
while something of it is still under way. -/
def Dev.coreGate (s : Dev) (n : Nat) : Dev :=
  if !s.coreUp n || s.fld F.PWR_IDLE_CORE_IDLE 8 = 0 || s.corePending n || !(s.hart n).waits.isEmpty then s
  else
    let x := s.l2Flush n
    if x.1 then x.2.setHart n { x.2.hart n with gated := true, resv := none } else x.2

def execCorePowerGate (n : CoreIx) (s : State) : Host.Outcome State Fault Refusal := s.after (s.dev.coreGate n)

/-! Cluster caches (R385, R387). -/

/-- A write of CC_CTRL: DROP drops every line; ENABLE = 0 drops every line. -/
def Dev.writeCcCtrl (s : Dev) (c : Nat) (w : Word) : Dev :=
  let s := (s.storeReg ⟨.CC_CTRL, c⟩ w).setFlag F.CC_CTRL_DROP c false
  if F.CC_CTRL_DROP.get w = 1 || F.CC_CTRL_ENABLE.get w = 0 then s.ccDrop c else s

def execCcDrop (who : Who) (c : ClusterIx) (s : State) : Host.Outcome State Fault Refusal :=
  s.after (s.dev.asWriter who ⟨.CC_CTRL, c⟩ (F.CC_CTRL_DROP.put (s.dev.reg .CC_CTRL c) 1) (fun d w => d.writeCcCtrl c w))

def execCcEnableWrite (who : Who) (c : ClusterIx) (enable : Bool) (s : State) : Host.Outcome State Fault Refusal :=
  s.after (s.dev.asWriter who ⟨.CC_CTRL, c⟩ (F.CC_CTRL_ENABLE.put (s.dev.reg .CC_CTRL c) (if enable then 1 else 0))
    (fun d w => d.writeCcCtrl c w))

end Sys2Proof.Machine
end

