-- ==== Sys2Proof/Machine/Translate.lean ====
section
/-! DEFINITION. The commands of translation (file 14): misses and walks one by one, page requests answered, invalidations. -/

namespace Sys2Proof.Machine

open Sys2Proof

/-- Outstanding misses of a copy, with MISSES_OUT. -/
def Dev.setWalks (s : Dev) (c : Nat) (w : List Walk) : Dev :=
  ({ s with walks := w } : Dev).setFld F.ATC_STATUS_MISSES_OUT c (w.filter (fun (x : Walk) => x.cluster == c)).length

/-- A waiter learns that its request is answered XLATE. -/
def Dev.denied (s : Dev) (q : XReq) : Dev := { s with xfail := SMap.set s.xfail q.tag (SMap.get s.xfail [] q.tag ++ [q.va]) }

/-- A waiter's request is answered XLATE (R397, R401). -/
def Dev.refuse (s : Dev) (ctx : Nat) (q : XReq) : Dev := (s.count F.CTX_XLATE_COUNTS_XLATE ctx 1).denied q

/-- R403: a request that misses its copy merges into a miss of its page, or sends one of at most 32 to the HTU; with the core
die in reset it answers XLATE (R416). -/
def Dev.atcMiss (s : Dev) (c ctx va tag : Nat) (need : Right) : Dev :=
  let q : XReq := ⟨c, tag, need, va⟩
  let m := s.xmode ctx
  if !(m = 9 || m = 10) || s.dieState (c / 16) != 0 then s
  else if (s.atc c).any (fun e => e.covers ctx va && e.gives need) then s
  else
    let s' := s.count F.ATC_MISSES_COUNT c 1
    if s.dieState 8 != 0 then s'.refuse ctx q
    else if s.walks.any (fun w => w.cluster == c && w.ctx == ctx && w.vpage == va / 4096) then
      { s' with walks := s.walks.map (fun w => if w.cluster = c ∧ w.ctx = ctx ∧ w.vpage = va / 4096 then { w with reqs := w.reqs ++ [q] } else w) }
    else if (s.walks.filter (fun w => w.cluster == c)).length ≥ 32 then s
    else s'.setWalks c (s.walks ++ [⟨c, ctx, va / 4096, [q], false, none⟩])

def execAtcMiss (c : ClusterIx) (ctx : CtxIx) (va : Word) (tag : Nat) (need : Right) (s : State) :
    Host.Outcome State Fault Refusal := s.after (s.dev.atcMiss c ctx va.toNat tag need)

/-- R399: the tables of the context are read for a miss, which is one of at most 256 walks in flight. -/
def Dev.htuWalk (s : Dev) (c ctx vpage : Nat) : Dev :=
  match s.walks.find? (fun w => w.cluster == c && w.ctx == ctx && w.vpage == vpage && !w.walked) with
  | none => s
  | some w =>
    if (s.walks.filter (·.walked)).length ≥ 256 then s
    else
    let va := match w.reqs with | q :: _ => q.va | [] => vpage * 4096
    let x := s.walkFrom ctx va
    let done := fun (l : Option (Nat × Word × Nat)) =>
      { x.2 with walks := x.2.walks.map (fun y => if y = w then { w with walked := true, leaf := l } else y) }
    match x.1 with
    | .wait => s
    | .bad => done none
    | .notValid l a => done (some (l, 0, a))
    | .leaf l pte a => done (some (l, pte, a))

def execHtuWalk (c : ClusterIx) (ctx : CtxIx) (vpage : Nat) (s : State) : Host.Outcome State Fault Refusal :=
  s.after (s.dev.htuWalk c ctx vpage)

/-- One request of a walked miss judged (R400, R413). -/
def Dev.judgeReq (s : Dev) (p ctx : Nat) (e : WalkEnd) (q : XReq) : Dev :=
  let fromPte := match s.partRec p with | some r => r.aFromPte | none => false
  match judge ctx q.va q.need fromPte e with
  | .install a => s.atcInstall q.cluster a
  | .xlate => s.refuse ctx q
  | .pageRequest cause level addr =>
    if !s.flag F.CTX_XLATE_PR_ENABLE ctx || s.fld F.XP_PR_BASE_BASE p == 0 then s.refuse ctx q
    else s.raisePr p ctx q cause level addr

/-- R400: a walk that has reached its end is judged for each of its requests. -/
def Dev.walkDone (s : Dev) (c ctx vpage : Nat) : Dev :=
  match takeFirst (fun (w : Walk) => w.cluster == c && w.ctx == ctx && w.vpage == vpage && w.walked) s.walks with
  | none => s
  | some (w, rest) =>
    let s := s.setWalks c rest
    let e : WalkEnd := match w.leaf with
      | none => .bad
      | some (l, pte, a) => if pte = 0 then .notValid l a else .leaf l pte a
    match s.partOfCtx ctx with
    | none => w.reqs.foldl (fun s q => s.refuse ctx q) s
    | some p => w.reqs.foldl (fun s q => s.judgeReq p ctx e q) s

def execWalkDone (c : ClusterIx) (ctx : CtxIx) (vpage : Nat) (s : State) : Host.Outcome State Fault Refusal :=
  s.after (s.dev.walkDone c ctx vpage)

/-! Page requests (R413–R416). -/

/-- A write of XP_PR_HEAD: waiting records may be written. -/
def Dev.writePrHead (s : Dev) (p : Nat) (w : Word) : Dev := (s.storeReg ⟨.XP_PR_HEAD, p⟩ w).prFlush p 65

def execPrHeadWrite (who : Who) (p : PartIx) (head : BitVec 32) (s : State) : Host.Outcome State Fault Refusal :=
  s.after (s.dev.asWriter who ⟨.XP_PR_HEAD, p⟩ (head.setWidth 64) (fun d w => d.writePrHead p w))

/-- An entry freed: the first request that waits for one takes it. -/
def Dev.prFree (s : Dev) (p ix : Nat) : Dev :=
  let st := s.pr p
  let s := s.setPr p { st with entries := st.entries.filter (fun e => e.ix != ix) }
  match st.waiting with
  | [] => s
  | (ctx, _, cause, level, addr, q) :: rest => (s.setPr p { s.pr p with waiting := rest }).raisePr p ctx q cause level addr

/-- The requests of an entry answered XLATE and the entry freed. -/
def Dev.prFail (s : Dev) (p : Nat) (e : PrEntry) : Dev := (e.reqs.foldl (fun s q => s.refuse e.ctx q) s).prFree p e.ix

/-- The requests of an entry walk again, the entry being free. -/
def Dev.prRetry (s : Dev) (p : Nat) (e : PrEntry) : Dev :=
  e.reqs.foldl (fun s q =>
    let x := s.xlate q.cluster e.ctx q.need q.va q.tag
    match x.1 with
    | .xlate => x.2.denied q
    | _ => x.2) (s.prFree p e.ix)

/-- The pending entry that a PR_ID names, its use count included. -/
def Dev.prEntry (s : Dev) (p id : Nat) : Option PrEntry := (s.pr p).entries.find? (fun e => e.ix + 64 * e.uses == id % 256)

/-- An answer of software (R415). -/
def Dev.prAnswer (s : Dev) (p id : Nat) (fail : Bool) : Dev :=
  match s.prEntry p id with
  | some e => if fail then s.prFail p e else s.prRetry p e
  | none => s.count F.XP_PR_STATUS_LATE_RESP p 1

/-- The word of an answer. -/
def prRespWord (id : BitVec 8) (code : Nat) : Word := BitVec.ofNat 64 (id.toNat + 256 * code)

def Dev.writePrResp (s : Dev) (p : Nat) (w : Word) : Dev :=
  s.prAnswer p (F.XP_PR_RESP_PR_ID.get w) (F.XP_PR_RESP_CODE.get w == 1)

def execPrRespRetry (who : Who) (p : PartIx) (id : BitVec 8) (s : State) : Host.Outcome State Fault Refusal :=
  s.after (s.dev.asWriter who ⟨.XP_PR_RESP, p⟩ (prRespWord id 0) (fun d w => d.writePrResp p w))
def execPrRespFail (who : Who) (p : PartIx) (id : BitVec 8) (s : State) : Host.Outcome State Fault Refusal :=
  s.after (s.dev.asWriter who ⟨.XP_PR_RESP, p⟩ (prRespWord id 1) (fun d w => d.writePrResp p w))

/-- R416: an entry whose record was written is not answered within XP_PR_LIMIT; 0 means never. -/
def Dev.prExpire (s : Dev) (p ix : Nat) : Dev :=
  if s.fld F.XP_PR_LIMIT_LIMIT p = 0 then s
  else match (s.pr p).entries.find? (fun e => e.ix == ix && e.written.isSome) with
    | some e => s.prFail p e
    | none => s

def execPrLimitExpire (p : PartIx) (ix : Fin 64) (s : State) : Host.Outcome State Fault Refusal := s.after (s.dev.prExpire p ix)

/-- R416: the pending entries of a context answer XLATE as it faults or is disabled; its requests that wait without an entry
too. These answers cause no further fault. -/
def Dev.prDropCtx (s : Dev) (p ctx : Nat) : Dev :=
  let tags := (s.pr p).entries.flatMap (fun e => if e.ctx = ctx then e.reqs.map (·.tag) else [])
  let wt := (s.pr p).waiting.flatMap (fun w => if w.1 = ctx then [w.2.2.2.2.2.tag] else [])
  let s := s.setPr p { s.pr p with waiting := (s.pr p).waiting.filter (fun w => w.1 != ctx) }
  let s := ((s.pr p).entries.filter (fun e => e.ctx == ctx)).foldl (fun s e => s.prFail p e) s
  { s with xfail := SMap.delWhere s.xfail (fun t => (tags ++ wt).contains t) }

/-! Invalidations (R410–R412). -/

/-- The copies that serve a partition. -/
def Dev.atcsOf (s : Dev) (p : Nat) : List Nat := (s.clustersOf p).filter (s.flag F.CL_STATUS_IN_SERVICE)

/-- Does an entry fall to an invalidation of a partition. -/
def Dev.invHits (s : Dev) (p : Nat) (v : InvSt) (e : AtcEntry) : Bool :=
  let mine := match v.ctx with | some c => e.ctx == c | none => s.partOfCtx e.ctx == some p
  let laps := match v.len with
    | none => true
    | some n => decide (e.vpn * 2 ^ e.size < v.lo + n ∧ v.lo < (e.vpn + 1) * 2 ^ e.size)
  mine && laps

/-- R411 step 3 at one copy. -/
def Dev.invDrop (s : Dev) (p c : Nat) (v : InvSt) : Dev := s.setAtc c ((s.atc c).filter (fun e => !s.invHits p v e))

/-- A write of XP_INV_CTRL (R410): its plain fields, then GO. -/
def Dev.writeInvCtrl (s : Dev) (p : Nat) (w : Word) : Dev :=
  let busy := s.flag F.XP_INV_STATUS_BUSY p
  let s := (s.storeReg ⟨.XP_INV_CTRL, p⟩ w).setFlag F.XP_INV_CTRL_GO p busy
  if F.XP_INV_CTRL_GO.get w = 0 || busy then s
  else
    let all := s.flag F.XP_INV_CTRL_ALL p
    let allVa := s.flag F.XP_INV_CTRL_ALL_VA p
    let log2 := s.fld F.XP_INV_CTRL_LOG2 p
    let va := s.fld F.XP_INV_ADDR_VA p * 4096
    let ctx := s.fld F.XP_INV_CTRL_CONTEXT p
    let bad := (!allVa && (decide (log2 < 12 ∨ 57 < log2) || va % 2 ^ log2 != 0)) || (!all && s.partOfCtx ctx != some p)
    if bad then (s.setFlag F.XP_INV_STATUS_DONE p true).setFlag F.XP_INV_STATUS_ERROR p true
    else
      let v : InvSt := ⟨s.atcsOf p, va, if allVa then none else some (2 ^ log2), if all then none else some ctx⟩
      let mine := fun c => match v.ctx with | some x => c == x | none => s.partOfCtx c == some p
      let s := { s with
        walks := s.walks.map (fun (x : Walk) => if mine x.ctx then { x with walked := false, leaf := none } else x)
        wcache := s.wcache.filter (fun (x : WalkEntry) => !mine x.ctx) }
      let s := v.waitAtc.foldl (fun s c => (s.invDrop p c v).setFlag F.ATC_STATUS_INVALIDATING c true) s
      let s := { s with invs := SMap.set s.invs p v }
      if v.waitAtc.isEmpty then { s.setFlag F.XP_INV_STATUS_DONE p true with invs := SMap.del s.invs p }
      else (s.setFlag F.XP_INV_STATUS_BUSY p true).setFlag F.XP_INV_CTRL_GO p true

def execInvalidationGo (who : Who) (p : PartIx) (ctrl : Word) (s : State) : Host.Outcome State Fault Refusal :=
  s.after (s.dev.asWriter who ⟨.XP_INV_CTRL, p⟩ (F.XP_INV_CTRL_GO.put ctrl 1) (fun d w => d.writeInvCtrl p w))

/-- The engine numbers that a cluster's copy translates for: its own engines, and, for the lowest in-service cluster of a
region, the region's (R404). -/
def Dev.tagsOf (s : Dev) (c : Nat) : List Nat :=
  let own := [4 * c, 4 * c + 1, 4 * c + 2, 4 * c + 3, 512 + c, 640 + c, 768 + c]
  let g := c / 4
  let low := ((List.range 4).map (fun i => 4 * g + i)).find? (s.flag F.CL_STATUS_IN_SERVICE)
  if low = some c then own ++ [896 + g, 928 + g] ++ (List.range 4).flatMap (fun k => (List.range 128).map (fun q => 1024 + 128 * g + q + 16384 * k)) else own

/-- R411 steps 4 to 6: a copy none of whose agents has a request outstanding acknowledges, its cluster's cache dropped; on the
last acknowledgement DONE is set. -/
def Dev.invAck (s : Dev) (p c : Nat) : Dev :=
  match SMap.find s.invs p with
  | none => s
  | some v =>
    let tags := s.tagsOf c
    if !v.waitAtc.contains c || s.remSent.any (fun r => tags.contains r.tag) then s
    else
      let s := ((s.invDrop p c v).ccDrop c).setFlag F.ATC_STATUS_INVALIDATING c false
      let rest := v.waitAtc.filter (fun x => x != c)
      if rest.isEmpty then
        let s := { s with invs := SMap.del s.invs p }
        ((s.setFlag F.XP_INV_STATUS_DONE p true).setFlag F.XP_INV_STATUS_BUSY p false).setFlag F.XP_INV_CTRL_GO p false
      else { s with invs := SMap.set s.invs p { v with waitAtc := rest } }

def execAtcInvAck (p : PartIx) (c : ClusterIx) (s : State) : Host.Outcome State Fault Refusal := s.after (s.dev.invAck p c)

/-- A write of XP_CHECK_CTRL (R408): ENABLE, then FLUSH, which drops the partition's kept check entries in every home. -/
def Dev.writeCheckCtrl (s : Dev) (p : Nat) (w : Word) : Dev :=
  let s := (s.storeReg ⟨.XP_CHECK_CTRL, p⟩ w).setFlag F.XP_CHECK_CTRL_FLUSH p false
  if F.XP_CHECK_CTRL_FLUSH.get w = 1 then
    { s with homes := s.homes.map (fun e => (e.1, { e.2 with checks := SMap.delWhere e.2.checks (fun k => k / 2 ^ 24 == p) })) }
  else s

def execCheckFlush (who : Who) (p : PartIx) (s : State) : Host.Outcome State Fault Refusal :=
  s.after (s.dev.asWriter who ⟨.XP_CHECK_CTRL, p⟩ (F.XP_CHECK_CTRL_FLUSH.put (s.dev.reg .XP_CHECK_CTRL p) 1)
    (fun d w => d.writeCheckCtrl p w))

end Sys2Proof.Machine
end

