-- ==== Sys2Proof/Machine/Sched.lean ====
section
/-! DEFINITION. The shared operations of queues, contexts and tiles (files 09 and 10): records, completions, stops, faults,
preemption, the pacer, the deques. -/

namespace Sys2Proof.Machine

open Sys2Proof

/-! Descriptors (R256). -/

def Desc.op (d : Desc) : Nat := fieldAt d.bytes 0 1
def Desc.slots (d : Desc) : Nat := bitsOf (fieldAt d.bytes 2 1) 0 2
def Desc.flagBit (d : Desc) (i : Nat) : Bool := bitOf (fieldAt d.bytes 3 1) i
def Desc.acq (d : Desc) : Bool := d.flagBit 0
def Desc.rel (d : Desc) : Bool := d.flagBit 1
def Desc.quiet (d : Desc) : Bool := d.flagBit 4
def Desc.irq (d : Desc) : Bool := d.flagBit 5
def Desc.tag (d : Desc) : Nat := fieldAt d.bytes 4 2
def Desc.signal (d : Desc) : Nat := fieldAt d.bytes 6 2
def Desc.est (d : Desc) : Nat := fieldAt d.bytes 8 4
def Desc.signalValue (d : Desc) : Nat := fieldAt d.bytes 12 4
def Desc.isHurdle (d : Desc) : Bool := d.op == 0x01
def Desc.finished (d : Desc) (i : Nat) : Bool := decide (i < d.base) || d.fin.contains i
def Desc.finCount (d : Desc) : Nat := d.base + d.fin.length

/-- The lowest unfinished tile moves past the finished ones above it. -/
def advanceBase : Nat → Nat → List Nat → Nat × List Nat
  | 0, b, f => (b, f)
  | n + 1, b, f => if f.contains b then advanceBase n (b + 1) (f.erase b) else (b, f)

/-- A tile finished. -/
def Desc.finish (d : Desc) (i : Nat) : Desc :=
  if d.finished i then d
  else
    let f := i :: d.fin
    let r := advanceBase f.length d.base f
    { d with base := r.1, fin := r.2 }

/-- The engine that runs an operation (R207). -/
inductive EngineKind where
  | mxa | vxe | spe | tbe | cde | mve | nothing
  deriving DecidableEq, Repr

def kindOfOp (op : Nat) : EngineKind :=
  if op = 0x08 ∨ op = 0x09 then .mxa
  else if 0x10 ≤ op ∧ op ≤ 0x15 then .vxe
  else if 0x20 ≤ op ∧ op ≤ 0x23 then .spe
  else if op = 0x30 ∨ op = 0x31 then .tbe
  else if op = 0x40 ∨ op = 0x41 then .cde
  else if 0x50 ≤ op ∧ op ≤ 0x52 then .mve
  else .nothing

def EngineKind.table : EngineKind → Bool
  | .tbe | .cde => true
  | _ => false

/-! Stores. -/

def Dev.queue (s : Dev) (q : Nat) : QueueSt := SMap.get s.queues .init q
def Dev.setQueue (s : Dev) (q : Nat) (x : QueueSt) : Dev := { s with queues := SMap.set s.queues q x }
def Dev.cx (s : Dev) (c : Nat) : CtxSt := SMap.get s.ctxs .init c
def Dev.setCx (s : Dev) (c : Nat) (x : CtxSt) : Dev := { s with ctxs := SMap.set s.ctxs c x }
def Dev.partSt (s : Dev) (p : Nat) : PartSt := SMap.get s.parts .init p
def Dev.setPartSt (s : Dev) (p : Nat) (x : PartSt) : Dev := { s with parts := SMap.set s.parts p x }
def Dev.deque (s : Dev) (c : Nat) : List Tile := SMap.get s.deques [] c
def Dev.setDeque (s : Dev) (c : Nat) (l : List Tile) : Dev :=
  { s.setFld F.CL_STATUS_DEPTH c l.length with deques := SMap.set s.deques c l }
def Dev.tableQ (s : Dev) (g : Nat) : List Tile := SMap.get s.tableQs [] g
def Dev.setTableQ (s : Dev) (g : Nat) (l : List Tile) : Dev := { s with tableQs := SMap.set s.tableQs g l }

/-- An accepted descriptor of a queue. -/
def Dev.desc (s : Dev) (q pos : Nat) : Option Desc := (s.queue q).inflight.find? (fun d => d.pos == pos)

/-- Every accepted descriptor of a queue passed through a function. -/
def Dev.mapDescs (s : Dev) (q : Nat) (f : Desc → Desc) : Dev :=
  s.setQueue q { s.queue q with inflight := (s.queue q).inflight.map f }

def Dev.modDesc (s : Dev) (q pos : Nat) (f : Desc → Desc) : Dev := s.mapDescs q (fun d => if d.pos = pos then f d else d)

/-- The context bound to a queue, the state of the queue (R264) and of a context (R284). -/
def Dev.ctxOfQueue (s : Dev) (q : Nat) : Nat := s.fld F.Q_CFG_CONTEXT q
def Dev.queueState (s : Dev) (q : Nat) : Nat := s.fld F.Q_STATUS_STATE q
def Dev.ctxState (s : Dev) (c : Nat) : Nat := s.fld F.CTX_STATE_STATE c
def Dev.ctxQueue (s : Dev) (c : Nat) : Nat := s.fld F.CTX_STATE_QUEUE c
def Dev.bound (s : Dev) (c : Nat) : Bool := s.flag F.CTX_STATE_BOUND c
def Dev.partOfQueue (s : Dev) (q : Nat) : Option Nat := s.partOfRegion (q / 128)
def Dev.partRuns (s : Dev) (p : Nat) : Bool := s.partState p == 2
/-- New requests may be issued: no package quiesce-and-reset is draining the dies (R533). -/
def Dev.issues (s : Dev) : Bool := s.drain.isNone

/-- A queue's manager acts: its partition is in RUN, its die answers, and requests may be issued. -/
def Dev.queueRuns (s : Dev) (q : Nat) : Bool :=
  match s.partOfQueue q with
  | some p => s.partRuns p && s.dieState (q / 512) == 0 && s.issues
  | none => false

/-- Slots of a ring, records of a completion ring (R253, R276). -/
def Dev.ringSlots (s : Dev) (q : Nat) : Nat := 2 ^ (6 + s.fld F.Q_CFG_SIZE q)
def Dev.cqSlots (s : Dev) (q : Nat) : Nat := 2 ^ (6 + s.fld F.Q_CFG_CQ_SIZE q)

/-- GEN of a lap (R255). -/
def genOfLap (lap : Nat) : Nat := 1 + lap % 255

/-- a − b in the 32-bit counts of R254. -/
def sub32 (a b : Nat) : Nat := (a + 2 ^ 32 - b % 2 ^ 32) % 2 ^ 32

/-- The lowest-numbered in-service cluster of a region, whose copy translates for its queue manager and table engines (R404). -/
def Dev.lowCluster (s : Dev) (g : Nat) : Nat :=
  (((List.range 4).map (fun i => 4 * g + i)).find? (s.flag F.CL_STATUS_IN_SERVICE)).getD (4 * g)

/-- The queue manager as a requester for a queue: fetches, records, hurdle reads and save areas wait apart from each other. -/
inductive QmUse where
  | fetch | record | hurdle | save
  deriving DecidableEq, Repr

def Dev.qmId (s : Dev) (q : Nat) (u : QmUse) : EngId :=
  let k := match u with | .fetch => 0 | .record => 1 | .hurdle => 2 | .save => 3
  ⟨.queueMgr (q / 128), 1024 + q + 16384 * k, s.lowCluster (q / 128), none, s.ctxOfQueue q, (s.partOfQueue q).getD 0⟩

/-- The region whose manager leads a partition (R268). -/
def Dev.leadRegion (s : Dev) (p : Nat) : Nat := (s.regionsOf p).headD 0

/-! Logical arrays (R128). -/

/-- The gang of an array, unless dissolved (R99, R150). -/
def Dev.gangOf (s : Dev) (a : Nat) : Option Gang :=
  match s.partOfRegion (a / 16) with
  | some p => match s.partRec p with
    | some r => r.gangs.find? (fun g => !g.dissolved && g.cluster == a / 4 && bitOf g.arrays (a % 4))
    | none => none
  | none => none

/-- The member arrays of the logical array that an array belongs to, lowest first. -/
def Dev.members (s : Dev) (a : Nat) : List Nat :=
  match s.gangOf a with
  | some g => (List.range 4).filterMap (fun i => if bitOf g.arrays i then some (4 * (a / 4) + i) else none)
  | none => [a]

/-- Every member's STATE and CONTEXT set; one in FAULT stays there (R148). -/
def Dev.setArrayState (s : Dev) (a st : Nat) (ctx : Option Nat) : Dev :=
  (s.members a).foldl (fun s m =>
    let s := (if s.fld F.MXA_STATUS_STATE m = 5 then s else s.setFld F.MXA_STATUS_STATE m st).setFlag F.MXA_STATUS_CTX_VALID m ctx.isSome
    s.setFld F.MXA_STATUS_CONTEXT m (ctx.getD 0)) s

/-- A HELD period ends: its length, in CK_SLOW cycles, goes to the context's accounting once (R141). -/
def Dev.endHeld (s : Dev) (_a : Nat) (r : MxRun) : Dev :=
  match r.held with
  | some t => s.bump F.CTX_ACCT_HOLD_HOLD (s.ctxOfQueue r.tile.q) (s.time - t)
  | none => s

/-! Records (R276, R277). -/

/-- A record joins those that wait; from QUIESCE on, none does (R281). -/
def Dev.pushRec (s : Dev) (q : Nat) (r : List CqRec) : Dev :=
  if s.queueRuns q && s.queueState q != 0 then s.setQueue q { s.queue q with records := (s.queue q).records ++ r } else s

/-- An event record of a descriptor's operation, with HEAD at the event (R277). The events tied to a descriptor are HOLD_EXPIRED, of the
descriptor whose tile is HELD, and QUEUE_STOPPED after FORMAT or HURDLE (DEDUCED, log entry 105). -/
def Dev.eventOf (s : Dev) (q : Nat) (e : EvRec) (op : Nat) : Dev := s.pushRec q [.event e (s.fld F.Q_POS_HEAD q) op]

/-- An event record tied to no descriptor. -/
def Dev.event (s : Dev) (q : Nat) (e : EvRec) : Dev := s.eventOf q e 0

/-- POSITION of a descriptor in its records (R277, R299 step 5). -/
def recPos (pos : Nat) : Nat := if pos < 2 ^ 32 then pos else 0x80000000 + (pos - 2 ^ 32)

/-- The 32 bytes of a record. -/
def recordBytes (gen kind code op tag ctx pos detail addr elapsed q : Nat) : List Byte :=
  leBytes 1 gen ++ leBytes 1 kind ++ leBytes 1 code ++ leBytes 1 op ++ leBytes 2 tag ++ leBytes 2 ctx ++ leBytes 4 pos
    ++ leBytes 4 detail ++ leBytes 8 addr ++ leBytes 4 elapsed ++ leBytes 2 q ++ leBytes 2 0

/-! Stops (R264). -/

/-- A queue stops with a cause and a response code. -/
def Dev.stopQueue (s : Dev) (q cause resp : Nat) : Dev :=
  ((s.setFld F.Q_STATUS_STATE q 3).setFld F.Q_STATUS_CAUSE q cause).setFld F.Q_STATUS_RESPONSE q resp

/-- QUEUE_STOPPED: CAUSE, the response code for a ring access, the address. -/
def stoppedRec (cause resp addr : Nat) : EvRec := ⟨3, cause + (if cause = 4 then resp * 256 else 0), addr⟩

/-! Tiles out of a queue. -/

/-- The tiles of a descriptor or chain on engines. -/
def Dev.startedTiles (s : Dev) (q pos : Nat) : List Nat :=
  s.engs.filterMap (fun e => if e.2.q = q ∧ e.2.pos = pos then some e.2.ix else none)
    ++ s.arrays.filterMap (fun e => if e.2.tile.q = q ∧ e.2.tile.pos = pos then some e.2.tile.ix else none)

/-- The tiles of a descriptor or chain in deques and table queues. -/
def Dev.queuedTiles (s : Dev) (q pos : Nat) : List Nat :=
  (s.deques ++ s.tableQs).flatMap (fun e => e.2.filterMap (fun (t : Tile) => if t.q = q ∧ t.pos = pos then some t.ix else none))

/-- Some tile of a queue is on an engine. -/
def Dev.queueStarted (s : Dev) (q : Nat) : Bool := s.engs.any (fun e => e.2.q == q) || s.arrays.any (fun e => e.2.tile.q == q)

/-- Unstarted tiles of a queue whose descriptors meet a test withdrawn from every deque and table queue. -/
def Dev.withdraw (s : Dev) (q : Nat) (p : Nat → Bool) : Dev :=
  let stay := fun (t : Tile) => !(t.q == q && p t.pos)
  let s := s.deques.foldl (fun s e => if e.2.all stay then s else s.setDeque e.1 (e.2.filter stay)) s
  { s with tableQs := s.tableQs.map (fun e => (e.1, e.2.filter stay)) }

/-- Stopped descriptors whose started tiles have ended take the status they end with; DETAIL of a discarded one, or one past a
switch, is the count of its finished tiles. -/
def Dev.reap (s : Dev) (q : Nat) : Dev :=
  s.mapDescs q (fun d => match d.stopped, d.status with
    | some st, none =>
      if (s.startedTiles q d.head).isEmpty then
        { d with status := some st, detail := if st = 0x14 ∨ st = 0x0A then d.finCount else d.detail }
      else d
    | _, _ => d)

/-- The event that closes a fault or disable procedure joins the records once every descriptor's record has (R300, R302). -/
def Dev.closeProc (s : Dev) (c : Nat) : Dev :=
  let x := s.cx c
  let q := s.ctxQueue c
  let due := match x.proc with | .fault | .disable _ => true | _ => false
  if due && !x.closed && (s.queue q).inflight.all (·.queued) then
    let pos := match x.saved with
      | some sv => if x.closing.detail / 256 = 0 then s.fld F.Q_POS_HEAD q else (sv.descs.head?.map (·.pos)).getD 0
      | none => s.fld F.Q_POS_HEAD q
    (s.setCx c { x with closed := true }).pushRec q [.event x.closing (recPos pos) 0]
  else s

/-- A logical array gives up its tile without a rerun: sums discarded, event set, IDLE (R143, R148). -/
def Dev.dropArray (s : Dev) (a : Nat) : Dev :=
  match SMap.find s.arrays a with
  | none => s
  | some r =>
    let s := (s.endHeld a r).setArrayState a 1 none
    let s := (s.members a).foldl (fun s m => s.setFlag F.MXA_EVENT_TILE_ABANDONED m true) s
    { s with arrays := SMap.del s.arrays a, xfail := SMap.del s.xfail a }

/-- The HELD tiles of a queue, of descriptors that meet a test, abandoned without rerun. -/
def Dev.dropHeld (s : Dev) (q : Nat) (p : Nat → Bool) : Dev :=
  s.arrays.foldl (fun s e => if e.2.tile.q = q ∧ p e.2.tile.pos ∧ e.2.held.isSome then s.dropArray e.1 else s) s

/-- Every accepted descriptor of a queue that meets a test and has not settled is to end with a status; its unstarted tiles are
withdrawn and its HELD tiles abandoned. A hurdle that has passed keeps its status. -/
def Dev.stopDescs (s : Dev) (q : Nat) (p : Desc → Bool) (st : Nat) : Dev :=
  let heads := ((s.queue q).inflight.filter p).map (·.head)
  let s := s.mapDescs q (fun d =>
    if p d && d.status.isNone && (d.stopped.isNone || d.stopped == some 0x0A) then { d with stopped := some st } else d)
  ((s.withdraw q heads.contains).dropHeld q heads.contains).reap q

/-! MSI-X (R473). -/

def Dev.fn (s : Dev) (f : Nat) : PciFn := SMap.get s.pci.fns .init f
def Dev.setFn (s : Dev) (f : Nat) (x : PciFn) : Dev := { s with pci := { s.pci with fns := SMap.set s.pci.fns f x } }

/-- A vector of a function raised: sent where Bus Master Enable is set and the vector unmasked, else its Pending Bit is set. -/
def Dev.msixRaise (s : Dev) (f v : Nat) : Dev :=
  let x := s.fn f
  if x.bme && x.open_.contains v then s.emit (.msix f v)
  else if x.pend.contains v then s else s.setFn f { x with pend := x.pend ++ [v] }

/-- PART_STATUS.STATE changes: PF0 vector 0. -/
def Dev.setPartState (s : Dev) (p v : Nat) : Dev :=
  if s.partState p = v then s else (s.setFld F.PART_STATUS_STATE p v).msixRaise 0 0

/-- A vault leaves RUN (R479, R481): UNSEALED in both channels, its keys, ledger and operation discarded without a trailer. -/
def Dev.unseal (s : Dev) (p : Nat) : Dev :=
  if !s.isVault p then s
  else
    let x := SMap.get s.vaults .init p
    let s := { s with vaults := SMap.set s.vaults p { x with serial := 0, rtagKey := [], vaultKey := [], op := none },
                      gxGuard := SMap.del s.gxGuard p, memKeys := SMap.del s.memKeys p }
    let s := (s.setFld F.GX_STATUS_STATE p 0).setFld F.GXB_STATUS_STATE p 0
    ((s.setFld F.GX_LEDGER_REMAINING p 0).setFld F.GXB_LEDGER_REMAINING p 0).setFlag F.GX_CTRL_GO p false

/-! Partitions: the entry to QUIESCE (R281, R301). -/

/-- A RUN partition enters QUIESCE with the cause of its reset: fetch and issue stop, unstarted tiles are withdrawn. -/
def Dev.partQuiesce (s : Dev) (p cause : Nat) : Dev :=
  if !s.partRuns p then s
  else
    let s := (s.setPartState p 3).unseal p
    let x := s.partSt p
    let esc := cause == 2 || cause == 3
    let s := s.setPartSt p { x with cause := cause, resetAt := some s.time, escs := if esc then x.escs ++ [s.time] else x.escs }
    let qs := (s.queues.map (·.1)).filter (fun q => s.partOfQueue q == some p)
    qs.foldl (fun s q => s.withdraw q (fun _ => true)) s

/-- A report of class PARTITION for a reset (R518), made by MGMT, which holds the partition's registers. -/
def Dev.reportPart (s : Dev) (p code detail : Nat) : Dev :=
  s.report ⟨3, 9, some p, 23, code, none, 0, detail⟩

/-- R301: a partition escalates. -/
def Dev.escalate (s : Dev) (p cause : Nat) : Dev := if s.partRuns p then (s.partQuiesce p cause).reportPart p cause 0 else s

/-! Contexts stopped (R300, R302). -/

/-- A context's procedure stops its queue's work: descriptors end DISCARDED, page requests answer XLATE without effect. -/
def Dev.stopContext (s : Dev) (c : Nat) (closing : EvRec) (proc : Proc) : Dev :=
  let q := s.ctxQueue c
  let x := s.cx c
  let s := s.setCx c { x with proc := proc, procStart := s.time, closed := false, closing := closing, pacer := { x.pacer with armed := false } }
  let s := (s.setFlag F.CTX_PACE_ARM c false).setFlag F.CTX_STATE_DRAINED c false
  let s := s.setQueue q { s.queue q with fetched := [], fallback := none }
  let s := match s.partOfCtx c with | some p => s.prDropCtx p c | none => s
  (s.stopDescs q (fun _ => true) 0x14).closeProc c

/-! Ends of tiles. -/

/-- A tile or a hurdle of a phase class counted in its region for the signature of the epoch (R511). -/
def Dev.phaseCount (s : Dev) (g k : Nat) : Dev :=
  { s with pwr := { s.pwr with phase := SMap.set s.pwr.phase (8 * g + k) (SMap.get s.pwr.phase 0 (8 * g + k) + 1) } }

/-- A tile is finished: in its descriptor, or in every member of its chain; a descriptor whose tiles are all finished settles with
the status its results give it. -/
def Dev.tileFinished (s : Dev) (t : Tile) : Dev :=
  (s.mapDescs t.q (fun d =>
    if d.head = t.pos then
      let d := d.finish t.ix
      if d.base ≥ d.tiles && d.status.isNone && d.stopped.isNone then
        let k := kindOfOp d.op
        { d with status := some (if d.detail = 0 then 0
            else if k = .cde ∨ k = .mve then 2 else if k = .spe then 1 else 0) }
      else d
    else d)).reap t.q

/-! The pacer (R296–R299). -/

/-- A position lies in the armed window. -/
def Pacer.holds (x : Pacer) (pos : Nat) : Bool := decide (pos < 2 ^ 32) && decide (sub32 pos x.pStart < sub32 x.pEnd x.pStart)

/-- est_left of R297. -/
def Dev.estLeft (s : Dev) (c : Nat) : Nat :=
  let x := (s.cx c).pacer
  let part := ((s.queue (s.ctxQueue c)).inflight.filter (fun d => x.holds d.pos)).foldl
    (fun n d => n + (if d.tiles = 0 then 0 else d.est * d.finCount / d.tiles)) 0
  x.workEst - (x.credit + part)

/-- The longest HELD period of a context's tiles so far, in CK_SLOW cycles. -/
def Dev.heldNow (s : Dev) (c : Nat) : Nat :=
  s.arrays.foldl (fun n e => match e.2.held with
    | some t => if s.ctxOfQueue e.2.tile.q = c then max n (s.time - t) else n
    | none => n) 0

/-- The pacer disarms. -/
def Dev.disarm (s : Dev) (c : Nat) : Dev :=
  (s.setCx c { s.cx c with pacer := { (s.cx c).pacer with armed := false } }).setFlag F.CTX_PACE_ARM c false

/-- R299: the switch. A false start past the window ends with it too: fetch leaves its slot for the fallback list, and judges it anew when it
resumes at P_END (DEDUCED, log entry 106). -/
def Dev.pacerSwitch (s : Dev) (c left pred : Nat) : Dev :=
  let q := s.ctxQueue c
  let x := (s.cx c).pacer
  let s := (s.disarm c).count F.CTX_PACE_STATUS_SWITCHES c 1
  let s := s.event q ⟨0x22, min left 0xFFFFFFFF, pred⟩
  let s := s.stopDescs q (fun d => x.holds d.pos) 0x0A
  let s := s.setFld F.Q_POS_HEAD q x.pEnd
  let tail := s.fld F.Q_POS_TAIL q
  let s := if sub32 tail x.pEnd ≥ 2 ^ 31 then s.setFld F.Q_POS_TAIL q x.pEnd else s
  let s := if s.queueState q = 2 then s.setFld F.Q_STATUS_STATE q 1 else s
  s.setQueue q { s.queue q with fetched := [], fallback := some ⟨0, x.slots, x.base⟩, fstart := none }

/-- An evaluation: completion of the window, then the deadline, then risk (R298). -/
def Dev.pacerEval (s : Dev) (c : Nat) : Dev :=
  let x := (s.cx c).pacer
  if !x.armed then s
  else
    let q := s.ctxQueue c
    let now := s.time - x.t0
    let done := sub32 (s.fld F.Q_POS_HEAD q) x.pStart ≥ sub32 x.pEnd x.pStart && !(s.queue q).inflight.any (fun d => x.holds d.pos)
    let left := s.estLeft c
    let pred := now + left * s.fld F.CTX_PACE_STATUS_RHO c / 256 + s.heldNow c
    if done then (s.disarm c).count F.CTX_PACE_STATUS_MET c 1
    else if now ≥ x.deadline then
      ((s.disarm c).event q ⟨0x24, min left 0xFFFFFFFF, 0⟩).count F.CTX_PACE_STATUS_MISSED c 1
    else if pred > x.deadline - x.margin then
      if x.slots ≠ 0 then s.pacerSwitch c left pred
      else if x.riskSent then s
      else (s.event q ⟨0x23, min left 0xFFFFFFFF, pred⟩).setCx c { s.cx c with pacer := { x with riskSent := true } }
    else s

/-- The measurement of a completed descriptor (R297). -/
def Dev.pacerMeasure (s : Dev) (c : Nat) (d : Desc) (prev : Nat) : Dev :=
  let x := (s.cx c).pacer
  let st := d.status.getD 0
  let x' := if x.armed && x.holds d.pos then { x with credit := x.credit + d.est } else x
  if d.est = 0 || st > 8 then s.setCx c { s.cx c with pacer := x' }
  else
    let svc := s.time - max d.accepted prev
    let r := min (svc * 256 / d.est) 0xFFFF
    let n := x'.n + 1
    let rho := s.fld F.CTX_PACE_STATUS_RHO c
    let s := s.setCx c { s.cx c with pacer := { x' with n := n, sum := if n < 4 then x'.sum + r else x'.sum } }
    if n = 4 then (s.setFld F.CTX_PACE_STATUS_RHO c ((x'.sum + r) / 4)).setFlag F.CTX_PACE_STATUS_MEASURED c true
    else if n > 4 then s.setFld F.CTX_PACE_STATUS_RHO c ((rho : Int) + ((r : Int) - rho) / 8).toNat
    else s

/-! Preemption (R289–R291). -/

/-- The preemption procedure begins for a RUNNING context with a save area: issue stops and unstarted tiles are withdrawn. A restore in
progress ends: its descriptors are as they were saved. -/
def Dev.preempt (s : Dev) (c : Nat) (hold : Bool) : Dev :=
  let x := s.cx c
  if s.ctxState c != 2 || s.fld F.CTX_SAVE_BASE c == 0 then s
  else match x.proc with
    | .none | .restore => (s.setCx c { x with proc := .preempt hold, procStart := s.time, late := false }).withdraw (s.ctxQueue c) (fun _ => true)
    | .preempt _ => if hold then s.setCx c { x with proc := .preempt true } else s
    | _ => s

/-- The contexts of a partition in RUNNING. -/
def Dev.runningOf (s : Dev) (p : Nat) : List Nat :=
  match s.partRec p with
  | some r => ((List.range r.ctxCount).map (r.ctxBase + ·)).filter (fun c => s.ctxState c == 2)
  | none => []

def Dev.priority (s : Dev) (c : Nat) : Nat := s.fld F.CTX_CTRL_PRIORITY c

/-- A context newly eligible while every slot is taken preempts the RUNNING context of lowest strictly lower priority, of those
the one that has run longest in its lap (R289); a context without a save area is never preempted (R284). While a save runs, it takes
the slot that the save gives up (R304). -/
def Dev.priorityPreempt (s : Dev) (p c : Nat) : Dev :=
  let run := s.runningOf p
  let saves := run.any (fun v => match (s.cx v).proc with | .preempt _ => true | _ => false)
  if run.length < s.fld F.PART_LAP_RUN_MAX p || saves then s
  else
    let cand := run.filter (fun v => decide (s.priority v < s.priority c) && s.fld F.CTX_SAVE_BASE v != 0)
    match cand with
    | [] => s
    | v0 :: vs =>
      let better := fun (a b : Nat) => decide (s.priority b < s.priority a)
        || (s.priority b == s.priority a && decide ((s.cx b).lapStart < (s.cx a).lapStart))
      s.preempt (vs.foldl (fun a b => if better a b then b else a) v0) false

/-- A queue has work (R283). -/
def Dev.hasWork (s : Dev) (q : Nat) : Bool := s.fld F.Q_POS_HEAD q != s.fld F.Q_POS_TAIL q || !(s.queue q).inflight.isEmpty

/-- What follows from a change of a context's work or state: WORK, IN_FLIGHT, the release of a slot without work, eligibility
(R283, R284, R289). -/
def Dev.settle (s : Dev) (c : Nat) : Dev :=
  if !s.bound c then s
  else
    let q := s.ctxQueue c
    let work := s.hasWork q
    let s := (s.setFlag F.CTX_STATE_WORK c work).setFld F.Q_STATUS_IN_FLIGHT q (s.queue q).inflight.length
    let s := if s.ctxState c == 2 && !work && decide ((s.cx c).proc = .none) then s.setFld F.CTX_STATE_STATE c 1 else s
    let disabling := match (s.cx c).proc with | .disable _ => true | _ => false
    let el := ((s.ctxState c == 1 && work) || s.ctxState c == 3) && !disabling
    let x := s.cx c
    match s.partOfCtx c with
    | none => s
    | some p =>
      let s := match el, x.eligible with
        | true, none => (s.setCx c { x with eligible := some s.time }).priorityPreempt p c
        | false, some _ => s.setCx c { x with eligible := none }
        | _, _ => s
      s.setFld F.PART_STATUS_RUNNING p (s.runningOf p).length

/-! Disable (R302). -/

/-- The disable procedure begins for a trigger. -/
def Dev.disableCtx (s : Dev) (c trigger : Nat) : Dev :=
  let already := match (s.cx c).proc with | .disable _ => true | _ => false
  if s.ctxState c == 0 || already then s else (s.stopContext c ⟨0x21, trigger, 0⟩ (.disable trigger)).settle c

/-- Nothing of a faulted or disabled context is in flight and its records are written: DRAINED is set; a disabled context is FREE
and its queue DISABLED; an MSI that HOLDOFF has deferred is still sent (R278). -/
def Dev.drained (s : Dev) (c : Nat) : Dev :=
  let x := s.cx c
  let q := s.ctxQueue c
  let st := s.queue q
  if !x.closed || !st.inflight.isEmpty || !st.records.isEmpty || s.queueStarted q || !s.queueRuns q then s
  else match x.proc with
    | .fault => (s.setFlag F.CTX_STATE_DRAINED c true).setCx c { x with proc := .none, saved := none }
    | .disable t =>
      let s := (s.setFlag F.CTX_STATE_DRAINED c true).setCx c .init
      let s := ((s.setFld F.Q_STATUS_STATE q 0).setFlag F.Q_CFG_ENABLE q false).setQueue q
        { QueueSt.init with lastMsi := st.lastMsi, msiPend := st.msiPend }
      let s := (((s.setFld F.CTX_STATE_STATE c 0).setFlag F.CTX_STATE_BOUND c false).setFld F.CTX_STATE_QUEUE c 0).setFld F.CTX_STATE_DISABLE_CAUSE c t
      let s := s.setFlag F.CTX_STATE_WORK c false
      match s.partOfCtx c with
      | some p => s.setFld F.PART_STATUS_RUNNING p (s.runningOf p).length
      | none => s
    | _ => s

end Sys2Proof.Machine
end

