-- ==== Sys2Proof/Machine/PortSend.lean ====
section
/-! DEFINITION. Packets of the optical fabric and their sending over a port (R419–R430, R433): roles, headers, credits, frames. -/

namespace Sys2Proof.Machine

open Sys2Proof

def Dev.port (s : Dev) (f : Nat) : PortSt := SMap.get s.ports .init f
def Dev.setPort (s : Dev) (f : Nat) (x : PortSt) : Dev := { s with ports := SMap.set s.ports f x }
def Dev.portState (s : Dev) (f : Nat) : Nat := s.fld F.PORT_STATUS_STATE f
def Dev.portUp (s : Dev) (f : Nat) : Bool := decide (2 ≤ s.portState f ∧ s.portState f ≤ 4)
def Dev.portServes (s : Dev) (f : Nat) : Bool := s.flag F.PORT_STATUS_IN_SERVICE f
def portDie (f : Nat) : Nat := 9 + f / 24

/-- A fabric parameter, with its default (R453). -/
def Dev.fabParam (s : Dev) (i : Nat) : Nat :=
  SMap.get s.fab.params (match i with | 4 => 3 | 5 => 64 | 6 => 100000000 | 8 => 512 | 9 => 200000 | 10 => 10000 | _ => 0) i

/-- The role of a fabric port: 0 unused, 1 local, 2 global (R419). -/
def Dev.portRole (s : Dev) (f : Nat) : Nat :=
  if f < 16 then 1 else if f < 24 then 2 else if f < 39 then 1 else if f < 47 then 2 else s.fabParam 3

/-- The device's DISC_ID. -/
def Dev.disc (s : Dev) : Nat := s.fld F.FAB_DISC_ID_DISC_ID 0

/-! Packets as byte strings (R424). -/

abbrev Pkt := List Byte
def pktType (p : Pkt) : Nat := fieldAt p 0 1
def pktLen (p : Pkt) : Nat := bitsOf (fieldAt p 1 1) 0 4
def pktHop (p : Pkt) : Nat := bitsOf (fieldAt p 2 1) 0 3
def pktHops (p : Pkt) : Nat := bitsOf (fieldAt p 2 1) 3 3
def pktClass (p : Pkt) : Nat := bitsOf (fieldAt p 2 1) 6 2
def pktSrc (p : Pkt) : Nat := bitsOf (fieldAt p 4 2) 0 10
def pktDst (p : Pkt) : Nat := bitsOf (fieldAt p 6 2) 0 10
def pktRoute (p : Pkt) (i : Nat) : Nat := bitsOf (fieldAt p 8 5) (6 * i) 6
def pktLines (p : Pkt) : Nat := bitsOf (fieldAt p 0xD 1) 0 2 + 1
def pktSealed (p : Pkt) : Bool := bitOf (fieldAt p 0xD 1) 3
def pktJob (p : Pkt) : Nat := fieldAt p 0xE 2
def pktAddr (p : Pkt) : Nat := fieldAt p 0x10 6
def pktTxn (p : Pkt) : Nat := fieldAt p 0x18 4
/-- The data granules of a packet. -/
def pktData (p : Pkt) : List Byte := p.drop 32
def granule (p : Pkt) (i : Nat) : List Byte := bytesAt p (32 * (i + 1)) 32

/-- The virtual channel that a packet takes on its hop (R426). -/
def pktVc (p : Pkt) : Nat := if pktClass p = 2 then 12 else 6 * pktClass p + pktHop p

/-- A control packet with its data granules. -/
def ctlPkt (type : Nat) (src : Nat) (data : List Byte) : Pkt :=
  leBytes 1 type ++ leBytes 1 (ceilDiv data.length 32) ++ leBytes 1 0x80 ++ leBytes 1 0 ++ leBytes 2 src ++ List.replicate 26 0
    ++ bytesAt data 0 (32 * ceilDiv data.length 32)

/-- The width of the operand of an integer atomic: its enables are one naturally aligned 4- or 8-byte field (R444). -/
def atomWidth (mask : Nat) : Option Nat :=
  if (List.range 16).any (fun i => mask == 0xF * 2 ^ (4 * i)) then some 4
  else if (List.range 8).any (fun i => mask == 0xFF * 2 ^ (8 * i)) then some 8 else none

/-- Enables of a floating-point atomic name whole elements of w bytes. -/
def wholeElements (mask w : Nat) : Bool :=
  mask != 0 && (List.range (64 / w)).all (fun e => bitsOf mask (w * e) w == 0 || bitsOf mask (w * e) w == 2 ^ w - 1)

/-- The operation of an ATOMIC packet and whether its enables fit (R444). -/
def atomFits (op mask : Nat) : Bool :=
  if op ≤ 8 then (atomWidth mask).isSome else if op = 16 ∨ op = 17 then wholeElements mask 2 else op == 18 && wholeElements mask 4

/-- The header of a packet is well formed (R424, R425, R444, R446). -/
def Dev.headerOk (s : Dev) (p : Pkt) : Bool :=
  let t := pktType p
  let len := pktLen p
  let cls := pktClass p
  let n := pktLines p
  let ctl := decide (0x20 ≤ t)
  let req := decide (t < 0x10)
  let lens := match t with
    | 1 => len == 0 | 2 => len == 2 * n | 3 | 4 => len == 3 && n == 1 | 0x10 => len == 0 | 0x11 => len == 2 * n
    | 0x20 | 0x22 | 0x24 => len == 1 | 0x21 | 0x23 => decide (1 ≤ len ∧ len ≤ 8) | 0x25 => len == 0 | _ => false
  let op := fieldAt p 3 1
  let zero := fun o k => allZero (bytesAt p o k)
  lens && bitsOf (fieldAt p 1 1) 4 4 == 0 && cls == (if ctl then 2 else if req then 0 else 1)
    && (if ctl then pktHops p == 0 && zero 8 6 && zero 0xE 18
        else decide (1 ≤ pktHops p ∧ pktHops p ≤ 6 ∧ pktHop p < pktHops p)
          && (List.range (pktHops p)).all (fun i => s.portRole (pktRoute p i) != 0 && decide (pktRoute p i < 48))
          && bitsOf (fieldAt p 8 5) 36 4 == 0 && bitsOf (pktAddr p) 0 6 == 0 && bitsOf (pktAddr p) 45 3 == 0
          && decide (pktAddr p % 256 + 64 * n ≤ 256))
    && (t == 4 || bitsOf op 2 6 == 0) && bitsOf (fieldAt p 4 2) 10 6 == 0 && bitsOf (fieldAt p 6 2) 10 6 == 0
    && bitsOf (fieldAt p 0xD 1) 4 4 == 0 && (!req || zero 0x16 2) && (req || zero 0x1C 2)
    && bitsOf (fieldAt p 0x1C 2) 12 4 == 0 && zero 0x1E 2
    && (t != 3 && t != 4 || zero (32 + 8) 24)
    && (t != 4 || atomFits (bitsOf op 2 6) (fieldAt p 32 8))

/-! Credits (R429). -/

/-- The credits a round trip sizes: shared, dedicated, control, replay. -/
def creditSizes (rtt : Nat) : Nat × Nat × Nat × Nat :=
  let need := ceilDiv (rtt * 200) 221 + 128
  let ded := (16128 - need) / 12
  (need, ded, 256 + (16128 - need - 12 * ded), ceilDiv ((rtt + 64) * 25) 442 + 4)

/-- Credits a channel owns alone at a port. -/
def Dev.ownCredits (s : Dev) (f vc : Nat) : Nat := if vc = 12 then s.fld F.PORT_CREDIT_CONTROL f else s.fld F.PORT_CREDIT_DEDICATED f

/-- Granules of a packet taken from the credits of its channel, then from the pool: none where they do not suffice. -/
def Dev.takeCredits (s : Dev) (f vc n : Nat) : Option Dev :=
  let x := s.port f
  let used := x.used.getD vc 0
  let own := min n (s.ownCredits f vc - used)
  if x.pool + (n - own) ≤ s.fld F.PORT_CREDIT_SHARED f then
    some (s.setPort f { x with used := x.used.set vc (used + own), pool := x.pool + (n - own) })
  else none

/-! Sending (R423, R430, R433). -/

/-- The next key of a direction (R433). -/
def DirKey.rekey (k : DirKey) : DirKey :=
  { k with key := kdf k.key "OCT-FAB-REKEY" (leBytes 4 (k.num + 1)) 32, num := k.num + 1, ctr := 0, epoch := !k.epoch }

/-- The sender's key moves on after 2^28 frames. -/
def Dev.rekeyPort (s : Dev) (f : Nat) : Dev :=
  let x := s.port f
  if x.tx.ctr ≥ 2 ^ 28 then (s.setPort f { x with tx := x.tx.rekey }).count F.PORT_COUNTS_REKEYS f 1 else s

/-- The credits that the next frame returns: one channel's own and the pool's, in word 1 (R423). -/
def PortSt.returns (x : PortSt) : Nat × PortSt :=
  let vc := ((List.range 13).find? (fun v => x.owed.getD v 0 != 0)).getD 0
  let n := min (x.owed.getD vc 0) 4095
  let sh := min x.owedPool 65535
  (vc + n * 16 + sh * 65536, { x with owed := x.owed.set vc (x.owed.getD vc 0 - n), owedPool := x.owedPool - sh })

/-- A frame as it goes out: plaintext for control frames of training, else enciphered under the next counter. -/
def Dev.emitFrame (s : Dev) (f : Nat) (fr : SentFrame) : Dev :=
  let s := if fr.kind = 2 then s else s.rekeyPort f
  let x := s.port f
  let w0 := fr.seq + x.lastAcc * 2 ^ 16 + (if x.naking then 2 ^ 32 else 0) + fr.kind * 2 ^ 33
  if fr.kind = 2 then s.emit (.frame f (leBytes 8 w0 ++ List.replicate 24 0 ++ fr.body))
  else
    let w0 := w0 + (if x.tx.epoch then 2 ^ 35 else 0) + x.tx.ctr * 2 ^ 36
    let r := x.returns
    let head := leBytes 8 w0 ++ leBytes 8 r.1
    let sealed := gcmSeal x.tx.key (x.tx.salt ++ leBytes 8 x.tx.ctr) head fr.body
    (s.setPort f { r.2 with tx := { x.tx with ctr := x.tx.ctr + 1 } }).emit (.frame f (head ++ sealed.2 ++ sealed.1))

/-- An idle frame, which carries the acknowledgement, the NAK and the credits returned (R430). -/
def Dev.idleFrame (s : Dev) (f : Nat) : Dev :=
  if s.portUp f then s.emitFrame f ⟨(s.port f).nextSeq, 1, List.replicate 512 0, []⟩ else s

/-- One packet sent in a payload frame of its own, filler after it. -/
def Dev.sendFrame (s : Dev) (f : Nat) (p : Pkt) : Dev :=
  let x := s.port f
  let fr : SentFrame := ⟨x.nextSeq, 0, bytesAt p 0 512, [p]⟩
  (s.setPort f { x with nextSeq := (x.nextSeq + 1) % 65536, replay := x.replay ++ [fr] }).emitFrame f fr

/-- Packets waiting at a port go out in order of each channel while credits and the replay window last. -/
def Dev.pumpPort (s : Dev) (f : Nat) : Nat → Dev
  | 0 => s
  | n + 1 =>
    let x := s.port f
    if !s.portUp f || x.replay.length ≥ s.fld F.PORT_CREDIT_REPLAY f then s
    else
      let head := fun (p : Pkt) => (x.queue.find? (fun q => pktVc q == pktVc p)) == some p
      match takeFirst (fun p => head p && (s.takeCredits f (pktVc p) (1 + pktLen p)).isSome) x.queue with
      | none => s
      | some (p, rest) =>
        match (s.setPort f { x with queue := rest }).takeCredits f (pktVc p) (1 + pktLen p) with
        | none => s
        | some s => (s.sendFrame f p).pumpPort f n

/-- A packet sent over a port: held with the others while the port is out of service (R442). -/
def Dev.sendOn (s : Dev) (f : Nat) (p : Pkt) : Dev :=
  let x := s.port f
  if x.heldAt.isSome then s.setPort f { x with held := x.held ++ [(none, p)] }
  else
    let s := s.setPort f { x with queue := x.queue ++ [p] }
    s.pumpPort f (x.queue.length + 1)

/-- A control packet on every in-service port but one. -/
def Dev.flood (s : Dev) (p : Pkt) (but : Option Nat) : Dev :=
  (List.range 48).foldl (fun s f => if s.portServes f && some f != but then s.sendOn f p else s) s

end Sys2Proof.Machine
end

