-- ==== Sys2Proof/Machine/Dnf.lean ====
section
/-! DEFINITION. Jobs of the fabric and their abort (R443, R450, R451); faults of contexts (R300, R301), which may abort a job. -/

namespace Sys2Proof.Machine

open Sys2Proof

/-! Job entries (R443). -/

/-- An entry is valid and not ABORTED. -/
def Dev.jobLive (s : Dev) (j : Nat) : Bool := s.flag F.JOB_CFG_VALID j && !s.flag F.JOB_CFG_ABORTED j
/-- A device is a member of an entry. -/
def Dev.jobMember (s : Dev) (j n : Nat) : Bool := bitOf (s.reg .JOB_MEMBERS (16 * j + n / 64)).toNat (n % 64)
/-- A context lies in an entry's range. -/
def Dev.jobRange (s : Dev) (j c : Nat) : Bool :=
  decide (s.fld F.JOB_RANGE_CTX_FIRST j ≤ c ∧ c < s.fld F.JOB_RANGE_CTX_FIRST j + s.fld F.JOB_RANGE_CTX_COUNT j)

/-! DNF (R451). -/

/-- A DNF as its data granule: JOB, ORIGIN, EPOCH, REASON, TTL, DETAIL. -/
structure Dnf where
  job    : Nat
  origin : Nat
  epoch  : Nat
  reason : Nat
  ttl    : Nat
  detail : Nat

def Dnf.bytes (d : Dnf) : List Byte :=
  leBytes 2 d.job ++ leBytes 2 d.origin ++ leBytes 4 d.epoch ++ leBytes 1 d.reason ++ leBytes 1 d.ttl ++ leBytes 2 d.detail
    ++ List.replicate 20 0

def dnfOf (g : List Byte) : Dnf := ⟨fieldAt g 0 2, fieldAt g 2 2, fieldAt g 4 4, fieldAt g 8 1, fieldAt g 9 1, fieldAt g 10 2⟩

/-- The bound contexts of an entry's range disabled, as DISABLE written to their CTX_CTRL (R302). -/
def Dev.disableJob (s : Dev) (j : Nat) : Dev :=
  ((List.range 4096).filter (fun c => s.jobRange j c && s.bound c)).foldl (fun s c => s.disableCtx c 2) s

/-- A DNF raised or received: forwarded with TTL lowered unless it has been, and acted on where an entry matches. -/
def Dev.dnfTake (s : Dev) (d : Dnf) (from_ : Option Nat) : Dev :=
  let s := if d.ttl ≤ 1 ∨ s.fab.dnfs.contains (d.job, d.epoch) then s
    else
      let s := s.flood (ctlPkt 0x24 (s.fld F.FAB_SELF_DEVICE_ID 0) { d with ttl := d.ttl - 1 }.bytes) from_
      let l := s.fab.dnfs ++ [(d.job, d.epoch)]
      { s with fab := { s.fab with dnfs := l.drop (l.length - 256) } }
  match (List.range 64).find? (fun j => s.jobLive j && s.fld F.JOB_CFG_JOB j == d.job && s.fld F.JOB_CFG_EPOCH j == d.epoch) with
  | none => s
  | some j =>
    let s := s.setFlag F.JOB_CFG_ABORTED j true
    let s := (s.setFld F.FAB_DNF_LAST_JOB 0 d.job).setFld F.FAB_DNF_LAST_ORIGIN 0 d.origin
    let s := (s.setFld F.FAB_DNF_LAST_REASON 0 d.reason).setFld F.FAB_DNF_LAST_DETAIL 0 d.detail
    (s.count F.FAB_DNF_LAST_COUNT 0 1).disableJob j

/-- A DNF raised for a valid entry (R450). -/
def Dev.dnfRaise (s : Dev) (j reason detail : Nat) : Dev :=
  if s.flag F.JOB_CFG_VALID j then
    s.dnfTake ⟨s.fld F.JOB_CFG_JOB j, s.fld F.FAB_SELF_DEVICE_ID 0, s.fld F.JOB_CFG_EPOCH j, reason, 8, detail⟩ none
  else s

/-- A context has entered FAULTED or TORN: a DNF for each entry with DNF_ON_FAULT whose range holds it. -/
def Dev.dnfOnFault (s : Dev) (c : Nat) : Dev :=
  ((List.range 64).filter (fun j => s.flag F.JOB_CFG_VALID j && s.flag F.JOB_CFG_DNF_ON_FAULT j && s.jobRange j c)).foldl
    (fun s j => s.dnfRaise j 3 c) s

/-! Faults of contexts (R300). -/

/-- FAULT_LIMIT context faults within FAULT_WINDOW escalate (R301). -/
def Dev.countFault (s : Dev) (p : Nat) : Dev :=
  let win := s.fld F.PART_ESC_FAULT_WINDOW p
  let lim := s.fld F.PART_ESC_FAULT_LIMIT p
  let fs := ((s.partSt p).faults ++ [s.time]).filter (fun t => decide (s.time < t + win))
  let s := s.setPartSt p { s.partSt p with faults := fs }
  if lim ≠ 0 && fs.length ≥ lim then s.escalate p 3 else s

/-- A context faults with a cause: its state is FAULTED or TORN at once, and a job that asks for it is aborted (R450). The fault procedure takes
over from any procedure in progress (R304), but a tile torn while a disable procedure runs changes no state (R284). In FAULTED or TORN
the state stays. -/
def Dev.fault (s : Dev) (c cause resp addr savedCount : Nat) : Dev :=
  let st := s.ctxState c
  let x := s.cx c
  let disabling := match x.proc with | .disable _ => true | _ => false
  if st = 0 ∨ st = 5 ∨ st = 6 then s
  else
    let s := ((s.setFld F.CTX_FAULT_CAUSE c cause).setFld F.CTX_FAULT_RESPONSE c resp).setFld F.CTX_FAULT_ADDR_ADDRESS c addr
    let q := s.ctxQueue c
    let s := s.report ⟨2, q / 512, s.partOfCtx c, 1, cause, some c, addr, q⟩
    if disabling && cause == 4 then s
    else
      let s := s.setFld F.CTX_STATE_STATE c (if cause = 4 then 6 else 5)
      let s := s.stopContext c ⟨0x20, cause + savedCount * 256, addr⟩ .fault
      let s := match s.partOfCtx c with
        | some p => s.countFault p
        | none => s
      s.dnfOnFault c

/-- A descriptor is to end with its own status, DETAIL and ADDRESS, and its context faults. -/
def Dev.failDesc (s : Dev) (q pos st detail addr cause resp : Nat) : Dev :=
  let s := s.modDesc q pos (fun d =>
    if d.status.isNone && (d.stopped.isNone || st == 0x15) then { d with stopped := some st, detail := detail, address := addr } else d)
  let s := s.reap q
  (s.fault (s.ctxOfQueue q) cause resp addr 0).closeProc (s.ctxOfQueue q)

end Sys2Proof.Machine
end

