-- ==== Sys2Proof/Machine/Complete.lean ====
section
/-! DEFINITION. Tokens and hurdles, completions and their records (R268–R278). -/

namespace Sys2Proof.Machine

open Sys2Proof

/-! Tokens and hurdles (R268–R273). -/

/-- The register of token t of a partition. -/
def Dev.tokenIx (s : Dev) (p t : Nat) : Nat := s.leadRegion p * 4096 + t
def Dev.token (s : Dev) (p t : Nat) : Nat := s.fld F.TOKEN_VALUE (s.tokenIx p t)

/-- TOK_n of a hurdle. -/
def Desc.tok (d : Desc) (n : Nat) : Nat × Nat := (fieldAt d.bytes (0x10 + 8 * n) 2, fieldAt d.bytes (0x14 + 8 * n) 4)

/-- A hurdle's word condition (R269). -/
def hurdleWord (d : Desc) (w : Nat) : Bool :=
  let m := w &&& fieldAt d.bytes 0x40 8
  let v := fieldAt d.bytes 0x38 8
  if fieldAt d.bytes 0x48 1 = 1 then m == v else decide (m ≥ v)

/-- A hurdle passes, ends with a status, or goes on waiting, and a poll's read may fail. -/
def Dev.evalHurdle (s : Dev) (q : Nat) (d : Desc) : Dev :=
  match s.partOfQueue q with
  | none => s
  | some p =>
    let toks := (List.range 4).all (fun n => (d.tok n).1 == 0 || decide (s.token p (d.tok n).1 ≥ (d.tok n).2))
    let addr := fieldAt d.bytes 0x30 8
    let pass := fun (s : Dev) => ((s.ccDropPart p).modDesc q d.pos (fun d => { d with status := some 0 })).phaseCount (q / 128) 7
    if addr = 0 then (if toks then pass s else s)
    else
      let r := runEng s (s.qmId q .hurdle) (readNumE (s.qmId q .hurdle) addr 8 .normal)
      match r.1 with
      | .ok w => if toks && hurdleWord d w then pass r.2 else r.2
      | .error (.wait _) => r.2
      | .error (.err code a) => r.2.failDesc q d.pos 0x11 code.num a 2 code.num

/-- A hurdle that has arrived and still waits. -/
def Desc.waits (d : Desc) : Bool := d.isHurdle && d.arrived.isSome && d.status.isNone && d.stopped.isNone

/-- The hurdles of a partition that name a token re-evaluate. -/
def Dev.tokenChanged (s : Dev) (p t : Nat) : Dev :=
  s.queues.foldl (fun s e =>
    if s.partOfQueue e.1 = some p then
      match (s.queue e.1).inflight.find? (fun d => d.waits && (List.range 4).any (fun n => (d.tok n).1 == t)) with
      | some d => s.evalHurdle e.1 d
      | none => s
    else s) s

/-- A token takes a value. -/
def Dev.setToken (s : Dev) (p t v : Nat) : Dev := (s.setFld F.TOKEN_VALUE (s.tokenIx p t) v).tokenChanged p t

/-- A descriptor's signal (R271). -/
def Dev.applySignal (s : Dev) (q : Nat) (d : Desc) : Dev :=
  match s.partOfQueue q with
  | none => s
  | some p =>
    if d.signal = 0 then s
    else
      let old := s.token p d.signal
      s.setToken p d.signal (if d.flagBit 6 then min (old + d.signalValue) 0xFFFFFFFF else max old d.signalValue)

/-! Completion (R274, R276). -/

/-- A descriptor completes: its signal takes effect, the pacer measures and judges, and the queue goes on. -/
def Dev.complete (s : Dev) (q pos : Nat) : Dev :=
  match s.desc q pos with
  | none => s
  | some d =>
    let c := s.ctxOfQueue q
    let prev := (s.queue q).lastDone
    let s := s.setQueue q { s.queue q with inflight := (s.queue q).inflight.filter (fun x => x.pos != pos), lastDone := s.time }
    let s := if d.status.getD 0 < 8 && !d.isHurdle then s.applySignal q d else s
    ((s.pacerMeasure c d prev).pacerEval c).settle c

/-- An MSI of a queue (R278): at most one in each HOLDOFF interval. -/
def Dev.queueMsi (s : Dev) (q : Nat) : Dev :=
  let id := s.fld F.Q_MSI_CFG_DATA q
  if id = 0 then s
  else
    let st := s.queue q
    let early := match st.lastMsi with | some t => decide (s.time < t + s.fld F.Q_MSI_CFG_HOLDOFF q) | none => false
    if early then s.setQueue q { st with msiPend := true }
    else
      let r := s.sendMsi (s.partOfQueue q) (s.fld F.Q_MSI_ADDR_ADDR q * 4) id
      let s := if r.1 then r.2 else r.2.count F.Q_COUNTS_MSI_DROPPED q 1
      s.setQueue q { s.queue q with lastMsi := some s.time, msiPend := false }

/-- What follows a record's write: the MSI and, for a completion, the completion. -/
def Dev.recordWritten (s : Dev) (q : Nat) (r : CqRec) : Dev :=
  let s := s.setFlag F.Q_STATUS_CQ_FULL q false
  let s := s.setQueue q { s.queue q with cqPos := ((s.queue q).cqPos + 1) % 2 ^ 32, records := (s.queue q).records.tail }
  match r with
  | .event _ _ _ => if s.flag F.Q_MSI_CFG_EVENT_IRQ q then s.queueMsi q else s
  | .completion pos =>
    let msi := match s.desc q pos with | some d => d.irq || decide (d.status.getD 0 ≥ 0x10) | none => false
    (if msi then s.queueMsi q else s).complete q pos

/-- The bytes of a waiting record, at record position n. -/
def Dev.recBytes (s : Dev) (q n : Nat) (r : CqRec) : List Byte :=
  let gen := genOfLap (n / s.cqSlots q)
  let c := s.ctxOfQueue q
  match r with
  | .event e pos op => recordBytes gen 2 e.code op 0 c pos e.detail e.address 0 q
  | .completion pos => match s.desc q pos with
    | some d => recordBytes gen 1 (d.status.getD 0) d.op d.tag c (recPos pos) d.detail d.address (min (s.time - d.accepted) 0xFFFFFFFF) q
    | none => []

/-- The first waiting record is written, if there is room (R276); a write not answered OK stops the queue (R564). -/
def Dev.writeRecord (s : Dev) (q : Nat) : Dev :=
  let st := s.queue q
  let n := st.cqPos
  match st.records with
  | [] => s
  | r :: _ =>
    if !s.queueRuns q || (s.queueState q == 3 && s.fld F.Q_STATUS_CAUSE q == 5) then s
    else if sub32 n (s.fld F.Q_CQ_HEAD_HEAD q) ≥ s.cqSlots q then s.setFlag F.Q_STATUS_CQ_FULL q true
    else
      let id := s.qmId q .record
      let a := s.fld F.Q_CQ_BASE_BASE q * 4096 + n % s.cqSlots q * 32
      let x := runEng s id (writeE a (s.recBytes q n r) .normal)
      match x.1 with
      | .ok _ => x.2.recordWritten q r
      | .error (.wait _) => x.2
      | .error (.err code va) =>
        (x.2.stopQueue q 5 code.num).report ⟨1, q / 512, s.partOfQueue q, 1, code.num, some (s.ctxOfQueue q), va, q⟩

/-- The first descriptor whose completion is due: settled, not yet queued, REL waiting for every earlier completion, a record
waiting for every earlier one (R274, R276, R249). -/
def dueDesc (inflight : List Desc) : Option Desc :=
  inflight.find? (fun d =>
    let before := inflight.takeWhile (fun x => x.pos != d.pos)
    let rel := inflight.any (fun x => x.head == d.head && x.rel)
    let own := before.filter (fun x => x.head == d.head)
    d.status.isSome && !d.queued
      && inflight.all (fun x => x.head != d.head || x.status.isSome)
      && (!rel || before.length == own.length)
      && ((d.quiet && d.status == some 0) || before.all (·.queued)))

/-- A settled descriptor completes, at once where it has no record, else when its record is written. -/
def Dev.completeNext (s : Dev) (q : Nat) : Dev :=
  if !s.queueRuns q then s
  else match dueDesc (s.queue q).inflight with
    | none => s
    | some d =>
      if d.quiet && d.status == some 0 then (s.complete q d.pos).closeProc (s.ctxOfQueue q)
      else
        let s := s.modDesc q d.pos (fun d => { d with queued := true })
        let s := s.pushRec q (.completion d.pos :: d.post.map (fun e => .event e (s.fld F.Q_POS_HEAD q) d.op))
        s.closeProc (s.ctxOfQueue q)

end Sys2Proof.Machine
end

