-- ==== Sys2Proof/Machine/Mgmt.lean ====
section
/-! DEFINITION. MGMT (file 20): the phase of start-up, the error log, the crash record, FAULT_N. -/

namespace Sys2Proof.Machine

open Sys2Proof

/-! Dies. -/

def Dev.die (s : Dev) (d : Nat) : DieSt := SMap.get s.dies .init d
def Dev.setDie (s : Dev) (d : Nat) (x : DieSt) : Dev := { s with dies := SMap.set s.dies d x }

/-- The dies a partition touches (R20, R482, R532): those of its regions, the core die where it owns core groups, both I/O dies for
a vault. -/
def Dev.diesOf (s : Dev) (p : Nat) : List Nat :=
  match s.partRec p with
  | none => []
  | some r => (List.range 11).filter (fun d =>
      if d < 8 then (s.regionsOf p).any (fun g => g / 4 == d) else if d = 8 then r.groups != 0 else r.vault)

/-! Phases (BOOT_STATUS). -/

def Dev.phase (s : Dev) : Nat := s.fld F.BOOT_STATUS_PHASE 0

/-- REFCLK cycles since the reset began, as the stamps hold them. -/
def Dev.sinceReset (s : Dev) : Nat := s.time - s.boot.start

/-- PHASE changes: the stamp of the phase left, and of phase 7 when it is entered; release and entry to 8 or 9 raise PF0 vector 0. -/
def Dev.setPhase (s : Dev) (v : Nat) : Dev :=
  let old := s.phase
  if old = v then s
  else
    let s := if old < 7 then s.setFld F.BOOT_PHASE_STAMP old s.sinceReset else s
    let s := if v = 7 then s.setFld F.BOOT_PHASE_STAMP 7 s.sinceReset else s
    let s := s.setFld F.BOOT_STATUS_PHASE 0 v
    if v = 7 ∨ v = 8 ∨ v = 9 then s.msixRaise 0 0 else s

/-- FAULT_N is asserted (R114, R514, R516, R551): a halt, a SAFETY entry not acknowledged, or a rail out of its window for three samples;
never while PWRGOOD is low. -/
def Dev.faultN (s : Dev) : Bool :=
  s.pins.pwrgood && (s.phase == 9 || s.flag F.ELOG_STATUS_SAFETY 0 || (List.range 40).any (fun n => s.fld F.RAIL_STATUS_RUN n == 3))

/-! The error log (R516–R519). -/

/-- The CONTEXT field of an entry (R517). -/
def ctxField : Option Nat → Nat
  | some c => c + 0x8000
  | none => 0

/-- The 32 bytes of an entry. -/
def ErrRep.bytes (e : ErrRep) (stamp : Nat) : List Byte :=
  leBytes 1 e.cls ++ leBytes 1 e.die ++ leBytes 1 (e.part.getD 0xFF) ++ leBytes 1 e.block ++ leBytes 2 e.code ++ leBytes 2 (ctxField e.ctx)
    ++ leBytes 8 e.addr ++ leBytes 8 e.detail ++ leBytes 8 stamp

/-- Words of a byte string stored in consecutive registers. -/
def Dev.putWords (s : Dev) (r : RegName) (i : Nat) (bs : List Byte) : Nat → Dev
  | 0 => s
  | n + 1 => (s.setReg r i (BitVec.ofNat 64 (fieldAt bs 0 8))).putWords r (i + 1) (bs.drop 8) n

/-- An entry written: the oldest is replaced when the ring is full; a class that the mask names raises the MSI. -/
def Dev.logEntry (s : Dev) (e : ErrRep) : Dev :=
  let n := s.fld F.ELOG_STATUS_POSITION 0
  let bs := e.bytes s.time
  let s := s.putWords .ELOG (n % 1024 * 4) bs 4
  let s := (s.setFld F.ELOG_STATUS_POSITION 0 (n + 1)).setFlag F.ELOG_STATUS_WRAPPED 0 (s.flag F.ELOG_STATUS_WRAPPED 0 || decide (n ≥ 1024))
  let s := if e.cls = 6 then s.setFlag F.ELOG_STATUS_SAFETY 0 true else s
  let x := s.die e.die
  let s := s.setDie e.die { x with lastErr := bs, errors := if e.cls ≥ 1 then min (x.errors + 1) 0xFFFFFFFF else x.errors }
  let id := s.fld F.ELOG_MSI_DATA 0
  if id ≠ 0 ∧ bitOf (s.fld F.ELOG_MSI_CLASS_MASK 0) e.cls then 
    let m := s.sendMsi none (s.fld F.ELOG_MSI_ADDR_ADDR 0 * 4) id
    if m.1 then m.2 else s.msiLost 64
  else s

/-! The crash record (R529). -/

/-- PART_STATE of the DVSEC (R477): two bits a partition. -/
def Dev.partStates (s : Dev) : Nat :=
  (List.range 32).foldl (fun n p =>
    let v := match s.partState p with | 0 => 0 | 2 => 1 | 5 => 3 | _ => 2
    n + v * 4 ^ p) 0

/-- The part of a die's section that the die itself reports, which a heartbeat carries. -/
def Dev.dieSnapshot (s : Dev) (d : Nat) : List Byte :=
  let x := s.die d
  let down := ((endsOf d).filter (fun e => !s.flag F.LINK_STATUS_IN_SERVICE e)).length
  leBytes 1 (bitsOf (s.reg .CLK_STATUS d).toNat 0 7) ++ leBytes 1 down ++ leBytes 8 (s.reg .SLOW_COUNT d).toNat
    ++ leBytes 2 x.hungCtx ++ leBytes 1 x.hungBlock ++ leBytes 1 (s.fld F.THERM_STATUS_TMAX d)
    ++ leBytes 1 (s.fld F.PWR_STATUS_RAIL_LEVEL d + (if s.flag F.PWR_STATUS_ALERT d then 8 else 0))

/-- A die's section: live where the die answers, else from its last heartbeat. -/
def Dev.dieSection (s : Dev) (d : Nat) (live : Bool) : List Byte :=
  let x := s.die d
  let sn := if live then s.dieSnapshot d else bytesAt x.snapshot 0 15
  leBytes 1 d ++ leBytes 1 (s.dieState d + (if live then 0 else 4)) ++ bytesAt sn 0 2 ++ leBytes 4 x.errors ++ bytesAt sn 2 8
    ++ leBytes 8 x.lastHb ++ bytesAt sn 10 5 ++ List.replicate 3 0 ++ bytesAt x.lastErr 0 32

/-- A die answers MGMT: it is in RUN with its PLL locked and REFCLK runs. -/
def Dev.dieAnswers (s : Dev) (d : Nat) : Bool := s.dieState d == 0 && s.flag F.CLK_STATUS_PLL_LOCK d && s.pins.refclk

/-- The 16 latest entries of the error log, oldest first, zero where fewer exist. -/
def Dev.elogTail (s : Dev) : List Byte :=
  let n := s.fld F.ELOG_STATUS_POSITION 0
  let have_ := if s.flag F.ELOG_STATUS_WRAPPED 0 then 1024 else min n 1024
  let k := min have_ 16
  let es := (List.range k).flatMap (fun i => (List.range 4).flatMap (fun w => leBytes 8 (s.reg .ELOG ((n + 2 ^ 32 - k + i) % 1024 * 4 + w)).toNat))
  es ++ List.replicate (512 - 32 * k) 0

/-- A crash record captured: its trigger, the die, the partition, the context and the address it names, and which dies the trigger
resets. PF0 vector 1 is raised, and an in-band interrupt on I3C (R531). -/
def Dev.crash (s : Dev) (trigger : Nat) (die part : Option Nat) (ctx : Option Nat) (addr : Nat) (reset : Nat → Bool) : Dev :=
  let seq := s.crashes + 1
  let head := [0x43, 0x52, 0x53, 0x48] ++ leBytes 2 1 ++ leBytes 2 320 ++ leBytes 4 seq ++ leBytes 1 trigger ++ leBytes 1 (die.getD 0xFF)
    ++ leBytes 1 s.phase ++ leBytes 1 (part.getD 0xFF) ++ leBytes 8 s.time ++ leBytes 8 (s.reg .IMAGE_ID 0).toNat
    ++ leBytes 8 s.partStates ++ leBytes 2 (ctxField ctx) ++ leBytes 2 0 ++ leBytes 4 (s.fld F.ELOG_STATUS_POSITION 0)
    ++ leBytes 8 addr ++ leBytes 8 0
  let secs := (List.range 11).flatMap (fun d => s.dieSection d (!reset d && s.dieAnswers d))
  let s := s.putWords .CRASH 0 (head ++ secs ++ s.elogTail) 160
  let s := ({ s with crashes := seq } : Dev).msixRaise 0 1
  if s.pins.i3cAddr.isSome then s.emit .ibi else s

/-- A dword of the crash record, zero past its length. -/
def Dev.crashDword (s : Dev) (i : Nat) : Nat := if i < 320 then bitsOf (s.reg .CRASH (i / 2)).toNat (32 * (i % 2)) 32 else 0

/-- An event record to every enabled queue of every partition in RUN (R520). -/
def Dev.eventAll (s : Dev) (e : EvRec) : Dev :=
  (s.queues.map (·.1)).foldl (fun s q => if s.queueState q != 0 && s.queueRuns q then s.event q e else s) s

/-- n bytes from the DRBG of an I/O die (R500): free, since the spec leaves its output to its entropy. Every request is counted, and after each
2^16 of them the generator is reseeded. -/
def Dev.drbg (s : Dev) (d n : Nat) : List Byte × Dev :=
  let r := s.free (2 ^ (8 * n))
  let s := r.2.count F.NSE_COUNTS_GENERATES (d - 9) 1
  let k := SMap.get s.nseUsed 0 d + 1
  let s := { s with nseUsed := SMap.set s.nseUsed d (k % 65536) }
  (leBytes n r.1, if k = 65536 then s.count F.NSE_COUNTS_RESEEDS (d - 9) 1 else s)

end Sys2Proof.Machine
end

