-- ==== Sys2Proof/Machine/Bulk.lean ====
section
/-! DEFINITION. Byte ranges that MGMT, GX and attestation read and write line by line, as non-caching agents. -/

namespace Sys2Proof.Machine

open Sys2Proof

/-- What a range gave: its bytes, the first code other than OK, or nothing yet, where a home must wait. -/
inductive Bulk where
  | bytes (bs : List Byte)
  | err (code : Resp)
  | wait
  deriving DecidableEq, Repr

/-- The lines of the range of len bytes from an address in local form, from one of its lines on: of each, the range's bytes are
asked for. -/
def Dev.bulkLines (s : Dev) (src : Agent) (part ctx : Option Nat) (a len line : Nat) : Nat → Bulk × Dev
  | 0 => (.bytes [], s)
  | n + 1 =>
    let x := s.access ⟨.rdOnce, line, src, 0, part, ctx, .normal, 0, rangeMask a len line⟩
    match x.1 with
    | none => (.wait, s)
    | some (.ok, d) =>
      let t := x.2.bulkLines src part ctx a len (line + 1) n
      match t.1 with
      | .bytes bs => (.bytes (lineBytes d ++ bs), t.2)
      | e => (e, t.2)
    | some (code, _) => (.err code, x.2)

/-- n bytes from an address. -/
def Dev.bulkRead (s : Dev) (src : Agent) (part ctx : Option Nat) (a n : Nat) : Bulk × Dev :=
  match s.localForm a with
  | none => (.err .homeAbsent, s)
  | some b =>
    let t := s.bulkLines src part ctx b n (b / 64) (if n = 0 then 0 else (b + n - 1) / 64 - b / 64 + 1)
    match t.1 with
    | .bytes bs => (.bytes (bytesAt bs (b % 64) n), t.2)
    | e => (e, t.2)

/-- Bytes written from an address in local form, at most a line at a time. -/
def Dev.bulkWriteAt (s : Dev) (src : Agent) (part ctx : Option Nat) (a : Nat) (bs : List Byte) : Nat → Bulk × Dev
  | 0 => (.bytes [], s)
  | n + 1 =>
    if bs.isEmpty then (.bytes [], s)
    else
      let k := min bs.length (64 - a % 64)
      let r := writeReq src 0 a (bs.take k)
      let x := s.access { r with part := part, ctx := ctx }
      match x.1 with
      | none => (.wait, s)
      | some (.ok, _) => x.2.bulkWriteAt src part ctx (a + k) (bs.drop k) n
      | some (code, _) => (.err code, x.2)

/-- Bytes written from an address. -/
def Dev.bulkWrite (s : Dev) (src : Agent) (part ctx : Option Nat) (a : Nat) (bs : List Byte) : Bulk × Dev :=
  match s.localForm a with
  | none => (.err .homeAbsent, s)
  | some b => s.bulkWriteAt src part ctx b bs (bs.length / 64 + 2)

/-- Every byte of a range may be read and written by a party (R504, R562). -/
def Dev.rangeOpen (s : Dev) (part : Option Nat) (a n : Nat) : Bool :=
  match s.localForm a with
  | none => false
  | some b => (List.range ((b + n - 1) / 64 - b / 64 + 1)).all (fun i =>
      s.ownCode ⟨.rdOnce, b / 64 + i, .mgmt, 0, part, none, .normal, 0, 0⟩ == .ok)

end Sys2Proof.Machine
end

