-- ==== Sys2Proof/Machine/Lms.lean ====
section
/-! DEFINITION. LMS signatures (RFC 8554, SP 800-208) as the spec uses them (R92–R94, R485, R501–R503): SHA-256 with 32-byte hashes,
one-time signatures with W = 8, trees of height 15 and 20. The standards' own text is not part of the spec (log entry). -/

namespace Sys2Proof.Machine

open Sys2Proof

/-- The coefficients that a one-time signature signs: the 32 bytes of the digest and the two bytes of its checksum. -/
def otsDigits (q : List Byte) : List Nat :=
  let c := q.foldl (fun n b => n + (255 - b.toNat)) 0
  q.map (·.toNat) ++ [c / 256 % 256, c % 256]

/-- A chain of hashes: n steps from step j. -/
def otsChain (pre : List Byte) (j : Nat) : Nat → List Byte → List Byte
  | 0, x => x
  | n + 1, x => otsChain pre (j + 1) n (sha256 (pre ++ beBytes 1 j ++ x))

/-- The digest of a message under leaf q. -/
def otsMsg (ident : List Byte) (q : Nat) (c msg : List Byte) : List Byte := sha256 (ident ++ beBytes 4 q ++ [0x81, 0x81] ++ c ++ msg)

/-- The public key of a one-time key, from the ends of its chains. -/
def otsPub (ident : List Byte) (q : Nat) (ys : List (List Byte)) : List Byte := sha256 (ident ++ beBytes 4 q ++ [0x80, 0x80] ++ ys.flatten)

/-- The one-time public key that a signature gives for a message. -/
def otsCandidate (ident : List Byte) (q : Nat) (c msg sig : List Byte) : List Byte :=
  let ds := otsDigits (otsMsg ident q c msg)
  otsPub ident q ((List.range 34).map (fun i =>
    let a := ds.getD i 0
    otsChain (ident ++ beBytes 4 q ++ beBytes 2 i) a (255 - a) (bytesAt sig (32 * i) 32)))

/-- The nodes on the path of a leaf, up to the root. -/
def lmsClimb (ident : List Byte) : List (List Byte) → Nat → List Byte → List Byte
  | [], _, x => x
  | p :: ps, r, x =>
    let kids := if r % 2 = 1 then p ++ x else x ++ p
    lmsClimb ident ps (r / 2) (sha256 (ident ++ beBytes 4 (r / 2) ++ [0x83, 0x83] ++ kids))

/-- A signature of a tree of height h verifies under a 56-byte public key: type fields, leaf in range, root equal. lmsType is the tree's
type code. -/
def lmsVerify (lmsType h : Nat) (pub msg sig : List Byte) : Bool :=
  let ident := bytesAt pub 8 16
  let q := beNat (bytesAt sig 0 4)
  let c := bytesAt sig 8 32
  let ots := otsCandidate ident q c msg (sig.drop 40)
  let leaf := sha256 (ident ++ beBytes 4 (2 ^ h + q) ++ [0x82, 0x82] ++ ots)
  let path := (List.range h).map (fun i => bytesAt sig (1132 + 32 * i) 32)
  beNat (bytesAt pub 0 4) == lmsType && beNat (bytesAt pub 4 4) == 4
    && beNat (bytesAt sig 4 4) == 4 && beNat (bytesAt sig 1128 4) == lmsType
    && sig.length == 1132 + 32 * h && decide (q < 2 ^ h)
    && lmsClimb ident path (2 ^ h + q) leaf == bytesAt pub 24 32

/-- The private elements of leaf q under the pseudorandom key generation of SP 800-208. -/
def otsPriv (seed ident : List Byte) (q i : Nat) : List Byte := sha256 (ident ++ beBytes 4 q ++ beBytes 2 i ++ [0xFF] ++ seed)

/-- The value of a leaf of a tree of height h. -/
def lmsLeaf (seed ident : List Byte) (h q : Nat) : List Byte :=
  let ys := (List.range 34).map (fun i => otsChain (ident ++ beBytes 4 q ++ beBytes 2 i) 0 255 (otsPriv seed ident q i))
  sha256 (ident ++ beBytes 4 (2 ^ h + q) ++ [0x82, 0x82] ++ otsPub ident q ys)

/-- The value of node r, k levels above the leaves of a tree of height h. -/
def lmsNode (seed ident : List Byte) (h : Nat) : Nat → Nat → List Byte
  | 0, r => lmsLeaf seed ident h (r - 2 ^ h)
  | k + 1, r =>
    sha256 (ident ++ beBytes 4 r ++ [0x83, 0x83] ++ lmsNode seed ident h k (2 * r) ++ lmsNode seed ident h k (2 * r + 1))

/-- The 56-byte public key of a tree (R92). -/
def lmsPublic (lmsType h : Nat) (seed ident : List Byte) : List Byte :=
  beBytes 4 lmsType ++ beBytes 4 4 ++ bytesAt ident 0 16 ++ lmsNode seed (bytesAt ident 0 16) h h 1

/-- The signature of a message with leaf q and randomizer c. -/
def lmsSign (lmsType h : Nat) (seed ident : List Byte) (q : Nat) (c msg : List Byte) : List Byte :=
  let ident := bytesAt ident 0 16
  let ds := otsDigits (otsMsg ident q c msg)
  let y := (List.range 34).flatMap (fun i => otsChain (ident ++ beBytes 4 q ++ beBytes 2 i) 0 (ds.getD i 0) (otsPriv seed ident q i))
  let path := (List.range h).flatMap (fun k => lmsNode seed ident h k (((2 ^ h + q) / 2 ^ k) ^^^ 1))
  beBytes 4 q ++ beBytes 4 4 ++ c ++ y ++ beBytes 4 lmsType ++ path

end Sys2Proof.Machine
end

