-- ==== Sys2Proof/Machine/Crc.lean ====
section
/-! DEFINITION. The cyclic redundancy checks the spec names: CRC-32C (R239), and the check over a flit or frame. -/

namespace Sys2Proof.Machine

open Sys2Proof

/-- One bit of a reflected CRC-32 with polynomial p (reflected). -/
def crcBit (p : BitVec 32) (c : BitVec 32) : BitVec 32 := if c.getLsbD 0 then (c >>> 1) ^^^ p else c >>> 1

/-- One byte. -/
def crcByte (p : BitVec 32) (c : BitVec 32) (b : Byte) : BitVec 32 :=
  let f := crcBit p
  f (f (f (f (f (f (f (f (c ^^^ b.setWidth 32))))))))

/-- CRC-32C: polynomial 0x1EDC_6F41 reflected, initial value and final XOR all ones. -/
def crc32c (bs : List Byte) : Nat :=
  ((bs.foldl (crcByte (BitVec.ofNat 32 0x82F63B78)) (BitVec.allOnes 32)) ^^^ BitVec.allOnes 32).toNat

end Sys2Proof.Machine
end

