-- ==== Sys2Proof/Machine/Check.lean ====
section
/-! DEFINITION. The checks of a descriptor at acceptance (R266): the offsets of its fields in error, the scale planes and expansion
parameters that its check reads, the number of its tiles. A rule that holds for one operation counts at the field it speaks of, not
at OPCODE; one that ties several fields counts at the lowest of them. -/

namespace Sys2Proof.Machine

open Sys2Proof

/-- A field's offset where it is in error. -/
def bad (b : Bool) (off : Nat) : List Nat := if b then [off] else []

/-- A field of n bytes that must hold zero here. -/
def zeroField (bs : List Byte) (off n : Nat) : List Nat := bad (fieldAt bs off n != 0) off

/-- Reserved bytes [off, off + n): each that is not is in error at its own offset. -/
def reserved (bs : List Byte) (off n : Nat) : List Nat := ((List.range n).map (off + ·)).filter (fun o => fieldAt bs o 1 != 0)

/-- A scale plane that a descriptor names: the offset of its field, its base, element format, BLK, rows and entries per row needed,
whether it is written (R166, R229). -/
structure PlaneRef where
  off     : Nat
  addr    : Nat
  fmt     : Nat
  blk     : Nat
  rows    : Nat
  ents    : Nat
  written : Bool
  deriving DecidableEq, Repr

/-- Elements of a block by BLK code (R146): none for 0 and the reserved codes. -/
def blkSize : Nat → Nat
  | 1 => 16 | 2 => 32 | 3 => 64 | 4 => 128 | _ => 0

/-- Blocks in an extent. -/
def blocksIn (n blk : Nat) : Nat := if blkSize blk = 0 then 0 else ceilDiv n (blkSize blk)

/-- Formats by code. -/
def fmtReserved (c : Nat) : Bool := (Fmt.ofCode c).isNone
def fmtNarrowInt (c : Nat) : Bool := c == 8 || c == 9

/-- R162's first two cases for a format and a BLK code. -/
def blkWrong (fmt blk : Nat) : Bool :=
  match Fmt.ofCode fmt with
  | some f => (f.blockAlways && blk == 0) || (!f.blockMay && !f.blockAlways && blk != 0)
  | none => false

/-- The header of R256 for an operation of n slots. -/
def checkHeader (bs : List Byte) (n : Nat) : List Nat :=
  let sig := fieldAt bs 6 2
  bad (fieldAt bs 2 1 != n) 2 ++ bad (fieldAt bs 3 1 ≥ 128) 3 ++ bad (sig > 4095) 6 ++ bad (sig == 0 && fieldAt bs 12 4 != 0) 12

/-- Slots of an operation (R207, R257); none for a reserved code. -/
def slotsOfOp (op : Nat) : Option Nat :=
  if op = 0 ∨ op = 2 ∨ op = 0x40 ∨ op = 0x41 then some 1
  else if op = 1 ∨ op = 8 ∨ (0x20 ≤ op ∧ op ≤ 0x23) ∨ op = 0x30 ∨ op = 0x31 ∨ (0x50 ≤ op ∧ op ≤ 0x52) then some 2
  else if op = 9 ∨ (0x10 ≤ op ∧ op ≤ 0x15) then some 3
  else none

/-- An aligned base of a plane (R160), a stride (R146, R214). -/
def unaligned (bs : List Byte) (off n : Nat) : List Nat := bad (fieldAt bs off n % 64 != 0) off

/-- A number outside its range. -/
def outside (bs : List Byte) (off n lo hi : Nat) : List Nat := bad (fieldAt bs off n < lo || fieldAt bs off n > hi) off

/-! Matrix descriptors (R146, R147). -/

/-- The width class of two operand formats (R119, R120): 0 16-bit, 1 8-bit, 2 6-bit, 3 4-bit; INT8 with a floating-point operand is
widened to BF16. -/
def tileClass (a w : Fmt) : Nat :=
  if a.isInt != w.isInt then 0 else min a.cls w.cls

/-- Fields of a matrix descriptor. -/
structure MxFields where
  m : Nat
  n : Nat
  k : Nat
  tm : Nat
  tn : Nat
  aFmt : Nat
  wFmt : Nat
  cFmt : Nat
  accFmt : Nat
  aBlk : Nat
  wBlk : Nat
  cBlk : Nat
  sr : Bool
  accIn : Bool
  expand : Nat
  expFmt : Nat
  deriving DecidableEq, Repr

def mxFields (bs : List Byte) : MxFields :=
  let aw := fieldAt bs 0x54 1
  let c := fieldAt bs 0x55 1
  let b := fieldAt bs 0x56 1
  let md := fieldAt bs 0x57 1
  ⟨fieldAt bs 0x30 4, fieldAt bs 0x34 4, fieldAt bs 0x38 4, fieldAt bs 0x50 2, fieldAt bs 0x52 2,
   aw % 16, aw / 16, c % 16, c / 16, b % 8, b / 8 % 8, md % 8, bitOf md 3, bitOf md 4, md / 32 % 4, md / 128⟩

/-- The weight format after expansion (R124): EXP_FMT 0 BF16, 1 E4M3. -/
def MxFields.wEff (f : MxFields) : Nat := if f.expand = 0 then f.wFmt else if f.expFmt = 0 then 0 else 2

/-- The class of the tiles of a well-formed matrix descriptor. -/
def MxFields.cls (f : MxFields) : Nat :=
  match Fmt.ofCode f.aFmt, Fmt.ofCode f.wEff with
  | some a, some w => tileClass a w
  | _, _ => 0

def checkMatrix (bs : List Byte) (conv : Bool) : List Nat :=
  let f := mxFields bs
  let pair := 0xA
  let mp := fun (o n : Nat) => fieldAt bs o n
  let accOk := [0, 1, 2, 3, 7, 0xA].contains f.accFmt
  unaligned bs 0x10 8 ++ unaligned bs 0x18 8 ++ unaligned bs 0x20 8
    ++ (if f.accIn then unaligned bs 0x28 8 else zeroField bs 0x28 8)
    ++ bad (f.m == 0) 0x30 ++ bad (f.n == 0) 0x34 ++ outside bs 0x38 4 1 1048576 ++ reserved bs 0x3E 2
    ++ (if conv then zeroField bs 0x40 4 else unaligned bs 0x40 4) ++ unaligned bs 0x44 4 ++ unaligned bs 0x48 4 ++ unaligned bs 0x4C 4
    ++ outside bs 0x50 2 1 2048 ++ outside bs 0x52 2 1 4096
    ++ bad (blkSize f.cBlk != 0 && f.tn % blkSize f.cBlk != 0) 0x52
    ++ bad (fmtReserved f.aFmt || fmtNarrowInt f.aFmt || fmtReserved f.wFmt) 0x54
    ++ bad ((f.expand == 0) == fmtNarrowInt f.wFmt) 0x54
    ++ bad ((f.aFmt == pair) != (f.wEff == pair)) 0x54
    ++ bad (blkWrong f.aFmt f.aBlk || blkWrong f.wFmt f.wBlk) 0x54
    ++ bad (f.cls == 0 && (f.aBlk == 4 || f.wBlk == 4)) 0x54
    ++ bad (fmtReserved f.cFmt || fmtNarrowInt f.cFmt || !accOk) 0x55 ++ bad (blkWrong f.cFmt f.cBlk) 0x55
    ++ bad (f.aBlk > 4 || f.wBlk > 4 || mp 0x56 1 ≥ 64) 0x56 ++ bad (f.wBlk != 0 && f.expand != 0) 0x56
    ++ bad (f.cBlk > 4 || f.expand == 3) 0x57
    ++ (if f.aBlk = 0 then zeroField bs 0x58 8 else unaligned bs 0x58 8)
    ++ (if f.wBlk = 0 then zeroField bs 0x60 8 else unaligned bs 0x60 8)
    ++ (if f.cBlk = 0 then zeroField bs 0x68 8 else unaligned bs 0x68 8)
    ++ (if f.expand = 0 then zeroField bs 0x70 8 else [])
    ++ bad (mp 0x78 2 > 4095) 0x78 ++ reserved bs 0x7E 2
    ++ (if !conv then []
        else
          bad (f.m != mp 0x94 4 * mp 0x84 2 * mp 0x86 2) 0x30 ++ bad (f.k != mp 0x8C 1 * mp 0x8D 1 * mp 0x88 4) 0x38
            ++ bad (blkSize f.aBlk != 0 && mp 0x88 4 % blkSize f.aBlk != 0) 0x56
            ++ [0x80, 0x82, 0x84, 0x86].flatMap (fun o => bad (mp o 2 == 0) o)
            ++ [0x8C, 0x8D, 0x8E, 0x8F, 0x90, 0x91].flatMap (fun o => bad (mp o 1 == 0) o)
            ++ bad (mp 0x94 4 == 0) 0x94 ++ unaligned bs 0x98 4 ++ unaligned bs 0x9C 4 ++ unaligned bs 0xA0 8 ++ reserved bs 0xA8 24)

def planesMatrix (bs : List Byte) (conv : Bool) : List PlaneRef :=
  let f := mxFields bs
  let a : PlaneRef := if conv then
      ⟨0x58, fieldAt bs 0x58 8, f.aFmt, f.aBlk, fieldAt bs 0x94 4 * fieldAt bs 0x80 2 * fieldAt bs 0x82 2, blocksIn (fieldAt bs 0x88 4) f.aBlk, false⟩
    else ⟨0x58, fieldAt bs 0x58 8, f.aFmt, f.aBlk, f.m, blocksIn f.k f.aBlk, false⟩
  [a, ⟨0x60, fieldAt bs 0x60 8, f.wFmt, f.wBlk, blocksIn f.k f.wBlk, f.n, false⟩,
   ⟨0x68, fieldAt bs 0x68 8, f.cFmt, f.cBlk, f.m, blocksIn f.n f.cBlk, true⟩]

/-! VXE descriptors (R213–R221). -/

structure VxFields where
  op : Nat
  rows : Nat
  cols : Nat
  tr : Nat
  tc : Nat
  func : Nat
  xFmt : Nat
  yFmt : Nat
  zFmt : Nat
  oFmt : Nat
  sr : Bool
  yB : Nat
  zB : Nat
  xBlk : Nat
  yBlk : Nat
  zBlk : Nat
  oBlk : Nat
  tid : Nat
  deriving DecidableEq, Repr

def vxFields (bs : List Byte) : VxFields :=
  let xy := fieldAt bs 0x4D 1
  let zo := fieldAt bs 0x4E 1
  let md := fieldAt bs 0x4F 1
  let b := fieldAt bs 0x50 2
  ⟨fieldAt bs 0 1, fieldAt bs 0x30 4, fieldAt bs 0x34 4, fieldAt bs 0x48 2, fieldAt bs 0x4A 2, fieldAt bs 0x4C 1,
   xy % 16, xy / 16, zo % 16, zo / 16, bitOf md 0, md / 2 % 4, md / 8 % 4, b % 8, b / 8 % 8, b / 64 % 8, b / 512 % 8, fieldAt bs 0x52 2⟩

/-- The largest FUNC of a VXE operation (R207). -/
def vxFuncs : Nat → Nat
  | 0x10 => 11 | 0x11 => 8 | 0x12 => 5 | 0x13 => 0 | _ => 1

/-- Operands Y, Z, V and PARAMs that a VXE operation uses. -/
def vxUses (bs : List Byte) : Bool × Bool × Bool × List Nat :=
  let f := vxFields bs
  match f.op with
  | 0x10 => ([0, 1, 2, 3, 4, 5, 10].contains f.func, f.func == 3, false, if f.func = 10 ∨ f.func = 11 then [0, 1] else [])
  | 0x13 => (fieldAt bs 0x18 8 != 0, false, false, [0])
  | 0x14 => (true, f.func == 1, false, [0])
  | 0x15 => (true, true, f.func == 0, if f.func = 0 then [0, 1, 2, 3, 4, 5, 6] else [0, 1, 4])
  | _ => (false, false, false, [])

def checkVx (bs : List Byte) : List Nat :=
  let f := vxFields bs
  let u := vxUses bs
  let opt := f.op == 0x15
  let whole := f.op == 0x12 || f.op == 0x13 || f.op == 0x14
  let wide := if f.op = 0x13 ∨ f.op = 0x14 then 2097152 else 16777216
  let conv := f.op == 0x10 && f.func == 9
  let un := fun (used : Bool) (o n : Nat) => if used then unaligned bs o n else zeroField bs o n
  let m16 := fun c => c == 0 || c == 1
  unaligned bs 0x10 8 ++ un u.1 0x18 8 ++ un u.2.1 0x20 8 ++ unaligned bs 0x28 8
    ++ bad (f.rows == 0) 0x30 ++ outside bs 0x34 4 1 wide
    ++ unaligned bs 0x38 4 ++ un u.1 0x3C 4 ++ un u.2.1 0x40 4 ++ unaligned bs 0x44 4
    ++ outside bs 0x48 2 1 2048 ++ (if whole then zeroField bs 0x4A 2 else outside bs 0x4A 2 1 4096)
    ++ bad (blkSize f.oBlk != 0 && f.tc % blkSize f.oBlk != 0) 0x4A
    ++ bad (f.func > vxFuncs f.op) 0x4C
    ++ bad (fmtReserved f.xFmt || fmtReserved f.yFmt || (!conv && fmtNarrowInt f.xFmt) || fmtNarrowInt f.yFmt || (!u.1 && f.yFmt != 0)) 0x4D
    ++ bad (blkWrong f.xFmt f.xBlk || (u.1 && blkWrong f.yFmt f.yBlk)) 0x4D
    ++ bad (fmtReserved f.zFmt || fmtReserved f.oFmt || fmtNarrowInt f.zFmt || (!conv && fmtNarrowInt f.oFmt) || (!u.2.1 && f.zFmt != 0)) 0x4E
    ++ bad ((u.2.1 && blkWrong f.zFmt f.zBlk) || blkWrong f.oFmt f.oBlk) 0x4E
    ++ bad (fieldAt bs 0x4F 1 ≥ 32) 0x4F
    ++ bad ((f.yB != 0 && f.yBlk != 0) || (f.zB != 0 && f.zBlk != 0)) 0x4F
    ++ bad (f.op == 0x14 && (f.yB != 1 || (f.func == 1 && f.zB != 1))) 0x4F
    ++ bad (fieldAt bs 0x50 2 ≥ 4096 || f.xBlk > 4 || f.yBlk > 4 || f.zBlk > 4 || f.oBlk > 4) 0x50
    ++ bad ((!u.1 && f.yBlk != 0) || (!u.2.1 && f.zBlk != 0) || (opt && fieldAt bs 0x50 2 != 0) || (f.op == 0x12 && f.oBlk != 0)) 0x50
    ++ reserved bs 0x54 4
    ++ (if f.xBlk = 0 then zeroField bs 0x58 8 else unaligned bs 0x58 8)
    ++ (if f.yBlk = 0 then zeroField bs 0x60 8 else unaligned bs 0x60 8)
    ++ (if f.zBlk = 0 then zeroField bs 0x68 8 else unaligned bs 0x68 8)
    ++ (if f.oBlk = 0 then zeroField bs 0x70 8 else unaligned bs 0x70 8)
    ++ reserved bs 0x78 8
    ++ un u.2.2.1 0x80 8 ++ un u.2.2.1 0x88 4
    ++ (if u.2.2.1 then bad (!m16 (fieldAt bs 0x8C 1)) 0x8C else zeroField bs 0x8C 1) ++ reserved bs 0x8D 3
    ++ (List.range 8).flatMap (fun n => if u.2.2.2.contains n then [] else zeroField bs (0x90 + 4 * n) 4)
    ++ reserved bs 0xB0 16
    ++ (if opt then
          bad (!(m16 f.xFmt || f.xFmt == 0xA) || f.oFmt != f.xFmt || !(m16 f.yFmt || f.yFmt == 2 || f.yFmt == 3)) 0x4D ++ bad (!m16 f.zFmt) 0x4E
        else [])

def planesVx (bs : List Byte) : List PlaneRef :=
  let f := vxFields bs
  let mk := fun (o fmt blk : Nat) (w : Bool) => (⟨o, fieldAt bs o 8, fmt, blk, f.rows, blocksIn f.cols blk, w⟩ : PlaneRef)
  [mk 0x58 f.xFmt f.xBlk false, mk 0x60 f.yFmt f.yBlk false, mk 0x68 f.zFmt f.zBlk false, mk 0x70 f.oFmt f.oBlk true]

/-! SPE descriptors (R222–R226). -/

structure SpFields where
  op : Nat
  count : Nat
  width : Nat
  tile : Nat
  func : Nat
  tFmt : Nat
  iFmt : Nat
  oFmt : Nat
  aFmt : Nat
  sr : Bool
  idx64 : Bool
  bs : Nat
  accIn : Bool
  ncols : Nat
  tBlk : Nat
  oBlk : Nat
  tid : Nat
  deriving DecidableEq, Repr

def spFields (b : List Byte) : SpFields :=
  let ti := fieldAt b 0x61 1
  let o := fieldAt b 0x62 1
  let md := fieldAt b 0x63 1
  let k := fieldAt b 0x78 1
  ⟨fieldAt b 0 1, fieldAt b 0x48 4, fieldAt b 0x4C 4, fieldAt b 0x5C 2, fieldAt b 0x60 1, ti % 16, ti / 16, o % 16, o / 16,
   bitOf md 0, bitOf md 1, [1, 4, 8, 16].getD (md / 4 % 4) 1, bitOf md 4, fieldAt b 0x64 4, k % 8, k / 8 % 8, fieldAt b 0x5E 2⟩

/-- Format errors of an SPE descriptor (R162, R222–R225). The per-index weights of SP_EMBED at WEIGHT_ADDR are not judged as an element plane
of R160, which would have to begin at a multiple of 64: the spec does not say that they are one (DESIGN CHOICE, log entry 124). -/
def checkSp (b : List Byte) : List Nat :=
  let f := spFields b
  let gather := f.op == 0x20
  let scatter := f.op == 0x21
  let embed := f.op == 0x22
  let spmv := f.op == 0x23
  let wBad := fun c => match Fmt.ofCode c with
    | some x => x.bits * f.width % 8 != 0
    | none => false
  let wide := [0, 1, 2, 3, 7, 0xA]
  unaligned b 0x10 8
    ++ (if embed || spmv then [] else zeroField b 0x20 8)
    ++ (if embed then [] else if spmv then unaligned b 0x28 8 else zeroField b 0x28 8)
    ++ (if scatter || spmv then unaligned b 0x30 8 else zeroField b 0x30 8)
    ++ (if scatter then zeroField b 0x38 8 else unaligned b 0x38 8)
    ++ outside b 0x4C 4 1 (if spmv then 16 else 1048576)
    ++ bad (!spmv && (wBad f.tFmt || (embed && wBad f.oFmt))) 0x4C
    ++ unaligned b 0x50 4 ++ unaligned b 0x54 4 ++ unaligned b 0x58 4 ++ outside b 0x5C 2 1 4096
    ++ bad (f.func > (if scatter || embed then 1 else 0)) 0x60
    ++ bad (fmtReserved f.tFmt || fmtReserved f.iFmt) 0x61
    ++ bad (gather && f.oFmt != f.tFmt) 0x61
    ++ bad (scatter && f.func == 1 && (f.tFmt != f.iFmt || !([0, 1, 0xA].contains f.tFmt))) 0x61
    ++ bad (spmv && !(wide.contains f.tFmt && wide.contains f.iFmt)) 0x61
    ++ bad (((gather || embed) && blkWrong f.tFmt f.tBlk) || (scatter && blkWrong f.tFmt 0) || ((scatter || embed) && blkWrong f.iFmt 0)) 0x61
    ++ bad (fmtReserved f.oFmt || fmtReserved f.aFmt) 0x62
    ++ bad (spmv && (fmtNarrowInt f.oFmt || !wide.contains f.aFmt || blkWrong f.oFmt 0)) 0x62
    ++ bad ((gather || embed) && blkWrong f.oFmt f.oBlk) 0x62
    ++ bad (fieldAt b 0x63 1 ≥ 32) 0x63
    ++ (if f.tBlk = 0 then zeroField b 0x68 8 else unaligned b 0x68 8)
    ++ (if f.oBlk = 0 then zeroField b 0x70 8 else unaligned b 0x70 8)
    ++ bad (fieldAt b 0x78 1 ≥ 64 || f.tBlk > 4 || f.oBlk > 4 || ((scatter || spmv) && (f.tBlk != 0 || f.oBlk != 0))
        || (gather && f.tBlk != f.oBlk)) 0x78
    ++ reserved b 0x79 7

def planesSp (b : List Byte) : List PlaneRef :=
  let f := spFields b
  [⟨0x68, fieldAt b 0x68 8, f.tFmt, f.tBlk, fieldAt b 0x40 8, blocksIn f.width f.tBlk, false⟩,
   ⟨0x70, fieldAt b 0x70 8, f.oFmt, f.oBlk, f.count, blocksIn f.width f.oBlk, true⟩]

/-! TBE, CDE and MVE descriptors (R230, R237, R242). -/

def isPow2 (n : Nat) : Bool := n != 0 && n &&& (n - 1) == 0

def checkTb (b : List Byte) (vault : Bool) : List Nat :=
  let part := fieldAt b 0 1 == 0x30
  let stride := fieldAt b 0x1C 4
  let key := fieldAt b 0x50 1
  let vals := fieldAt b 0x51 1
  let nval := vals % 8
  let w := if bitOf vals 3 then 4 else 8
  outside b 0x18 4 1 65535 ++ outside b 0x1C 4 8 4096 ++ bad (stride % 8 != 0) 0x1C
    ++ bad (fieldAt b 0x48 2 + key > stride) 0x1C
    ++ unaligned b 0x30 8 ++ outside b 0x50 1 1 32 ++ reserved b 0x52 46
    ++ (if part then
          bad (fieldAt b 0x38 8 < 8 * fieldAt b 0x4E 2) 0x38 ++ zeroField b 0x4A 2 ++ zeroField b 0x4C 2
            ++ bad (!isPow2 (fieldAt b 0x4E 2) || fieldAt b 0x4E 2 > 1024) 0x4E ++ zeroField b 0x51 1
        else
          bad (fieldAt b 0x4A 2 + 8 > stride || fieldAt b 0x4C 2 + nval * w > stride) 0x1C
            ++ zeroField b 0x40 8 ++ bad (fieldAt b 0x4A 2 % 8 != 0) 0x4A ++ bad (fieldAt b 0x4C 2 % w != 0) 0x4C ++ zeroField b 0x4E 2
            ++ bad (nval == 0 || nval > 4 || vals / 16 % 4 ≥ nval || vals ≥ 128 || (bitOf vals 6 && !vault)) 0x51)

def checkCd (b : List Byte) : List Nat :=
  let comp := fieldAt b 0 1 == 0x40
  let mc := fieldAt b 0x2C 2
  outside b 0x28 4 1 1048576
    ++ (if comp then bad (mc < 64 || mc > 4096 || mc % 64 != 0) 0x2C ++ bad (fieldAt b 0x2E 1 > 3) 0x2E else zeroField b 0x2C 2 ++ zeroField b 0x2E 1)
    ++ bad (fieldAt b 0x2F 1 ≥ 16) 0x2F ++ reserved b 0x30 16

def checkMv (b : List Byte) : List Nat :=
  let op := fieldAt b 0 1
  let pages := op == 0x52
  (if pages then bad (fieldAt b 0x20 4 != 4096) 0x20 else bad (fieldAt b 0x20 4 == 0) 0x20)
    ++ bad (fieldAt b 0x24 4 == 0) 0x24
    ++ (if pages then bad (fieldAt b 0x28 4 != 1) 0x28 else bad (fieldAt b 0x28 4 == 0) 0x28)
    ++ reserved b 0x2C 4
    ++ (if op = 0x50 then [] else zeroField b 0x30 8 ++ zeroField b 0x38 8)
    ++ (if pages then zeroField b 0x40 8 ++ zeroField b 0x48 8 else [])
    ++ (if op = 0x50 then zeroField b 0x50 8 else [])
    ++ bad (fieldAt b 0x58 1 ≥ 16) 0x58 ++ reserved b 0x59 39

def checkHurdle (b : List Byte) : List Nat :=
  (List.range 4).flatMap (fun n => bad (fieldAt b (0x10 + 8 * n) 4 > 4095) (0x10 + 8 * n))
    ++ bad (fieldAt b 0x30 8 % 8 != 0) 0x30 ++ bad ((fieldAt b 0x30 8 == 0) != (fieldAt b 0x48 1 == 0)) 0x30
    ++ bad (fieldAt b 0x48 1 > 2) 0x48 ++ reserved b 0x49 3 ++ reserved b 0x50 48

/-- The fields in error of a descriptor alone; vault: its partition is one. -/
def checkFields (b : List Byte) (vault : Bool) : List Nat :=
  let op := fieldAt b 0 1
  match slotsOfOp op with
  | none => [0] ++ bad (fieldAt b 2 1 ≥ 4) 2 ++ bad (fieldAt b 3 1 ≥ 128) 3
  | some n => checkHeader b n ++
    (if fieldAt b 2 1 ≠ n then []
     else match kindOfOp op with
      | .mxa => checkMatrix b (op == 9)
      | .vxe => checkVx b
      | .spe => checkSp b
      | .tbe => checkTb b vault
      | .cde => checkCd b
      | .mve => checkMv b
      | .nothing => if op = 0 then reserved b 0x10 48 else if op = 2 then reserved b 0x18 40 else checkHurdle b)

/-- The scale planes a descriptor names. -/
def planesOf (b : List Byte) : List PlaneRef :=
  let op := fieldAt b 0 1
  let l := match kindOfOp op with
    | .mxa => planesMatrix b (op == 9)
    | .vxe => planesVx b
    | .spe => planesSp b
    | _ => []
  l.filter (fun p => 1 ≤ p.blk && p.blk ≤ 4 && p.addr % 64 == 0)

/-- R167: the header of a plane in error. -/
def headerBad (p : PlaneRef) (h : List Byte) : Bool :=
  let e := if bitOf (fieldAt h 3 1) 0 then 2 else 1
  let stride := fieldAt h 8 4
  fieldAt h 0 2 != 0x5350 || fieldAt h 2 1 != 1 || fieldAt h 3 1 ≥ 2 || fieldAt h 4 1 != p.fmt || fieldAt h 5 1 != p.blk
    || fieldAt h 6 2 != 0 || fieldAt h 0x18 40 != 0 || stride == 0 || stride % 64 != 0 || fieldAt h 12 4 < p.rows || stride < p.ents * e
    || (p.written && fieldAt h 16 8 % 8 != 0)

def headerOf (p : PlaneRef) (h : List Byte) : ScaleHdr :=
  ⟨p.off, p.addr, bitOf (fieldAt h 3 1) 0, fieldAt h 8 4, if p.written then fieldAt h 16 8 else 0⟩

/-- What the reads of a check give. -/
structure CheckRun where
  dev  : Dev
  errs : List Nat
  hdrs : List ScaleHdr
  exp  : List Byte
  fail : Option (Resp × Nat)
  wait : Bool

/-- One read of a check. -/
def CheckRun.read (c : CheckRun) (id : EngId) (addr n : Nat) (k : CheckRun → List Byte → CheckRun) : CheckRun :=
  if c.wait then c
  else
    let r := runEng c.dev id (readE id addr n .normal)
    match r.1 with
    | .ok bs => k { c with dev := r.2 } bs
    | .error (.wait _) => { c with dev := r.2, wait := true }
    | .error (.err code a) => { c with dev := r.2, fail := if c.fail.isSome then c.fail else some (code, a) }

/-- A descriptor checked whole: its fields, the headers of its scale planes, the expansion parameters of EXPAND = 2. -/
def Dev.checkDesc (s : Dev) (q : Nat) (b : List Byte) : CheckRun :=
  let id := s.qmId q .fetch
  let vault := match s.partOfQueue q with | some p => s.isVault p | none => false
  let c : CheckRun := ⟨s, checkFields b vault, [], [], none, false⟩
  let wellSized := slotsOfOp (fieldAt b 0 1) == some (fieldAt b 2 1)
  if !wellSized then c
  else
    let c := (planesOf b).foldl (fun c p => c.read id p.addr 64 (fun c h =>
      { c with errs := c.errs ++ bad (headerBad p h) p.off, hdrs := c.hdrs ++ [headerOf p h] })) c
    if kindOfOp (fieldAt b 0 1) == .mxa && (mxFields b).expand == 2 then
      c.read id (fieldAt b 0x70 8) 8 (fun c h => { c with exp := h, errs := c.errs ++ bad (fieldAt h 3 5 != 0) 0x70 })
    else if fieldAt b 0 1 = 0x20 then
      match c.hdrs with
      | [t, o] => { c with errs := c.errs ++ bad (t.split != o.split) 0x68 }
      | _ => c
    else c

/-- The number of tiles of a well-formed descriptor (R127, R215, R222, R237, R242); that of a TBE descriptor is found as its
segment list is read. -/
def tilesOf (b : List Byte) : Nat :=
  let op := fieldAt b 0 1
  match kindOfOp op with
  | .mxa => let f := mxFields b; ceilDiv f.m f.tm * ceilDiv f.n f.tn
  | .vxe => let f := vxFields b; if f.tc = 0 then ceilDiv f.rows f.tr else ceilDiv f.rows f.tr * ceilDiv f.cols f.tc
  | .spe => let f := spFields b; ceilDiv f.count f.tile
  | .tbe => 2 ^ 60
  | .cde => ceilDiv (fieldAt b 0x28 4) 16
  | .mve => ceilDiv (fieldAt b 0x20 4 * fieldAt b 0x24 4 * fieldAt b 0x28 4) 262144
  | .nothing => 0

/-! Chains (R246). -/

/-- A descriptor carries CHAIN, CHAIN_DROP. -/
def hasChain (b : List Byte) : Bool := bitOf (fieldAt b 3 1) 2
def hasDrop (b : List Byte) : Bool := bitOf (fieldAt b 3 1) 3

/-- Members fetched of the chain at the front: those up to the first without CHAIN, at most five; none where the rest is not yet
fetched. -/
def chainMembers : Nat → List (List Byte) → Option (List (List Byte))
  | 0, _ => some []
  | _ + 1, [] => none
  | n + 1, b :: bs => if hasChain b then (chainMembers n bs).map (b :: ·) else some [b]

/-- The output fields of a chain member, as a later member's X must repeat them: ADDR, STRIDE, FMT, BLK, SCALE_ADDR. -/
def outFields (b : List Byte) : List Nat :=
  if kindOfOp (fieldAt b 0 1) == .mxa then
    let f := mxFields b
    [fieldAt b 0x20 8, fieldAt b 0x48 4, f.cFmt, f.cBlk, fieldAt b 0x68 8]
  else
    let f := vxFields b
    [fieldAt b 0x28 8, fieldAt b 0x44 4, f.oFmt, f.oBlk, fieldAt b 0x70 8]

/-- The extents of the first member: rows, columns, tile rows, tile columns. -/
def extents (b : List Byte) : List Nat :=
  if kindOfOp (fieldAt b 0 1) == .mxa then let f := mxFields b; [f.m, f.n, f.tm, f.tn]
  else let f := vxFields b; [f.rows, f.cols, f.tr, f.tc]

/-- R246's errors at a later member. -/
def linkErrors (first prev b : List Byte) : List Nat :=
  let o := outFields prev
  let e := extents first
  let f := vxFields b
  let chk := fun (l : List Nat) (i v off : Nat) => bad (l.getD i 0 != v) off
  if fieldAt b 0 1 ≠ 0x10 ∧ fieldAt b 0 1 ≠ 0x11 then [0]
  else chk o 0 (fieldAt b 0x10 8) 0x10 ++ chk o 1 (fieldAt b 0x38 4) 0x38 ++ chk o 2 f.xFmt 0x4D ++ chk o 3 f.xBlk 0x50
    ++ chk o 4 (fieldAt b 0x58 8) 0x58 ++ chk e 0 f.rows 0x30 ++ chk e 1 f.cols 0x34 ++ chk e 2 f.tr 0x48 ++ chk e 3 f.tc 0x4A

/-- R246's errors of each member of a chain, or of a descriptor outside any. -/
def chainErrors (ms : List (List Byte)) : List (List Nat) :=
  let first := ms.headD []
  let ops := [0x08, 0x09, 0x10, 0x11]
  (ms.zip (List.range ms.length)).map fun m =>
    let last := m.2 + 1 == ms.length
    bad (last && hasDrop m.1) 3 ++ bad (m.2 ≥ 3 && hasChain m.1) 3
      ++ (if ms.length = 1 then [] else if m.2 = 0 then bad (!ops.contains (fieldAt m.1 0 1)) 0
          else linkErrors first (ms.getD (m.2 - 1) []) m.1)

end Sys2Proof.Machine
end

