-- ==== Sys2Proof/Machine/QueueCmds.lean ====
section
/-! DEFINITION. The commands of queues: doorbells, fetch and acceptance, false starts, stops, binding, hurdles and tokens,
completions and records (file 09), and the issue of tiles (R267, R285). -/

namespace Sys2Proof.Machine

open Sys2Proof

/-- The queue's context keeps it from fetching: FAULTED, TORN, or a procedure that stops it (R300, R302). -/
def Dev.fetchStopped (s : Dev) (q : Nat) : Bool :=
  let c := s.ctxOfQueue q
  s.ctxState c == 5 || s.ctxState c == 6 || (match (s.cx c).proc with | .fault | .disable _ => true | _ => false)

/-! Doorbells (R260). -/

/-- A write to DB_q. -/
def Dev.writeDb (s : Dev) (q : Nat) (w : Word) : Dev :=
  let v := bitsOf w.toNat 0 32
  let head := s.fld F.Q_POS_HEAD q
  let disabling := match (s.cx (s.ctxOfQueue q)).proc with | .disable _ => true | _ => false
  if s.queueState q = 0 || disabling then s.count F.QM_COUNTS_DB_IGNORED (q / 128) 1
  else if bitsOf w.toNat 48 16 ≠ s.fld F.Q_CFG_DB_KEY q then s.count F.QM_COUNTS_DB_BADKEY (q / 128) 1
  else if sub32 v head > s.ringSlots q then (s.count F.Q_COUNTS_DB_OVERRUN q 1).event q ⟨2, v, 0⟩
  else if sub32 v (s.fld F.Q_POS_TAIL q) ≥ 2 ^ 31 then s.count F.Q_COUNTS_DB_STALE q 1
  else
    let s := s.setFld F.Q_POS_TAIL q v
    let st := s.queue q
    let s := match st.fstart with
      | some f => if s.queueState q = 2 then s.setQueue q { st with fstart := some { f with due := s.time, wait := 8 } } else s
      | none => s
    s.settle (s.ctxOfQueue q)

def execDoorbell (who : Who) (q : QueueIx) (v : Word) (s : State) : Host.Outcome State Fault Refusal :=
  s.after (s.dev.asWriter who ⟨.DB, q⟩ v (fun d w => d.writeDb q w))

/-! Fetch (R259, R261, R262). -/

/-- A descriptor read: its first slot and, where GEN matches and the header fits the ring and the slots that may be read, its continuation
slots. -/
def fetchE (id : EngId) (base limit slot gen room : Nat) : Eng (List Byte) := do
  let a ← readE id (base + 64 * slot) 64 .normal
  let n := fieldAt a 2 1 % 4
  if fieldAt a 1 1 ≠ gen || n < 2 || slot + n > limit || n > room then return a
  else
    let b ← readE id (base + 64 * (slot + 1)) (64 * (n - 1)) .normal
    return a ++ b

/-- The position of the next descriptor to be fetched: after those fetched, else HEAD, or the next slot of a fallback list. -/
def Dev.fetchPos (s : Dev) (q : Nat) : Nat :=
  let st := s.queue q
  match st.fetched.getLast? with
  | some f => if f.pos < 2 ^ 32 then (f.pos + f.bytes.length / 64) % 2 ^ 32 else f.pos + f.bytes.length / 64
  | none => match st.fallback with
    | some l => 2 ^ 32 + l.next
    | none => s.fld F.Q_POS_HEAD q

/-- The oldest position of the ring not completed. -/
def Dev.oldestPos (s : Dev) (q : Nat) : Nat :=
  match (s.queue q).inflight.find? (fun d => decide (d.pos < 2 ^ 32)) with
  | some d => d.pos
  | none => s.fld F.Q_POS_HEAD q

/-- Slots that may still be read from a position on: 64 ahead of the oldest descriptor not completed (R261), those of a fallback list
counted with the ring's, so that the save area can hold every accepted slot (R292). -/
def Dev.fetchRoom (s : Dev) (q pos : Nat) : Nat :=
  let st := s.queue q
  let held := (st.inflight.map (fun (d : Desc) => d.bytes.length / 64) ++ st.fetched.map (fun (f : Fetched) => f.bytes.length / 64)).sum
  64 - max held (if pos < 2 ^ 32 then sub32 pos (s.oldestPos q) else 0)

/-- The read of the descriptor at a position, of at most so many slots. -/
def Dev.fetchRun (s : Dev) (q pos room : Nat) : Except Stop (List Byte) × Dev :=
  let id := s.qmId q .fetch
  match (s.queue q).fallback with
  | some l => runEng s id (fetchE id (l.base * 4096) l.slots (pos - 2 ^ 32) 0 room)
  | none =>
    let n := s.ringSlots q
    runEng s id (fetchE id (s.fld F.Q_BASE_BASE q * 4096) n (pos % n) (genOfLap (pos / n)) room)

/-- What a read of the descriptor at a position leads to: it joins those fetched, or is a false start; one with more slots than may be read
yet is read again later. A fallback list's slots carry GEN 0, and another GEN is a format error judged at acceptance. -/
def Dev.fetchTake (s : Dev) (q pos : Nat) (bs : List Byte) : Dev :=
  let st := s.queue q
  let n := s.ringSlots q
  let gen := fieldAt bs 1 1
  if pos < 2 ^ 32 ∧ gen ≠ genOfLap (pos / n) then
    let s := (s.count F.Q_COUNTS_FALSE_STARTS q 1).setFld F.Q_STATUS_STATE q 2
    s.setQueue q { st with fstart := some ⟨pos, s.time, s.time + 8, 16, gen⟩ }
  else if fieldAt bs 2 1 % 4 > s.fetchRoom q pos then s
  else s.setQueue q { st with fetched := st.fetched ++ [⟨pos, bs, none⟩] }

/-- The next descriptor may be fetched. -/
def Dev.mayFetch (s : Dev) (q : Nat) : Bool :=
  let st := s.queue q
  let pos := s.fetchPos q
  let failed := match st.fetched.getLast? with | some f => f.err.isSome | none => false
  s.queueRuns q && s.queueState q == 1 && !s.fetchStopped q && !failed && !st.skip && decide (s.fetchRoom q pos ≥ 1)
    && (match st.fallback with
      | some l => decide (pos - 2 ^ 32 < l.slots)
      | none => pos != s.fld F.Q_POS_TAIL q)

/-- A descriptor as accepted. -/
def Dev.newDesc (s : Dev) (q pos head members : Nat) (bs : List Byte) (tiles : Nat) (hdrs : List ScaleHdr) (exp : List Byte) : Desc :=
  ⟨pos, bs, BitVec.ofNat 64 (s.fld F.Q_SEED_SEED q), s.time, head, members, tiles, false, 0, [], hdrs, exp, none, 0, 0, none, false, [],
   none, false, [], 0, []⟩

/-- HEAD, or the place in a fallback list, moves past n slots. -/
def Dev.passSlots (s : Dev) (q n : Nat) : Dev :=
  let st := s.queue q
  match st.fallback with
  | some l => s.setQueue q { st with fallback := if l.next + n ≥ l.slots then none else some { l with next := l.next + n } }
  | none => s.setFld F.Q_POS_HEAD q ((s.fld F.Q_POS_HEAD q + n) % 2 ^ 32)

/-- A SKIP that waits (R263): the unjudged descriptor at HEAD is read, and completes SKIPPED; its slot count is its header's where GEN
matches and the header is well formed. -/
def Dev.skipHead (s : Dev) (q : Nat) : Dev :=
  let pos := s.fld F.Q_POS_HEAD q
  let n := s.ringSlots q
  let r := s.fetchRun q pos 1
  match r.1 with
  | .error (.wait _) => r.2
  | x =>
    let bs := match x with | .ok bs => bs | _ => []
    let ok := fieldAt bs 1 1 == genOfLap (pos / n)
      && (match slotsOfOp (fieldAt bs 0 1) with | some k => (checkHeader bs k).isEmpty && decide (pos % n + k ≤ n) | none => false)
    let s := (r.2.setQueue q { r.2.queue q with skip := false }).passSlots q (if ok then fieldAt bs 2 1 else 1)
    let d := { s.newDesc q pos pos 1 (if ok then bs else leBytes 64 0) 0 [] [] with status := some 0x09 }
    (s.setQueue q { s.queue q with inflight := (s.queue q).inflight ++ [d] }).settle (s.ctxOfQueue q)

/-- One fetch: of a descriptor, or of the slot that a SKIP waits for. -/
def Dev.fetchNext (s : Dev) (q : Nat) : Dev :=
  if (s.queue q).skip && s.queueRuns q then s.skipHead q
  else if !s.mayFetch q then s
  else
    let pos := s.fetchPos q
    let r := s.fetchRun q pos (s.fetchRoom q pos)
    match r.1 with
    | .ok bs => r.2.fetchTake q pos bs
    | .error (.wait _) => r.2
    | .error (.err code a) => r.2.setQueue q { r.2.queue q with fetched := (r.2.queue q).fetched ++ [⟨pos, [], some (code, a)⟩] }

def execDescriptorFetch (q : QueueIx) (s : State) : Host.Outcome State Fault Refusal := s.after (s.dev.fetchNext q)

/-! Acceptance (R265, R266). -/

/-- Errors of a member that its ring or list gives: a slot past its end (R258, R299), a GEN of a fallback list. -/
def Dev.placeErrors (s : Dev) (q : Nat) (f : Fetched) : List Nat :=
  let n := fieldAt f.bytes 2 1 % 4
  match (s.queue q).fallback with
  | some l => bad (fieldAt f.bytes 1 1 != 0) 1 ++ bad (f.pos - 2 ^ 32 + n > l.slots) 2
  | none => bad (f.pos % s.ringSlots q + n > s.ringSlots q) 2

/-- A ring access that failed stops the queue (R264, R564). -/
def Dev.ringStop (s : Dev) (q : Nat) (code : Resp) (addr : Nat) : Dev :=
  let s := s.setQueue q { s.queue q with fetched := [], fstart := none }
  (s.stopQueue q 4 code.num).event q (stoppedRec 4 code.num addr)

/-- A chain, or a descriptor, with an error: every member ends FORMAT, HEAD passes it, the queue stops, the context faults. -/
def Dev.acceptBad (s : Dev) (q : Nat) (ms : List (Fetched × List Nat)) : Dev :=
  let head := (ms.head?.map (·.1.pos)).getD 0
  let slots := fun (m : Fetched × List Nat) => if m.2.any (· < 16) then 1 else fieldAt m.1.bytes 2 1
  let mk := fun (m : Fetched × List Nat) =>
    let bs := if m.2.any (· < 16) then m.1.bytes.take 4 ++ [0, 0] ++ m.1.bytes.drop 6 else m.1.bytes
    let low := m.2.foldl min 0xFFFFFFFF
    { s.newDesc q m.1.pos head ms.length bs 0 [] [] with status := some 0x10, detail := low }
  let ds := ms.map mk
  let last := (ds.getLast?.map (·.pos)).getD 0
  let s := s.passSlots q ((ms.map slots).sum)
  let s := s.setQueue q { s.queue q with inflight := (s.queue q).inflight ++ ds, fetched := [], fstart := none }
  let s := s.modDesc q last (fun d => { d with post := [stoppedRec 2 0 0] })
  let c := s.ctxOfQueue q
  ((s.stopQueue q 2 0).fault c 1 0 0 0).settle c

/-- A well-formed chain or descriptor accepted; SET_SEED gives its seed to every descriptor accepted after it (R265); a read of the checks that
failed ends that member RESPONSE. -/
def Dev.acceptGood (s : Dev) (q : Nat) (ms : List (Fetched × CheckRun)) : Dev :=
  let head := (ms.head?.map (·.1.pos)).getD 0
  let tiles := (ms.head?.map (fun m => tilesOf m.1.bytes)).getD 0
  let ds := ms.map (fun m => s.newDesc q m.1.pos head ms.length m.1.bytes tiles m.2.hdrs m.2.exp)
  let s := s.passSlots q ((ms.map (fun m => m.1.bytes.length / 64)).sum)
  let s := s.setQueue q { s.queue q with inflight := (s.queue q).inflight ++ ds, fetched := (s.queue q).fetched.drop ms.length }
  let s := match ds with
    | d :: _ => if d.op = 2 then s.setFld F.Q_SEED_SEED q (fieldAt d.bytes 0x10 8) else s
    | [] => s
  let s := match ms.find? (fun m => m.2.fail.isSome) with
    | some (f, ⟨_, _, _, _, some (code, a), _⟩) => s.failDesc q f.pos 0x11 code.num a 2 code.num
    | _ => s
  s.settle (s.ctxOfQueue q)

/-- The members' checks, one after another. -/
def Dev.checkAll (s : Dev) (q : Nat) : List Fetched → List (Fetched × CheckRun) × Dev
  | [] => ([], s)
  | f :: fs =>
    let c := s.checkDesc q f.bytes
    let r := c.dev.checkAll q fs
    ((f, c) :: r.1, r.2)

/-- The descriptor, or chain, at the front of those fetched is judged. -/
def Dev.acceptNext (s : Dev) (q : Nat) : Dev :=
  let st := s.queue q
  let x := (s.cx (s.ctxOfQueue q)).pacer
  let good := st.fetched.takeWhile (·.err.isNone)
  let err := (st.fetched.drop good.length).head?.bind (·.err)
  if !s.queueRuns q || !(s.queueState q == 1 || s.queueState q == 2) || s.fetchStopped q || st.fetched.isEmpty then s
  else match chainMembers 5 (good.map (·.bytes)) with
    | none => match err with
      | some (code, a) => s.ringStop q code a
      | none => s
    | some l =>
      let fs := good.take l.length
      let held := x.armed && x.slots != 0 && fs.any (fun f => decide (f.pos < 2 ^ 32 ∧ sub32 f.pos x.pEnd < 2 ^ 31))
      if held then s
      else
        let r := s.checkAll q fs
        if r.1.any (fun m => m.2.wait) then r.2
        else
          let ms := (r.1.zip (chainErrors (fs.map (·.bytes)))).map (fun m => (m.1.1, m.1.2, m.1.2.errs ++ s.placeErrors q m.1.1 ++ m.2))
          if ms.any (fun m => !m.2.2.isEmpty) then r.2.acceptBad q (ms.map (fun m => (m.1, m.2.2)))
          else r.2.acceptGood q (ms.map (fun m => (m.1, m.2.1)))

def execDescriptorAccept (q : QueueIx) (s : State) : Host.Outcome State Fault Refusal := s.after (s.dev.acceptNext q)

/-! False starts (R262). -/

/-- The slot is reread: a match returns the queue to ACTIVE. -/
def Dev.reread (s : Dev) (q : Nat) : Dev :=
  match (s.queue q).fstart with
  | none => s
  | some f =>
    if s.queueState q ≠ 2 || !s.queueRuns q || s.fetchStopped q then s
    else
      let r := s.fetchRun q f.pos (s.fetchRoom q f.pos)
      let active := fun (s : Dev) => (s.setFld F.Q_STATUS_STATE q 1).setQueue q { s.queue q with fstart := none }
      match r.1 with
      | .ok bs =>
        let n := s.ringSlots q
        if fieldAt bs 1 1 = genOfLap (f.pos / n) then (active r.2).fetchTake q f.pos bs
        else r.2.setQueue q { r.2.queue q with
          fstart := some { f with due := s.time + f.wait, wait := min (2 * f.wait) 1024, gen := fieldAt bs 1 1 } }
      | .error (.wait _) => r.2
      | .error (.err code a) =>
        let s := active r.2
        s.setQueue q { s.queue q with fetched := (s.queue q).fetched ++ [⟨f.pos, [], some (code, a)⟩] }

def execFalseStartReread (q : QueueIx) (s : State) : Host.Outcome State Fault Refusal := s.after (s.dev.reread q)

/-- Nothing fetched can be accepted: it is no whole descriptor or chain yet. -/
def Dev.noneWhole (s : Dev) (q : Nat) : Bool := (chainMembers 5 (((s.queue q).fetched.takeWhile (·.err.isNone)).map (·.bytes))).isNone

/-- QM_FS_LIMIT has passed; every earlier descriptor has been accepted by then, but the members of a chain that is not whole. -/
def Dev.falseStop (s : Dev) (q : Nat) : Dev :=
  match (s.queue q).fstart with
  | none => s
  | some f =>
    if s.queueState q ≠ 2 || !s.noneWhole q || !s.queueRuns q then s
    else
      let a := s.fld F.Q_BASE_BASE q * 4096 + 64 * (f.pos % s.ringSlots q)
      let s := s.setQueue q { s.queue q with fstart := none, fetched := [] }
      (s.stopQueue q 1 0).pushRec q [.event ⟨1, f.gen, a⟩ f.pos 0]

def execFalseStartStop (q : QueueIx) (s : State) : Host.Outcome State Fault Refusal := s.after (s.dev.falseStop q)

/-! RESUME and SKIP (R263). -/

/-- A STOPPED queue goes on; after a CQ_ACCESS stop it first writes the waiting record again. -/
def Dev.resume (s : Dev) (q : Nat) : Dev :=
  let cq := s.fld F.Q_STATUS_CAUSE q == 5
  let s := (s.setFld F.Q_STATUS_STATE q 1).setQueue q { s.queue q with fetched := [], fstart := none, skip := false }
  if cq then s.writeRecord q else s

/-- A write of Q_CTRL; SKIP prevails over RESUME. A SKIP whose read must wait is done by a later fetch. -/
def Dev.writeQCtrl (s : Dev) (q : Nat) (w : Word) : Dev :=
  let go := F.Q_CTRL_RESUME.get w == 1 || F.Q_CTRL_SKIP.get w == 1
  if !go || s.queueState q ≠ 3 then s
  else if F.Q_CTRL_SKIP.get w = 1 ∧ s.fld F.Q_STATUS_CAUSE q = 1 ∧ s.fld F.Q_POS_HEAD q ≠ s.fld F.Q_POS_TAIL q then
    let s := s.resume q
    (s.setQueue q { s.queue q with skip := true }).skipHead q
  else s.resume q

def execQueueResume (who : Who) (q : QueueIx) (s : State) : Host.Outcome State Fault Refusal :=
  s.after (s.dev.asWriter who ⟨.Q_CTRL, q⟩ 1 (fun d w => d.writeQCtrl q w))
def execQueueSkip (who : Who) (q : QueueIx) (resume : Bool) (s : State) : Host.Outcome State Fault Refusal :=
  s.after (s.dev.asWriter who ⟨.Q_CTRL, q⟩ (if resume then 3 else 2) (fun d w => d.writeQCtrl q w))

/-! Enable and disable (R252, R264, R282, R302). -/

/-- The binding of an enabled queue: positions and records at zero, the context READY with its accounting and pacer at zero. The HOLDOFF
interval of the queue's last MSI goes on. -/
def Dev.bind (s : Dev) (q c : Nat) : Dev :=
  let s := (s.setFlag F.Q_CFG_ENABLE q true).setReg .Q_POS q 0
  let s := (s.setReg .Q_STATUS q 0).setFld F.Q_STATUS_STATE q 1
  let s := (s.setQueue q { QueueSt.init with lastDone := s.time, lastMsi := (s.queue q).lastMsi, msiPend := (s.queue q).msiPend }).setCx c .init
  let s := ((s.setFld F.CTX_STATE_STATE c 1).setFld F.CTX_STATE_QUEUE c q).setFlag F.CTX_STATE_BOUND c true
  let s := (s.setFlag F.CTX_STATE_DRAINED c false).setFlag F.CTX_PACE_ARM c false
  [RegName.CTX_ACCT_RUN, .CTX_ACCT_WAIT, .CTX_ACCT_PREEMPT, .CTX_ACCT_HOLD, .CTX_PACE_STATUS].foldl (fun s r => s.clearReg r c) s

/-- A write of Q_CFG: while ENABLE = 1 it changes ENABLE alone; while a disable procedure runs it changes nothing; ENABLE written as
1 in DISABLED binds. -/
def Dev.writeQCfg (s : Dev) (q : Nat) (w : Word) : Dev :=
  let on := s.flag F.Q_CFG_ENABLE q
  let want := F.Q_CFG_ENABLE.get w == 1
  if on then
    if want then s else (s.setFlag F.Q_CFG_ENABLE q false).disableCtx (s.ctxOfQueue q) 1
  else if s.queueState q ≠ 0 then (if want then s else s.disableCtx (s.ctxOfQueue q) 1)
  else
    let s := s.storeReg ⟨.Q_CFG, q⟩ (F.Q_CFG_ENABLE.put w 0)
    let c := s.ctxOfQueue q
    match s.partOfQueue q with
    | none => s
    | some p =>
      if !want || !s.partRuns p then s
      else if s.partOfCtx c ≠ some p || s.bound c then s.setFlag F.QM_STATUS_BIND_CONFLICT (q / 128) true
      else s.bind q c

def execQueueEnable (who : Who) (q : QueueIx) (cfg : Word) (s : State) : Host.Outcome State Fault Refusal :=
  s.after (s.dev.asWriter who ⟨.Q_CFG, q⟩ (F.Q_CFG_ENABLE.put cfg 1) (fun d w => d.writeQCfg q w))
def execQueueDisable (who : Who) (q : QueueIx) (cfg : Word) (s : State) : Host.Outcome State Fault Refusal :=
  s.after (s.dev.asWriter who ⟨.Q_CFG, q⟩ (F.Q_CFG_ENABLE.put cfg 0) (fun d w => d.writeQCfg q w))

/-- Registers of a queue that a write leaves while ENABLE = 1: Q_BASE, Q_CQ_BASE, Q_SEED. -/
def Dev.writeQFixed (s : Dev) (r : RegId) (w : Word) : Dev := if s.flag F.Q_CFG_ENABLE r.ix || s.queueState r.ix != 0 then s else s.storeReg r w

/-! Tiles issued (R267, R274, R285, R288). -/

/-- The clusters of a queue's region that take tiles. -/
def Dev.issueClusters (s : Dev) (q : Nat) : List Nat :=
  ((List.range 4).map (fun i => 4 * (q / 128) + i)).filter (s.flag F.CL_STATUS_IN_SERVICE)

/-- The deque with the fewest tiles, the lowest cluster on a tie; none while all are full. -/
def Dev.shortest (s : Dev) (cs : List Nat) : Option Nat :=
  let room := cs.filter (fun c => decide ((s.deque c).length < 256))
  match room with
  | [] => none
  | c0 :: rest => some (rest.foldl (fun a b => if (s.deque b).length < (s.deque a).length then b else a) c0)

/-- Tiles of a unit that are out: queued or on engines. -/
def Dev.outTiles (s : Dev) (q pos : Nat) : List Nat := s.queuedTiles q pos ++ s.startedTiles q pos

/-- The lowest tile of a unit neither finished nor out, within the 64 that the save area can name. -/
def Dev.nextTile (s : Dev) (q : Nat) (d : Desc) : Option Nat :=
  let out := s.outTiles q d.pos
  if out.length ≥ 64 then none
  else ((List.range 64).map (d.base + ·)).find? (fun i => decide (i < d.tiles) && !d.finished i && !out.contains i)

/-- Every tile of a unit is finished or out. -/
def Dev.allIssued (s : Dev) (q : Nat) (d : Desc) : Bool :=
  d.status.isSome || d.stopped.isSome || decide (d.finCount + (s.outTiles q d.pos).length ≥ d.tiles)

/-- The first unit in queue order with tiles not issued, if the ones before it let it issue. -/
def Dev.issueUnit (s : Dev) (q : Nat) : Option Desc :=
  let l := (s.queue q).inflight
  match l.find? (fun d => d.head == d.pos && !s.allIssued q d) with
  | none => none
  | some d =>
    let before := l.takeWhile (fun x => x.pos != d.pos)
    let acq := l.any (fun x => x.head == d.head && x.acq)
    if before.any (·.isHurdle) || (acq && !before.isEmpty) then none else some d

/-- One tile issued. -/
def Dev.issue (s : Dev) (q : Nat) : Dev :=
  let c := s.ctxOfQueue q
  if !s.queueRuns q || !s.bound c || s.ctxState c ≠ 2 || (s.cx c).proc != .none then s
  else match s.issueUnit q with
    | none => s
    | some d =>
      match s.nextTile q d with
      | none => s
      | some ix =>
        let acq := (s.queue q).inflight.any (fun x => x.head == d.head && x.acq)
        let first := fun (s : Dev) =>
          let s := if acq && !d.acqDone then (match s.partOfQueue q with | some p => s.ccDropPart p | none => s) else s
          s.mapDescs q (fun x => if x.head = d.pos then { x with issued := true, acqDone := true } else x)
        let t : Tile := ⟨q, d.pos, ix⟩
        let k := kindOfOp d.op
        if k.table then
          if k == .tbe && !(s.outTiles q d.pos).isEmpty then s
          else (first s).setTableQ (q / 128) (s.tableQ (q / 128) ++ [t])
        else match s.shortest (s.issueClusters q) with
          | none => s
          | some cl => (first s).setDeque cl (s.deque cl ++ [t])

def execTileIssue (q : QueueIx) (s : State) : Host.Outcome State Fault Refusal := s.after (s.dev.issue q)

/-! NOP and SET_SEED (R257, R265). -/

/-- The first unsettled descriptor of an operation without tiles settles OK, unless a hurdle before it still holds the queue (R269). -/
def Dev.settleOp (s : Dev) (q op : Nat) : Dev :=
  if !s.queueRuns q then s
  else
    let l := (s.queue q).inflight
    match l.find? (fun d => d.op == op && d.status.isNone && d.stopped.isNone) with
    | none => s
    | some d =>
      if (l.takeWhile (fun x => x.pos != d.pos)).any (fun x => x.isHurdle && x.status.isNone) then s
      else s.modDesc q d.pos (fun d => { d with status := some 0 })

def execNop (q : QueueIx) (s : State) : Host.Outcome State Fault Refusal := s.after (s.dev.settleOp q 0)
/-- The seed itself is taken at acceptance. -/
def execSetSeed (q : QueueIx) (s : State) : Host.Outcome State Fault Refusal := s.after (s.dev.settleOp q 2)

/-! Hurdles and tokens (R268–R273). -/

/-- A hurdle arrives once every earlier descriptor has completed: its signal, then its condition. -/
def Dev.hurdleArrive (s : Dev) (q : Nat) : Dev :=
  match (s.queue q).inflight.head? with
  | none => s
  | some d =>
    if !d.isHurdle || d.arrived.isSome || d.status.isSome || d.stopped.isSome || !s.queueRuns q then s
    else
      let s := s.modDesc q d.pos (fun d => { d with arrived := some s.time })
      let s := s.applySignal q d
      match s.desc q d.pos with
      | some d => if d.waits then s.evalHurdle q d else s
      | none => s

def execHurdleArrive (q : QueueIx) (s : State) : Host.Outcome State Fault Refusal := s.after (s.dev.hurdleArrive q)

/-- A hurdle that uses MEM_ADDR polls. -/
def Dev.hurdlePoll (s : Dev) (q : Nat) : Dev :=
  match (s.queue q).inflight.find? (fun d => d.waits && fieldAt d.bytes 0x30 8 != 0) with
  | some d => if s.queueRuns q then s.evalHurdle q d else s
  | none => s

def execHurdlePoll (q : QueueIx) (s : State) : Host.Outcome State Fault Refusal := s.after (s.dev.hurdlePoll q)

/-- LIMIT has passed without a pass. -/
def Dev.hurdleExpire (s : Dev) (q : Nat) : Dev :=
  match (s.queue q).inflight.find? (·.waits) with
  | some d =>
    if fieldAt d.bytes 0x4C 4 = 0 || !s.queueRuns q then s
    else
      let s := s.modDesc q d.pos (fun d => { d with status := some 0x13, post := [stoppedRec 3 0 0] })
      (s.setQueue q { s.queue q with fetched := [], fstart := none }).stopQueue q 3 0
  | none => s

def execHurdleExpire (q : QueueIx) (s : State) : Host.Outcome State Fault Refusal := s.after (s.dev.hurdleExpire q)

/-- A write of TOKEN_t in the window of any manager of the partition reaches its one file. -/
def Dev.writeToken (s : Dev) (g t : Nat) (w : Word) : Dev :=
  match s.partOfRegion g with
  | some p => if t = 0 then s else s.setToken p t (F.TOKEN_VALUE.get w)
  | none => s

def execTokenWrite (who : Who) (g : RegionIx) (t : Fin 4096) (v : Word) (s : State) : Host.Outcome State Fault Refusal :=
  s.after (s.dev.asWriter who ⟨.TOKEN, g * 4096 + t⟩ v (fun d w => d.writeToken g t w))

/-! Completions, records and MSIs (R274–R278). -/

def execDescriptorComplete (q : QueueIx) (s : State) : Host.Outcome State Fault Refusal := s.after (s.dev.completeNext q)
def execCompletionRecordWrite (q : QueueIx) (s : State) : Host.Outcome State Fault Refusal := s.after (s.dev.writeRecord q)

/-- A HOLDOFF interval ends: one MSI stands for every record in between. -/
def Dev.holdoffEnd (s : Dev) (q : Nat) : Dev :=
  let st := s.queue q
  if !st.msiPend || !s.queueRuns q then s else (s.setQueue q { st with lastMsi := none }).queueMsi q

def execMsiHoldoffExpire (q : QueueIx) (s : State) : Host.Outcome State Fault Refusal := s.after (s.dev.holdoffEnd q)

/-- A write of Q_CQ_HEAD; CQ_FULL falls once there is room. -/
def Dev.writeCqHead (s : Dev) (q : Nat) (w : Word) : Dev :=
  let s := s.storeReg ⟨.Q_CQ_HEAD, q⟩ w
  if sub32 (s.queue q).cqPos (s.fld F.Q_CQ_HEAD_HEAD q) < s.cqSlots q then s.setFlag F.Q_STATUS_CQ_FULL q false else s

def execCqHeadWrite (who : Who) (q : QueueIx) (v : Word) (s : State) : Host.Outcome State Fault Refusal :=
  s.after (s.dev.asWriter who ⟨.Q_CQ_HEAD, q⟩ v (fun d w => d.writeCqHead q w))

end Sys2Proof.Machine
end

