-- ==== Sys2Proof/Machine/ContextCmds.lean ====
section
/-! DEFINITION. The commands of contexts (file 10): run slots, laps, preemption with its save area, hold, clear, disable, drain, and
the pacer. -/

namespace Sys2Proof.Machine

open Sys2Proof

/-! Run slots and laps (R289, R290). -/

/-- The eligible contexts of a partition. -/
def Dev.eligibleOf (s : Dev) (p : Nat) : List Nat :=
  match s.partRec p with
  | some r => ((List.range r.ctxCount).map (r.ctxBase + ·)).filter (fun c => s.bound c && (s.cx c).eligible.isSome)
  | none => []

/-- Of two contexts, the one R289 grants first: priority, then eligible longest, then the lower ID. -/
def Dev.grantsBefore (s : Dev) (a b : Nat) : Bool :=
  let ea := (s.cx a).eligible.getD 0
  let eb := (s.cx b).eligible.getD 0
  decide (s.priority a > s.priority b) || (s.priority a == s.priority b && (decide (ea < eb) || (ea == eb && decide (a < b))))

/-- A free slot granted; a context with saved work restores first. -/
def Dev.grantSlot (s : Dev) (p : Nat) : Dev :=
  if !s.partRuns p || (s.runningOf p).length ≥ s.fld F.PART_LAP_RUN_MAX p then s
  else match s.eligibleOf p with
    | [] => s
    | c0 :: cs =>
      let c := cs.foldl (fun a b => if s.grantsBefore b a then b else a) c0
      let x := s.cx c
      let s := s.setCx c { x with lapStart := s.time, eligible := none, proc := if x.saved.isSome then .restore else x.proc }
      (s.setFld F.CTX_STATE_STATE c 2).settle c

def execRunSlotGrant (p : PartIx) (s : State) : Host.Outcome State Fault Refusal := s.after (s.dev.grantSlot p)

/-- A lap ends: preemption where an eligible context of equal or higher priority waits, else a new lap. -/
def Dev.lapEnd (s : Dev) (c : Nat) : Dev :=
  match s.partOfCtx c with
  | none => s
  | some p =>
    if s.ctxState c ≠ 2 || s.fld F.PART_LAP_LAP_LEN p = 0 || !((s.cx c).proc == .none || (s.cx c).proc == .restore) || !s.partRuns p then s
    else if (s.eligibleOf p).any (fun e => decide (s.priority e ≥ s.priority c)) && s.fld F.CTX_SAVE_BASE c != 0 then s.preempt c false
    else s.setCx c { s.cx c with lapStart := s.time }

def execLapEnd (c : CtxIx) (s : State) : Host.Outcome State Fault Refusal := s.after (s.dev.lapEnd c)

/-! Preemption (R291, R292). -/

/-- The bytes of a row of n elements of a format. -/
def rowBytes (fmt n : Nat) : Nat := match Fmt.ofCode fmt with | some f => ceilDiv (f.bits * n) 8 | none => 0

/-- The ACC range of a matrix descriptor overlaps its C range (R143). -/
def Desc.accOverC (d : Desc) : Bool :=
  let f := mxFields d.bytes
  let a := fieldAt d.bytes 0x28 8
  let c := fieldAt d.bytes 0x20 8
  let aEnd := a + (f.m - 1) * fieldAt d.bytes 0x4C 4 + rowBytes f.accFmt f.n
  let cEnd := c + (f.m - 1) * fieldAt d.bytes 0x48 4 + rowBytes f.cFmt f.n
  f.accIn && decide (a < cEnd) && decide (c < aEnd)

/-- Abandoning the tile of an array would tear its context: a fold is written and ACC overlaps C. -/
def Dev.wouldTear (s : Dev) (r : MxRun) : Bool :=
  decide (r.cols > 0) && (match s.desc r.tile.q r.tile.pos with | some d => d.accOverC | none => false)

/-- GRACE has passed: HELD tiles are abandoned, the tiles that this would tear are waited for and counted LATE once. -/
def Dev.graceEnd (s : Dev) (c : Nat) : Dev :=
  match (s.cx c).proc with
  | .preempt _ =>
    let q := s.ctxQueue c
    let held := s.arrays.filter (fun e => e.2.tile.q == q && e.2.held.isSome)
    let s := held.foldl (fun s e => if s.wouldTear e.2 then s else s.dropArray e.1) s
    let torn := held.any (fun e => s.wouldTear e.2)
    if torn && !(s.cx c).late then (s.setCx c { s.cx c with late := true }).count F.CTX_ACCT_PREEMPT_LATE c 1 else s
  | _ => s

def execPreemptGraceExpire (c : CtxIx) (s : State) : Host.Outcome State Fault Refusal := s.after (s.dev.graceEnd c)

/-- An entry of the save area: position, first slot copy, slots, flags, tiles and seed. -/
def saveEntry (d : Desc) (slot : Nat) : List Byte :=
  let bits := ((List.range 64).filter (fun n => d.fin.contains (d.base + n))).foldl (fun m n => m + 2 ^ n) 0
  leBytes 4 (recPos d.pos) ++ leBytes 1 slot ++ leBytes 1 (d.bytes.length / 64) ++ leBytes 1 (if d.issued then 1 else 0) ++ leBytes 1 0
    ++ leBytes 8 d.base ++ leBytes 8 bits ++ leBytes 8 d.seed.toNat

/-- Entries of the saved descriptors, each with the index of its first slot copy. -/
def saveEntries : List Desc → Nat → List Byte
  | [], _ => []
  | d :: ds, slot => saveEntry d slot ++ saveEntries ds (slot + d.bytes.length / 64)

/-- The area as written, with CHECK taken as zero. -/
def Dev.saveArea (s : Dev) (c : Nat) (ds : List Desc) (saves : Nat) : List Byte :=
  let q := s.ctxQueue c
  let head := leBytes 2 0x4153 ++ leBytes 1 1 ++ leBytes 1 ds.length ++ leBytes 2 c ++ leBytes 2 q ++ leBytes 4 saves ++ leBytes 4 0
    ++ leBytes 4 (s.fld F.Q_POS_HEAD q) ++ leBytes 44 0
  bytesAt (head ++ bytesAt (saveEntries ds 0) 0 2048 ++ ds.flatMap (·.bytes)) 0 0x1840

/-- Four bytes put at an offset. -/
def putAt (bs : List Byte) (off : Nat) (v : List Byte) : List Byte := bs.take off ++ v ++ bs.drop (off + v.length)

/-- The save area is written once every started tile of the context is at its boundary. -/
def Dev.saveDone (s : Dev) (c : Nat) : Dev :=
  let x := s.cx c
  let q := s.ctxQueue c
  match x.proc with
  | .preempt hold =>
    if s.queueStarted q || !s.queueRuns q then s
    else
      let ds := (s.queue q).inflight.take 64
      let area := s.saveArea c ds (x.saves + 1)
      let chk := crc32c area
      let r := runEng s (s.qmId q .save) (writeE (s.fld F.CTX_SAVE_BASE c * 4096) (putAt area 12 (leBytes 4 chk)) .normal)
      match r.1 with
      | .ok _ =>
        let s := r.2.setCx c { r.2.cx c with proc := .none, saves := x.saves + 1, saved := some ⟨ds, chk⟩, late := false }
        let s := s.setFld F.CTX_STATE_STATE c (if hold then 4 else 3)
        (if hold then s else s.count F.CTX_ACCT_PREEMPT_PREEMPTS c 1).settle c
      | .error (.wait _) => r.2
      | .error (.err code a) => (r.2.fault c 2 code.num a 0).settle c
  | _ => s

def execSaveAreaWriteDone (c : CtxIx) (s : State) : Host.Outcome State Fault Refusal := s.after (s.dev.saveDone c)

/-! Restore (R293). -/

/-- The saved state of a descriptor as the area gives it at entry i. -/
def restoreDesc (area : List Byte) (n : Nat) (d : Desc) : Desc :=
  match (List.range n).find? (fun i => fieldAt area (0x40 + 32 * i) 4 == recPos d.pos) with
  | none => d
  | some i =>
    let e := 0x40 + 32 * i
    let base := fieldAt area (e + 8) 8
    let bits := fieldAt area (e + 16) 8
    { d with bytes := bytesAt area (0x840 + 64 * fieldAt area (e + 4) 1) (64 * fieldAt area (e + 5) 1)
             issued := bitOf (fieldAt area (e + 6) 1) 0, base := base, fin := ((List.range 64).filter (bitOf bits)).map (base + ·)
             seed := BitVec.ofNat 64 (fieldAt area (e + 24) 8) }

/-- The saved descriptors receive no records: a restore that failed takes them out of the queue. -/
def Dev.dropSaved (s : Dev) (q : Nat) (ds : List Desc) : Dev :=
  s.setQueue q { s.queue q with inflight := (s.queue q).inflight.filter (fun d => d.queued || !ds.any (fun x => x.pos == d.pos)) }

/-- The save area read on a grant is checked against what was written. -/
def Dev.restoreDone (s : Dev) (c : Nat) : Dev :=
  let x := s.cx c
  let q := s.ctxQueue c
  match x.proc, x.saved with
  | .restore, some sv =>
    if !s.queueRuns q then s
    else
      let r := runEng s (s.qmId q .save) (readE (s.qmId q .save) (s.fld F.CTX_SAVE_BASE c * 4096) 0x1840 .normal)
      let fail := fun (s : Dev) (cause resp a : Nat) => ((s.dropSaved q sv.descs).fault c cause resp a sv.descs.length).settle c
      match r.1 with
      | .ok bs =>
        let good := fieldAt bs 0 2 == 0x4153 && fieldAt bs 2 1 == 1 && fieldAt bs 4 2 == c && fieldAt bs 6 2 == q
          && fieldAt bs 8 4 == x.saves && fieldAt bs 12 4 == sv.check && crc32c (putAt bs 12 [0, 0, 0, 0]) == sv.check
        if !good then fail r.2 5 0 0
        else
          let s := r.2.mapDescs q (fun d => if sv.descs.any (fun y => y.pos == d.pos) then restoreDesc bs (fieldAt bs 3 1) d else d)
          (s.setCx c { s.cx c with proc := .none, saved := none }).settle c
      | .error (.wait _) => r.2
      | .error (.err code a) => fail r.2 2 code.num a
  | _, _ => s

def execRestoreReadDone (c : CtxIx) (s : State) : Host.Outcome State Fault Refusal := s.after (s.dev.restoreDone c)

/-! Writes of CTX_CTRL (R284, R300, R302). -/

/-- HOLD: a RUNNING context is preempted into HELD, another goes there at once. -/
def Dev.hold (s : Dev) (c : Nat) : Dev :=
  let st := s.ctxState c
  if s.fld F.CTX_SAVE_BASE c = 0 || (match (s.cx c).proc with | .disable _ | .fault => true | _ => false) then s
  else if st = 1 || st = 3 then (s.setFld F.CTX_STATE_STATE c 4).settle c
  else if st = 2 then s.preempt c true
  else s

def Dev.release (s : Dev) (c : Nat) : Dev := if s.ctxState c = 4 then (s.setFld F.CTX_STATE_STATE c 1).settle c else s

/-- CLEAR: the context is READY and fetch resumes at HEAD, where a false start is judged anew (R300). -/
def Dev.clearCtx (s : Dev) (c : Nat) : Dev :=
  if (s.ctxState c = 5 || s.ctxState c = 6) && s.flag F.CTX_STATE_DRAINED c then
    let q := s.ctxQueue c
    let s := if s.queueState q = 2 then (s.setFld F.Q_STATUS_STATE q 1).setQueue q { s.queue q with fstart := none } else s
    ((s.setFld F.CTX_STATE_STATE c 1).setFlag F.CTX_STATE_DRAINED c false).settle c
  else s

/-- A write of CTX_CTRL: PRIORITY, WEIGHT and FUNC, then the requests. -/
def Dev.writeCtxCtrl (s : Dev) (c : Nat) (w : Word) : Dev :=
  let old := s.reg .CTX_CTRL c
  let s := s.storeReg ⟨.CTX_CTRL, c⟩ w
  let f := s.fld F.CTX_CTRL_FUNC c
  let s := (s.setReg .CTX_CTRL c 0).setFld F.CTX_CTRL_PRIORITY c (F.CTX_CTRL_PRIORITY.get w)
  let s := (s.setFld F.CTX_CTRL_WEIGHT c (F.CTX_CTRL_WEIGHT.get w)).setFld F.CTX_CTRL_FUNC c (if f > 33 then F.CTX_CTRL_FUNC.get old else f)
  let s := if F.CTX_CTRL_HOLD.get w = 1 then s.hold c else s
  let s := if F.CTX_CTRL_RELEASE.get w = 1 then s.release c else s
  let s := if F.CTX_CTRL_CLEAR.get w = 1 then s.clearCtx c else s
  if F.CTX_CTRL_DISABLE.get w = 1 then s.disableCtx c 2 else s

def execCtxHold (who : Who) (c : CtxIx) (w : Word) (s : State) : Host.Outcome State Fault Refusal :=
  s.after (s.dev.asWriter who ⟨.CTX_CTRL, c⟩ (F.CTX_CTRL_HOLD.put w 1) (fun d w => d.writeCtxCtrl c w))
def execCtxRelease (who : Who) (c : CtxIx) (w : Word) (s : State) : Host.Outcome State Fault Refusal :=
  s.after (s.dev.asWriter who ⟨.CTX_CTRL, c⟩ (F.CTX_CTRL_RELEASE.put w 1) (fun d w => d.writeCtxCtrl c w))
def execCtxClear (who : Who) (c : CtxIx) (w : Word) (s : State) : Host.Outcome State Fault Refusal :=
  s.after (s.dev.asWriter who ⟨.CTX_CTRL, c⟩ (F.CTX_CTRL_CLEAR.put w 1) (fun d w => d.writeCtxCtrl c w))
def execCtxDisable (who : Who) (c : CtxIx) (w : Word) (s : State) : Host.Outcome State Fault Refusal :=
  s.after (s.dev.asWriter who ⟨.CTX_CTRL, c⟩ (F.CTX_CTRL_DISABLE.put w 1) (fun d w => d.writeCtxCtrl c w))

/-! Drain (R300–R302). -/

def execContextDrained (c : CtxIx) (s : State) : Host.Outcome State Fault Refusal := s.after (s.dev.drained c)

/-- DRAIN_LIMIT has passed since a fault or disable procedure began. -/
def Dev.drainLimit (s : Dev) (c : Nat) : Dev :=
  match (s.cx c).proc, s.partOfCtx c with
  | .fault, some p => s.escalate p 2
  | .disable _, some p => s.escalate p 2
  | _, _ => s

def execDrainLimitExpire (c : CtxIx) (s : State) : Host.Outcome State Fault Refusal := s.after (s.dev.drainLimit c)

/-! The pacer (R296–R298). -/

/-- A write of CTX_PACE: DEADLINE and MARGIN, then ARM. -/
def Dev.writeCtxPace (s : Dev) (c : Nat) (w : Word) : Dev :=
  let s := (s.setFld F.CTX_PACE_DEADLINE c (F.CTX_PACE_DEADLINE.get w)).setFld F.CTX_PACE_MARGIN c (F.CTX_PACE_MARGIN.get w)
  let x := (s.cx c).pacer
  let q := s.ctxQueue c
  let head := s.fld F.Q_POS_HEAD q
  let pEnd := s.fld F.CTX_PACE_WORK_P_END c
  if F.CTX_PACE_ARM.get w = 0 || x.armed || !s.bound c || sub32 pEnd head ≥ 2 ^ 31 || (s.queue q).fallback.isSome then s
  else if pEnd = head then s.count F.CTX_PACE_STATUS_MET c 1
  else
    let x' : Pacer := ⟨true, s.time, head, pEnd, s.fld F.CTX_PACE_DEADLINE c, s.fld F.CTX_PACE_MARGIN c, s.fld F.CTX_PACE_WORK_WORK_EST c,
      s.fld F.CTX_FALLBACK_SLOTS c, s.fld F.CTX_FALLBACK_BASE c, x.n, x.sum, 0, false, none⟩
    (s.setCx c { s.cx c with pacer := x' }).setFlag F.CTX_PACE_ARM c true

def execPacerArm (who : Who) (c : CtxIx) (w : Word) (s : State) : Host.Outcome State Fault Refusal :=
  s.after (s.dev.asWriter who ⟨.CTX_PACE, c⟩ (F.CTX_PACE_ARM.put w 1) (fun d w => d.writeCtxPace c w))

/-- A poll, every 256 CK_SLOW cycles after t0. -/
def Dev.pacerPoll (s : Dev) (c : Nat) : Dev := if s.queueRuns (s.ctxQueue c) then (s.pacerEval c).settle c else s

def execPacerPoll (c : CtxIx) (s : State) : Host.Outcome State Fault Refusal := s.after (s.dev.pacerPoll c)

end Sys2Proof.Machine
end

