-- ==== Sys2Proof/Machine/Elements.lean ====
section
/-! DEFINITION. Elements of tensors in memory as an engine reads and writes them: rows of packed elements (R159, R160), scale planes
(R166, R168), vanish entries (R176), and what a tile's writes count (R177). -/

namespace Sys2Proof.Machine

open Sys2Proof

/-- A tensor operand: element plane, format, block size (0 none), and the header of its scale plane as read at the check. -/
structure Plane where
  base   : Nat
  stride : Nat
  fmt    : Fmt
  blk    : Nat
  hdr    : Option ScaleHdr
  deriving DecidableEq, Repr

/-- What a tile's work amounts to: work counted (ENG_WORK), what the format totals count (R177), entries out of range or pages not
OK, whether a fault of its own ends it. -/
structure TileOut where
  work      : Nat
  vanished  : Nat
  split     : Nat
  saturated : Nat
  nonfinite : Nat
  flagged   : Nat
  rd        : Nat
  wr        : Nat
  waste     : Nat
  sparseBad : Bool
  tableFull : Bool
  corrupt   : Bool
  last      : Bool
  deriving DecidableEq, Repr

def TileOut.zero : TileOut := ⟨0, 0, 0, 0, 0, 0, 0, 0, 0, false, false, false, false⟩

def TileOut.add (a b : TileOut) : TileOut :=
  ⟨a.work + b.work, a.vanished + b.vanished, a.split + b.split, a.saturated + b.saturated, a.nonfinite + b.nonfinite,
   a.flagged + b.flagged, a.rd + b.rd, a.wr + b.wr, a.waste + b.waste, a.sparseBad || b.sparseBad, a.tableFull || b.tableFull,
   a.corrupt || b.corrupt, a.last || b.last⟩

/-- The codes of n elements of w bits from a bit offset of a byte string (R159). -/
def codesAt (bs : List Byte) (w bit n : Nat) : List Nat :=
  let v := leNat bs
  (List.range n).map (fun i => bitsOf v (bit + i * w) w)

/-- Packed codes as bytes, the bits left over in the last byte or 6-bit group zero (R160). -/
def packCodes (w : Nat) (cs : List Nat) : List Byte :=
  let v := (cs.zip (List.range cs.length)).foldl (fun a c => a + (c.1 % 2 ^ w) * 2 ^ (w * c.2)) 0
  leBytes (if w = 6 then 3 * ceilDiv cs.length 4 else ceilDiv (w * cs.length) 8) v

/-- Codes [c, c + n) of the row that starts at an address. -/
def readCodes (id : EngId) (row w c n : Nat) : Eng (List Nat) := do
  let lo := c * w / 8
  let hi := ceilDiv ((c + n) * w) 8
  let bs ← readE id (row + lo) (hi - lo) .normal
  return codesAt bs w (c * w - lo * 8) n

/-- The scale codes over elements [c, c + n) of scale row u; v0 is the entry of element 0. -/
def readScales (id : EngId) (h : ScaleHdr) (blk u v0 c n : Nat) : Eng (List Nat) := do
  let e := if h.split then 2 else 1
  let b0 := c / blk
  let b1 := (c + n - 1) / blk
  let bs ← readE id (h.addr + 64 + u * h.stride + (v0 + b0) * e) ((b1 - b0 + 1) * e) .normal
  return (List.range n).map fun i =>
    let t := c + i
    let o := (t / blk - b0) * e
    entryScale h.split (fieldAt bs o 1) (if h.split then fieldAt bs (o + 1) 1 else 0) blk (t % blk)

/-- Values of elements [c, c + n) of row u (R164). -/
def readRow (id : EngId) (p : Plane) (u c n : Nat) : Eng (List Num) := do
  if n = 0 then return []
  let cs ← readCodes id (p.base + u * p.stride) p.fmt.bits c n
  match p.hdr with
  | none => return cs.map p.fmt.decode
  | some h =>
    let sc ← readScales id h p.blk u 0 c n
    return (cs.zip sc).map (fun x => scaled x.2 (p.fmt.decode x.1))

/-- A value as a number with its last real function evaluated far beyond any format's precision (log entry 20). -/
def Exact.toNum : Exact → Num
  | .num x => x
  | .real f =>
    let x := f.encl 4096
    Num.ofRat ((x.lo + x.hi : Int) / (2 * (2 ^ 4096 : Nat) : Rat)) false

/-- A value to be written with the rounding mode of its element and the sign a vanishing result keeps. -/
structure OutVal where
  val  : Exact
  mode : RMode
  neg  : Bool
  deriving DecidableEq, Repr

/-- Consecutive blocks of a row. -/
def chunksOf {α : Type} (n : Nat) : Nat → List α → List (List α)
  | 0, _ => []
  | _ + 1, [] => []
  | k + 1, l => l.take n :: chunksOf n k (l.drop n)

/-- A row of results as written: element codes, bytes of its scale entries, what the write counts, and the values a reader of the
written bits gets. -/
structure RowOut where
  codes   : List Nat
  entries : List Byte
  out     : TileOut
  vals    : List Num
  deriving DecidableEq, Repr

/-- Results rounded for a plane (R178, R180; R169–R173 with block scaling). -/
def rowOut (p : Plane) (vs : List OutVal) : RowOut :=
  match p.hdr with
  | none =>
    let ws := vs.map (fun v => v.val.convert p.fmt v.mode v.neg)
    ⟨ws.map (·.code), [], { TileOut.zero with saturated := (ws.filter (·.saturated)).length, nonfinite := (ws.filter (·.nonfinite)).length },
     ws.map (fun w => p.fmt.decode w.code)⟩
  | some h =>
    let bl := (chunksOf p.blk (vs.length + 1) vs).map (fun b => writeBlock p.fmt h.split p.blk (b.map (fun v => (v.val.toNum, v.mode))))
    ⟨bl.flatMap (·.codes), bl.flatMap (fun b => if h.split then leBytes 1 b.byte0 ++ leBytes 1 b.byte1 else leBytes 1 b.byte0),
     { TileOut.zero with vanished := (bl.map (·.vanished)).sum, split := (bl.filter (·.split)).length, saturated := (bl.map (·.saturated)).sum,
                         nonfinite := (bl.filter (·.nonfinite)).length },
     bl.flatMap (fun b => (b.codes.zip (List.range b.codes.length)).map (fun c =>
       scaled (entryScale h.split b.byte0 b.byte1 p.blk c.2) (p.fmt.decode c.1)))⟩

/-- Elements that share a byte or 6-bit group, for a width of less than 8 bits (R159). -/
def groupLen (w : Nat) : Nat := if w = 6 then 4 else if w < 8 then 8 / w else 1

/-- A row of results put at row u, column c, of rows of a number of columns: elements of its first and last byte or group that lie outside
the results stay, and bits past the end of the row are zero (R160). -/
def putRow (id : EngId) (p : Plane) (cols u c : Nat) (o : RowOut) : Eng Unit := do
  let w := p.fmt.bits
  let row := p.base + u * p.stride
  let lo := c * w / 8
  let lead := (c * w - lo * 8) / w
  let stop := c + o.codes.length
  let g := groupLen w
  let after := min ((g - stop % g) % g) (cols - stop)
  let head ← if lead = 0 then pure [] else readCodes id row w (c - lead) lead
  let tail ← if after = 0 then pure [] else readCodes id row w stop after
  writePlane p.base 0 (row + lo) (packCodes w (head ++ o.codes ++ tail))
  match p.hdr with
  | some h => writePlane h.addr 1 (h.addr + 64 + u * h.stride + c / p.blk * (if h.split then 2 else 1)) o.entries
  | none => pure ()

/-- The bytes of a vanish entry (R176). -/
def vanishEntry (o : TileOut) : List Byte :=
  leBytes 4 (min o.vanished 0xFFFFFFFF) ++ leBytes 2 (min o.split 0xFFFF)
    ++ leBytes 1 ((if o.saturated > 0 then 1 else 0) + (if o.nonfinite > 0 then 2 else 0)) ++ [0]

/-- The vanish entry of a tile, where the plane's header names a table. -/
def writeVanish (p : Plane) (ix : Nat) (o : TileOut) : Eng Unit :=
  match p.hdr with
  | some h => if h.vanish = 0 then pure () else writePlane h.vanish 2 (h.vanish + 8 * ix) (vanishEntry o)
  | none => pure ()

/-- The header named by the field at an offset. -/
def Desc.hdrAt (d : Desc) (off : Nat) : Option ScaleHdr := d.hdrs.find? (fun h => h.field == off)

/-- A value as numbers, for the key of an open result. -/
def Num.key : Num → List Nat
  | .zero n => [0, if n then 1 else 0]
  | .fin q => [1, q.num.natAbs, if q.num < 0 then 1 else 0, q.den]
  | .inf n => [2, if n then 1 else 0]
  | .nan => [3]

/-- A result that the spec leaves open: the same for the same descriptor, seed and operands, which the key names (R203). -/
def Desc.open (d : Desc) (key : List Nat) (bound : Nat) : Nat :=
  Config.openResult (d.seed.toNat :: d.bytes.map (·.toNat) ++ key) % bound

/-- The rounding mode of an element: ROUND, and under SR its random bits (R186, R187). -/
def elemMode (sr : Bool) (seed : Word) (tid i j e : Nat) : RMode := if sr then .sr (srbits seed tid i j e) else .rne

/-- A PAIR16 scalar parameter (R213). -/
def pairScalar (bs : List Byte) (off : Nat) : Num := Fmt.decode .pair16 (fieldAt bs off 4)

end Sys2Proof.Machine
end

