-- ==== Sys2Proof/Machine/Vector.lean ====
section
/-! DEFINITION. What a VXE tile computes (R213–R221), alone or as a member of a chain (R247, R248). -/

namespace Sys2Proof.Machine

open Sys2Proof

/-- A format by code; the checks leave no reserved code. -/
def fmtOf (c : Nat) : Fmt := (Fmt.ofCode c).getD .bf16

/-- The planes of a VXE descriptor. -/
def Desc.vxX (d : Desc) : Plane :=
  let f := vxFields d.bytes
  ⟨fieldAt d.bytes 0x10 8, fieldAt d.bytes 0x38 4, fmtOf f.xFmt, blkSize f.xBlk, d.hdrAt 0x58⟩
def Desc.vxY (d : Desc) : Plane :=
  let f := vxFields d.bytes
  ⟨fieldAt d.bytes 0x18 8, fieldAt d.bytes 0x3C 4, fmtOf f.yFmt, blkSize f.yBlk, d.hdrAt 0x60⟩
def Desc.vxZ (d : Desc) : Plane :=
  let f := vxFields d.bytes
  ⟨fieldAt d.bytes 0x20 8, fieldAt d.bytes 0x40 4, fmtOf f.zFmt, blkSize f.zBlk, d.hdrAt 0x68⟩
def Desc.vxOut (d : Desc) : Plane :=
  let f := vxFields d.bytes
  ⟨fieldAt d.bytes 0x28 8, fieldAt d.bytes 0x44 4, fmtOf f.oFmt, blkSize f.oBlk, d.hdrAt 0x70⟩
def Desc.vxV (d : Desc) : Plane := ⟨fieldAt d.bytes 0x80 8, fieldAt d.bytes 0x88 4, fmtOf (fieldAt d.bytes 0x8C 1 % 16), 0, none⟩

def Desc.param (d : Desc) (n : Nat) : Num := pairScalar d.bytes (0x90 + 4 * n)

/-- Elements [c, c + n) of an operand at row r under its broadcast code (R214). -/
def readBcast (id : EngId) (p : Plane) (bc r c n : Nat) : Eng (List Num) := do
  match bc with
  | 0 => readRow id p r c n
  | 1 => readRow id p 0 c n
  | 2 => do let l ← readRow id p r 0 1; return List.replicate n (l.headD .nan)
  | _ => do let l ← readRow id p 0 0 1; return List.replicate n (l.headD .nan)

/-- An exact number with the sign of its own. -/
def plainVal (x : Num) : Exact × Bool := (.num x, x.neg?)

/-- VX_EW (R216). -/
def ewValue (d : Desc) (x y z : Num) : Exact × Bool :=
  let p0 := d.param 0
  let p1 := d.param 1
  plainVal (match (vxFields d.bytes).func with
    | 0 => x.add y
    | 1 => x.sub y
    | 2 => x.mul y
    | 3 => (x.mul y).add z
    | 4 => x.max y
    | 5 => x.min y
    | 6 => x.abs
    | 7 => x.negate
    | 8 => x.max (.zero false)
    | 9 => x
    | 10 => (p0.mul x).add (p1.mul y)
    | _ => (x.max p0).min p1)

/-- VX_ACT (R217). -/
def actValue (func : Nat) (x : Num) : Exact × Bool :=
  let num := fun (y : Num) => ((Exact.num y, y.neg?) : Exact × Bool)
  match x with
  | .nan => num .nan
  | .inf n => num (match func, n with
    | 0, false => .inf false | 0, true => .zero false
    | 1, false => .inf false | 1, true => .nan
    | 2, n => .zero n
    | 3, false => .inf false | 3, true => .nan
    | 4, false => .zero false | 4, true => .nan
    | 5, false => .fin 1 | 5, true => .fin (-1)
    | 6, false => .fin 1 | 6, true => .zero false
    | _, false => .inf false | _, true => .zero true)
  | .zero n => num (match func with
    | 0 => .fin 1
    | 1 => .inf true
    | 2 => .inf n
    | 3 => .zero n
    | 4 => .inf n
    | 5 => .zero n
    | 6 => .fin (1 / 2)
    | _ => .zero n)
  | .fin q =>
    let neg := decide (q < 0)
    match func with
    | 0 => ((RealFn.exp q).value, false)
    | 1 => if neg then num .nan else ((RealFn.ln q).value, decide (q < 1))
    | 2 => num (.fin (1 / q))
    | 3 => if neg then num .nan else ((RealFn.sqrt q).value, false)
    | 4 => if neg then num .nan else ((RealFn.rsqrt q).value, false)
    | 5 => ((RealFn.tanh q).value, neg)
    | 6 => ((RealFn.sigmoid q).value, false)
    | 7 => ((RealFn.gelu q).value, neg)
    | _ => ((RealFn.silu q).value, neg)

/-- Tile (i, j) of a grid of TR × TC: first row, rows, first column, columns, and (i, j). -/
structure TileBox where
  i  : Nat
  j  : Nat
  r0 : Nat
  nr : Nat
  c0 : Nat
  nc : Nat
  deriving DecidableEq, Repr

def tileBox (rows cols tr tc ix : Nat) : TileBox :=
  let nj := if tc = 0 then 1 else ceilDiv cols tc
  let i := ix / nj
  let j := ix % nj
  ⟨i, j, i * tr, min tr (rows - i * tr), j * tc, if tc = 0 then cols else min tc (cols - j * tc)⟩

/-- Elementwise results of a row [c, c + n) from its X values, for tile (i, j) that starts at (r0, c0). -/
def elemRow (id : EngId) (d : Desc) (b : TileBox) (r c : Nat) (xs : List Num) : Eng (List OutVal) := do
  let f := vxFields d.bytes
  let u := vxUses d.bytes
  let n := xs.length
  let ys ← if u.1 then readBcast id d.vxY f.yB r c n else pure (List.replicate n (.zero false))
  let zs ← if u.2.1 then readBcast id d.vxZ f.zB r c n else pure (List.replicate n (.zero false))
  return (List.range n).map fun t =>
    let x := xs.getD t .nan
    let v := if f.op = 0x10 then ewValue d x (ys.getD t .nan) (zs.getD t .nan) else actValue f.func x
    let e := (r - b.r0) * f.tc + (c - b.c0 + t)
    ⟨v.1, elemMode f.sr d.seed f.tid b.i b.j e, v.2⟩

/-- A fold of a chain: its members in turn over the rows of the fold, each row with its number, every member from the written values of the
one before; a member with CHAIN_DROP writes nothing (R246, R247). What each member writes is told apart by its place in the chain, so that
the bits are those of the same descriptors unchained (R248). The counts of each member that writes are returned. -/
def chainFold (id : EngId) (b : TileBox) (c : Nat) : Nat → List Desc → List (Nat × List Num) → Eng (List TileOut)
  | _, [], _ => return []
  | m, d :: ds, rows => do
    asMember m
    let drop := d.flagBit 3
    let mut acc := TileOut.zero
    let mut next : List (Nat × List Num) := []
    for x in rows do
      let vs ← elemRow id d b x.1 c x.2
      let o := rowOut d.vxOut vs
      if !drop then
        putRow id d.vxOut (vxFields d.bytes).cols x.1 c o
        acc := acc.add o.out
      next := next ++ [(x.1, o.vals)]
    let rest ← chainFold id b c (m + 1) ds next
    return acc :: rest

/-- The vanish entries of a chain's members that write (R176, R228), for tile entry ix. -/
def chainVanish (ix : Nat) : Nat → List Desc → List TileOut → Eng Unit
  | m, d :: ds, o :: os => do
    asMember m
    if !d.flagBit 3 then writeVanish d.vxOut ix o
    chainVanish ix (m + 1) ds os
  | _, _, _ => pure ()

/-- A VX_EW or VX_ACT tile with the chain it heads, if any. -/
def elemTile (id : EngId) (ds : List Desc) (ix : Nat) : Eng TileOut := do
  match ds with
  | [] => return TileOut.zero
  | d :: _ =>
    let f := vxFields d.bytes
    let b := tileBox f.rows f.cols f.tr f.tc ix
    let mut rows : List (Nat × List Num) := []
    for k in List.range b.nr do
      let xs ← readRow id d.vxX (b.r0 + k) b.c0 b.nc
      rows := rows ++ [(b.r0 + k, xs)]
    let acc ← chainFold id b b.c0 0 ds rows
    chainVanish ix 0 ds acc
    let t := acc.foldl TileOut.add TileOut.zero
    return { t with work := b.nr * b.nc * ds.length }

/-- VX_REDUCE (R218) of a row. -/
def reduceValue (func cols : Nat) (xs : List Num) : Num :=
  let fold := fun (g : Num → Num → Num) (l : List Num) => match l with | [] => Num.nan | x :: r => r.foldl g x
  match func with
  | 0 => Num.sum xs
  | 1 => Num.sum (xs.map (fun x => x.mul x))
  | 2 => (Num.sum xs).mul (.fin (1 / (cols : Rat)))
  | 3 => fold Num.max xs
  | 4 => fold Num.min xs
  | _ => fold Num.max (xs.map Num.abs)

def reduceTile (id : EngId) (d : Desc) (ix : Nat) : Eng TileOut := do
  let f := vxFields d.bytes
  let b := tileBox f.rows f.cols f.tr 0 ix
  let mut acc := TileOut.zero
  for k in List.range b.nr do
    let xs ← readRow id d.vxX (b.r0 + k) 0 f.cols
    let v := reduceValue f.func f.cols xs
    let o := rowOut d.vxOut [⟨.num v, elemMode f.sr d.seed f.tid b.i 0 k, v.neg?⟩]
    putRow id d.vxOut 1 (b.r0 + k) 0 o
    acc := acc.add o.out
  return { acc with work := b.nr * f.cols }

/-- VX_SOFTMAX (R219) of a row of values a_t. -/
def softmaxRow (as : List Num) : List Num :=
  if as.any (fun a => a == .nan || a == .inf false) then as.map (fun _ => .nan)
  else if as.all (· == .inf true) then as.map (fun _ => .zero false)
  else
    let m := match as with | [] => Num.nan | x :: r => r.foldl Num.max x
    let es := as.map (fun a => match a.sub m with
      | .inf _ => Num.zero false
      | .zero _ => .fin 1
      | .fin q => (RealFn.exp q).value.rne40
      | .nan => .nan)
    let s := (Num.sum es).rat
    es.map (fun e => match e with | .fin q => .fin (q / s) | x => x)

/-- VX_NORM (R220) of a row: every output NaN, or the values before their last rounding. -/
def normRow (func : Nat) (eps : Num) (xs ys zs : List Num) : List Num :=
  let n : Rat := (xs.length : Rat)
  let avg := fun (x : Num) => rne40 (x.mul (.fin (1 / n)))
  let mu := if func = 0 then Num.zero false else avg (Num.sum xs)
  let cs := if func = 0 then xs else xs.map (fun x => x.sub mu)
  let q := avg (Num.sum (cs.map (fun x => x.mul x)))
  if xs.any (fun x => !x.finite) then xs.map (fun _ => .nan)
  else match q.add eps with
    | .fin t =>
      if t ≤ 0 then xs.map (fun _ => .nan)
      else
        let rr := (RealFn.rsqrt t).value.rne40
        (List.range xs.length).map fun i =>
          let v := ((cs.getD i .nan).mul rr).mul (ys.getD i .nan)
          if func = 0 then v else v.add (zs.getD i .nan)
    | .inf false => (List.range xs.length).map fun i =>
        let v := ((cs.getD i .nan).mul (.zero false)).mul (ys.getD i .nan)
        if func = 0 then v else v.add (zs.getD i .nan)
    | _ => xs.map (fun _ => .nan)

/-- A tile of VX_SOFTMAX or VX_NORM: whole rows. -/
def wholeRowTile (id : EngId) (d : Desc) (ix : Nat) (row : List Num → List Num → List Num → List Num) : Eng TileOut := do
  let f := vxFields d.bytes
  let u := vxUses d.bytes
  let b := tileBox f.rows f.cols f.tr 0 ix
  let mut acc := TileOut.zero
  for k in List.range b.nr do
    let r := b.r0 + k
    let xs ← readRow id d.vxX r 0 f.cols
    let ys ← if u.1 then readBcast id d.vxY f.yB r 0 f.cols else pure (List.replicate f.cols (.zero false))
    let zs ← if u.2.1 then readBcast id d.vxZ f.zB r 0 f.cols else pure (List.replicate f.cols (.zero false))
    let vs := row xs ys zs
    let o := rowOut d.vxOut ((vs.zip (List.range vs.length)).map (fun v =>
      ⟨.num v.1, elemMode f.sr d.seed f.tid b.i 0 (k * f.cols + v.2), v.1.neg?⟩))
    putRow id d.vxOut f.cols r 0 o
    acc := acc.add o.out
  writeVanish d.vxOut ix acc
  return { acc with work := b.nr * f.cols }

def softmaxTile (id : EngId) (d : Desc) (ix : Nat) : Eng TileOut :=
  let masked := (vxUses d.bytes).1
  let p0 := d.param 0
  wholeRowTile id d ix (fun xs ys _ =>
    softmaxRow ((xs.zip ys).map (fun a => let px := p0.mul a.1; if masked then px.add a.2 else px)))

def normTile (id : EngId) (d : Desc) (ix : Nat) : Eng TileOut :=
  wholeRowTile id d ix (normRow (vxFields d.bytes).func (d.param 0))

/-- Quotient of values: by an infinity a finite value is zero. -/
def Num.quot (x y : Num) : Option Num :=
  match x, y with
  | .nan, _ => some .nan
  | _, .nan => some .nan
  | .inf _, .inf _ => some .nan
  | _, .inf b => some (.zero (x.neg? != b))
  | .inf a, .fin q => some (.inf (a != decide (q < 0)))
  | x, .fin q => some (x.mul (.fin (1 / q)))
  | _, .zero _ => none

/-- √ of a value; none where the spec states no result: below zero. -/
def Num.sqrt? : Num → Option Exact
  | .nan => some (.num .nan)
  | .inf false => some (.num (.inf false))
  | .inf true => none
  | .zero n => some (.num (.zero n))
  | .fin q => if q < 0 then none else some (RealFn.sqrt q).value

/-- One element under ADAMW or SGDM (R221): m', v' and the exact w', none for a w' that the spec does not state: a square root
below zero or a quotient by zero. A parameter used that is no finite number counts as an input. -/
structure OptStep where
  m : Written
  v : Written
  w : Option (Exact × Bool)
  deriving DecidableEq, Repr

def optStep (d : Desc) (w g m v : Num) (mm mv : RMode) : OptStep :=
  let P := d.param
  let adam := (vxFields d.bytes).func == 0
  let zf := d.vxZ.fmt
  let vf := d.vxV.fmt
  let ins := (if adam then [w, g, m, v] else [w, g, m]) ++ (vxUses d.bytes).2.2.2.map P
  if ins.any (fun x => !x.finite) then ⟨⟨zf.nanCode, false, true⟩, ⟨vf.nanCode, false, true⟩, some (.num .nan, false)⟩
  else if adam then
    let one : Num := .fin 1
    let m' := convertTo zf mm (((P 1).mul m).add ((one.sub (P 1)).mul g))
    let v' := convertTo vf mv (((P 2).mul v).add ((one.sub (P 2)).mul (g.mul g)))
    let md := zf.decode m'.code
    let cm := (P 5).mul md
    let cv := (P 6).mul (vf.decode v'.code)
    let decay := (P 4).mul w
    let whole := fun (u : Option Num) => u.map (fun u => plainVal (w.sub ((P 0).mul (u.add decay))))
    let r : Option (Exact × Bool) := match cv.sqrt? with
      | none => none
      | some (.num s) => whole (cm.quot (s.add (P 3)))
      | some (.real s) =>
        if cm.isZero then whole (some cm)
        else if cm.finite then some ((RealFn.adamw w.rat (P 0).rat cm.rat cv.rat (P 3).rat decay.rat).value, false)
        else whole (cm.quot ((Exact.real s).toNum.add (P 3)))
    ⟨m', v', r⟩
  else
    let m' := convertTo zf mm (((P 1).mul m).add g)
    let md := zf.decode m'.code
    ⟨m', ⟨0, false, false⟩, some (plainVal (w.sub ((P 0).mul (md.add ((P 4).mul w)))))⟩

/-- The counts of written elements. -/
def writtenOut (ws : List Written) : TileOut :=
  { TileOut.zero with saturated := (ws.filter (·.saturated)).length, nonfinite := (ws.filter (·.nonfinite)).length }

/-- A written w' of an element; one the spec does not state is open, by its operands. -/
def optWeight (d : Desc) (f : Fmt) (mode : RMode) (key : List Nat) : Option (Exact × Bool) → Written
  | some (x, n) => x.convert f mode n
  | none => ⟨d.open key (2 ^ f.bits), false, false⟩

def optimTile (id : EngId) (d : Desc) (ix : Nat) : Eng TileOut := do
  let f := vxFields d.bytes
  let b := tileBox f.rows f.cols f.tr f.tc ix
  let adam := f.func == 0
  let mut acc := TileOut.zero
  for k in List.range b.nr do
    let r := b.r0 + k
    let xs ← readRow id d.vxX r b.c0 b.nc
    let gs ← readBcast id d.vxY f.yB r b.c0 b.nc
    let ms ← readBcast id d.vxZ f.zB r b.c0 b.nc
    let vs ← if adam then readRow id d.vxV r b.c0 b.nc else pure []
    let mode := fun (o t : Nat) => elemMode f.sr d.seed ((f.tid + o) % 65536) b.i b.j (k * f.tc + t)
    let st := (List.range b.nc).map (fun t =>
      optStep d (xs.getD t .nan) (gs.getD t .nan) (ms.getD t .nan) (vs.getD t (.zero false)) (mode 1 t) (mode 2 t))
    let ws := (List.range b.nc).map (fun t =>
      let key := (xs.getD t .nan).key ++ (gs.getD t .nan).key ++ (ms.getD t .nan).key ++ (vs.getD t (.zero false)).key
      optWeight d d.vxOut.fmt (mode 0 t) key ((st.map (·.w)).getD t none))
    let row := fun (l : List Written) => (⟨l.map (·.code), [], TileOut.zero, []⟩ : RowOut)
    putRow id d.vxZ f.cols r b.c0 (row (st.map (·.m)))
    if adam then putRow id d.vxV f.cols r b.c0 (row (st.map (·.v)))
    putRow id d.vxOut f.cols r b.c0 (row ws)
    acc := ((acc.add (writtenOut ws)).add (writtenOut (st.map (·.m)))).add (if adam then writtenOut (st.map (·.v)) else .zero)
  return { acc with work := b.nr * b.nc }

/-- The work of a VXE tile by operation; ds are the members of its chain, itself first. -/
def vxTile (id : EngId) (ds : List Desc) (ix : Nat) : Eng TileOut :=
  match ds with
  | [] => return TileOut.zero
  | d :: _ =>
    match d.op with
    | 0x12 => reduceTile id d ix
    | 0x13 => softmaxTile id d ix
    | 0x14 => normTile id d ix
    | 0x15 => optimTile id d ix
    | _ => elemTile id ds ix

end Sys2Proof.Machine
end

