-- ==== Sys2Proof/Machine/Matrix.lean ====
section
/-! DEFINITION. What a matrix tile computes (R118–R147): operand rows, expanded weights, convolution addresses, chunk and running sums,
and the write-out of a column fold with the chain that follows it. -/

namespace Sys2Proof.Machine

open Sys2Proof

/-- Cell rows in units of 64, and columns, of a logical array (R128). -/
def shapeDims : Nat → Nat × Nat
  | 1 => (1, 128) | 2 => (2, 64) | 3 => (2, 128) | _ => (1, 64)

/-- Reduction elements of a chunk (R119). -/
def chunkLen : Nat → Nat
  | 0 => 64 | 1 => 128 | 2 => 128 | _ => 256

/-- What a matrix descriptor multiplies in passes: PAIR16 operands take three (R121). -/
def MxFields.pairOps (f : MxFields) : Bool := f.aFmt == 0xA

/-- Its running sums are pairs (R194). -/
def MxFields.pairSum (f : MxFields) : Bool := f.pairOps || (f.accIn && f.accFmt == 0xA) || f.cFmt == 0xA

/-- Passes of a column fold, and folds of a tile of n columns (R129). -/
def MxFields.foldPasses (f : MxFields) (g : Nat) : Nat := ceilDiv (ceilDiv f.k (chunkLen f.cls)) g * (if f.pairOps then 3 else 1)
def foldsOf (n lc : Nat) : Nat := ceilDiv n lc

/-- The parts of an element: the two of a PAIR16, or the value. -/
def parts (fmt : Fmt) (c : Nat) : Num × Num := if fmt = .pair16 then pairParts c else (fmt.decode c, .zero false)

/-- A factor under its scale code. -/
def scaledParts (code : Option Nat) (x : Num × Num) : Num × Num :=
  match code with
  | none => x
  | some s => (scaled s x.1, x.2)

/-- An expanded weight (R124). With q = zp the exact product is zero, and the spec gives that zero no sign: the model's product of a zero and a
negative scale is −0 (DESIGN CHOICE, log entry 104). -/
def expandWeight (f : MxFields) (table pars : List Byte) (code : Nat) : Num :=
  let ef : Fmt := if f.expFmt = 0 then .bf16 else .e4m3
  let n := if f.expFmt = 0 then 2 else 1
  if f.expand = 1 then ef.decode (fieldAt table (n * code) n)
  else
    let w := if f.wFmt = 8 then 4 else 2
    let q := signed w code - signed 8 (fieldAt pars 2 1)
    let sc := Fmt.decode .bf16 (fieldAt pars 0 2)
    let top := fun (n : Bool) => Num.fin (if n then -ef.maxFin else ef.maxFin)
    match sc with
    | .nan => .nan
    | .inf n => if q = 0 then .nan else top (n != decide (q < 0))
    | x =>
      match (Num.ofRat (q : Rat) false).mul x with
      | .fin p =>
        match roundTo ef .rne p with
        | .fin r => if outOfRange ef r then top (decide (p < 0)) else .fin r
        | z => z
      | z => z

/-- Elements [k0, k0 + n) of row m of A (R146, R166). -/
def aRow (id : EngId) (d : Desc) (m k0 n : Nat) : Eng (List (Num × Num)) := do
  let f := mxFields d.bytes
  let fmt := fmtOf f.aFmt
  let cs ← readCodes id (fieldAt d.bytes 0x10 8 + m * fieldAt d.bytes 0x40 4) fmt.bits k0 n
  match d.hdrAt 0x58 with
  | none => return cs.map (parts fmt)
  | some h =>
    let sc ← readScales id h (blkSize f.aBlk) m 0 k0 n
    return (cs.zip sc).map (fun x => scaledParts (some x.2) (parts fmt x.1))

/-- The pixel row of a filter position of output row m, if it lies inside the input (R135): its address and its number. -/
def convPixel (b : List Byte) (m ky kx : Nat) : Option (Nat × Nat) :=
  let g := fun (o n : Nat) => fieldAt b o n
  let oh := g 0x84 2
  let ow := g 0x86 2
  let bt := m / (oh * ow)
  let t := m % (oh * ow)
  let iy : Int := (t / ow * g 0x8E 1 + ky * g 0x90 1 : Nat) - (g 0x92 1 : Int)
  let ix : Int := (t % ow * g 0x8F 1 + kx * g 0x91 1 : Nat) - (g 0x93 1 : Int)
  if iy < 0 ∨ iy ≥ g 0x80 2 ∨ ix < 0 ∨ ix ≥ g 0x82 2 then none
  else some (g 0x10 8 + bt * g 0xA0 8 + iy.toNat * g 0x9C 4 + ix.toNat * g 0x98 4, (bt * g 0x80 2 + iy.toNat) * g 0x82 2 + ix.toNat)

/-- Elements [k0, k0 + n) of row m of the expanded matrix of a CONV (R134, R135). -/
def convRow (id : EngId) (d : Desc) (m k0 n : Nat) : Eng (List (Num × Num)) := do
  let f := mxFields d.bytes
  let fmt := fmtOf f.aFmt
  let inC := fieldAt d.bytes 0x88 4
  let kw := fieldAt d.bytes 0x8D 1
  let mut out : List (Num × Num) := []
  for p in List.range (fieldAt d.bytes 0x8C 1 * kw) do
    let c0 := max k0 (p * inC) - p * inC
    let c1 := min (k0 + n) ((p + 1) * inC) - p * inC
    if c0 < c1 then
      match convPixel d.bytes m (p / kw) (p % kw) with
      | none => out := out ++ List.replicate (c1 - c0) (.zero false, .zero false)
      | some (a, px) =>
        let cs ← readCodes id a fmt.bits c0 (c1 - c0)
        match d.hdrAt 0x58 with
        | none => out := out ++ cs.map (parts fmt)
        | some h =>
          let sc ← readScales id h (blkSize f.aBlk) px 0 c0 (c1 - c0)
          out := out ++ (cs.zip sc).map (fun x => scaledParts (some x.2) (parts fmt x.1))
  return out

/-- Row k of W over columns [c, c + n): blocks run along K, so one scale row serves a block of rows (R126, R166). -/
def wRow (id : EngId) (d : Desc) (table : List Byte) (k c n : Nat) : Eng (List (Num × Num)) := do
  let f := mxFields d.bytes
  let fmt := fmtOf f.wFmt
  let cs ← readCodes id (fieldAt d.bytes 0x18 8 + k * fieldAt d.bytes 0x44 4) fmt.bits c n
  if f.expand ≠ 0 then return cs.map (fun x => (expandWeight f table d.exp x, .zero false))
  else
    match d.hdrAt 0x60 with
    | none => return cs.map (parts fmt)
    | some h =>
      let b := blkSize f.wBlk
      let e := if h.split then 2 else 1
      let bs ← readE id (h.addr + 64 + k / b * h.stride + c * e) (n * e) .normal
      return (cs.zip (List.range n)).map fun x =>
        let o := x.2 * e
        let s := entryScale h.split (fieldAt bs o 1) (if h.split then fieldAt bs (o + 1) 1 else 0) b (k % b)
        scaledParts (some s) (parts fmt x.1)

/-- The product of an activation and a weight. Both INT8: an exact integer, whose zero has no sign and is taken as +0 (R120, R193;
DEDUCED, log entry 103). -/
def MxFields.product (f : MxFields) (a w : Num) : Num :=
  let p := a.mul w
  if f.aFmt = 7 ∧ f.wFmt = 7 ∧ p.isZero then .zero false else p

/-- Terms added to an exact sum, of which none so far is no term at all (R123, R192). -/
def addTerms (s : Option Num) (ts : List Num) : Option Num :=
  match s with
  | none => if ts.isEmpty then none else some (Num.sum ts)
  | some x => some (ts.foldl Num.add x)

/-- The accumulate input of an element as the starting sum (R144, R196); one that is NaN or infinite enters as that value (R192). -/
def accStart (fmt : Fmt) (c : Nat) : Sum :=
  if fmt = .pair16 then
    let p := pairParts c
    let v := p.1.add p.2
    if v.finite then ⟨p.1, p.2, false⟩ else ⟨v, .zero false, false⟩
  else ⟨fmt.decode c, .zero false, false⟩

/-- A pass of a tile (R129): the reduction elements it covers, their number, and its place among the passes of its chunks. -/
def MxFields.passSpan (f : MxFields) (g pass : Nat) : Nat × Nat × Nat :=
  let np := if f.pairOps then 3 else 1
  let step := g * chunkLen f.cls
  let k0 := pass / np * step
  (k0, min step (f.k - k0), pass % np)

/-- What a pass gives: the expansion table, the weights it loaded, the partial chunk sums of the chunks in hand, and the sums of its fold. -/
structure PassOut where
  table : List Byte
  wts   : List (List Num)
  part  : List (List (List Num))
  sums  : List (List Sum)

/-- The columns of a fold, absolute: the first, and how many (R129). -/
def foldCols (b : TileBox) (lc fold : Nat) : Nat × Nat := (b.c0 + fold * lc, min lc (b.nc - fold * lc))

/-- The sums of a fold before its first pass: empty, or the accumulate input (R123, R144). -/
def startSums (id : EngId) (d : Desc) (b : TileBox) (cs : Nat × Nat) : Eng (List (List Sum)) := do
  let f := mxFields d.bytes
  let mut out : List (List Sum) := []
  for q in List.range b.nr do
    let row ← if f.accIn then do
        let x ← readCodes id (fieldAt d.bytes 0x28 8 + (b.r0 + q) * fieldAt d.bytes 0x4C 4) (fmtOf f.accFmt).bits cs.1 cs.2
        pure (x.map (accStart (fmtOf f.accFmt)))
      else pure (List.replicate cs.2 Sum.start)
    out := out ++ [row]
  return out

/-- A pass run (R118, R129, R191, R195): the weight slice goes into the shadow registers and becomes active, the rows of A stream past it, and
each chunk's products add to its exact sum; the last pass of the chunks rounds each and adds it to the running sum, the upper array's
chunk before the lower's. -/
def passWork (id : EngId) (d : Desc) (ix lc g : Nat) (r : MxRun) (sums : List (List Sum)) : Eng PassOut := do
  let f := mxFields d.bytes
  let b := tileBox f.m f.n f.tm f.tn ix
  let cs := foldCols b lc r.fold
  let sp := f.passSpan g r.pass
  let kc := chunkLen f.cls
  let entries := if f.wFmt = 8 then 16 else 4
  let tb ← if f.expand = 1 && r.exp.isEmpty then readE id (fieldAt d.bytes 0x70 8) (entries * (if f.expFmt = 0 then 2 else 1)) .normal
    else pure r.exp
  let mut ws : List (List Num) := []
  for k in List.range sp.2.1 do
    let x ← wRow id d tb (sp.1 + k) cs.1 cs.2
    ws := ws ++ [x.map (fun p => if sp.2.2 = 1 then p.2 else p.1)]
  let old ← if r.pass = 0 then startSums id d b cs else pure sums
  let mut rows : List (List Num) := []
  for q in List.range b.nr do
    let a ← if d.op == 9 then convRow id d (b.r0 + q) sp.1 sp.2.1 else aRow id d (b.r0 + q) sp.1 sp.2.1
    rows := rows ++ [a.map (fun p => if sp.2.2 = 2 then p.2 else p.1)]
  let part := (List.range (ceilDiv sp.2.1 kc)).map fun ch =>
    rows.zipIdx.map fun row =>
      (List.range cs.2).map fun n =>
        let ts := (((row.1.drop (ch * kc)).take kc).zip ((ws.drop (ch * kc)).take kc)).map
          (fun x => f.product x.1 (x.2.getD n (.zero false)))
        let before : Option Num := if sp.2.2 = 0 then none else ((r.part.getD ch []).getD row.2 [])[n]?
        (addTerms before ts).getD (.zero false)
  if sp.2.2 + 1 < (if f.pairOps then 3 else 1) then return ⟨tb, ws, part, old⟩
  else
    let sums := part.foldl (fun (ss : List (List Sum)) ch =>
      (ss.zip ch).map (fun x => (x.1.zip x.2).map (fun y => y.1.addChunk f.pairSum (rne40 y.2)))) old
    return ⟨tb, ws, [], sums⟩

/-- Columns [c0, c1) of a tile (absolute) written out from the two sets of the sum buffer and passed through the chain (R145, R247): each
row goes to the pad and the mover carries it to C_ADDR, which here is the list of results that the end of the command writes. -/
def foldWork (id : EngId) (ds : List Desc) (ix lc c0 c1 : Nat) (even odd : List (List Sum)) : Eng (List TileOut) := do
  match ds with
  | [] => return []
  | d :: rest =>
    let f := mxFields d.bytes
    let b := tileBox f.m f.n f.tm f.tn ix
    let cPlane : Plane := ⟨fieldAt d.bytes 0x20 8, fieldAt d.bytes 0x48 4, fmtOf f.cFmt, blkSize f.cBlk, d.hdrAt 0x68⟩
    let drop := d.flagBit 3
    let mut acc := TileOut.zero
    let mut rows : List (Nat × List Num) := []
    for q in List.range b.nr do
      let m := b.r0 + q
      let vs := (List.range (c1 - c0)).map fun n =>
        let col := c0 - b.c0 + n
        let set := if col / lc % 2 = 0 then even else odd
        let v := ((set.getD q []).getD (col % lc) Sum.start).value
        (⟨.num v, elemMode f.sr d.seed (fieldAt d.bytes 0x3C 2) b.i b.j (q * f.tn + col), v.neg?⟩ : OutVal)
      let o := rowOut cPlane vs
      if !drop then
        putRow id cPlane f.n m c0 o
        acc := acc.add o.out
      rows := rows ++ [(m, o.vals)]
    let os ← chainFold id b c0 1 rest rows
    return acc :: os

/-- The vanish entries of a matrix tile and of the members of its chain, once its last fold is written (R176). -/
def mxVanish (ds : List Desc) (ix : Nat) (os : List TileOut) : Eng Unit := do
  match ds, os with
  | d :: rest, o :: os =>
    let f := mxFields d.bytes
    let cPlane : Plane := ⟨0, 0, fmtOf f.cFmt, blkSize f.cBlk, d.hdrAt 0x68⟩
    if !d.flagBit 3 then writeVanish cPlane ix o
    chainVanish ix 1 rest os
  | _, _ => pure ()

end Sys2Proof.Machine
end

