-- ==== Sys2Proof/Machine/Sparse.lean ====
section
/-! DEFINITION. What an SPE tile computes (R222–R229). -/

namespace Sys2Proof.Machine

open Sys2Proof

/-- A UINT64 of an array of them. -/
def word64At (id : EngId) (base i : Nat) : Eng Nat := readNumE id (base + 8 * i) 8 .normal

/-- Index entry i (R222). -/
def spIndex (id : EngId) (d : Desc) (i : Nat) : Eng Nat :=
  let w := if (spFields d.bytes).idx64 then 8 else 4
  readNumE id (fieldAt d.bytes 0x18 8 + w * i) w .normal

/-- The planes of an SPE descriptor: its table and its output. -/
def Desc.spTable (d : Desc) : Plane :=
  let f := spFields d.bytes
  ⟨fieldAt d.bytes 0x10 8, fieldAt d.bytes 0x50 4, fmtOf f.tFmt, blkSize f.tBlk, d.hdrAt 0x68⟩
def Desc.spOut (d : Desc) : Plane :=
  let f := spFields d.bytes
  ⟨fieldAt d.bytes 0x38 8, fieldAt d.bytes 0x58 4, fmtOf f.oFmt, blkSize f.oBlk, d.hdrAt 0x70⟩

/-- Bytes of a whole row, and of its scale entries. -/
def Plane.rowBytes (p : Plane) (width : Nat) : Nat := p.fmt.bits * width / 8
def Plane.entryBytes (p : Plane) (width : Nat) : Nat :=
  match p.hdr with
  | some h => ceilDiv width p.blk * (if h.split then 2 else 1)
  | none => 0
def Plane.rowAt (p : Plane) (u : Nat) : Nat := p.base + u * p.stride
def Plane.entriesAt (p : Plane) (u : Nat) : Nat :=
  match p.hdr with
  | some h => h.addr + 64 + u * h.stride
  | none => 0

/-- First entry and number of entries, bags or block rows of a tile. -/
def SpFields.span (f : SpFields) (ix : Nat) : Nat × Nat := (ix * f.tile, min f.tile (f.count - ix * f.tile))

/-- SP_GATHER (R223, R224): byte copies, which count in no format total of R177 (DEDUCED, log entry 115). -/
def gatherTile (id : EngId) (d : Desc) (ix : Nat) : Eng TileOut := do
  let f := spFields d.bytes
  let t := d.spTable
  let o := d.spOut
  let rows := fieldAt d.bytes 0x40 8
  let nb := t.rowBytes f.width
  let ne := t.entryBytes f.width
  let sp := f.span ix
  let mut out := 0
  for k in List.range sp.2 do
    let r := sp.1 + k
    let i ← spIndex id d r
    let inside := decide (i < rows)
    let bs ← if inside then readE id (t.rowAt i) nb .normal else pure (List.replicate nb 0)
    writePlane (o.rowAt 0) 0 (o.rowAt r) bs
    if ne ≠ 0 then
      let es ← if inside then readE id (t.entriesAt i) ne .normal else pure (List.replicate ne 0)
      writePlane (o.entriesAt 0) 1 (o.entriesAt r) es
    if !inside then out := out + 1
  return { TileOut.zero with work := sp.2, flagged := out }

/-- SP_SCATTER: byte copies in ascending r, which count in no format total of R177 (DEDUCED, log entry 115), or atomic adds (R223, R224,
R227). -/
def scatterTile (id : EngId) (d : Desc) (ix : Nat) : Eng TileOut := do
  let f := spFields d.bytes
  let t := d.spTable
  let rows := fieldAt d.bytes 0x40 8
  let nb := (fmtOf f.tFmt).bits * f.width / 8
  let sp := f.span ix
  let mut out := 0
  for k in List.range sp.2 do
    let r := sp.1 + k
    let i ← spIndex id d r
    if i < rows then
      let bs ← readE id (fieldAt d.bytes 0x30 8 + r * fieldAt d.bytes 0x54 4) nb .normal
      if f.func = 1 then atomE (t.rowAt i) bs f.tFmt else writeE (t.rowAt i) bs .normal
    else out := out + 1
  return { TileOut.zero with work := sp.2, flagged := out }

/-- The terms of a bag: weight and table row of each index in range, and the entries out of range. -/
def bagTerms (id : EngId) (d : Desc) (t0 t1 : Nat) : Eng (List (Num × List Num) × Nat) := do
  let f := spFields d.bytes
  let wAddr := fieldAt d.bytes 0x28 8
  let wf := fmtOf f.iFmt
  let mut out := 0
  let mut ts : List (Num × List Num) := []
  for k in List.range (t1 - t0) do
    let i ← spIndex id d (t0 + k)
    if i < fieldAt d.bytes 0x40 8 then
      let w ← if wAddr = 0 then pure (Num.fin 1) else do
        let cs ← readCodes id wAddr wf.bits (t0 + k) 1
        pure (wf.decode (cs.headD 0))
      let row ← readRow id d.spTable i 0 f.width
      ts := ts ++ [(w, row)]
    else out := out + 1
  return (ts, out)

/-- Row r, whose elements and scale entries the spec does not state: its bag's offsets are t0 and t1. -/
def openRow (d : Desc) (p : Plane) (n r t0 t1 : Nat) : RowOut :=
  ⟨(List.range n).map (fun c => d.open [0, r, t0, t1, c] (2 ^ p.fmt.bits)),
   (List.range (p.entryBytes n)).map (fun c => BitVec.ofNat 8 (d.open [1, r, t0, t1, c] 256)), TileOut.zero, []⟩

/-- SP_EMBED (R223, R224). The mean divides by the number of the bag's index entries; a bag whose offsets fall has no stated
result. -/
def embedTile (id : EngId) (d : Desc) (ix : Nat) : Eng TileOut := do
  let f := spFields d.bytes
  let o := d.spOut
  let sp := f.span ix
  let mut acc := TileOut.zero
  for b in List.range sp.2 do
    let r := sp.1 + b
    let t0 ← word64At id (fieldAt d.bytes 0x20 8) r
    let t1 ← word64At id (fieldAt d.bytes 0x20 8) (r + 1)
    if t1 < t0 then
      putRow id o f.width r 0 (openRow d o f.width r t0 t1)
    else
      let ts ← bagTerms id d t0 t1
      let vs := (List.range f.width).map fun c =>
        let s := if t1 = t0 then Num.zero false else Num.sum (ts.1.map (fun t => t.1.mul (t.2.getD c .nan)))
        let v := if f.func = 1 ∧ t1 ≠ t0 then s.mul (.fin (1 / ((t1 - t0 : Nat) : Rat))) else s
        (⟨.num v, elemMode f.sr d.seed f.tid ix 0 (b * f.width + c), v.neg?⟩ : OutVal)
      let x := rowOut o vs
      putRow id o f.width r 0 x
      acc := (acc.add x.out).add { TileOut.zero with work := t1 - t0, flagged := ts.2 }
  writeVanish o ix acc
  return acc

/-- The values that an element brings to a product: both parts of a PAIR16 (R223). -/
def factors (fmt : Fmt) (c : Nat) : List Num := if fmt = .pair16 then [(pairParts c).1, (pairParts c).2] else [fmt.decode c]

/-- Every product of the parts of two elements, each a term of the sum (R192, R223). -/
def partProducts (a x : List Num) : List Num := a.flatMap (fun p => x.map p.mul)

/-- The blocks of a block row: column index and elements; none where R225 finds the matrix malformed. -/
def blocksOf (id : EngId) (d : Desc) (k0 k1 : Nat) : Eng (Option (List (Nat × List (List Num)))) := do
  let f := spFields d.bytes
  let tf := fmtOf f.tFmt
  let mut out : List (Nat × List (List Num)) := []
  for k in List.range (k1 - k0) do
    let c ← spIndex id d (k0 + k)
    if c ≥ f.ncols then return none
    let cs ← readCodes id (fieldAt d.bytes 0x10 8) tf.bits ((k0 + k) * f.bs * f.bs) (f.bs * f.bs)
    out := out ++ [(c, cs.map (factors tf))]
  return some out

/-- The x rows under a block column. -/
def xRows (id : EngId) (d : Desc) (c : Nat) : Eng (List (List (List Num))) := do
  let f := spFields d.bytes
  let fmt := fmtOf f.iFmt
  let mut out : List (List (List Num)) := []
  for t in List.range f.bs do
    let r ← readCodes id (fieldAt d.bytes 0x30 8 + (c * f.bs + t) * fieldAt d.bytes 0x54 4) fmt.bits 0 f.width
    out := out ++ [r.map (factors fmt)]
  return out

/-- SP_SPMV (R223, R225), every product of the parts of a PAIR16 a term of its own: a malformed matrix ends the tile with nothing written. -/
def spmvTile (id : EngId) (d : Desc) (ix : Nat) : Eng TileOut := do
  let f := spFields d.bytes
  let o := d.spOut
  let accP : Plane := ⟨fieldAt d.bytes 0x28 8, fieldAt d.bytes 0x50 4, fmtOf f.aFmt, 0, none⟩
  let aux := fieldAt d.bytes 0x20 8
  let sp := f.span ix
  let malformed : Eng TileOut := do
    modify (fun st => { st with writes := [] })
    return { TileOut.zero with sparseBad := true }
  let mut acc := TileOut.zero
  for p in List.range sp.2 do
    let r := sp.1 + p
    let k0 ← word64At id aux r
    let k1 ← word64At id aux (r + 1)
    if k1 < k0 || (r == 0 && k0 != 0) then return ← malformed
    match ← blocksOf id d k0 k1 with
    | none => return ← malformed
    | some bl =>
      let mut prods : List (List (List Num) × List (List (List Num))) := []
      for b in bl do
        let x ← xRows id d b.1
        prods := prods ++ [(b.2, x)]
      for q in List.range f.bs do
        let y := r * f.bs + q
        let start ← if f.accIn then readRow id accP y 0 f.width else pure []
        let vs := (List.range f.width).map fun v =>
          let terms := prods.flatMap (fun b => (List.range f.bs).flatMap (fun c =>
            partProducts (b.1.getD (q * f.bs + c) []) ((b.2.getD c []).getD v [])))
          let s := Num.sum (terms ++ (start.drop v).take 1)
          (⟨.num s, elemMode f.sr d.seed f.tid ix 0 ((p * f.bs + q) * f.width + v), s.neg?⟩ : OutVal)
        let x := rowOut o vs
        putRow id o f.width y 0 x
        acc := acc.add x.out
      acc := { acc with work := acc.work + bl.length }
  return acc

/-- The work of an SPE tile by operation. -/
def spTile (id : EngId) (d : Desc) (ix : Nat) : Eng TileOut :=
  match d.op with
  | 0x20 => gatherTile id d ix
  | 0x21 => scatterTile id d ix
  | 0x22 => embedTile id d ix
  | _ => spmvTile id d ix

end Sys2Proof.Machine
end

