-- ==== Sys2Proof/Machine/Table.lean ====
section
/-! DEFINITION. What a TBE tile computes (R230–R236). -/

namespace Sys2Proof.Machine

open Sys2Proof

/-- Addresses of n input rows from row lo on, in list order (R230). -/
def segRows (stride : Nat) : List (Nat × Nat) → Nat → Nat → List Nat
  | [], _, _ => []
  | (a, c) :: r, lo, n =>
    if lo ≥ c then segRows stride r (lo - c) n
    else
      let k := min n (c - lo)
      (List.range k).map (fun i => a + (lo + i) * stride) ++ segRows stride r 0 (n - k)

/-- The segment list. -/
def segList (id : EngId) (d : Desc) : Eng (List (Nat × Nat)) := do
  let n := fieldAt d.bytes 0x18 4
  let bs ← readE id (fieldAt d.bytes 0x10 8) (16 * n) .normal
  return (List.range n).map (fun i => (fieldAt bs (16 * i) 8, fieldAt bs (16 * i + 8) 8))

/-- Rows of a tile (R234). -/
def tbTileRows : Nat := 65536

/-- bucket(key) of R231. -/
def bucketOf (seed : Nat) (key : List Byte) (buckets : Nat) : Nat :=
  let h := (List.range (ceilDiv key.length 8)).foldl (fun (h : BitVec 64) w => mix (h ^^^ BitVec.ofNat 64 (fieldAt key (8 * w) 8))) (BitVec.ofNat 64 seed)
  h.toNat % buckets

/-- What a tile of a table leaves: its counts, the table in progress, rows read, whether it was the last. -/
structure TableOut where
  out     : TileOut
  pairs   : List PairEntry
  buckets : SMap Nat
  rows    : Nat
  last    : Bool

/-- Fields of a TBE descriptor. -/
structure TbFields where
  stride : Nat
  keyOff : Nat
  conOff : Nat
  valOff : Nat
  keyB   : Nat
  nval   : Nat
  valW   : Nat
  mag    : Nat
  rel    : Bool
  deriving DecidableEq, Repr

def tbFields (b : List Byte) : TbFields :=
  let v := fieldAt b 0x51 1
  ⟨fieldAt b 0x1C 4, fieldAt b 0x48 2, fieldAt b 0x4A 2, fieldAt b 0x4C 2, fieldAt b 0x50 1, v % 8, if bitOf v 3 then 4 else 8,
   v / 16 % 4, bitOf v 6⟩

/-- A bucket's row count, and the input rows read, whether a bucket was full. -/
structure PartRun where
  bk   : SMap Nat
  n    : Nat
  full : Bool

/-- Rows copied into their buckets in order, up to one that would exceed its bucket. -/
def partRows (id : EngId) (d : Desc) : List Nat → PartRun → Eng PartRun
  | [], x => return x
  | a :: as, x => do
    let f := tbFields d.bytes
    let room := fieldAt d.bytes 0x28 8
    let row ← readE id a f.stride .normal
    let b := bucketOf (fieldAt d.bytes 0x40 8) (bytesAt row f.keyOff f.keyB) (fieldAt d.bytes 0x4E 2)
    let c := SMap.get x.bk 0 b
    if (c + 1) * f.stride > room then return ⟨x.bk, x.n + 1, true⟩
    else
      writeE (fieldAt d.bytes 0x20 8 + b * room + c * f.stride) row .normal
      partRows id d as ⟨SMap.set x.bk b (c + 1), x.n + 1, false⟩

/-- TB_PARTITION (R231, R235): rows copied in order; the counts are written with each tile. -/
def partitionTile (id : EngId) (d : Desc) (ix : Nat) : Eng TableOut := do
  let f := tbFields d.bytes
  let segs ← segList id d
  let x ← partRows id d (segRows f.stride segs (ix * tbTileRows) tbTileRows) ⟨d.buckets, 0, false⟩
  writeE (fieldAt d.bytes 0x30 8) ((List.range (fieldAt d.bytes 0x4E 2)).flatMap (fun b => leBytes 8 (SMap.get x.bk 0 b))) .normal
  return ⟨{ TileOut.zero with work := x.n, tableFull := x.full }, [], x.bk, d.rowsRead + x.n,
    decide ((ix + 1) * tbTileRows ≥ (segs.map (·.2)).sum)⟩

/-- A row joins its (key, contributor) pair. -/
def addPair (key : List Byte) (con : Nat) (vals : List Int) : List PairEntry → List PairEntry
  | [] => [⟨key, con, 1, vals⟩]
  | p :: ps =>
    if p.key = key ∧ p.contrib = con then { p with rows := p.rows + 1, sums := p.sums.zipWith (· + ·) vals } :: ps
    else p :: addPair key con vals ps

/-- Byte strings in ascending order, as unsigned bytes from byte 0. -/
def keyLt : List Byte → List Byte → Bool
  | [], [] => false
  | [], _ => true
  | _, [] => false
  | a :: as, b :: bs => if a = b then keyLt as bs else decide (a.toNat < b.toNat)

def insertKey (k : List Byte) : List (List Byte) → List (List Byte)
  | [] => [k]
  | x :: xs => if k = x then x :: xs else if keyLt k x then k :: x :: xs else x :: insertKey k xs

/-- The keys of a table, ascending (R233). -/
def keysOf (ps : List PairEntry) : List (List Byte) := ps.foldl (fun l p => insertKey p.key l) []

/-- Bytes of a cell (R233) and of an entry of the work area (R235). -/
def TbFields.cellBytes (f : TbFields) : Nat := 0x30 + 16 * f.nval + 8 * ceilDiv f.keyB 8
def TbFields.pairBytes (f : TbFields) : Nat := 8 * ceilDiv f.keyB 8 + 16 + 16 * f.nval

/-- 16 bytes of two's complement. -/
def int128 (x : Int) : List Byte := leBytes 16 (x % (2 ^ 128 : Nat)).toNat

/-- The largest and the second largest of a list, 0 where there is none. -/
def topTwo (l : List Nat) : Nat × Nat :=
  l.foldl (fun t x => if x ≥ t.1 then (x, t.1) else if x > t.2 then (t.1, x) else t) (0, 0)

/-- The cell of a key (R232, R233). -/
def cellOf (f : TbFields) (ps : List PairEntry) (key : List Byte) : List Byte :=
  let own := ps.filter (fun p => p.key == key)
  let top := topTwo (own.map (fun p => (p.sums.getD f.mag 0).natAbs))
  leBytes 8 own.length ++ leBytes 8 (own.map (·.rows)).sum ++ leBytes 16 top.1 ++ leBytes 16 top.2
    ++ (List.range f.nval).flatMap (fun v => int128 (own.map (fun p => p.sums.getD v 0)).sum)
    ++ key ++ List.replicate (8 * ceilDiv f.keyB 8 - key.length) 0

/-- The header of a result table, RTAG zero (R233). -/
def tableHeader (id : EngId) (f : TbFields) (cells rows : Nat) : List Byte :=
  leBytes 2 0x5442 ++ [1] ++ leBytes 1 (if f.rel then 1 else 0) ++ leBytes 1 f.keyB ++ leBytes 1 f.nval ++ leBytes 1 f.mag ++ [0]
    ++ leBytes 4 f.cellBytes ++ leBytes 2 id.ctx ++ leBytes 1 id.part ++ [0] ++ leBytes 8 cells ++ leBytes 8 rows ++ List.replicate 32 0

/-- The pairs of a table in progress as numbers. -/
def pairKeys (ps : List PairEntry) : List Nat :=
  ps.flatMap (fun p => p.key.map (·.toNat) ++ p.contrib :: p.rows :: p.sums.flatMap (fun v => [v.natAbs, if v < 0 then 1 else 0]))

/-- n bytes in a form of the TBE's own. -/
def openBytes (d : Desc) (ps : List PairEntry) (ix n : Nat) : List Byte :=
  (List.range n).map (fun i => BitVec.ofNat 8 (d.open (ix :: i :: pairKeys ps) 256))

/-- The pairs so far, the input rows read, whether the work area was full. -/
structure AggRun where
  ps   : List PairEntry
  n    : Nat
  full : Bool

/-- Bytes that a table in progress holds (R235). -/
def heldBytes (f : TbFields) (ps : List PairEntry) : Nat := ps.length * f.pairBytes + (keysOf ps).length * f.cellBytes

/-- Rows added to the table in progress, up to one that would exceed ¾ of the work area. -/
def aggRows (id : EngId) (d : Desc) : List Nat → AggRun → Eng AggRun
  | [], x => return x
  | a :: as, x => do
    let f := tbFields d.bytes
    let row ← readE id a f.stride .normal
    let vals := (List.range f.nval).map (fun v => signed (8 * f.valW) (fieldAt row (f.valOff + v * f.valW) f.valW))
    let next := addPair (bytesAt row f.keyOff f.keyB) (fieldAt row f.conOff 8) vals x.ps
    if 4 * heldBytes f next > 3 * fieldAt d.bytes 0x38 8 then return ⟨x.ps, x.n + 1, true⟩
    else aggRows id d as ⟨next, x.n + 1, false⟩

/-- The result table written (R233, R236). -/
def writeTable (id : EngId) (d : Desc) (ps : List PairEntry) (rows : Nat) (tag : List Byte → List Byte) : Eng Unit := do
  let f := tbFields d.bytes
  let keys := keysOf ps
  let hdr := tableHeader id f keys.length rows
  let cells := keys.flatMap (cellOf f ps)
  let out := fieldAt d.bytes 0x20 8
  writeE out (hdr ++ cells) .normal
  if f.rel then writeE (out + 0x20) (tag (hdr ++ cells)) .normal

/-- TB_AGGREGATE (R232–R236): the tables in progress hold the work area, in a form of the TBE's own; tag computes RTAG. -/
def aggregateTile (id : EngId) (d : Desc) (ix : Nat) (tag : List Byte → List Byte) : Eng TableOut := do
  let f := tbFields d.bytes
  let work := fieldAt d.bytes 0x38 8
  let segs ← segList id d
  let x ← aggRows id d (segRows f.stride segs (ix * tbTileRows) tbTileRows) ⟨d.pairs, 0, false⟩
  writeE (fieldAt d.bytes 0x30 8) (openBytes d x.ps ix (min work (ceilDiv (4 * heldBytes f x.ps) 3))) .normal
  let rows := d.rowsRead + x.n
  let last := decide ((ix + 1) * tbTileRows ≥ (segs.map (·.2)).sum)
  let tooBig := decide (64 + (keysOf x.ps).length * f.cellBytes > fieldAt d.bytes 0x28 8)
  if last && !x.full && !tooBig then writeTable id d x.ps rows tag
  return ⟨{ TileOut.zero with work := x.n, tableFull := x.full || (last && tooBig) }, x.ps, [], rows, last⟩

/-- The work of a TBE tile by operation. -/
def tbTile (id : EngId) (d : Desc) (ix : Nat) (tag : List Byte → List Byte) : Eng TableOut :=
  if d.op = 0x30 then partitionTile id d ix else aggregateTile id d ix tag

end Sys2Proof.Machine
end

