-- ==== Sys2Proof/Machine/Codec.lean ====
section
/-! DEFINITION. What a CDE tile computes (R237–R241), and the pages that a mover feeds through one (R242). -/

namespace Sys2Proof.Machine

open Sys2Proof

/-! The shuffle and the LZ4 block format (R238). -/

/-- shuffled[b·n + i] = page[i·w + b]. -/
def shuffle (w : Nat) (page : List Byte) : List Byte :=
  let a := page.toArray
  let n := 4096 / w
  (List.range 4096).map (fun k => a.getD (k % n * w + k / n) 0)

def unshuffle (w : Nat) (s : List Byte) : List Byte :=
  let a := s.toArray
  let n := 4096 / w
  (List.range 4096).map (fun k => a.getD (k % w * n + k / w) 0)

/-- Bytes of an element by SHUFFLE code. -/
def shuffleWidth (c : Nat) : Nat := 2 ^ c

/-- Length-extension bytes of a length beyond 15. -/
def lzExt : Nat → Nat → List Byte
  | 0, _ => []
  | k + 1, n => if n ≥ 255 then 255 :: lzExt k (n - 255) else [BitVec.ofNat 8 n]

def lzLen (n : Nat) : List Byte := if n < 15 then [] else lzExt 32 (n - 15)

/-- A sequence: its literals, offset and match length. -/
def lzSequence (lits : List Byte) (off len : Nat) : List Byte :=
  leBytes 1 (min 15 lits.length * 16 + min 15 (len - 4)) ++ lzLen lits.length ++ lits ++ leBytes 2 off ++ lzLen (len - 4)

/-- The last sequence: literals alone. -/
def lzFinal (lits : List Byte) : List Byte := leBytes 1 (min 15 lits.length * 16) ++ lzLen lits.length ++ lits

/-- Four bytes of the page, little-endian. -/
def read32 (s : Array Byte) (p : Nat) : Nat :=
  (s.getD p 0).toNat + 256 * ((s.getD (p + 1) 0).toNat + 256 * ((s.getD (p + 2) 0).toNat + 256 * (s.getD (p + 3) 0).toNat))

/-- The match of positions c and p from length L on. -/
def lzMatch (s : Array Byte) (c p : Nat) : Nat → Nat → Nat
  | 0, l => l
  | k + 1, l => if p + l < 4091 ∧ s.getD (c + l) 0 = s.getD (p + l) 0 then lzMatch s c p k (l + 1) else l

def sliceOf (s : Array Byte) (a b : Nat) : List Byte := (List.range (b - a)).map (fun i => s.getD (a + i) 0)

/-- The encoder of R238. -/
def lzLoop (s : Array Byte) : Nat → Nat → Nat → Array (Option Nat) → List Byte → List Byte
  | 0, _, anchor, _, out => out ++ lzFinal (sliceOf s anchor 4096)
  | k + 1, p, anchor, h, out =>
    if p > 4083 then out ++ lzFinal (sliceOf s anchor 4096)
    else
      let x := read32 s p
      let i := x * 0x6C8E9CF5 % 2 ^ 32 / 2 ^ 20
      let c := h.getD i none
      let h := h.setIfInBounds i (some p)
      match c with
      | some c =>
        if read32 s c = x then
          let l := lzMatch s c p 4096 4
          lzLoop s k (p + l) (p + l) h (out ++ lzSequence (sliceOf s anchor p) (p - c) l)
        else lzLoop s k (p + 1) anchor h out
      | none => lzLoop s k (p + 1) anchor h out

def lzEncode (page : List Byte) : List Byte := lzLoop page.toArray 4097 0 0 (Array.replicate 4096 none) []

/-- A length with its extension bytes: its value and the rest. -/
def lzReadLen : Nat → Nat → List Byte → Option (Nat × List Byte)
  | _, _, [] => none
  | 0, _, _ => none
  | k + 1, n, b :: bs => if b = 255 then lzReadLen k (n + 255) bs else some (n + b.toNat, bs)

def lzTakeLen (t : Nat) (bs : List Byte) : Option (Nat × List Byte) := if t < 15 then some (t, bs) else lzReadLen bs.length 15 bs

/-- A match copied byte by byte. -/
def lzCopy (off : Nat) : Nat → Array Byte → Array Byte
  | 0, o => o
  | n + 1, o => lzCopy off n (o.push (o.getD (o.size - off) 0))

/-- A block decoded, with where its last match starts and how many literals end it; none where it is not one of sequences that stay
within the page. -/
def lzDecode : Nat → List Byte → Array Byte → Nat → Option (Array Byte × Nat × Nat)
  | 0, _, _, _ => none
  | _, [], _, _ => none
  | k + 1, t :: bs, o, last =>
    match lzTakeLen (t.toNat / 16) bs with
    | none => none
    | some (n, bs) =>
      if bs.length < n ∨ o.size + n > 4096 then none
      else
        let o := o ++ (bs.take n).toArray
        match bs.drop n with
        | [] => if t.toNat % 16 = 0 then some (o, last, n) else none
        | [_] => none
        | a :: b :: bs =>
          let off := a.toNat + 256 * b.toNat
          match lzTakeLen (t.toNat % 16) bs with
          | none => none
          | some (m, bs) =>
            if off = 0 ∨ off > o.size ∨ o.size + m + 4 > 4096 then none else lzDecode k bs (lzCopy off (m + 4) o) (o.size + 1)

/-! Containers (R239). -/

/-- A container: header, payload, padding. -/
def containerOf (flags : Nat) (payload page : List Byte) : List Byte :=
  let n := 16 + payload.length
  leBytes 2 0x4350 ++ [1] ++ leBytes 1 flags ++ leBytes 2 payload.length ++ [0, 0] ++ leBytes 4 (crc32c page) ++ [0, 0, 0, 0] ++ payload
    ++ List.replicate (ceilDiv n 64 * 64 - n) 0

/-- A page's container, none for an incompressible one, and its RESULT (R238, R239, R241). -/
def compressPage (sh maxC : Nat) (page : List Byte) : Option (List Byte) × Nat :=
  if allZero page then (some (containerOf 4 [] page), 1)
  else
    let pl := lzEncode (if sh = 0 then page else shuffle (shuffleWidth sh) page)
    if ceilDiv (16 + pl.length) 64 * 64 > maxC ∨ pl.length > 4080 then (none, 2) else (some (containerOf sh pl page), 0)

/-- A container's header is good; its payload length. -/
def headerLen (h : List Byte) : Option Nat :=
  let n := fieldAt h 4 2
  let zero := bitOf (fieldAt h 3 1) 2
  if fieldAt h 0 2 = 0x4350 ∧ fieldAt h 2 1 = 1 ∧ fieldAt h 3 1 < 8 ∧ n ≤ 4080 ∧ (zero → n = 0) ∧ fieldAt h 6 2 = 0 ∧ fieldAt h 12 4 = 0 then some n
  else none

/-- The page of a container, whether its block meets LZ4's rules for the end of a block, and its RESULT; none for a CORRUPT one. -/
def decodeContainer (c : List Byte) (n : Nat) : Option (List Byte × Bool × Nat) :=
  let fl := fieldAt c 3 1
  let good := fun (p : List Byte) (strict : Bool) (r : Nat) => if crc32c p = fieldAt c 8 4 then some (p, strict, r) else none
  if bitOf fl 2 then good (List.replicate 4096 0) true 1
  else
    match lzDecode (n + 1) (bytesAt c 16 n) #[] 0 with
    | none => none
    | some (o, last, lits) =>
      if o.size ≠ 4096 then none
      else
        let s := o.toList
        good (if fl % 4 = 0 then s else unshuffle (shuffleWidth (fl % 4)) s) (last == 0 || (lits ≥ 5 && last - 1 + 12 ≤ 4096)) 0

/-! Pages (R240, R241). -/

/-- A run whose requests may fail without ending the tile. -/
def attempt {α : Type} (m : Eng α) : Eng (Except Resp α) :=
  tryCatch (do return .ok (← m)) fun st =>
    match st with
    | .err c _ => pure (.error c)
    | .wait b => throw (.wait b)

/-- What is to be written for a page: its destination and bytes, the status entry's BYTES and RESULT; or its failing code. -/
structure PageJob where
  dst   : Nat
  data  : Option (List Byte)
  bytes : Nat
  res   : Nat
  code  : Resp
  deriving DecidableEq, Repr

def PageJob.failed (dst : Nat) (c : Resp) : PageJob := ⟨dst, none, 0, 4, c⟩

/-- The read side of a page to be compressed. -/
def readPage (id : EngId) (sh maxC : Nat) (hint : Hint) (src dst : Nat) : Eng PageJob := do
  match ← attempt (readE id src 4096 hint) with
  | .error c => return .failed dst c
  | .ok page =>
    let r := compressPage sh maxC page
    return ⟨dst, r.1, (r.1.map (·.length)).getD 0, r.2, .ok⟩

/-- The read side of a container. Where a block decodes but breaks LZ4's rules for the end of a block, whether the decoder takes it
is free. -/
def readContainer (id : EngId) (hint : Hint) (src dst : Nat) : Eng PageJob := do
  let corrupt : PageJob := ⟨dst, none, 0, 3, .ok⟩
  match ← attempt (readE id src 16 hint) with
  | .error c => return .failed dst c
  | .ok h =>
    match headerLen h with
    | none => return corrupt
    | some n =>
      match ← attempt (readE id src (16 + n) hint) with
      | .error c => return .failed dst c
      | .ok c =>
        match decodeContainer c n with
        | none => return corrupt
        | some (p, strict, r) =>
          let take := strict || Config.openResult (c.map (·.toNat)) % 2 == 1
          return if take then ⟨dst, some p, 4096, r, .ok⟩ else corrupt

/-- The write requests of a page, translated; a page whose translation fails is ACCESS. -/
def placePage (id : EngId) (hint : Hint) (j : PageJob) : Eng (PageJob × List (Pend × Nat × Nat × Nat)) := do
  match j.data with
  | none => return (j, [])
  | some bs =>
    match ← attempt (placeWrites id [⟨j.dst, bs, hint, none, 0, 0⟩]) with
    | .ok ps => return (j, ps)
    | .error c => return (.failed j.dst c, [])

/-- A page's requests made; one answered with another code than OK makes the page ACCESS. -/
def storePage (id : EngId) (ps : List (Pend × Nat × Nat × Nat)) : Eng Unit := do
  for p in ps do
    let a := p.2.2.2
    let r := pendReq id p.1 p.2.1 p.2.2.1 a
    match ← look (fun s => s.localForm a) with
    | none =>
      if remoteForm a then
        discard (remoteE id r.kind a p.2.1 p.2.2.1 ((p.1.data.drop (p.2.1 - p.1.va)).take p.2.2.1) r.mask p.1.hint)
      else throw (.err .homeAbsent p.2.1)
    | some l =>
      match ← onDev (fun s => s.request { r with line := l / 64 }) with
      | none => throw (.wait false)
      | some (code, _) => if code != .ok then throw (.err code p.2.1)

/-- The hint of a code (R245). -/
def hintOf (c : Nat) : Hint := [Hint.normal, .stream, .keep, .last].getD (c % 4) .normal

/-- Pages done in order, with their status entries. -/
def pagesTile (id : EngId) (srcList dstList status first n dstHint : Nat) (work : Nat → Nat → Eng PageJob) : Eng (TileOut × Nat) := do
  let mut jobs : List (PageJob × List (Pend × Nat × Nat × Nat)) := []
  for k in List.range n do
    let src ← word64At id srcList (first + k)
    let dst ← word64At id dstList (first + k)
    let j ← work src dst
    let x ← placePage id (hintOf dstHint) j
    jobs := jobs ++ [x]
  let mut out : List PageJob := []
  for j in jobs do
    match ← attempt (storePage id j.2) with
    | .ok _ => out := out ++ [j.1]
    | .error c => out := out ++ [.failed j.1.dst c]
  writeE (status + 8 * first) (out.flatMap (fun j => leBytes 2 j.bytes ++ leBytes 1 j.res ++ leBytes 1 j.code.num ++ [0, 0, 0, 0])) .normal
  let flagged := (out.filter (fun j => j.res ≥ 2)).length
  return ({ TileOut.zero with work := n, flagged := flagged, corrupt := out.any (fun j => j.res == 3) }, (out.map (·.bytes)).sum)

/-- A CDE tile: 16 pages (R237). -/
def cdTile (id : EngId) (d : Desc) (ix : Nat) : Eng TileOut := do
  let b := d.bytes
  let h := fieldAt b 0x2F 1
  let first := 16 * ix
  let r ← pagesTile id (fieldAt b 0x10 8) (fieldAt b 0x18 8) (fieldAt b 0x20 8) first (min 16 (fieldAt b 0x28 4 - first)) (h / 4) (fun src dst =>
    if d.op = 0x40 then readPage id (fieldAt b 0x2E 1) (fieldAt b 0x2C 2) (hintOf h) src dst else readContainer id (hintOf h) src dst)
  return r.1

end Sys2Proof.Machine
end

