-- ==== Sys2Proof/Machine/Mover.lean ====
section
/-! DEFINITION. What an MVE tile computes (R242–R245). -/

namespace Sys2Proof.Machine

open Sys2Proof

/-- Destination bytes of a mover tile. -/
def mvTileBytes : Nat := 262144

/-- Fields of an MVE descriptor. -/
structure MvFields where
  src  : Nat
  dst  : Nat
  len0 : Nat
  len1 : Nat
  len2 : Nat
  ss1  : Nat
  ss2  : Nat
  ds1  : Nat
  ds2  : Nat
  aux  : Nat
  hint : Nat
  deriving DecidableEq, Repr

def mvFields (b : List Byte) : MvFields :=
  ⟨fieldAt b 0x10 8, fieldAt b 0x18 8, fieldAt b 0x20 4, fieldAt b 0x24 4, fieldAt b 0x28 4, fieldAt b 0x30 8, fieldAt b 0x38 8,
   fieldAt b 0x40 8, fieldAt b 0x48 8, fieldAt b 0x50 8, fieldAt b 0x58 1⟩

/-- Address of byte (0, y, z) of a box. -/
def rowAddr (base s1 s2 y z : Nat) : Nat := (base + z * s2 + y * s1) % 2 ^ 64

/-- The row pieces of a tile in ascending (z, y, x): source and destination address, length. -/
def MvFields.rows (f : MvFields) (ix : Nat) : List (Nat × Nat × Nat) :=
  let total := f.len0 * f.len1 * f.len2
  let lo := ix * mvTileBytes
  let hi := min total (lo + mvTileBytes)
  let r0 := lo / f.len0
  let r1 := (hi - 1) / f.len0
  (List.range (r1 + 1 - r0)).map fun k =>
    let r := r0 + k
    let y := r % f.len1
    let z := r / f.len1
    let x0 := lo - r * f.len0
    let x1 := min f.len0 (hi - r * f.len0)
    (rowAddr f.src f.ss1 f.ss2 y z + x0, rowAddr f.dst f.ds1 f.ds2 y z + x0, x1 - x0)

/-- The source rows of the whole copy that meet a range. -/
def MvFields.overlaps (f : MvFields) (a n : Nat) : List (Nat × Nat) :=
  ((List.range (f.len1 * f.len2)).map (fun r =>
    let b := rowAddr f.src f.ss1 f.ss2 (r % f.len1) (r / f.len1)
    (b, b + f.len0))).filter (fun r => decide (r.1 < a + n) && decide (a < r.2))

/-- Bytes written singly where the source overlaps: each takes the byte that the copy read or keeps what it held (R243). -/
def writeSome (dst : Nat) (hint : Hint) (over' : List (Nat × Nat)) : List Byte → Nat → Eng Unit
  | [], _ => return ()
  | b :: bs, i => do
    let a := dst + i
    let free := over'.any (fun r => decide (r.1 ≤ a) && decide (a < r.2))
    let put ← if free then onDev Dev.freeBool else pure true
    if put then writeE a [b] hint
    writeSome dst hint over' bs (i + 1)

/-- MV_COPY (R242, R243): the source bytes of the tile are read, then its destination written. -/
def copyTile (id : EngId) (d : Desc) (ix : Nat) : Eng TileOut := do
  let f := mvFields d.bytes
  let mut n := 0
  let mut got : List (Nat × List Byte) := []
  for r in f.rows ix do
    let bs ← readE id r.1 r.2.2 (hintOf f.hint)
    got := got ++ [(r.2.1, bs)]
    n := n + r.2.2
  for g in got do
    let ov := f.overlaps g.1 g.2.length
    if ov.isEmpty then writeE g.1 g.2 (hintOf (f.hint / 4)) else writeSome g.1 (hintOf (f.hint / 4)) ov g.2 0
  return { TileOut.zero with work := n }

/-- MV_FILL. -/
def fillTile (_id : EngId) (d : Desc) (ix : Nat) : Eng TileOut := do
  let f := mvFields d.bytes
  let pat := leBytes 8 f.aux
  let mut n := 0
  for r in f.rows ix do
    writeE r.2.1 ((List.range r.2.2).map (fun i => pat.getD ((r.2.1 + i) % 8) 0)) (hintOf (f.hint / 4))
    n := n + r.2.2
  return { TileOut.zero with work := n }

/-- MV_PAGES: 64 pages through the CDE of the cluster's region, which reads the containers (R242, R340). -/
def movePages (id : EngId) (d : Desc) (ix : Nat) : Eng TileOut := do
  let f := mvFields d.bytes
  let first := 64 * ix
  let r ← pagesTile id f.src f.dst f.aux first (min 64 (f.len1 - first)) (f.hint / 4) (fun src dst =>
    readContainer { id with agent := .cde (id.cluster / 4) } (hintOf f.hint) src dst)
  return { r.1 with work := r.2 }

/-- The work of an MVE tile by operation. -/
def mvTile (id : EngId) (d : Desc) (ix : Nat) : Eng TileOut :=
  match d.op with
  | 0x50 => copyTile id d ix
  | 0x51 => fillTile id d ix
  | _ => movePages id d ix

end Sys2Proof.Machine
end

