-- ==== Sys2Proof/Machine/EngineCmds.lean ====
section
/-! DEFINITION. The commands of engines (files 05, 08 and 10): tiles taken, stolen, run and ended; matrix passes, HELD, self-tests and
power of arrays; the staging split. -/

namespace Sys2Proof.Machine

open Sys2Proof

/-! Engines (R207). Engine e is array e below 512, VXE 512 + c, SPE 640 + c, MVE 768 + c, TBE 896 + g, CDE 928 + g. -/

/-- What an engine is, its cluster (for a table engine, that whose copy translates for it), its region. -/
def kindOfEngine (e : Nat) : EngineKind :=
  if e < 512 then .mxa else if e < 640 then .vxe else if e < 768 then .spe else if e < 896 then .mve else if e < 928 then .tbe else .cde

def clusterOfEngine (e : Nat) : Nat := if e < 512 then e / 4 else (e - 512) % 128
def regionOfEngine (e : Nat) : Nat := if e < 896 then clusterOfEngine e / 4 else (e - 896) % 32

/-- The BLOCK of an engine's error-log entries (R518). -/
def blockOfEngine (e : Nat) : Nat :=
  match kindOfEngine e with
  | .mxa => 5 | .vxe => 6 | .spe => 7 | .mve => 8 | .tbe => 9 | _ => 10

/-- The requester that runs a tile of a queue on an engine. -/
def Dev.engId (s : Dev) (e q : Nat) : EngId :=
  let g := regionOfEngine e
  let c := if e < 896 then clusterOfEngine e else s.lowCluster g
  let agent : Agent := match kindOfEngine e with
    | .mxa => .mxa e | .vxe => .vxe c | .spe => .spe c | .mve => .mve c | .tbe => .tbe g | _ => .cde g
  ⟨agent, e, c, if e < 896 then some c else none, s.ctxOfQueue q, (s.partOfQueue q).getD 0⟩

/-- The members of the unit that a tile belongs to: a chain's in order, or one descriptor. -/
def Dev.unit (s : Dev) (t : Tile) : List Desc := (s.queue t.q).inflight.filter (fun d => d.head == t.pos)

/-- The weight token of a matrix descriptor has reached its value (R138). -/
def Dev.tokenMet (s : Dev) (q : Nat) (d : Desc) : Bool :=
  let t := fieldAt d.bytes 0x78 2
  t == 0 || (match s.partOfQueue q with
    | some p => decide (s.token p t ≥ fieldAt d.bytes 0x7A 4)
    | none => false)

/-- An engine can run a tile (R286): for an array, the weights of its first pass are available, the token met and the first slice staged
(R138, R140). Which tiles the movers have not staged yet is a matter of time that the command says. -/
def Dev.canRun (s : Dev) (e : Nat) (unstaged : List Tile) (t : Tile) : Bool :=
  match s.desc t.q t.pos with
  | none => false
  | some d => kindOfOp d.op == kindOfEngine e && d.stopped.isNone && s.partOfQueue t.q == s.partOfRegion (regionOfEngine e)
      && (kindOfEngine e != .mxa || (s.tokenMet t.q d && !unstaged.contains t))

/-- The lowest member of the logical array of an array. -/
def Dev.logical (s : Dev) (a : Nat) : Nat := (s.members a).headD a

/-- A self-test of an array waits (R149). -/
def Dev.testWaits (s : Dev) (a : Nat) : Bool := bitOf (s.fld F.CL_SELFTEST_CTRL_START (a / 4)) (a % 4)

/-- An engine is idle, of a block in service and a partition in RUN. -/
def Dev.engineIdle (s : Dev) (e : Nat) : Bool :=
  let up := s.dieState (regionOfEngine e / 4) == 0 && (match s.partOfRegion (regionOfEngine e) with | some p => s.partRuns p | none => false)
  up && s.issues && (if e < 512 then
      s.flag F.CL_STATUS_IN_SERVICE (e / 4) && s.logical e == e && (SMap.find s.arrays e).isNone
        && (s.members e).all (fun m => decide (s.fld F.MXA_STATUS_STATE m ≤ 1) && !s.testWaits m)
    else (e ≥ 896 || s.flag F.CL_STATUS_IN_SERVICE (clusterOfEngine e)) && (SMap.find s.engs e).isNone)

/-- ENG_STATUS of an engine that is no array. -/
def Dev.setEngStatus (s : Dev) (e st : Nat) (ctx : Option Nat) (op : Nat) : Dev :=
  let i := e - 512
  (((s.setFld F.ENG_STATUS_STATE i st).setFld F.ENG_STATUS_CONTEXT i (ctx.getD 0)).setFlag F.ENG_STATUS_CTX_VALID i ctx.isSome).setFld
    F.ENG_STATUS_OPCODE i op

/-- What an engine waits for is forgotten. -/
def Dev.forgetWaits (s : Dev) (e : Nat) : Dev :=
  { s with xfail := SMap.del s.xfail e, remDone := s.remDone.filter (fun r => r.tag != e),
           remQ := s.remQ.filter (fun r => r.tag != e) }

/-- A tile assigned to an idle engine. -/
def Dev.assign (s : Dev) (e : Nat) (t : Tile) : Dev :=
  let s := s.forgetWaits e
  let s := if e < 896 && !s.padUsed.contains (clusterOfEngine e) then { s with padUsed := s.padUsed ++ [clusterOfEngine e] } else s
  if e < 512 then { s with arrays := SMap.set s.arrays e ⟨t, false, 0, 0, 0, none, false, [], [], [], [], []⟩ }
  else
    let op := match s.desc t.q t.pos with | some d => d.op | none => 0
    { s with engs := SMap.set s.engs e t }.setEngStatus e 2 (some (s.ctxOfQueue t.q)) op

/-- R286: the first tile of an engine's own deque that it can run. -/
def Dev.tileTake (s : Dev) (e : Nat) (unstaged : List Tile) : Dev :=
  if e ≥ 896 || !s.engineIdle e then s
  else
    let c := clusterOfEngine e
    match takeFirst (s.canRun e unstaged) (s.deque c) with
    | none => s
    | some (t, rest) => (s.setDeque c rest).assign e t

def execEngineTileTake (t : TileSeek) (s : State) : Host.Outcome State Fault Refusal :=
  s.after (s.dev.tileTake t.e t.unstaged)

/-- The deque with the most tiles of those that hold one the engine can run, the lowest cluster on a tie. -/
def Dev.victimDeque (s : Dev) (e least : Nat) (unstaged : List Tile) (cs : List Nat) : Option Nat :=
  let ok := cs.filter (fun c => decide ((s.deque c).length ≥ least) && (s.deque c).any (s.canRun e unstaged))
  match ok with
  | [] => none
  | c :: r => some (r.foldl (fun b x => if (s.deque x).length > (s.deque b).length then x else b) c)

/-- The victim of R287's three tiers. -/
def Dev.stealFrom (s : Dev) (e : Nat) (unstaged : List Tile) : Option Nat :=
  let c := clusterOfEngine e
  let all := match s.partOfRegion (c / 4) with | some p => (s.clustersOf p).filter (· != c) | none => []
  let least := max 1 (s.fld F.CL_STEAL_CFG_CROSS_DIE_MIN c)
  match s.victimDeque e 0 unstaged (all.filter (fun x => x / 4 == c / 4)) with
  | some v => some v
  | none => match s.victimDeque e 0 unstaged (all.filter (fun x => x / 4 != c / 4 && x / 16 == c / 16)) with
    | some v => some v
    | none => if s.flag F.CL_STEAL_CFG_CROSS_DIE c then s.victimDeque e least unstaged (all.filter (fun x => x / 16 != c / 16)) else none

/-- R287: the last tile of the victim's deque that the engine can run. -/
def Dev.steal (s : Dev) (e : Nat) (unstaged : List Tile) : Dev :=
  let c := clusterOfEngine e
  if e ≥ 896 || !s.engineIdle e || (s.deque c).any (s.canRun e unstaged) || !s.flag F.CL_STEAL_CFG_STEAL c then s
  else match s.stealFrom e unstaged with
    | none => s
    | some v =>
      match takeFirst (s.canRun e unstaged) (s.deque v).reverse with
      | none => s
      | some (t, rest) => (((s.setDeque v rest.reverse).count F.CL_STEALS_OUT v 1).count F.CL_STEALS_IN c 1).assign e t

def execTileSteal (t : TileSeek) (s : State) : Host.Outcome State Fault Refusal :=
  s.after (s.dev.steal t.e t.unstaged)

/-- R288: the oldest tile of the engine's own table queue, then of the others' in ascending region. -/
def Dev.tableTake (s : Dev) (e : Nat) : Dev :=
  if !s.engineIdle e then s
  else
    let g := regionOfEngine e
    let own := match s.partOfRegion g with | some p => g :: (s.regionsOf p).filter (· != g) | none => []
    match own.find? (fun x => (s.tableQ x).any (s.canRun e [])) with
    | none => s
    | some x => match takeFirst (s.canRun e []) (s.tableQ x) with
      | none => s
      | some (t, rest) => (s.setTableQ x rest).assign e t

def execTableQueueTake (u : Fin 64) (s : State) : Host.Outcome State Fault Refusal := s.after (s.dev.tableTake (896 + u))

/-! The end of a tile. -/

/-- What a tile's writes count in its cluster (R177). -/
def Dev.countFormats (s : Dev) (c : Nat) (o : TileOut) : Dev :=
  (((s.bump F.CL_FMT_VANISHED_COUNT c o.vanished).bump F.CL_FMT_SPLIT_COUNT c o.split).bump F.CL_FMT_SATURATED_COUNT c o.saturated).bump
    F.CL_FMT_NONFINITE_COUNT c o.nonfinite

/-- An event bit of an engine that is no array. -/
def Dev.engEvent (s : Dev) (e : Nat) (f : Fld) (b : Bool) : Dev := if b then s.setFlag f (e - 512) true else s

/-- An engine gives up its tile. -/
def Dev.freeEngine (s : Dev) (e : Nat) : Dev :=
  { s.setEngStatus e 1 none 0 with engs := SMap.del s.engs e }.forgetWaits e

/-- A tile ends with its results written. -/
def Dev.endTile (s : Dev) (e : Nat) (t : Tile) (o : TileOut) : Dev :=
  let k := kindOfEngine e
  let s := (s.freeEngine e).bump F.ENG_WORK_COUNT (e - 512) o.work
  let s := if k.table then s else (s.bump F.CL_TILES_COUNT (clusterOfEngine e) 1).countFormats (clusterOfEngine e) o
  let s := s.engEvent e F.ENG_EVENT_INDEX_RANGE (k == .spe && o.flagged > 0)
  let s := s.engEvent e F.ENG_EVENT_SPARSE_FORMAT o.sparseBad
  let s := s.engEvent e F.ENG_EVENT_TABLE_FULL o.tableFull
  let cde := if k == .mve then 928 + regionOfEngine e else e
  let s := s.engEvent cde F.ENG_EVENT_CORRUPT o.corrupt
  let s := if o.flagged > 0 then s.modDesc t.q t.pos (fun d => { d with detail := min (d.detail + o.flagged) 0xFFFFFFFF }) else s
  if o.sparseBad then s.failDesc t.q t.pos 0x12 0 0 3 0
  else if o.tableFull then
    (s.modDesc t.q t.pos (fun d => if d.status.isNone && d.stopped.isNone then { d with status := some 8, detail := 0 } else d)).reap t.q
  else
    let s := match s.unit t with | d :: _ => s.phaseCount (regionOfEngine e) (min (d.op / 16 + 2) 6) | [] => s
    s.tileFinished t

/-- The engine that makes the requests of an engine's tiles: the mover of its cluster, or a table or codec engine itself (R209). -/
def requesterOf (e : Nat) : Nat := if e < 896 then 768 + clusterOfEngine e else e

/-- An engine or array has met an operand that it could not read. -/
def Dev.operandErr (s : Dev) (q : Nat) : Dev :=
  if q < 512 then s.setFlag F.MXA_EVENT_OPERAND_ERR q true else s.engEvent q F.ENG_EVENT_OPERAND_ERR true

/-- A tile ends on an answer other than OK (R148, R250): nothing of it is written further, and q, for which the read or write was made, sets
OPERAND_ERR. -/
def Dev.tileEnds (s : Dev) (q e : Nat) (t : Tile) (code : Resp) (addr : Nat) : Dev :=
  let s := s.report ⟨1, regionOfEngine e / 4, s.partOfQueue t.q, blockOfEngine q, code.num, some (s.ctxOfQueue t.q), addr, 0⟩
  let s :=
    if e < 512 then
      let s := match SMap.find s.arrays e with | some r => s.endHeld e r | none => s
      let s := s.setArrayState e 1 none
      { s with arrays := SMap.del s.arrays e }.forgetWaits e
    else s.freeEngine e
  (s.operandErr q).failDesc t.q t.pos 0x11 code.num addr 2 code.num

/-- A request made for a tile is answered with a code other than OK (R250). -/
def Dev.tileError (s : Dev) (e : Nat) (t : Tile) (code : Resp) (addr : Nat) : Dev := s.tileEnds (requesterOf e) e t code addr

/-- The doorbells that a run wrote reach their queue managers (R56, R260). -/
def Dev.ringDoorbells (s : Dev) : Dev :=
  s.doorbells.foldl (fun s e => s.writeDb e.2.1 e.2.2) ({ s with doorbells := [] } : Dev)

/-- A tile on an engine run whole: it ends, fails, or waits. -/
def Dev.runTile (s : Dev) (e : Nat) (op : Nat) (work : EngId → List Desc → Tile → Eng TileOut) : Dev :=
  match SMap.find s.engs e with
  | none => s
  | some t =>
    let ds := s.unit t
    match ds with
    | [] => s
    | d :: _ =>
      if d.op ≠ op then s
      else
        let id := s.engId e t.q
        let r := runEng s id (work id ds t)
        match r.1 with
        | .ok o => (r.2.endTile e t o).ringDoorbells
        | .error (.wait paged) => r.2.setFld F.ENG_STATUS_STATE (e - 512) (if paged then 3 else 2)
        | .error (.err code a) => (r.2.tileError e t code a).ringDoorbells

/-! VXE, SPE, CDE and MVE tiles. -/

/-- The tile of a cluster's VXE, if it is of an operation. -/
def Dev.runVx (s : Dev) (c op : Nat) : Dev := s.runTile (512 + c) op (fun id ds t => vxTile id ds t.ix)
/-- The tile of a cluster's SPE. -/
def Dev.runSp (s : Dev) (c op : Nat) : Dev := s.runTile (640 + c) op (fun id ds t => match ds with | d :: _ => spTile id d t.ix | [] => pure .zero)
/-- The tile of a cluster's MVE. -/
def Dev.runMv (s : Dev) (c op : Nat) : Dev := s.runTile (768 + c) op (fun id ds t => match ds with | d :: _ => mvTile id d t.ix | [] => pure .zero)
/-- The tile of a region's CDE. -/
def Dev.runCd (s : Dev) (g op : Nat) : Dev := s.runTile (928 + g) op (fun id ds t => match ds with | d :: _ => cdTile id d t.ix | [] => pure .zero)

def execVxEw (c : ClusterIx) (s : State) : Host.Outcome State Fault Refusal := s.after (s.dev.runVx c 0x10)
def execVxAct (c : ClusterIx) (s : State) : Host.Outcome State Fault Refusal := s.after (s.dev.runVx c 0x11)
def execVxReduce (c : ClusterIx) (s : State) : Host.Outcome State Fault Refusal := s.after (s.dev.runVx c 0x12)
def execVxSoftmax (c : ClusterIx) (s : State) : Host.Outcome State Fault Refusal := s.after (s.dev.runVx c 0x13)
def execVxNorm (c : ClusterIx) (s : State) : Host.Outcome State Fault Refusal := s.after (s.dev.runVx c 0x14)
def execVxOptim (c : ClusterIx) (s : State) : Host.Outcome State Fault Refusal := s.after (s.dev.runVx c 0x15)
def execSpGather (c : ClusterIx) (s : State) : Host.Outcome State Fault Refusal := s.after (s.dev.runSp c 0x20)
def execSpScatter (c : ClusterIx) (s : State) : Host.Outcome State Fault Refusal := s.after (s.dev.runSp c 0x21)
def execSpEmbed (c : ClusterIx) (s : State) : Host.Outcome State Fault Refusal := s.after (s.dev.runSp c 0x22)
def execSpSpmv (c : ClusterIx) (s : State) : Host.Outcome State Fault Refusal := s.after (s.dev.runSp c 0x23)
def execCdCompress (g : RegionIx) (s : State) : Host.Outcome State Fault Refusal := s.after (s.dev.runCd g 0x40)
def execCdDecompress (g : RegionIx) (s : State) : Host.Outcome State Fault Refusal := s.after (s.dev.runCd g 0x41)
def execMvCopy (c : ClusterIx) (s : State) : Host.Outcome State Fault Refusal := s.after (s.dev.runMv c 0x50)
def execMvFill (c : ClusterIx) (s : State) : Host.Outcome State Fault Refusal := s.after (s.dev.runMv c 0x51)
def execMvPages (c : ClusterIx) (s : State) : Host.Outcome State Fault Refusal := s.after (s.dev.runMv c 0x52)

/-! TBE tiles (R234). -/

/-- The RTAG key of a partition's seal (R483). -/
def Dev.rtagKey (s : Dev) (p : Nat) : List Byte := (SMap.get s.vaults .init p).rtagKey

/-- A table tile that ends leaves its table in progress with its descriptor; the last one sets the number of tiles. -/
def Dev.runTb (s : Dev) (g op : Nat) : Dev :=
  let e := 896 + g
  match SMap.find s.engs e with
  | none => s
  | some t =>
    match s.unit t with
    | [] => s
    | d :: _ =>
      if d.op ≠ op then s
      else
        let id := s.engId e t.q
        let r := runEng s id (tbTile id d t.ix (hmacSha256 (s.rtagKey id.part)))
        match r.1 with
        | .ok o =>
          let s := r.2.modDesc t.q t.pos (fun d => { d with pairs := o.pairs, buckets := o.buckets, rowsRead := o.rows,
                                                            tiles := if o.last then t.ix + 1 else d.tiles })
          (s.endTile e t o.out).ringDoorbells
        | .error (.wait paged) => r.2.setFld F.ENG_STATUS_STATE (e - 512) (if paged then 3 else 2)
        | .error (.err code a) => (r.2.tileError e t code a).ringDoorbells

def execTbPartition (g : RegionIx) (s : State) : Host.Outcome State Fault Refusal := s.after (s.dev.runTb g 0x30)
def execTbAggregate (g : RegionIx) (s : State) : Host.Outcome State Fault Refusal := s.after (s.dev.runTb g 0x31)

/-- The two datapaths of a TBE disagree: its tile ends as on a read answered DATA_ERR (R539). -/
def Dev.lockstep (s : Dev) (g : Nat) : Dev :=
  match SMap.find s.engs (896 + g) with
  | some t => s.tileError (896 + g) t .dataErr 0
  | none => s

def execTbeLockstepMismatch (g : RegionIx) (s : State) : Host.Outcome State Fault Refusal := s.after (s.dev.lockstep g)

/-- A request made for an engine's tile is answered with a code other than OK (R250); the page operations follow R241, within
their tiles. -/
def Dev.responseError (s : Dev) (e : Nat) (code : Resp) (addr : Nat) : Dev :=
  let t := if e < 512 then (SMap.find s.arrays (s.logical e)).map (·.tile) else SMap.find s.engs e
  match t with
  | none => s
  | some t =>
    let pages := match s.desc t.q t.pos with | some d => d.op == 0x40 || d.op == 0x41 || d.op == 0x52 | none => true
    if code == .ok || pages then s else s.tileError (if e < 512 then s.logical e else e) t code addr

def execEngineResponseError (e : Fin 960) (code : Resp) (addr : Word) (s : State) : Host.Outcome State Fault Refusal :=
  s.after (s.dev.responseError e code addr.toNat)

/-! Matrix arrays (R129, R131, R138–R150). -/

/-- A logical array enters RUN on its tile's first pass; before a pass of another context its weight registers are cleared (R133). -/
def Dev.arrayRun (s : Dev) (a : Nat) (r : MxRun) : Dev :=
  let other := (SMap.find s.cells a).any (fun x => x.ctx != s.ctxOfQueue r.tile.q)
  let s := if other then { s with cells := SMap.del s.cells a } else s
  let cls := match s.desc r.tile.q r.tile.pos with | some d => (mxFields d.bytes).cls | none => 0
  let s := s.setArrayState a 2 (some (s.ctxOfQueue r.tile.q))
  let s := (s.members a).foldl (fun s m => s.setFld F.MXA_STATUS_CLASS m cls) s
  { s with arrays := SMap.set s.arrays a { r with run := true } }

/-- Arrays that a powering entry counts, and those of one die before it (R505). -/
def Dev.powerFirst (s : Dev) (a : Nat) : Bool :=
  let before := (s.powering.takeWhile (· != a)).filter (fun x => x / 64 == a / 64)
  decide ((before.map (fun x => (s.members x).length)).sum + (s.members a).length ≤ 4)

def Dev.powerUp (s : Dev) (a : Nat) : Dev := if s.powering.contains a then s else { s with powering := s.powering ++ [a] }

/-- R148: an assigned tile starts on an idle array; one that is off powers up. -/
def Dev.tileStart (s : Dev) (a : Nat) : Dev :=
  match SMap.find s.arrays a with
  | none => s
  | some r =>
    if r.run then s
    else
      let sts := (s.members a).map (fun m => s.fld F.MXA_STATUS_STATE m)
      if sts.all (· == 1) then s.arrayRun a r else if sts.all (fun x => x == 0 || x == 1) then s.powerUp a else s

def execMxaTileStart (a : ArrayIx) (s : State) : Host.Outcome State Fault Refusal := s.after (s.dev.tileStart (s.dev.logical a))

/-- Columns of a unit written so far may end only where every block-scaled output of it ends a block. -/
def foldStep (ds : List Desc) : Nat :=
  ds.foldl (fun n d => max n (if kindOfOp d.op = .mxa then blkSize (mxFields d.bytes).cBlk else blkSize (vxFields d.bytes).oBlk)) 1

/-- The columns that the end of a fold writes, for a tile of n columns from c0 with cols written. -/
def foldEnd (ds : List Desc) (c0 n lc fold : Nat) : Nat :=
  if (fold + 1) * lc ≥ n then c0 + n else c0 + (fold + 1) * lc / foldStep ds * foldStep ds

/-- What a run of a matrix tile comes to. -/
inductive PassEnd where
  | next | fold | tile
  deriving DecidableEq, Repr

/-- Counts of a unit's members added to those so far. -/
def addStats : List (Nat × Nat × Nat × Nat) → List TileOut → List (Nat × Nat × Nat × Nat)
  | (a, b, c, d) :: xs, o :: os => (a + o.vanished, b + o.split, c + o.saturated, d + o.nonfinite) :: addStats xs os
  | [], os => os.map (fun o => (o.vanished, o.split, o.saturated, o.nonfinite))
  | xs, [] => xs

def statsOuts (l : List (Nat × Nat × Nat × Nat)) : List TileOut :=
  l.map (fun x => { TileOut.zero with vanished := x.1, split := x.2.1, saturated := x.2.2.1, nonfinite := x.2.2.2 })

/-- What the end of a pass gives: the pass, and the counts of the columns written at the end of a fold. -/
structure FoldOut where
  pass : PassOut
  even : List (List Sum)
  odd  : List (List Sum)
  outs : List TileOut

/-- A pass run, and at the end of a fold its columns written out (R145), with the vanish entries at the last one. Bytes that planes of one
descriptor share are settled within each write-out, so that a later fold's write of such a byte comes after an earlier fold's
(log entry 17). -/
def foldRun (id : EngId) (ds : List Desc) (r : MxRun) (lc g c0 c1 : Nat) (ends last : Bool) : Eng FoldOut := do
  match ds with
  | [] => return ⟨⟨r.exp, [], [], []⟩, r.even, r.odd, []⟩
  | d :: _ =>
    let p ← passWork id d r.tile.ix lc g r (if r.fold % 2 = 0 then r.even else r.odd)
    let ev := if r.fold % 2 = 0 then p.sums else r.even
    let od := if r.fold % 2 = 0 then r.odd else p.sums
    if ends then
      let o ← if c1 > c0 then foldWork id ds r.tile.ix lc c0 c1 ev od else pure []
      if last then mxVanish ds r.tile.ix (statsOuts (addStats r.stats o))
      return ⟨p, ev, od, o⟩
    else return ⟨p, ev, od, []⟩

/-- A matrix tile ends written out. -/
def Dev.matrixDone (s : Dev) (a : Nat) (t : Tile) : Dev :=
  let s := s.setArrayState a 1 none
  let s := { s with arrays := SMap.del s.arrays a }.forgetWaits a
  let s := match s.unit t with
    | d :: _ => s.phaseCount (a / 16) (match (mxFields d.bytes).cls with | 0 => 0 | 1 => 1 | 2 => 1 | _ => 2)
    | [] => s
  (s.bump F.CL_TILES_COUNT (a / 4) 1).tileFinished t

/-- The weights of the next pass are available: the token, and the staging. -/
def Dev.weightsReady (s : Dev) (t : Tile) (staged : Bool) : Bool :=
  staged && (match s.desc t.q t.pos with | some d => s.tokenMet t.q d | none => false)

/-- A logical array goes on to its next pass, or enters HELD; a tile whose descriptor a switch, fault or disable has stopped is abandoned there
without rerun (R299, R300, R302). -/
def Dev.nextPass (s : Dev) (a : Nat) (r : MxRun) (staged : Bool) : Dev :=
  if s.weightsReady r.tile staged then { s with arrays := SMap.set s.arrays a r }
  else if (s.unit r.tile).any (fun d => d.stopped.isSome) then ((s.dropArray a).forgetWaits a).reap r.tile.q
  else
    let s := (s.members a).foldl (fun s m => s.setFld F.MXA_STATUS_STATE m 3) s
    { s with arrays := SMap.set s.arrays a { r with held := some s.time, heldLogged := false } }

/-- The weights of a pass are in the cells of a logical array (R118): written to the shadow registers, then swapped in. -/
def Dev.loadCells (s : Dev) (a : Nat) (t : Tile) (ws : List (List Num)) : Dev :=
  { s with cells := SMap.set s.cells a ⟨s.ctxOfQueue t.q, ws, ws⟩ }

/-- A pass ends (R129, R132, R139): its sums stand, the next one starts, the array enters HELD, or the fold is written out. The counters of
every member count the pass. -/
def Dev.passEnd (s : Dev) (a : Nat) (staged : Bool) : Dev :=
  match SMap.find s.arrays a with
  | none => s
  | some r =>
    let ds := s.unit r.tile
    match ds with
    | [] => s
    | d :: _ =>
      if !r.run || r.held.isSome then s
      else
        let f := mxFields d.bytes
        let b := tileBox f.m f.n f.tm f.tn r.tile.ix
        let dims := shapeDims (s.fld F.MXA_STATUS_SHAPE a)
        let counted := fun (s : Dev) => (s.members a).foldl (fun s m =>
          (s.bump F.MXA_PASSES_COUNT m 1).bump F.MXA_BUBBLE_COUNT m (64 - b.nr)) s
        let ends := decide (r.pass + 1 ≥ f.foldPasses dims.1)
        let last := ends && decide (r.fold + 1 ≥ foldsOf b.nc dims.2)
        let c1 := foldEnd ds b.c0 b.nc dims.2 r.fold
        let x := runEng s (s.engId a r.tile.q) (foldRun (s.engId a r.tile.q) ds r dims.2 dims.1 (b.c0 + r.cols) c1 ends last)
        match x.1 with
        | .ok o =>
          let s := (counted (x.2.countFormats (a / 4) (o.outs.foldl TileOut.add .zero))).loadCells a r.tile o.pass.wts
          let r' := { r with exp := o.pass.table, part := o.pass.part, even := o.even, odd := o.odd }
          if last then (s.matrixDone a r.tile).ringDoorbells
          else if ends then
            s.ringDoorbells.nextPass a { r' with pass := 0, fold := r.fold + 1, cols := c1 - b.c0, stats := addStats r.stats o.outs } staged
          else s.nextPass a { r' with pass := r.pass + 1 } staged
        | .error (.wait _) => x.2
        | .error (.err code va) => (x.2.tileError a r.tile code va).ringDoorbells

def execMxaPassEnd (a : ArrayIx) (staged : Bool) (s : State) : Host.Outcome State Fault Refusal :=
  s.after (s.dev.passEnd (s.dev.logical a) staged)

/-- A tile run on to its end, or until it waits, is HELD or fails, its staging keeping ahead. -/
def Dev.runMatrix (s : Dev) (a op : Nat) : Nat → Dev
  | 0 => s
  | n + 1 =>
    match SMap.find s.arrays a with
    | none => s
    | some r =>
      if !(s.desc r.tile.q r.tile.pos).any (fun d => d.op == op) || !r.run || r.held.isSome then s
      else
        let t := s.passEnd a true
        match SMap.find t.arrays a with
        | some r' => if r' = r then t else t.runMatrix a op n
        | none => t

/-- Passes left to a tile, at most. -/
def Dev.passBound (s : Dev) (a : Nat) : Nat :=
  match SMap.find s.arrays a with
  | none => 0
  | some r => match s.desc r.tile.q r.tile.pos with
    | some d => let f := mxFields d.bytes; foldsOf f.tn 64 * f.foldPasses 1 + 1
    | none => 0

def execMatmul (a : ArrayIx) (s : State) : Host.Outcome State Fault Refusal :=
  let l := s.dev.logical a
  s.after (s.dev.runMatrix l 0x08 (s.dev.passBound l))

def execConv (a : ArrayIx) (s : State) : Host.Outcome State Fault Refusal :=
  let l := s.dev.logical a
  s.after (s.dev.runMatrix l 0x09 (s.dev.passBound l))

/-- A HELD array's weights become available (R139, R141). -/
def Dev.weightsAvailable (s : Dev) (a : Nat) : Dev :=
  match SMap.find s.arrays a with
  | none => s
  | some r =>
    if r.held.isNone || !s.weightsReady r.tile true then s
    else
      let s := s.endHeld a r
      let s := (s.members a).foldl (fun s m => s.setFld F.MXA_STATUS_STATE m 2) s
      { s with arrays := SMap.set s.arrays a { r with held := none } }

def execMxaWeightsAvailable (a : ArrayIx) (s : State) : Host.Outcome State Fault Refusal := s.after (s.dev.weightsAvailable (s.dev.logical a))

/-- A HELD period reaches the limit of the lowest member (R141). -/
def Dev.holdLimit (s : Dev) (a : Nat) : Dev :=
  match SMap.find s.arrays a with
  | none => s
  | some r =>
    if r.held.isNone || r.heldLogged || s.fld F.MXA_HOLD_LIMIT_LIMIT a = 0 then s
    else
      let s := { s.setFlag F.MXA_EVENT_HOLD_EXPIRED a true with arrays := SMap.set s.arrays a { r with heldLogged := true } }
      s.eventOf r.tile.q ⟨4, a, 0⟩ (((s.desc r.tile.q r.tile.pos).map (·.op)).getD 0)

def execMxaHoldLimitExpire (a : ArrayIx) (s : State) : Host.Outcome State Fault Refusal := s.after (s.dev.holdLimit (s.dev.logical a))

/-! Abandonment with a rerun, and the dissolution of a gang (R143, R150). -/

/-- A tile abandoned returns to the head of its cluster's deque, or ends TORN. -/
def Dev.abandon (s : Dev) (a : Nat) : Dev :=
  match SMap.find s.arrays a with
  | none => s
  | some r =>
    let torn := s.wouldTear r
    let s := (s.dropArray a).forgetWaits a
    if torn then s.failDesc r.tile.q r.tile.pos 0x15 0 0 4 0
    else s.setDeque (a / 4) (r.tile :: s.deque (a / 4))

/-- The gang of an array dissolves: its tile is abandoned, and its members serve alone. -/
def Dev.dissolve (s : Dev) (a : Nat) : Dev :=
  match s.gangOf a, s.partOfRegion (a / 16) with
  | some g, some p =>
    let ms := s.members a
    let s := s.abandon (s.logical a)
    let mark := fun (x : Gang) => if x = g then { x with dissolved := true } else x
    let recs := s.recs.map (fun (e : Nat × PartRec) => if e.1 = p then (e.1, { e.2 with gangs := e.2.gangs.map mark }) else e)
    let s := { s with recs := recs, powering := s.powering.filter (fun x => !ms.contains x) }
    ms.foldl (fun s m => s.setFld F.MXA_STATUS_SHAPE m 0) s
  | _, _ => s

/-! Self-tests (R149, R540, R541). -/

/-- A bit of a four-bit field of a cluster's register, one for each array. -/
def Dev.setArrayBit (s : Dev) (f : Fld) (a : Nat) (b : Bool) : Dev :=
  let v := s.fld f (a / 4)
  let m := 2 ^ (a % 4)
  s.setFld f (a / 4) (if b then v ||| m else v - (v &&& m))

def execMxaSelftestRequest (who : Who) (c : ClusterIx) (w : Word) (s : State) : Host.Outcome State Fault Refusal :=
  s.after (s.dev.asWriter who ⟨.CL_SELFTEST_CTRL, c⟩ w (fun d w => d.storeReg ⟨.CL_SELFTEST_CTRL, c⟩ w))

/-- A periodic test falls due: requested, but an array that is off keeps it for its next power-up, and one in FAULT takes none. -/
def Dev.testDue (s : Dev) (a : Nat) : Dev :=
  match s.fld F.MXA_STATUS_STATE a with
  | 5 => s
  | 0 => if s.dueTests.contains a then s else { s with dueTests := s.dueTests ++ [a] }
  | _ => s.setArrayBit F.CL_SELFTEST_CTRL_START a true

def execSelftestDue (a : ArrayIx) (s : State) : Host.Outcome State Fault Refusal := s.after (s.dev.testDue a)

/-- The interval of the periodic tests, in CK_SLOW cycles (SAFE_CFG). -/
def Dev.testInterval (s : Dev) : Nat :=
  let v := s.fld F.SAFE_CFG_ARRAY_INTERVAL 0
  (if v = 0 ∨ v > 6000 then 6000 else v) * 1000000

/-- An array enters TEST. -/
def Dev.enterTest (s : Dev) (a : Nat) : Dev :=
  let late := match SMap.find s.lastTests a with | some t => decide (s.time > t + 2 * s.testInterval) && s.fld F.MXA_STATUS_STATE a != 0 | none => false
  let s := if late then s.count F.SAFE_STATUS_OVERDUE 0 1 else s
  let s := (s.setFld F.MXA_STATUS_STATE a 4).setArrayBit F.CL_SELFTEST_CTRL_START a false
  { (s.setArrayBit F.CL_SELFTEST_STATUS_BUSY a true).count F.SAFE_STATUS_TESTS 0 1 with dueTests := s.dueTests.filter (· != a) }

/-- A requested test begins at a tile boundary, from IDLE or FAULT; an array that is off powers up first. -/
def Dev.testBegin (s : Dev) (a : Nat) : Dev :=
  let busy := match SMap.find s.arrays (s.logical a) with | some r => r.run | none => false
  if !s.testWaits a || busy then s
  else match s.fld F.MXA_STATUS_STATE a with
    | 0 => s.powerUp (s.logical a)
    | 1 => s.enterTest a
    | 5 => s.enterTest a
    | _ => s

def execMxaSelftestBegin (a : ArrayIx) (s : State) : Host.Outcome State Fault Refusal := s.after (s.dev.testBegin a)

/-- A test ends: the signature equals the fused one, or the array leaves service (R148, R150). -/
def Dev.testEnd (s : Dev) (a : Nat) (good : Bool) : Dev :=
  if s.fld F.MXA_STATUS_STATE a ≠ 4 then s
  else
    let s := { s.setArrayBit F.CL_SELFTEST_STATUS_BUSY a false with lastTests := SMap.set s.lastTests a s.time }
    let s := s.setArrayBit F.CL_SELFTEST_STATUS_LAST_PASS a good
    let s := s.setArrayBit F.CL_SELFTEST_STATUS_FAULTED a (!good)
    if good then s.setFld F.MXA_STATUS_STATE a 1
    else
      let s := ((s.setFld F.MXA_STATUS_STATE a 5).setFlag F.MXA_EVENT_SELFTEST_FAIL a true).count F.SAFE_STATUS_FAILED 0 1
      (s.report ⟨6, a / 64, s.partOfRegion (a / 16), 5, 4, none, 0, a⟩).dissolve a

def execMxaSelftestEnd (a : ArrayIx) (good : Bool) (s : State) : Host.Outcome State Fault Refusal := s.after (s.dev.testEnd a good)

/-! Power of arrays (R505). -/

def Dev.powerGate (s : Dev) (a : Nat) : Dev :=
  let ms := s.members a
  if s.fld F.PWR_IDLE_ARRAY_IDLE (a / 64) = 0 || (SMap.find s.arrays a).isSome || !ms.all (fun m => s.fld F.MXA_STATUS_STATE m == 1) then s
  else ms.foldl (fun s m => s.setFld F.MXA_STATUS_STATE m 0) s

def execMxaPowerGate (a : ArrayIx) (s : State) : Host.Outcome State Fault Refusal := s.after (s.dev.powerGate (s.dev.logical a))

/-- A powering array is up: it runs the test that waits for it, else its tile. -/
def Dev.powerUpDone (s : Dev) (a : Nat) : Dev :=
  if !s.powering.contains a || !s.powerFirst a then s
  else
    let s := { s with powering := s.powering.filter (· != a) }
    let s := (s.members a).foldl (fun s m => if s.fld F.MXA_STATUS_STATE m = 0 then s.setFld F.MXA_STATUS_STATE m 1 else s) s
    let due := (s.members a).filter (fun m => s.dueTests.contains m || s.testWaits m)
    if due.isEmpty then s.tileStart a else due.foldl Dev.enterTest s

def execMxaPowerUpDone (a : ArrayIx) (s : State) : Host.Outcome State Fault Refusal := s.after (s.dev.powerUpDone (s.dev.logical a))

/-! The pad (R152, R210). -/

/-- A line of a pad read; one that cannot be read ends the tile of the array it was read for (R148). -/
def Dev.padReadCmd (s : Dev) (c off : Nat) (arr : Option (Fin 4)) : Dev :=
  if off ≥ s.padSize c then s
  else
    let r := s.padRead c off fullMask
    let s := r.2.2.emit (.resp (.mve c) off r.1 (some r.2.1))
    match arr with
    | none => s
    | some i =>
      let a := s.logical (4 * c + i)
      match SMap.find s.arrays a with
      | some x => if r.1 == .dataErr && x.run then s.tileEnds a a x.tile .dataErr 0 else s
      | none => s

def execPadRead (c : ClusterIx) (off : Fin 4194304) (arr : Option (Fin 4)) (s : State) : Host.Outcome State Fault Refusal :=
  s.after (s.dev.padReadCmd c off arr)

/-- The pending split takes effect once no tile of the cluster is in flight. -/
def Dev.tileInFlight (s : Dev) (c : Nat) : Bool :=
  s.arrays.any (fun e => e.1 / 4 == c) || s.engs.any (fun e => decide (e.1 < 896) && clusterOfEngine e.1 == c)

/-- A write to MVE_STAGE: the split follows when no tile is in flight. -/
def Dev.writeMveStage (s : Dev) (c : Nat) (w : Word) : Dev := s.storeReg ⟨.MVE_STAGE, c⟩ w

/-- Words of a pad range take free values: what the staging area left there, or lost bytes, are not stated. -/
def Dev.padFree (s : Dev) (c lo : Nat) : Nat → Dev
  | 0 => s
  | n + 1 =>
    let r := s.free (2 ^ 64)
    ((r.2).writeWord (padWord c (lo + 8 * n)) (BitVec.ofNat 64 r.1)).padFree c lo n

def Dev.splitEffect (s : Dev) (c : Nat) : Dev :=
  let old := s.fld F.MVE_STAGE_ACTIVE_BASE c
  let new := s.stageSplit c
  if s.tileInFlight c || old = new then s
  else
    let s := s.setFld F.MVE_STAGE_ACTIVE_BASE c new
    if new < old then (if s.padUsed.contains c then s else { s with padUsed := s.padUsed ++ [c] })
    else if s.padUsed.contains c then s.padFree c (old * 65536) ((new - old) * 8192) else s

def execMveStageWrite (who : Who) (c : ClusterIx) (w : Word) (s : State) : Host.Outcome State Fault Refusal :=
  s.after (s.dev.asWriter who ⟨.MVE_STAGE, c⟩ w (fun d w => d.writeMveStage c w))

def execStageSplitEffect (c : ClusterIx) (s : State) : Host.Outcome State Fault Refusal := s.after (s.dev.splitEffect c)

end Sys2Proof.Machine
end

