-- ==== Sys2Proof/Machine/Partition.lean ====
section
/-! DEFINITION. The commands of partitions (R281): resets asked for, QUIESCE, RESET, and the return to service; vaults sealed and torn
down (R479–R483); the end of a channel map-out (R318); the watchdogs that reset a partition (R521). -/

namespace Sys2Proof.Machine

open Sys2Proof

/-- A register by its key. -/
def regOfKey (k : Nat) : Option RegId := (mapRows.find? (fun m => m.name.num == k / 1048576)).map (fun m => ⟨m.name, k % 1048576⟩)

/-- A register of the Partition or Context domain that a reset of a partition clears (R20). -/
def Dev.clearedBy (s : Dev) (p k : Nat) : Bool :=
  match regOfKey k with
  | none => false
  | some r => r.name.domain == .partition && match r.unitOf with
    | none => false
    | some (b, u) => match b.region u with
      | some g => s.partOfRegion g == some p
      | none => match b with
        | .coreGroup => s.partOfCore r.ix == some p
        | .gxB => r.ix == p
        | _ => s.regOfPart p r

/-- What the partition's blocks show of their configuration (CL_STATUS, QM_STATUS, ATC_STATUS, ENG_STATUS, MXA_STATUS). -/
def Dev.initPart (s : Dev) (p : Nat) : Dev :=
  let s := (s.regionsOf p).foldl (fun s g =>
    let s := ((s.setFlag F.QM_STATUS_OWNED g true).setFld F.QM_STATUS_PARTITION g p).setFlag F.QM_STATUS_LEAD g (s.leadRegion p == g)
    [896 + g, 928 + g].foldl (fun s e => s.setFld F.ENG_STATUS_STATE (e - 512) 1) s) s
  (s.clustersOf p).foldl (fun s c =>
    let s := (s.setFlag F.CL_STATUS_IN_SERVICE c (decide (s.padSize c ≥ 3 * 1048576))).setFld F.CL_STATUS_PARTITION c p
    let s := s.setFld F.CL_STATUS_PHYS_SLOT c (s.fused.slots.getD c 0)
    let s := s.setFlag F.ATC_STATUS_REGION_AGENTS c false
    let s := [512 + c, 640 + c, 768 + c].foldl (fun s e => s.setFld F.ENG_STATUS_STATE (e - 512) 1) s
    (List.range 4).foldl (fun s a =>
      let a := 4 * c + a
      let st := s.fld F.MXA_STATUS_STATE a
      let s := if st = 5 ∨ st = 0 ∨ st = 4 then s else s.setFld F.MXA_STATUS_STATE a 1
      s.setFld F.MXA_STATUS_SHAPE a (match s.gangOf a with | some g => g.shape | none => 0)) s) s

/-- Which cluster serves each region's agents (R404). -/
def Dev.markAgents (s : Dev) (p : Nat) : Dev :=
  (s.regionsOf p).foldl (fun s g => s.setFlag F.ATC_STATUS_REGION_AGENTS (s.lowCluster g) true) s

/-! Requests for a reset. -/

/-- RESET asked for of a partition, with the CODE of the error entry and its DETAIL (R281, R518). -/
def Dev.askReset (s : Dev) (p cause code detail : Nat) : Dev :=
  if s.partRuns p then (s.partQuiesce p cause).reportPart p code detail else s

/-- A write to PART_CTRL. -/
def Dev.writePartCtrl (s : Dev) (p : Nat) (w : Word) : Dev := if F.PART_CTRL_RESET.get w = 1 then s.askReset p 1 1 0 else s

def execPartResetRequest (who : Who) (p : PartIx) (s : State) : Host.Outcome State Fault Refusal :=
  s.after (s.dev.asWriter who ⟨.PART_CTRL, p⟩ 1 (fun d w => d.writePartCtrl p w))

/-! Entry to RESET. -/

/-- The tiles of a partition on engines and arrays. -/
def Dev.startedOf (s : Dev) (p : Nat) : Bool :=
  s.engs.any (fun e => s.partOfQueue e.2.q == some p) || s.arrays.any (fun e => s.partOfQueue e.2.tile.q == some p)

/-- A request of a partition's engines, queues or cores is not answered yet: at a home, at another device, or awaited by a core. -/
def Dev.requestsOut (s : Dev) (p : Nat) : Bool :=
  (s.remQ ++ s.remSent).any (fun r => r.part == p)
    || (s.coresOf p).any (fun n => !(s.hart n).waits.isEmpty || !(s.hart n).wcOut.isEmpty)
    || s.homes.any (fun h => h.2.opens.any (fun o => o.req.part == some p) || h.2.queue.any (fun r => r.part == some p))

/-- The L2s of a partition's cores that hold a line and are not dead. -/
def Dev.l2sOf (s : Dev) (p : Nat) : List Nat := (s.coresOf p).filter (fun n => !(s.l2 n).dead)

/-- An L2 that did not complete its flush: dead, what it held lost with it (R361). -/
def Dev.l2Die (s : Dev) (n : Nat) : Dev := s.setL2 n { L2St.init with dead := true }

/-- The L2s of a partition flushed, after the retired stores of their cores are performed (R392); one that cannot complete is dead
(R362). -/
def Dev.flushAll (s : Dev) (p : Nat) (hung : List Nat) : Dev :=
  (s.l2sOf p).foldl (fun s n =>
    if hung.contains n then s.l2Die n
    else
      let x := s.l2Flush n
      if x.1 then x.2.setL2 n .init else x.2.l2Die n) s

/-- Words of a partition's HOSTMEM written under keys that are gone: under the next keys each reads as a value that no write gave it,
and answers OK (R481). -/
def Dev.scrambleHost (s : Dev) (p : Nat) : Dev :=
  match s.partRec p with
  | none => s
  | some r =>
    let lo := t2Word (r.hostOff * 2 ^ 30)
    let hi := t2Word ((r.hostOff + r.hostSize) * 2 ^ 30)
    (s.mem.wordsWhere (fun w => decide (lo ≤ w ∧ w < hi))).foldl (fun s w =>
      if (s.readWord w).1.bad then s
      else
        let x := s.free (2 ^ 64)
        x.2.writeWord w (BitVec.ofNat 64 x.1)) s

/-- The lines of a partition's NEAR window, as a test on lines. -/
def Dev.inWindow (s : Dev) (p line : Nat) : Bool := match s.windowOf (line * 64) with | some w => w.1 == p | none => false

/-- The stores of a partition cleared: its registers, queues, contexts, tiles, translations, caches, pads, cores (R20, R152, R264, R387,
R392, R524); an invalidation under way ends with DONE (R412, R418). A bench of arrays ends IDLE but in FAULT or OFF (R148). -/
def Dev.clearPart (s : Dev) (p : Nat) : Dev :=
  let isQ := fun (q : Nat) => s.partOfQueue q == some p
  let isC := fun (c : Nat) => s.partOfCtx c == some p
  let rs := s.regionsOf p
  let cs := s.clustersOf p
  let tags := fun (t : Nat) =>
    if t < 896 then cs.contains (if t < 512 then t / 4 else (t - 512) % 128)
    else if t < 960 then rs.contains ((t - 896) % 32)
    else if t < 1024 then false
    else if t < 8192 ∨ t ≥ 16384 then isQ ((t - 1024) % 16384) else (s.coresOf p).contains ((t - 8192) % 64)
  let s := (s.arrays.map (·.1)).foldl (fun s a => if rs.contains (a / 16) then s.setArrayState a 1 none else s) s
  let s := ((List.range 512).filter (fun a => rs.contains (a / 16))).foldl (fun s a =>
    if s.fld F.MXA_STATUS_STATE a = 4 then s.setFld F.MXA_STATUS_STATE a 1 else s) s
  let cores := s.coresOf p
  let s := (List.range 64).foldl (fun s w =>
    let m := s.discardMask p w
    if s.reg .TIER_DISCARD w &&& m = 0 then s else s.setReg .TIER_DISCARD w (s.reg .TIER_DISCARD w &&& ~~~m)) s
  let inv := (SMap.find s.invs p).isSome
  let s := (s.clearRegs (s.clearedBy p)).setFlag F.XP_INV_STATUS_DONE p inv
  let drop := fun {α : Type} (m : SMap α) (t : Nat → Bool) => SMap.delWhere m t
  let s := { s with
    queues := drop s.queues isQ, ctxs := drop s.ctxs isC
    engs := drop s.engs tags, arrays := drop s.arrays (fun a => rs.contains (a / 16)), cells := drop s.cells (fun a => rs.contains (a / 16)), xfail := drop s.xfail tags
    powering := s.powering.filter (fun a => !rs.contains (a / 16))
    deques := drop s.deques cs.contains, tableQs := drop s.tableQs rs.contains
    atcs := drop s.atcs cs.contains, ccs := drop s.ccs cs.contains
    walks := s.walks.filter (fun (x : Walk) => !cs.contains x.cluster), wcache := s.wcache.filter (fun (x : WalkEntry) => !isC x.ctx)
    prs := SMap.del s.prs p, invs := SMap.del s.invs p
    remQ := s.remQ.filter (fun r => r.part != p), remDone := s.remDone.filter (fun r => !tags r.tag)
    notices := s.notices.filter (fun n => n.1 != p)
    stampsDue := s.stampsDue.filter (fun e => e.2.1 != p), doorbells := s.doorbells.filter (fun e => e.1 != p)
    msiRefused := drop s.msiRefused (fun k => k == p || (decide (128 ≤ k) && tags (k - 128)))
    harts := drop s.harts cores.contains, files := drop s.files (fun f => cores.contains (f / 16))
    padUsed := s.padUsed.filter (fun c => !cs.contains c) }
  let s := rs.foldl (fun s g => (s.scInvalidate g).setHome g { s.home g with stamps := [], checks := [] }) s
  let s := cs.foldl (fun s c => s.padReset c) s
  (s.initPart p).markAgents p

/-- A partition enters RESET with a cause: its window's generation advances, lost lines of the window are forgotten, a vault's HOSTMEM is
out of its keys, its state is cleared, and the reset is counted. -/
def Dev.enterReset (s : Dev) (p cause : Nat) : Dev :=
  let s := s.unseal p
  let vault := s.isVault p
  let s := (List.range 32).foldl (fun s h => s.lltForget h (s.inWindow p)) s
  let s := s.advanceWgen p
  let s := if vault then s.scrambleHost p else s
  let s := s.clearPart p
  let x := s.partSt p
  let s := s.setPartSt p { x with faults := [], cause := cause, resetAt := none }
  let s := (s.setFld F.PART_STATUS_LAST_CAUSE p cause).count F.PART_STATUS_RESETS p 1
  ((s.setFld F.PART_STATUS_RUNNING p 0).setPartState p 4).orderReclaim

/-- Every started tile has ended, every issued request is answered, and every L2 can be flushed: the partition enters RESET. -/
def Dev.quiesceDone (s : Dev) (p : Nat) : Dev :=
  if s.partState p != 3 || s.startedOf p || s.requestsOut p then s
  else
    let t := s.flushAll p []
    if (t.l2sOf p).length < (s.l2sOf p).length then s else t.enterReset p (s.partSt p).cause

def execQuiesceDone (p : PartIx) (s : State) : Host.Outcome State Fault Refusal := s.after (s.dev.quiesceDone p)

/-- QUIESCE_LIMIT has passed: running tiles are discarded, L2s that have not flushed are dead (R281, R361). -/
def Dev.quiesceLimit (s : Dev) (p : Nat) (hung : List Nat) : Dev :=
  if s.partState p != 3 then s
  else
    let s := s.flushAll p hung
    s.enterReset p (s.partSt p).cause

def execQuiesceLimitExpire (p : PartIx) (hung : List CoreIx) (s : State) : Host.Outcome State Fault Refusal :=
  s.after (s.dev.quiesceLimit p (hung.map (·.val)))

/-- 100,000 cycles pass without a completed flush: the L2 is dead (R362). -/
def Dev.l2Limit (s : Dev) (n : Nat) : Dev :=
  match s.partOfCore n with
  | some p => if s.partState p = 3 then s.l2Die n else s
  | none => s

def execL2FlushLimitExpire (core : CoreIx) (s : State) : Host.Outcome State Fault Refusal := s.after (s.dev.l2Limit core)

/-! Vaults: sealing (R479). -/

/-- The bytes of the policy in force, its owner's hash, label, and numbers (R485). -/
def polOwner (pol : List Byte) : List Byte := sha256 (bytesAt pol 0x10 56)
def polLabel (pol : List Byte) : List Byte := bytesAt pol 0x48 16

/-- A vault enters RUN: sealed where GX has accepted its policy, else NO_POLICY. -/
def Dev.seal (s : Dev) (p : Nat) : Dev :=
  if !s.isVault p then s
  else
    let x := SMap.get s.vaults .init p
    let a := s.drbg 9 8
    let s := a.2
    match x.policy with
    | none =>
      let s := { s with vaults := SMap.set s.vaults p { x with serial := leNat a.1, op := none } }
      (s.setFld F.GX_STATUS_STATE p 4).setFld F.GXB_STATUS_STATE p 4
    | some pol =>
      let b := s.drbg 9 32
      let s := b.2
      let root := kdf (leBytes 32 s.fused.seed) "OCT-VAULT-ROOT" [] 32
      let vk := kdf root "OCT-VAULT-EXPORT" (polOwner pol ++ polLabel pol) 32
      let s := { s with vaults := SMap.set s.vaults p { x with serial := leNat a.1, rtagKey := b.1, vaultKey := vk, op := none } }
      let s := (s.setFld F.GX_STATUS_STATE p 1).setFld F.GXB_STATUS_STATE p 1
      let bud := fieldAt pol 0x88 8
      let s := (s.setFld F.GX_LEDGER_REMAINING p bud).setFld F.GXB_LEDGER_REMAINING p bud
      s.putWords .GX_OWNER (4 * p) (polOwner pol) 4

/-- Memory keys drawn where the partition holds none (R483). -/
def Dev.drawKeys (s : Dev) (p : Nat) : Dev :=
  match SMap.find s.memKeys p with
  | some _ => s
  | none =>
    let a := s.drbg 9 128
    { a.2 with memKeys := SMap.set a.2.memKeys p (leNat a.1) }

/-- A partition enters RUN: keys drawn, a vault sealed, its cores started at ENTRY (R112, R281). -/
def Dev.enterRun (s : Dev) (p : Nat) : Dev :=
  let s := ((s.drawKeys p).seal p).setPartState p 2
  match s.partRec p with
  | none => s
  | some r => (s.coresOf p).foldl (fun s n =>
      if s.dieState 8 = 0 ∧ r.hasEntry then s.setHart n { Hart.init with inReset := false, pc := r.entry } else s) s

/-! The end of RESET. -/

/-- A dead L2 that some home still holds lines for (R361). -/
def Dev.unreclaimed (s : Dev) (p : Nat) : Bool :=
  (s.coresOf p).any (fun n => (s.l2 n).dead && s.homes.any (fun h => h.2.filter.any (fun e => e.holders.contains n)
    || h.2.opens.any (fun o => o.waits.contains n)))

/-- The arrays of a partition that are in FAULT: each is powered up and tested when a reload enters LOADING (R148). -/
def Dev.faultyArrays (s : Dev) (p : Nat) : List Nat :=
  (List.range 512).filter (fun a => s.partOfRegion (a / 16) == some p && s.fld F.MXA_STATUS_STATE a == 5)

/-- The reset of a partition completes once every die it touches is out of reset and the reclaim of its dead L2s is done: LOADING for a
reload, FAILED after the fourth escalated reset within FAULT_WINDOW or without a channel in service, else RUN. -/
def Dev.partResetDone (s : Dev) (p : Nat) : Dev :=
  if s.partState p != 4 || (s.diesOf p).any (fun d => s.dieState d != 0) || s.unreclaimed p then s
  else
    let s := (s.coresOf p).foldl (fun s n =>
      if (s.l2 n).dead then ({ s with net := s.net.filter (fun m => m.about.1 != .core n) } : Dev).setL2 n .init else s) s
    let x := s.partSt p
    let win := s.fld F.PART_ESC_FAULT_WINDOW p
    let escs := x.escs.filter (fun t => decide (s.time < t + win))
    let s := s.setPartSt p { x with escs := escs, reload := false }
    if x.reload then (s.faultyArrays p).foldl Dev.enterTest (s.setPartState p 1)
    else if (decide (escs.length ≥ 4) && (x.cause == 2 || x.cause == 3)) || (s.chanList p).isEmpty then s.setPartState p 5
    else s.enterRun p

def execPartResetDone (p : PartIx) (s : State) : Host.Outcome State Fault Refusal := s.after (s.dev.partResetDone p)

/-! The end of a channel map-out (R318). -/

/-- Every copy of a window's lines gone: the SC lines of its regions and the cluster caches without writeback, the L2 copies by
invalidation, the lost lines of the window forgotten. -/
def Dev.dropWindow (s : Dev) (p : Nat) : Dev :=
  let s := (s.regionsOf p).foldl (fun s g => s.scInvalidate g) s
  let s := s.ccDropPart p
  (s.regionsOf p).foldl (fun s h =>
    let mine := (s.home h).filter.filter (fun e => s.inWindow p e.line)
    let s := mine.foldl (fun s e => (e.holders.foldl (fun s n => s.l2Drop n e.line) s).freeDir h e.line) s
    s.lltForget h (s.inWindow p)) s

/-- The requests that a region's channels and slice have accepted completed once round: the queues of the channels, the fills, and what waited
for them. -/
def Dev.finishRegion (s : Dev) (g : Nat) : Dev :=
  let s := (List.range 8).foldl (fun s k => s.drainWhere (8 * g + k) (fun _ => true)) s
  let s := ((s.sc g).miss).foldl (fun s m => s.scFillOp g m.chan m.blk) s
  s.scRetry g

/-- Every request that the region has accepted completed (R318 step 2): each round serves the fills under way, and takes up to 256 of the
requests that wait. -/
def Dev.finishAll (s : Dev) (g : Nat) : Nat → Dev
  | 0 => s
  | n + 1 => if (s.sc g).miss.isEmpty && (s.sc g).waiting.isEmpty && (List.range 8).all (fun k =>
        let c := s.chan (8 * g + k); (c.rdq ++ c.wrq ++ c.held).isEmpty) then s
    else (s.finishRegion g).finishAll g n

/-- The homes of a partition's regions have open requests to its window, or lines of it are on their way to L2s. -/
def Dev.windowOpen (s : Dev) (p : Nat) : Bool :=
  (s.regionsOf p).any (fun h => (s.home h).opens.any (fun o => s.inWindow p o.req.line))
    || s.net.any (fun m => match m with
      | .data _ l _ (some _) _ => s.inWindow p l
      | .grant _ l => s.inWindow p l
      | _ => false)

/-- The map-out of a channel takes effect once the homes have no open request to the window: what the slices and channels have accepted
completes under the old decode, then come steps 3 to 5 of R318, and the next waiting map-out starts. A window left empty resets its
partition (R52). -/
def Dev.mapoutDone (s : Dev) (p : Nat) : Dev :=
  match s.mapouts.find? (fun m => m.started && s.partOfChan m.chan == some p) with
  | none => s
  | some m =>
    if s.windowOpen p then s
    else
    let s := (s.regionsOf p).foldl (fun (s : Dev) g => s.finishAll g ((s.sc g).waiting.length + 2)) s
    let s := (s.dropWindow p).advanceWgen p
    let s := s.setFlag F.CH_STATUS_IN_SERVICE m.chan false
    let s := ({ s with mapouts := s.mapouts.filter (fun n => n.chan != m.chan) } : Dev).holdHomes p false
    let s := (s.regionsOf p).foldl (fun s h => s.pump h) s
    let s := s.startMapouts
    if (s.chanList p).isEmpty then s.askReset p 6 1 0 else s

def execMapoutComplete (p : PartIx) (s : State) : Host.Outcome State Fault Refusal := s.after (s.dev.mapoutDone p)

/-! Watchdogs (R521). -/

/-- A watchdog resets a partition: the entry, the crash record, the reset with LAST_CAUSE 1. -/
def Dev.watchdog (s : Dev) (p code detail : Nat) (ctx : Option Nat) : Dev :=
  if !s.partRuns p then s
  else (s.askReset p 1 code detail).crash 10 none (some p) ctx 0 (fun _ => false)

/-- A snoop sent and unanswered for SNOOP_LIMIT, which 0 turns off (R359): the line's open request waits for a core, whose partition is reset. -/
def Dev.snoopTimeout (s : Dev) (h line core : Nat) : Dev :=
  if s.fld F.HOME_CFG_SNOOP_LIMIT h = 0 then s
  else if !(s.home h).opens.any (fun o => o.req.line == line && o.waits.contains core)
      || (s.home h).unsent.any (fun u => u.1 == core && u.2.1 == line) then s
  else
    let s := s.setFlag F.HOME_EVENT_SNOOP_TIMEOUT h true
    match s.partOfCore core with
    | some p => s.watchdog p 7 core none
    | none => s

def execSnoopTimeout (h : HomeIx) (line : Nat) (core : CoreIx) (s : State) : Host.Outcome State Fault Refusal :=
  s.after (s.dev.snoopTimeout h line core)

/-- The 50 µs of an invalidation pass without every acknowledgement (R412); they are not counted while a map-out of the partition
runs. -/
def Dev.invLate (s : Dev) (p : Nat) : Dev :=
  match SMap.find s.invs p with
  | none => s
  | some v =>
    if s.mapouts.any (fun m => m.started && s.partOfChan m.chan == some p) then s
    else
    let lag := v.waitAtc.headD 0
    let s := (s.setFlag F.XP_INV_STATUS_LATE p true).setFld F.XP_INV_STATUS_LAG_CLUSTER p lag
    s.watchdog p 8 lag v.ctx

def execInvalidationLate (p : PartIx) (s : State) : Host.Outcome State Fault Refusal := s.after (s.dev.invLate p)

/-- An engine has stood on one tile for HANG_LIMIT (R521): entry CODE 6 with its cluster, crash record naming its context. -/
def Dev.engineHang (s : Dev) (e : Nat) : Dev :=
  let tile := if e < 512 then (SMap.find s.arrays e).bind (fun r => if r.run && r.held.isNone then some r.tile else none)
    else if s.fld F.ENG_STATUS_STATE (e - 512) = 2 then SMap.find s.engs e else none
  match tile with
  | none => s
  | some t =>
    let g := if e < 512 then e / 16 else if e < 896 then (e - 512) % 128 / 4 else (e - 896) % 32
    let blk := if e < 512 then 5 else if e < 640 then 6 else if e < 768 then 7 else if e < 896 then 8 else if e < 928 then 9 else 10
    let cl := if e < 512 then e / 4 else if e < 896 then (e - 512) % 128 else 4 * g
    if s.fld F.HANG_LIMIT_LIMIT (g / 4) = 0 then s
    else match s.partOfRegion g with
      | none => s
      | some p =>
        let c := s.ctxOfQueue t.q
        let s := s.setDie (g / 4) { s.die (g / 4) with hungCtx := ctxField (some c), hungBlock := blk }
        s.watchdog p 6 cl (some c)

def execEngineHangExpire (e : Fin 960) (s : State) : Host.Outcome State Fault Refusal := s.after (s.dev.engineHang e)

end Sys2Proof.Machine
end

