-- ==== Sys2Proof/Machine/Attest.lean ====
section
/-! DEFINITION. Attestation (R111, R501–R504): the keys, the report, requests. -/

namespace Sys2Proof.Machine

open Sys2Proof

/-- The level-0 key (R501): its seed, its I, its public key. -/
def Dev.l0Seed (s : Dev) : List Byte := kdf (leBytes 32 s.fused.seed) "OCT-ATT-L0" [] 32
def Dev.l0Ident (s : Dev) : List Byte := (kdf (leBytes 32 s.fused.seed) "OCT-ATT-L0-I" [] 32).take 16
def Dev.l0Public (s : Dev) : List Byte := lmsPublic 7 15 s.l0Seed s.l0Ident

/-- The public key of the session. -/
def Dev.l1Public (s : Dev) : List Byte := lmsPublic 8 20 s.att.seed s.att.ident

/-- The registers of the block that follow its state. -/
def Dev.attShow (s : Dev) : Dev :=
  ((s.setFlag F.ATT_STATUS_CERTIFIED 0 s.att.certified).setFlag F.ATT_STATUS_EXHAUSTED 0 (s.att.exhausted || decide (s.att.next ≥ 2 ^ 20))).setFld
    F.ATT_STATUS_LEVEL1_NEXT 0 s.att.next

/-- No level-1 leaf can be used (R502). -/
def Dev.attSpent (s : Dev) : Bool := s.att.exhausted || decide (s.att.next ≥ 2 ^ 20)

/-- A message signed with the next level-1 leaf. -/
def Dev.l1Sign (s : Dev) (msg : List Byte) : List Byte × Dev :=
  let c := s.drbg 9 32
  let q := s.att.next
  (lmsSign 8 20 s.att.seed s.att.ident q c.1 msg, ({ c.2 with att := { c.2.att with next := q + 1 } } : Dev).attShow)

/-- A certificate: the level-0 signature of the session's public key (R501). -/
def Dev.certify (s : Dev) : Dev :=
  let c := s.drbg 9 32
  let msg := leBytes 8 (s.fld F.FAB_DISC_ID_DISC_ID 0) ++ leBytes 4 s.att.leaf ++ s.l1Public
  let cert := lmsSign 7 15 s.l0Seed s.l0Ident s.att.leaf c.1 msg
  ({ c.2 with att := { c.2.att with cert := cert, certified := true } } : Dev).attShow

/-- The bytes of a report before its signature (R503). -/
def Dev.reportBody (s : Dev) (who target : Option Nat) (data : List Byte) : List Byte :=
  let id := leBytes 2 (s.fld F.FAB_SELF_DEVICE_ID 0 + (if s.flag F.FAB_SELF_ASSIGNED 0 then 0x8000 else 0))
  let floor := ((List.range 64).filter (fun i => bitOf (s.reg .FUSE_ROLLBACK 0).toNat i)).length
  let bit := fun (b : Bool) (v : Nat) => if b then v else 0
  let head := fun flags part st => [0x41, 0x54, 0x54, 0x53] ++ leBytes 2 1 ++ leBytes 2 flags
    ++ leBytes 8 (s.fld F.FAB_DISC_ID_DISC_ID 0) ++ id ++ leBytes 1 part ++ leBytes 1 st ++ leBytes 4 s.att.leaf
    ++ leBytes 4 s.att.next ++ leBytes 1 floor ++ leBytes 1 (s.fld F.CL_NUM_ID_GENERATION 0) ++ leBytes 2 0
    ++ leBytes 8 (s.reg .IMAGE_ID 0).toNat
  let mid := match target with
    | none => head 0 0xFF 0 ++ leBytes 8 0 ++ s.boot.keyHash ++ List.replicate 64 0
    | some p =>
      let x := SMap.get s.vaults .init p
      let vault := s.isVault p
      let sealed := s.sealedVault p
      let pol := if vault then x.policy.getD [] else []
      let ok := !pol.isEmpty
      let flags := bit (vault && who == some p) 1 + bit vault 2 + bit sealed 4 + bit ok 8 + bit (s.flag F.GX_STATUS_SAFETY p) 16
      head flags p (s.partState p) ++ leBytes 8 (SMap.get s.att.partial_ 0 p) ++ s.boot.keyHash
        ++ (if ok then polOwner pol else List.replicate 32 0) ++ leBytes 8 (if ok then fieldAt pol 8 8 else 0)
        ++ leBytes 8 (if sealed then x.serial else 0) ++ leBytes 8 (s.fld F.GX_LEDGER_REMAINING p)
        ++ leBytes 8 (s.fld F.GX_COUNTS_RELEASES p)
  mid ++ leBytes 8 0 ++ bytesAt data 0 64 ++ s.l0Public ++ s.l1Public ++ bytesAt s.att.cert 0 1612 ++ leBytes 4 0

/-- A report signed with the next leaf: 3,720 bytes. -/
def Dev.report1 (s : Dev) (who target : Option Nat) (data : List Byte) : List Byte × Dev :=
  let b := s.reportBody who target data
  let x := s.l1Sign b
  (b ++ x.1 ++ leBytes 4 0, x.2)

/-- The outcome of a request: RESULT and the report of an I3C request, or none while it waits for a home. -/
def Dev.attAnswer (s : Dev) (r : AttReq) : Option (Nat × List Byte) × Dev :=
  if s.attSpent then (some (1, []), s)
  else if (match r.target with | some p => (s.partRec p).isNone | none => false) then (some (3, []), s)
  else match r.i3c with
    | some data =>
      let x := s.report1 r.who r.target data
      (some (0, x.1), x.2)
    | none =>
      if !(s.rangeOpen r.who r.dataAt 64 && s.rangeOpen r.who r.outAt 3720) then (some (2, []), s)
      else
        let d := s.bulkRead .mgmt r.who none r.dataAt 64
        match d.1 with
        | .wait => (none, s)
        | .err _ => (some (2, []), d.2)
        | .bytes data =>
          let x := d.2.report1 r.who r.target data
          let w := x.2.bulkWrite .mgmt r.who none r.outAt x.1
          match w.1 with
          | .wait => (none, s)
          | .err _ => (some (2, []), w.2)
          | .bytes _ => (some (0, []), w.2)

/-- Requests served in order once the session is certified or its leaves are spent; one that must wait for a home stays. -/
def Dev.attServe (s : Dev) : Nat → Dev
  | 0 => s
  | n + 1 =>
    match s.att.waiting with
    | [] => s
    | r :: rest =>
      if !(s.att.certified || s.attSpent) then s
      else match s.attAnswer r with
        | (none, _) => s
        | (some (code, bs), t) =>
          let t := { t with att := { t.att with waiting := rest } }
          match r.i3c with
          | some _ => (t.emit (.serial (leBytes 1 code ++ bs))).attServe n
          | none => (((t.setFld F.ATT_STATUS_RESULT 0 code).setFlag F.ATT_STATUS_BUSY 0 false).setFlag F.ATT_CTRL_GO 0 false).attServe n

/-- A write to ATT_CTRL: GO starts a request unless one is in progress (R504). -/
def Dev.writeAttCtrl (s : Dev) (who : Who) (w : Word) : Dev :=
  if s.flag F.ATT_STATUS_BUSY 0 then s
  else
    let s := (s.setFld F.ATT_CTRL_PARTITION 0 (F.ATT_CTRL_PARTITION.get w)).setFld F.ATT_CTRL_PACKAGE 0 (F.ATT_CTRL_PACKAGE.get w)
    if F.ATT_CTRL_GO.get w = 0 then s
    else
      let party := match who with | .core n _ => s.partOfCore n | _ => none
      let r : AttReq := ⟨party, if s.flag F.ATT_CTRL_PACKAGE 0 then none else some (s.fld F.ATT_CTRL_PARTITION 0),
        s.fld F.ATT_DATA_ADDR_ADDR 0 * 64, s.fld F.ATT_OUT_ADDR_ADDR 0 * 64, none⟩
      let s := (s.setFlag F.ATT_STATUS_BUSY 0 true).setFlag F.ATT_CTRL_GO 0 true
      let s := { s with att := { s.att with waiting := s.att.waiting ++ [r] } }
      s.attServe s.att.waiting.length

def execAttestRequest (who : Who) (w : Word) (s : State) : Host.Outcome State Fault Refusal :=
  s.after (s.dev.asWriter who ⟨.ATT_CTRL, 0⟩ w (fun d w => d.writeAttCtrl who w))

/-- A request over I3C (R504, R531). -/
def Dev.i3cAttest (s : Dev) (target : Option Nat) (data : List Byte) : Dev :=
  let s := { s with att := { s.att with waiting := s.att.waiting ++ [AttReq.mk none target 0 0 (some data)] } }
  s.attServe s.att.waiting.length

end Sys2Proof.Machine
end

