-- ==== Sys2Proof/Machine/Links.lean ====
section
/-! DEFINITION. The die-to-die links (R71–R82): training, lane failures, flits, replay, the set of a pair's links. -/

namespace Sys2Proof.Machine

open Sys2Proof

/-! The list of a pair's links in use (R80). -/

/-- The link end that carries a line's messages between two dies (R80): none where no route is left. -/
def Dev.linkFor (s : Dev) (a b addr : Nat) : Option Nat :=
  match s.firstHop a b with
  | none => none
  | some h => s.linkOfLine a h addr

/-- The messages of a link that leaves service re-sent in order on the links the new list gives (R80 step 3). -/
def Dev.resend (s : Dev) (e : Nat) : Dev :=
  let x := s.link e
  let ms := x.resend ++ x.replay.flatMap (fun f => f.slots.map (·.2))
  let s := s.setLink e { x with replay := [], again := 0, resend := [] }
  match partnerOf e with
  | none => s
  | some (p, _, _) => ms.foldl (fun s m => match s.linkFor (e / 16) p m.addr with
      | some k => s.setLink k { s.link k with resend := (s.link k).resend ++ [m] }
      | none => s) s

/-- The list of a pair changes once every flit on its in-service links is acknowledged; new flits wait until then (R80 steps 1 to 4). -/
def Dev.settlePair (s : Dev) (e : Nat) : Dev :=
  let mine := pairEnds e
  if !s.pairChanging e || mine.any (fun k => s.flag F.LINK_STATUS_IN_SERVICE k && !(s.link k).replay.isEmpty) then s
  else
    let out := mine.filter (fun k => (s.link k).leaving)
    let s := mine.foldl (fun s k => s.setLink k { s.link k with leaving := false, joining := false }) s
    out.foldl Dev.resend s

/-- A link end leaves or enters service: the list of its pair changes. -/
def Dev.setService (s : Dev) (e : Nat) (b : Bool) : Dev :=
  let was := s.flag F.LINK_STATUS_IN_SERVICE e
  let s := s.setFlag F.LINK_STATUS_IN_SERVICE e b
  let x := s.link e
  if was && !b then ((s.setFlag F.LINK_EVENT_OUT_OF_SERVICE e true).setLink e { x with leaving := !x.joining, joining := false }).settlePair e
  else if !was && b then (s.setLink e { x with joining := !x.leaving, leaving := false }).settlePair e
  else s

/-- MIN_STATE of an end: QUARTER until the image's records are applied (R79). -/
def Dev.minState (s : Dev) (e : Nat) : Nat := let v := s.fld F.LINK_CTRL_MIN_STATE e; if v = 0 then 4 else v

/-- A trained state at or above MIN_STATE (R79). -/
def Dev.serves (s : Dev) (e st : Nat) : Bool := decide (2 ≤ st ∧ st ≤ s.minState e)

/-- Both ends of a link enter TRAIN; a RETRAIN asked for has started. -/
def Dev.linkTrain (s : Dev) (e : Nat) : Dev :=
  [e, otherEnd e].foldl (fun s e => (s.setFld F.LINK_STATUS_STATE e 1).setFlag F.LINK_CTRL_RETRAIN e false) s

/-- Both ends go DOWN: the replay buffers are discarded (R82). The count of trainings is kept over a die reset, so the full training that
follows one counts in RETRAINS: the spec says only that the first does not (DEDUCED, log entry 99). -/
def Dev.linkDown (s : Dev) (e : Nat) : Dev :=
  [e, otherEnd e].foldl (fun s e =>
    let s := (s.setFld F.LINK_STATUS_STATE e 0).setLink e { LinkSt.init with trainings := (s.link e).trainings, leaving := (s.link e).leaving }
    s.setService e false) s

/-- A die may take part in a training: its PLL is locked and it is not DEAD. -/
def Dev.pllUp (s : Dev) (d : Nat) : Bool := s.flag F.CLK_STATUS_PLL_LOCK d && s.dieState d != 2 && s.pins.refclk

/-- Full training of a link that is DOWN, once both its dies' PLLs are locked. -/
def Dev.linkStart (s : Dev) (e : Nat) : Dev :=
  if linkExists e && s.linkState e == 0 && s.pllUp (e / 16) && s.pllUp (otherEnd e / 16) then s.linkTrain e else s

def execLinkTrainingStart (e : LinkEnd) (s : State) : Host.Outcome State Fault Refusal := s.after (s.dev.linkStart e)

/-- How many of the 34 lanes a mask names. -/
def laneCount (m : Nat) : Nat := ((List.range 34).filter (bitOf m)).length

/-- The state that G good lanes give (R76). -/
def linkWidth (g : Nat) : Nat := if g ≥ 32 then 2 else if g ≥ 16 then 3 else if g ≥ 8 then 4 else 5

/-- Four credit counts, which the round trip sizes by a rule the spec does not state (R75). -/
def Dev.drawCredits (s : Dev) : Nat → List Nat × Dev
  | 0 => ([], s)
  | n + 1 =>
    let r := s.free 4096
    let t := r.2.drawCredits n
    (r.1 :: t.1, t.2)

/-- Messages of each class that flits carry. -/
def classCounts (fs : List SentFlit) : List Nat :=
  (List.range 4).map (fun c => (fs.map (fun f => (f.slots.filter (fun m => m.2.cls == c)).length)).sum)

/-- The physical lane of each logical lane: the lowest-numbered good lanes, as many as the state has (R76). -/
def laneMap (good st : Nat) : List Nat :=
  ((List.range 34).filter (bitOf good)).take (match st with | 2 => 32 | 3 => 16 | 4 => 8 | _ => 0)

/-- Training ends at one end, with G lanes good, in a state: the map is applied, credits are sized less what the unacknowledged flits
hold, and those flits are to be replayed (R75, R76, R78, R82). -/
def Dev.endTraining (s : Dev) (e good rtt st : Nat) : Dev :=
  let x := s.link e
  let s := ((s.setFld F.LINK_STATUS_STATE e st).setFld F.LINK_STATUS_GOOD_LANES e (laneCount good)).setFld F.LINK_STATUS_RTT e (min rtt 1023)
  let s := if x.trainings > 0 then s.count F.LINK_COUNTS_RETRAINS e 1 else s
  let s := s.setLink e { x with trainings := x.trainings + 1, naking := false, nakRun := 0, due := [], lanes := laneMap good st }
  if st = 5 then (s.setFlag F.LINK_EVENT_LINK_FAILED e true).setService e false
  else
    let s := if st > 2 then s.setFlag F.LINK_EVENT_WIDTH_DROP e true else s
    let c := s.drawCredits 4
    let y := c.2.link e
    let s := c.2.setLink e { y with again := y.replay.length, credits := (c.1.zip (classCounts y.replay)).map (fun n => n.1 - n.2) }
    let s := if x.replay.isEmpty then s else s.count F.LINK_COUNTS_REPLAYS e 1
    s.setService e (s.serves e st)

/-- Training of a link ends: lanes that failed the test leave LANE_MAP at both ends, and the state follows from G, the round trip and
the bound (R75, R76, R82). -/
def Dev.linkEnd (s : Dev) (e good rtt : Nat) (late : Bool) : Dev :=
  if !(linkExists e && s.linkState e == 1) then s
  else
    let f := otherEnd e
    let s := [e, f].foldl (fun s k =>
      let m := s.fld F.LANE_MAP_GOOD k
      let s := if m &&& good = m then s else s.setFlag F.LINK_EVENT_LANE_FAILED k true
      s.setFld F.LANE_MAP_GOOD k (m &&& good)) s
    let g := s.fld F.LANE_MAP_GOOD e &&& s.fld F.LANE_MAP_GOOD f
    let st := if late || decide (rtt > 200) then 5 else linkWidth (laneCount g)
    (s.endTraining e g rtt st).endTraining f g rtt st

/-- Lanes of an end fail: LANE_MAP and the event, and from UP, HALF or QUARTER a fast retrain (R77, R82). The lanes of a link that is DOWN
carry nothing that could be lost. -/
def Dev.failLanes (s : Dev) (e mask : Nat) : Dev :=
  let st := s.linkState e
  if st = 0 ∨ mask = 0 then s
  else
    let s := s.setFld F.LANE_MAP_GOOD e (s.fld F.LANE_MAP_GOOD e - (s.fld F.LANE_MAP_GOOD e &&& mask))
    let s := s.setFlag F.LINK_EVENT_LANE_FAILED e true
    if 2 ≤ st ∧ st ≤ 4 then s.linkTrain e else s

def execLaneLockLoss (e : LinkEnd) (lane : Fin 34) (s : State) : Host.Outcome State Fault Refusal :=
  s.after (if linkExists e then s.dev.failLanes e (2 ^ lane.val) else s.dev)

/-- The end of a WINDOW: lanes whose corrected errors passed LIMIT fail, and the counts start again (R77). -/
def Dev.laneWindow (s : Dev) (e : Nat) : Dev :=
  if s.fld F.LANE_ERR_LIMIT_WINDOW e = 0 ∨ !linkExists e then s
  else
    let lim := s.fld F.LANE_ERR_LIMIT_LIMIT e
    let x := s.link e
    let bad := (x.laneErr.filter (fun n => decide (n.2 > lim))).foldl (fun m n => m + 2 ^ n.1) 0
    (s.setLink e { x with laneErr := [] }).failLanes e bad

def execLaneErrWindowEnd (e : LinkEnd) (s : State) : Host.Outcome State Fault Refusal := s.after (s.dev.laneWindow e)

/-! Flits (R72–R74). -/

/-- The words of a flit (R72): word 0 with SEQ, KIND and SLOT_VALID, word 1 with ACK_SEQ, NAK and CREDITS, then the slots; reserved bits
and the words of an empty slot are 0. -/
def flitWords (seq kind : Nat) (slots : List (Nat × LinkMsg)) (ack : Nat) (nak : Bool) (creds : List Nat) : List Word :=
  let valid := (List.range 4).foldl (fun n i => n + (if slots.any (fun m => m.1 == i) then 2 ^ i else 0)) 0
  let back := (List.range 4).foldl (fun n i => n + (creds.getD i 0 % 4096) * 2 ^ (16 + 12 * i)) 0
  [BitVec.ofNat 64 (seq % 256 + kind % 4 * 2 ^ 8 + valid * 2 ^ 10), BitVec.ofNat 64 (ack % 256 + (if nak then 2 ^ 8 else 0) + back)] ++
    (List.range 4).flatMap (fun i =>
      let body := lineBytes (match slots.find? (fun m => m.1 == i) with | some m => m.2.body | none => 0)
      (List.range 8).map (fun k => wordOfBytes (bytesAt body (8 * k) 8)))

/-- The logical lane of bit b of a word of even or odd number in a flit (R73), for the states UP, HALF and QUARTER. The spec fixes that at
UP and HALF a lane's bits of one word lie in one symbol, that at QUARTER it carries 10 bits of each, and that every lane carries
equally many bits of a flit; which arrangement of that kind it is, is the model's choice (DESIGN CHOICE, log entry 100). -/
def laneOfBit (st : Nat) (odd : Bool) (b : Nat) : Nat :=
  let y := b / 8
  let k := b % 8
  match st with
  | 2 =>
    let l := if y < 8 then 3 * y + k / 3 else 24 + 4 * (y - 8) + k / 2
    if !odd then l else if l ≥ 24 then 3 * (l - 24) + 1 else match l % 3 with | 0 => l + 2 | 1 => 24 + l / 3 | _ => l - 2
  | 3 =>
    let l := if y < 4 then y else if y < 8 then 4 + 2 * (y - 4) + k / 6 else 12 + 2 * (y - 8) + k / 4
    if !odd then l else if l < 4 then 5 + 2 * l else if l ≥ 12 then 4 + 2 * (l - 12) else if l % 2 = 1 then (l - 5) / 2 else 12 + (l - 4) / 2
  | _ => b / 10

/-- The bits of a word that a lane carries, in the order of their unit intervals. -/
def laneBits (st : Nat) (odd : Bool) (l : Nat) : List Nat := (List.range 80).filter (fun b => laneOfBit st odd b == l)

/-- The word and the bit of it that a logical lane carries in a unit interval of a flit (R72, R73). -/
def bitOnLane (st l u : Nat) : Nat × Nat :=
  let ev := laneBits st false l
  let both := ev ++ laneBits st true l
  let i := u % both.length
  (2 * (u / both.length) + (if i < ev.length then 0 else 1), both.getD i 0)

/-- One bit of a flit's words arrives inverted: that of a physical lane and unit interval. -/
def flipBit (st : Nat) (lanes : List Nat) (ws : List (List Byte)) (e : Nat × Nat) : List (List Byte) :=
  let l := lanes.idxOf e.1
  if l < lanes.length then
    let p := bitOnLane st l e.2
    ws.modify p.1 (fun sy => sy.modify (p.2 / 8) (fun x => x ^^^ (1 <<< (p.2 % 8))))
  else ws

/-- What a word that arrived is: its class, its symbols as they came and as they are delivered (R308, with the fold 0 of a link word). -/
structure GotWord where
  cls  : WordClass
  came : List Byte
  good : List Byte

/-- The 34 words of a flit after its way, each judged. -/
def flitArrives (st : Nat) (lanes : List Nat) (ws : List Word) (errs : List (Nat × Nat)) : List GotWord :=
  (errs.foldl (flipBit st lanes) (ws.map (fun w => encodeSymbols w 0))).map (fun sy => let c := classify sy 0; ⟨c.1, sy, c.2⟩)

/-- The physical lanes whose bits of a word were corrected. -/
def lanesMended (st : Nat) (lanes : List Nat) (j : Nat) (g : GotWord) : List Nat :=
  if g.cls.corrected then
    let bits := (List.range 80).filter (fun b =>
      ((g.came.getD (b / 8) 0) ^^^ (g.good.getD (b / 8) 0)).getLsbD (b % 8))
    ((bits.map (laneOfBit st (j % 2 == 1))).dedup).map (fun l => lanes.getD l 0)
  else []

/-- A NAK goes out for the flit awaited; the fourth in succession retrains the link. -/
def Dev.nakFlit (s : Dev) (e : Nat) : Dev :=
  let x := s.link e
  let s := s.setLink e { x with naking := true, nakRun := x.nakRun + 1 }
  if x.nakRun + 1 ≥ 4 then s.linkTrain e else s

/-- ACK_SEQ, NAK and credits taken by the end as a sender: acknowledged flits leave the replay buffer, a NAK starts a replay of all that
are left, and a pair whose list was to change may have come to it. -/
def Dev.flitAck (s : Dev) (e ack : Nat) (nak : Bool) (creds : List Nat) : Dev :=
  let x := s.link e
  let left := x.replay.filter (fun r => decide (0 < (r.seq + 256 - ack) % 256 ∧ (r.seq + 256 - ack) % 256 < 128))
  let cr := (List.range 4).map (fun i => min (x.credits.getD i 0 + creds.getD i 0) 4095)
  let starts := nak && !left.isEmpty && decide (x.again ≠ left.length)
  let s := s.setLink e { x with replay := left, again := if nak then left.length else min x.again left.length, credits := cr }
  (if starts then s.count F.LINK_COUNTS_REPLAYS e 1 else s).settlePair e

/-- The end may send a payload flit with these messages: the next flit to be replayed; or, with none to be replayed, a new one: in service
(R79), the pair's list standing (R80), room in the replay buffer (R74) and credits (R78), each message on the link of its line, and first
those to be re-sent, in order (R80). -/
def Dev.maySend (s : Dev) (e : Nat) (slots : List (Nat × LinkMsg)) : Bool :=
  let x := s.link e
  if x.again > 0 then (x.replay[x.replay.length - x.again]?).any (fun r => r.slots == slots)
  else
    let ms := slots.map (·.2)
    s.flag F.LINK_STATUS_IN_SERVICE e && !s.pairChanging e && decide (x.replay.length < 64)
      && ((classCounts [⟨0, slots⟩]).zip ((List.range 4).map (fun c => x.credits.getD c 0))).all (fun n => decide (n.1 ≤ n.2))
      && ms.all (fun m => s.linkOfLine (e / 16) (otherEnd e / 16) m.addr == some e)
      && decide (ms.take x.resend.length = x.resend.take ms.length)

/-- A payload flit leaves its sender: its SEQ, and the sender with it in the replay buffer. -/
def Dev.flitSent (s : Dev) (e : Nat) (slots : List (Nat × LinkMsg)) : Nat × Dev :=
  let x := s.link e
  match (if x.again > 0 then x.replay[x.replay.length - x.again]? else none) with
  | some r => (r.seq, s.setLink e { x with again := x.again - 1 })
  | none =>
    (x.nextSeq, s.setLink e { x with
      nextSeq := (x.nextSeq + 1) % 256, replay := x.replay ++ [⟨x.nextSeq, slots⟩], resend := x.resend.drop slots.length
      credits := ((classCounts [⟨0, slots⟩]).zip x.credits).map (fun n => n.2 - n.1) })

/-- Corrected words counted, and the corrections of each lane (R74, R77). -/
def Dev.countMended (s : Dev) (e : Nat) (gs : List GotWord) : Dev :=
  let x := s.link e
  let ls := gs.zipIdx.flatMap (fun g => lanesMended (s.linkState e) x.lanes g.2 g.1)
  (s.setLink e { x with laneErr := ls.foldl (fun m l => SMap.set m l (SMap.get m 0 l + 1)) x.laneErr }).count F.LINK_COUNTS_CORRECTED_WORDS e
    (gs.filter (fun g => g.cls.corrected)).length

/-- A payload flit without a bad word is judged by its SEQ: delivered in order, discarded as accepted already or while a NAK stands, or
a gap (R74). -/
def Dev.flitJudge (s : Dev) (e seq : Nat) (ms : List LinkMsg) : Dev :=
  let x := s.link e
  let ahead := (seq + 256 - x.lastAcc) % 256
  if ahead = 1 then
    s.setLink e { x with lastAcc := seq, naking := false, nakRun := 0, delivered := x.delivered ++ ms
                         due := (List.range 4).map (fun c => x.due.getD c 0 + (ms.filter (fun m => m.cls == c)).length) }
  else if ahead = 0 ∨ ahead ≥ 128 ∨ x.naking then s
  else s.nakFlit e

/-- The payload or control flit that comes to an end, as its words arrive, with the sender moved on and the corrections counted: its sender
composed it from its own state. -/
def Dev.flitComes (s : Dev) (e : Nat) (f : Flit) : List GotWord × Dev :=
  let x := s.link (otherEnd e)
  let t : Nat × Dev := if f.kind = 0 then s.flitSent (otherEnd e) f.slots else (x.nextSeq, s)
  let gs := flitArrives (s.linkState e) x.lanes (flitWords t.1 f.kind f.slots x.lastAcc x.naking x.due) f.errs
  (gs, t.2.countMended e gs)

/-- The data of a word of a flit that arrived. -/
def gotWord (gs : List GotWord) (i : Nat) : Nat := match gs[i]? with | some g => (dataOf g.good).toNat | none => 0

/-- The messages in the slots that a flit shows as valid, with the bytes that arrived. -/
def gotMsgs (gs : List GotWord) (slots : List (Nat × LinkMsg)) : List LinkMsg :=
  (slots.filter (fun m => bitOf (gotWord gs 0) (10 + m.1))).map (fun m =>
    { m.2 with body := lineOf ((List.range 8).flatMap (fun k => ((gs[2 + 8 * m.1 + k]?).map (fun g => g.good.take 8)).getD [])) })

/-- The credits that a flit returns. -/
def gotCredits (gs : List GotWord) : List Nat := (List.range 4).map (fun i => bitsOf (gotWord gs 1) (16 + 12 * i) 12)

/-- A flit with a bad word: it asks for a replay, unless a NAK stands and its word 0, where that can be read, does not name the flit
awaited (R74; log entry 101). -/
def Dev.flitBad (s : Dev) (e : Nat) (gs : List GotWord) : Dev :=
  let y := s.link e
  let seen := !((gs[0]?).any (fun g => g.cls.bad))
  if y.naking && !(seen && bitsOf (gotWord gs 0) 0 8 == (y.lastAcc + 1) % 256) then s else s.nakFlit e

/-- What a flit without a bad word carries beside its messages: ACK_SEQ, NAK and CREDITS, which are due to this end no more. -/
def Dev.flitCarries (s : Dev) (e : Nat) (gs : List GotWord) : Dev :=
  let s := s.flitAck e (bitsOf (gotWord gs 1) 0 8) (bitOf (gotWord gs 1) 8) (gotCredits gs)
  let y := s.link (otherEnd e)
  s.setLink (otherEnd e) { y with due := (y.due.zip (gotCredits gs)).map (fun n => n.1 - n.2) }

/-- A flit arrives at an end whose link is trained; one that its sender holds back does not come. ACK_SEQ, NAK and CREDITS of a flit
without a bad word are taken before its SEQ is judged, so those of a flit then discarded take effect too: the spec is silent on both
(DESIGN CHOICE, log entry 101). -/
def Dev.flitReceive (s : Dev) (e : Nat) (f : Flit) : Dev :=
  if !linkExists e || s.linkState e < 2 || s.linkState e > 4 || (f.kind == 0 && !s.maySend (otherEnd e) f.slots) then s
  else
    let gs := (s.flitComes e f).1
    let s := (s.flitComes e f).2
    if gs.any (fun g => g.cls.bad) then s.flitBad e gs
    else
      let s := s.flitCarries e gs
      if bitsOf (gotWord gs 0) 8 2 ≠ 0 then s else s.flitJudge e (bitsOf (gotWord gs 0) 0 8) (gotMsgs gs f.slots)

/-! RETRAIN (R82). -/

/-- A write to LINK_CTRL: RETRAIN starts a training from UP, HALF, QUARTER or FAILED. -/
def Dev.writeLinkCtrl (s : Dev) (e : Nat) (w : Word) : Dev :=
  if F.LINK_CTRL_RETRAIN.get w = 1 ∧ linkExists e ∧ s.linkState e ≥ 2 then s.linkTrain e else s

def execLinkRetrain (who : Who) (e : LinkEnd) (s : State) : Host.Outcome State Fault Refusal :=
  s.after (s.dev.asWriter who ⟨.LINK_CTRL, e⟩ 0x100 (fun d w => d.writeLinkCtrl e w))

end Sys2Proof.Machine
end

