-- ==== Sys2Proof/Machine/Ports.lean ====
section
/-! DEFINITION. The optical ports (R419–R433, R442, R446–R448): training, keys, frames, credits, leaving service. -/

namespace Sys2Proof.Machine

open Sys2Proof

/-! The device's own LSA (R434, R435). -/

/-- The entry of a port in the LSA. -/
def Dev.lsaEntry (s : Dev) (f : Nat) : List Byte :=
  let x := s.port f
  leBytes 1 f ++ leBytes 1 (s.portRole f + s.portState f * 4 + (if s.portServes f then 32 else 0))
    ++ leBytes 2 (s.fld F.PORT_STATUS_PEER_DEVICE f + (if s.flag F.PORT_STATUS_PEER_ASSIGNED f then 0x8000 else 0))
    ++ leBytes 1 (s.fld F.PORT_STATUS_PEER_PORT f) ++ leBytes 1 0 ++ leBytes 2 x.lastAcc ++ leBytes 8 x.peer

/-- Fragment k of the LSA with a SEQ. -/
def Dev.lsaFragment (s : Dev) (seq k : Nat) : List Byte :=
  let id := s.fld F.FAB_SELF_DEVICE_ID 0 + (if s.flag F.FAB_SELF_ASSIGNED 0 then 0x8000 else 0)
  let first := leBytes 8 s.disc ++ leBytes 2 id
    ++ leBytes 1 (s.fabParam 2 + (if s.flag F.FAB_SELF_STARTER 0 then 2 else 0)) ++ leBytes 1 (k + 0x40) ++ leBytes 4 seq ++ List.replicate 16 0
  let ps := (List.range 14).filterMap (fun i => if 14 * k + i < 48 then some (14 * k + i) else none)
  first ++ ps.flatMap s.lsaEntry

/-- An origin's LSA in the map replaced or entered, with what follows: the map has changed. -/
def Dev.storeLsa (s : Dev) (l : Lsa) : Dev :=
  let old := s.fab.map.find? (fun x => x.disc == l.disc)
  let changed : Bool := match old with
    | some o => decide (o.frags.map (fun e => e.2.drop 32) ≠ l.frags.map (fun e => e.2.drop 32)
        ∨ o.frags.map (fun e => bytesAt e.2 8 3) ≠ l.frags.map (fun e => bytesAt e.2 8 3))
    | none => true
  let fb := s.fab
  let rest := fb.map.filter (fun x => x.disc != l.disc)
  let fb := { fb with map := rest ++ [l], stale := fb.stale || changed }
  let s := { s with fab := fb }
  if changed then s.setFlag F.FAB_SELF_CONVERGED 0 false else s

/-- The device sends its LSA: one SEQ higher, on every in-service port, and into its own map. -/
def Dev.sendLsa (s : Dev) : Dev :=
  let seq := s.fab.seq + 1
  let fr := (List.range 4).map (fun k => (k, s.lsaFragment seq k))
  let s := ({ s with fab := { s.fab with seq := seq } } : Dev).storeLsa ⟨s.disc, seq, fr, [], 0⟩
  fr.foldl (fun s e => s.flood (ctlPkt 0x23 (s.fld F.FAB_SELF_DEVICE_ID 0) e.2) none) s

/-! States (R431, R442). -/

/-- A port leaves service: its unacknowledged frames' packets and those waiting are held (R442). -/
def Dev.portLeave (s : Dev) (f : Nat) : Dev :=
  if !s.portServes f then s
  else
    let x := s.port f
    let held := x.replay.flatMap (fun fr => fr.pkts.map (fun p => (some fr.seq, p))) ++ x.queue.map (fun p => (none, p))
    let s := (s.setFlag F.PORT_STATUS_IN_SERVICE f false).setFlag F.PORT_EVENT_OUT_OF_SERVICE f true
    s.setPort f { x with replay := [], queue := [], held := held, heldAt := some s.time }

/-- A port fails with a cause: its keys and frames are discarded, and the LSA tells the fabric (R434). -/
def Dev.portFail (s : Dev) (f cause : Nat) : Dev :=
  let s := (s.setFld F.PORT_STATUS_STATE f 5).setFld F.PORT_STATUS_CAUSE f cause
  let s := ((s.setFlag F.PORT_STATUS_KEYWAIT f false).setFlag F.PORT_EVENT_PORT_FAILED f true).portLeave f
  let x := s.port f
  (s.setPort f { x with keyed := false, tx := .init, rx := .init, replay := [], queue := [], cont := [], offer := [], accept := [] }).sendLsa

/-- A port's own state as a training begins: a full one starts anew; a fast one keeps keys and frames (R427). -/
def PortSt.begin (x : PortSt) (now : Nat) (full : Bool) : PortSt :=
  let x := { x with full := full, began := now, echoes := [], cap := [] }
  if full then
    { x with
      offer := [], accept := [], parts := [], frag := 0, keyed := false, tx := .init, rx := .init
      nextSeq := 0, lastAcc := 65535, replay := [], cont := [], used := List.replicate 13 0, pool := 0
      rused := List.replicate 13 0, rpool := 0, owed := List.replicate 13 0, owedPool := 0
      inbox := x.inbox.map (fun e => (e.1, 0, 0)) }
  else { x with naking := false, nakRun := 0 }

/-- A port enters TRAIN, for a full training or a fast one; the LSA tells the fabric (R434). -/
def Dev.portTrain (s : Dev) (f : Nat) (full : Bool) : Dev :=
  let s := ((s.setFld F.PORT_STATUS_STATE f 1).setFlag F.PORT_CTRL_RETRAIN f false).setFlag F.PORT_STATUS_KEYWAIT f false
  let s := s.setFld F.PORT_STATUS_CAUSE f 0
  (s.setPort f ((s.port f).begin s.time full)).sendLsa

/-- A port goes DOWN with its die: keys and the replay buffer discarded, and the packets held at it, which the die held (R431; log entry
111); packets routed over it from then on are held. -/
def Dev.portDown (s : Dev) (f : Nat) : Dev :=
  if s.portState f = 0 then s
  else
    let s := s.portLeave f
    let x := s.port f
    ((s.setFld F.PORT_STATUS_STATE f 0).setPort f { PortSt.init with heldAt := x.heldAt, peer := x.peer }).sendLsa

/-- An I/O die out of reset with a locked PLL, the image applied: full training of a port in DOWN starts (R108, R431). -/
def Dev.portStart (s : Dev) (f : Nat) : Dev :=
  if s.portState f = 0 && s.pllUp (portDie f) && s.flag F.BOOT_STATUS_LOCKED 0 then s.portTrain f true else s

def execPortTrainingStart (f : FPort) (s : State) : Host.Outcome State Fault Refusal := s.after (s.dev.portStart f)

/-- An ECHO measures the round trip; sixteen make step 3. -/
def Dev.echo (s : Dev) (f rtt : Nat) : Dev :=
  let x := s.port f
  if s.portState f = 1 && x.echoes.length < 16 then s.setPort f { x with echoes := x.echoes ++ [rtt] } else s

def execEcho (f : FPort) (rtt : Nat) (s : State) : Host.Outcome State Fault Refusal := s.after (s.dev.echo f rtt)

/-- The device's own CAP granule (R428). -/
def Dev.capGranule (s : Dev) (f : Nat) : List Byte :=
  leBytes 8 s.disc ++ leBytes 4 (s.fabParam 1) ++ leBytes 1 f ++ leBytes 1 (s.portRole f) ++ leBytes 1 1
    ++ leBytes 1 (s.fld F.PORT_LANES_GOOD f)
    ++ leBytes 2 (s.fld F.FAB_SELF_DEVICE_ID 0 + (if s.flag F.FAB_SELF_ASSIGNED 0 then 0x8000 else 0)) ++ List.replicate 14 0

/-! Key establishment (R432). -/

/-- A message of key establishment sent in control frames: 224 bytes of it a packet. -/
def Dev.sendKx (s : Dev) (f msg : Nat) (bs : List Byte) : Dev :=
  let n := ceilDiv bs.length 224
  (List.range n).foldl (fun s i =>
    let first := leBytes 1 msg ++ leBytes 1 i ++ leBytes 1 n ++ List.replicate 29 0
    s.emitFrame f ⟨0, 2, bytesAt (ctlPkt 0x21 0 (first ++ bytesAt bs (224 * i) 224)) 0 512, []⟩) s

/-- SHA-256 of both CAP granules, the initiator's first. -/
def Dev.capsHash (s : Dev) (f : Nat) : List Byte :=
  let own := s.capGranule f
  let peer := (s.port f).cap
  sha256 (if s.disc < (s.port f).peer then own ++ peer else peer ++ own)

/-- A signed body: the key material, the report, the level-1 signature over the hash and them. -/
def Dev.kxBody (s : Dev) (f : Nat) (material : List Byte) : List Byte × Dev :=
  let r := s.report1 none none []
  let body := material ++ r.1
  let g := r.2.l1Sign (s.capsHash f ++ body)
  (body ++ g.1, g.2)

/-- The initiator sends its OFFER, once the session is certified (R431, R432). -/
def Dev.kxOffer (s : Dev) (f : Nat) : Dev :=
  let x := s.port f
  if s.portState f != 1 || !x.full || x.cap.isEmpty || !x.offer.isEmpty || s.disc ≥ x.peer then s
  else if s.attSpent then s.portFail f 4
  else if !s.att.certified then s.setFlag F.PORT_STATUS_KEYWAIT f true
  else
    let s := s.setFlag F.PORT_STATUS_KEYWAIT f false
    let k := s.drbg 9 1568
    let b := k.2.kxBody f k.1
    (b.2.setPort f { b.2.port f with offer := b.1 }).sendKx f 1 b.1

/-- The keys of a port from the shared secret and the transcript. -/
def Dev.kxDerive (s : Dev) (f : Nat) (secret : List Byte) : Dev :=
  let x := s.port f
  let bs := kdf secret "OCT-FAB-KEY" (sha256 (x.offer ++ x.accept)) 72
  let ir : DirKey := ⟨bytesAt bs 0 32, bytesAt bs 64 4, 0, 0, false⟩
  let ri : DirKey := ⟨bytesAt bs 32 32, bytesAt bs 68 4, 0, 0, false⟩
  let first := decide (s.disc < x.peer)
  s.setPort f { x with keyed := true, tx := if first then ir else ri, rx := if first then ri else ir }

/-- A peer's report verifies (R432, R503): DISC_ID from its level-0 key, Octair's certificate for it, the session's certificate, its
signature; and it names the image key of this device. -/
def Dev.peerReportOk (s : Dev) (f : Nat) (r : List Byte) : Bool :=
  let l0 := bytesAt r 0xD8 56
  let l1 := bytesAt r 0x110 56
  fieldAt (sha256 l0) 0 8 == fieldAt r 8 8 && fieldAt r 8 8 == (s.port f).peer && Config.octairCert (fieldAt r 8 8) (leNat l0)
    && bytesAt r 0 6 == [0x41, 0x54, 0x54, 0x53, 1, 0]
    && lmsVerify 7 15 l0 (bytesAt r 8 8 ++ bytesAt r 0x14 4 ++ l1) (bytesAt r 0x148 1612)
    && lmsVerify 8 20 l1 (bytesAt r 0 0x798) (bytesAt r 0x798 1772)
    && bytesAt r 0x30 32 == s.boot.keyHash

/-- A message of key establishment has arrived whole. -/
def Dev.kxMessage (s : Dev) (f msg : Nat) (bs : List Byte) : Dev :=
  let x := s.port f
  let m := bytesAt bs 0 (1568 + 3720 + 1772)
  let body := bytesAt m 0 5288
  let good := s.peerReportOk f (bytesAt m 1568 3720)
    && lmsVerify 8 20 (bytesAt m (1568 + 0x110) 56) (s.capsHash f ++ body) (m.drop 5288)
  if !good then s.portFail f 4
  else if msg = 1 ∧ s.disc > x.peer then
    if s.attSpent then s.portFail f 4
    else
      let ct := s.drbg 9 1568
      let b := ct.2.kxBody f ct.1
      let s := b.2.setPort f { b.2.port f with offer := m, accept := b.1 }
      (s.sendKx f 2 b.1).kxDerive f (leBytes 32 (Config.kemSecret (leNat (bytesAt m 0 1568)) (leNat ct.1)))
  else if msg = 2 ∧ s.disc < x.peer ∧ !x.offer.isEmpty then
    (s.setPort f { x with accept := m }).kxDerive f (leBytes 32 (Config.kemSecret (leNat (bytesAt x.offer 0 1568)) (leNat (bytesAt m 0 1568))))
  else s

/-- A violation counted, and the quarantine at its limit. -/
def Dev.violation (s : Dev) (f : Nat) (c : Fld) : Dev :=
  let s := s.count c f 1
  let x := s.port f
  let fresh := decide (s.time ≥ x.winAt + s.fabParam 6)
  let s := if fresh then (s.setPort f { x with winAt := s.time }).setFld F.PORT_VIOL_WINDOW f 1 else s.count F.PORT_VIOL_WINDOW f 1
  let lim := s.fabParam 5
  if lim ≠ 0 ∧ s.fld F.PORT_VIOL_WINDOW f ≥ lim ∧ s.portState f ≠ 5 then
    (s.setFlag F.PORT_EVENT_QUARANTINED f true).portFail f 5
  else s

/-- A KX packet: one that breaks its layout is dropped (R446); its fragment joins the message; the last one completes it. -/
def Dev.kx (s : Dev) (f : Nat) (p : Pkt) : Dev :=
  let x := s.port f
  let g := granule p 0
  let msg := fieldAt g 0 1
  if s.portState f != 1 || !x.full || x.cap.isEmpty then s
  else if !(msg == 1 || msg == 2) || !allZero (bytesAt g 3 29) then s.violation f F.PORT_VIOL_PACKET
  else if !s.att.certified && !s.attSpent then s.setFlag F.PORT_STATUS_KEYWAIT f true
  else
    let ix := fieldAt g 1 1
    let x := if ix = 0 then { x with parts := [], frag := 0 } else x
    if ix ≠ x.frag then s
    else
      let parts := x.parts ++ bytesAt p 64 (32 * (pktLen p - 1))
      let s := s.setPort f { x with parts := parts, frag := ix + 1 }
      if ix + 1 = fieldAt g 2 1 then s.kxMessage f msg parts else s

def execKx (f : FPort) (p : List Byte) (s : State) : Host.Outcome State Fault Refusal := s.after (s.dev.kx f p)

/-- A CAP packet: one that breaks its layout is dropped (R446); the peer is known, and training fails on a mismatch (R428). -/
def Dev.cap (s : Dev) (f : Nat) (g : List Byte) : Dev :=
  if s.portState f != 1 then s
  else if !(allZero (bytesAt g 0x12 14) && bitsOf (fieldAt g 0xF 1) 5 3 == 0 && bitsOf (fieldAt g 0x10 2) 10 5 == 0) then
    s.violation f F.PORT_VIOL_PACKET
  else
    let x := s.port f
    let s := s.setPort f { x with cap := bytesAt g 0 32, peer := fieldAt g 0 8 }
    let s := (s.setFld F.PORT_STATUS_PEER_PORT f (fieldAt g 0xC 1)).setFld F.PORT_STATUS_PEER_DEVICE f (bitsOf (fieldAt g 0x10 2) 0 10)
    let s := s.setFlag F.PORT_STATUS_PEER_ASSIGNED f (bitOf (fieldAt g 0x10 2) 15)
    if fieldAt g 8 4 ≠ s.fabParam 1 ∨ fieldAt g 0xD 1 ≠ s.portRole f ∨ fieldAt g 0xE 1 ≠ 1 ∨ s.portRole f = 0 then s.portFail f 3
    else s.kxOffer f

def execCap (f : FPort) (g : List Byte) (s : State) : Host.Outcome State Fault Refusal := shaped (capShape g) (s.after (s.dev.cap f g))

/-! The end of training (R422, R427, R429, R431). -/

/-- The five wavelengths a mask names, ascending. -/
def lanesOf (m : Nat) : List Nat := (List.range 5).filter (bitOf m)

/-- Training of a port ends, with the wavelengths that tested good and whether its bound passed. Within the bound it ends only once every
step before the last is done: the sixteen ECHO packets, the CAP, the keys (R427). G counts the wavelengths good at both ends (R422,
R428). -/
def Dev.portDone (s : Dev) (f good : Nat) (late : Bool) : Dev :=
  let x := s.port f
  let some_ := s.fld F.PORT_LANES_GOOD f &&& good != 0
  if s.portState f != 1 || (some_ && !late && (decide (x.echoes.length < 16) || x.cap.isEmpty)) then s
  else if x.full && !late && !x.keyed && !s.att.certified && !s.attSpent then s.setFlag F.PORT_STATUS_KEYWAIT f true
  else
    let m := s.fld F.PORT_LANES_GOOD f &&& good
    let s := if m = s.fld F.PORT_LANES_GOOD f then s else s.setFlag F.PORT_EVENT_LANE_FAILED f true
    let s := s.setFld F.PORT_LANES_GOOD f m
    let m := if x.cap.isEmpty then m else m &&& fieldAt x.cap 0xF 1
    let g := (lanesOf m).length
    let rtt := x.echoes.foldl max 0
    let s := s.setFld F.PORT_STATUS_RTT f (min rtt 16383)
    let s := s.setFld F.PORT_STATUS_FIBER_M f (min ((rtt - 900) * 100 / 2548) 1023)
    if g = 0 then s.portFail f 1
    else if rtt > 14000 then s.portFail f 2
    else if late && x.cap.isEmpty then s.portFail f 3
    else if !x.keyed then s.portFail f 4
    else if late then s.portFail f 1
    else
      let st := if g ≥ 4 then 2 else if g ≥ 2 then 3 else 4
      let use := (lanesOf m).take (if g ≥ 4 then 4 else if g ≥ 2 then 2 else 1)
      let s := (s.setFld F.PORT_STATUS_STATE f st).setFld F.PORT_LANES_IN_USE f (use.foldl (fun n i => n + 2 ^ i) 0)
      let s := if st > 2 then s.setFlag F.PORT_EVENT_WIDTH_DROP f true else s
      let c := creditSizes rtt
      let s := ((s.setFld F.PORT_CREDIT_SHARED f c.1).setFld F.PORT_CREDIT_DEDICATED f c.2.1).setFld F.PORT_CREDIT_CONTROL f c.2.2.1
      let s := s.setFld F.PORT_CREDIT_REPLAY f c.2.2.2
      let s := if x.full then s else s.count F.PORT_COUNTS_RETRAINS f 1
      let s := s.setPort f { s.port f with naking := false, nakRun := 0 }
      let s := if x.replay.isEmpty then s else (x.replay.foldl (fun s fr => s.emitFrame f fr) (s.count F.PORT_COUNTS_REPLAYS f 1))
      if st > s.fabParam 4 then ((s.setFld F.PORT_STATUS_CAUSE f 6).portLeave f).sendLsa
      else
        let s := s.setFlag F.PORT_STATUS_IN_SERVICE f true
        (s.pumpPort f (s.port f).queue.length).sendLsa

def execPortTrainingDone (f : FPort) (good : Fin 32) (late : Bool) (s : State) : Host.Outcome State Fault Refusal :=
  s.after (s.dev.portDone f good late)

/-! Frames received (R430, R433, R446, R447). -/

/-- A fast retrain of a port in service. -/
def Dev.portFast (s : Dev) (f : Nat) : Dev := if s.portUp f then s.portTrain f false else s

/-- A NAK for the frame awaited; the fourth in succession retrains. While a NAK stands, a frame is the awaited one only where its SEQ can be
read and says so (log entry 101). -/
def Dev.nakFrame (s : Dev) (f : Nat) (seq : Option Nat) : Dev :=
  let x := s.port f
  if x.naking && seq != some ((x.lastAcc + 1) % 65536) then s
  else
    let s := s.setPort f { x with naking := true, nakRun := x.nakRun + 1 }
    if x.nakRun + 1 ≥ 4 then s.portFast f else s

/-- Packets laid in granules, from bytes left of a packet that continues: whole packets and the rest. -/
def parsePkts : Nat → List Byte → List Pkt × List Byte
  | 0, bs => ([], bs)
  | n + 1, bs =>
    if bs.length < 32 then ([], bs)
    else if fieldAt bs 0 1 = 0 then parsePkts n (bs.drop 32)
    else
      let k := 32 * (1 + pktLen bs)
      if bs.length < k then ([], bs)
      else
        let r := parsePkts n (bs.drop k)
        (bs.take k :: r.1, r.2)

/-- Granules of a channel to be returned to the sender, and those of the pool. -/
def PortSt.give (x : PortSt) (vc own sh : Nat) : PortSt :=
  { x with rused := x.rused.set vc (x.rused.getD vc 0 - own), rpool := x.rpool - sh,
           owed := x.owed.set vc (x.owed.getD vc 0 + own), owedPool := x.owedPool + sh }

/-- A packet received: dropped where beyond its credits or malformed, else it waits to be taken. -/
def Dev.takePkt (s : Dev) (f : Nat) (p : Pkt) : Dev :=
  let x := s.port f
  let vc := min (pktVc p) 12
  let n := 1 + pktLen p
  let own := min n (s.ownCredits f vc - x.rused.getD vc 0)
  if x.rpool + (n - own) > s.fld F.PORT_CREDIT_SHARED f then s.violation f F.PORT_VIOL_PACKET
  else
    let x := { x with rused := x.rused.set vc (x.rused.getD vc 0 + own), rpool := x.rpool + (n - own) }
    if !s.headerOk p then (s.setPort f (x.give vc own (n - own))).violation f F.PORT_VIOL_PACKET
    else s.setPort f { x with inbox := x.inbox ++ [(p, own, n - own)] }

/-- The first packet of a port that meets a test taken from its receive buffer: its granules go back to the pools they came from. -/
def Dev.takeInbox (s : Dev) (f : Nat) (t : Pkt → Bool) : Option (Pkt × Dev) :=
  match takeFirst (fun (e : Pkt × Nat × Nat) => t e.1) (s.port f).inbox with
  | none => none
  | some (e, rest) => some (e.1, s.setPort f ({ s.port f with inbox := rest }.give (min (pktVc e.1) 12) e.2.1 e.2.2))

/-- ACK_SEQ, NAK and the credits of a frame taken by the port as a sender. -/
def Dev.frameAck (s : Dev) (f w0 w1 : Nat) : Dev :=
  let x := s.port f
  let ack := bitsOf w0 16 16
  let n := x.replay.length
  let base := (x.nextSeq + 65536 - n) % 65536
  let k := (ack + 1 + 65536 - base) % 65536
  let s := if k ≤ n then s.setPort f { x with replay := x.replay.drop k } else s.violation f F.PORT_VIOL_FRAME
  let x := s.port f
  let s := if bitOf w0 32 && !x.replay.isEmpty then
      x.replay.foldl (fun s fr => s.emitFrame f fr) (s.count F.PORT_COUNTS_REPLAYS f 1) else s
  let x := s.port f
  let vc := bitsOf w1 0 4
  let n := bitsOf w1 4 12
  let sh := bitsOf w1 16 16
  let used := x.used.getD vc 0
  let s := s.setPort f { x with used := x.used.set vc (used - n), pool := x.pool - sh }
  let s := if vc > 12 ∨ n > used ∨ sh > x.pool then s.violation f F.PORT_VIOL_FRAME else s
  s.pumpPort f (s.port f).queue.length

/-- The frame's payload in the clear under the key that its KEY_EPOCH names, with the key as it stands after. -/
def openFrame (k : DirKey) (fr : List Byte) : Option (List Byte × DirKey) :=
  let w0 := fieldAt fr 0 8
  let k := if bitOf w0 35 = k.epoch then k else k.rekey
  let ctr := bitsOf w0 36 28
  if ctr < k.ctr then none
  else (gcmOpen k.key (k.salt ++ leBytes 8 ctr) (bytesAt fr 0 16) (bytesAt fr 32 512) (bytesAt fr 16 16)).map
    (fun b => (b, { k with ctr := ctr + 1 }))

/-- A word of a frame after its way, judged by the 80/64 code (R423): its class and what is delivered of it. -/
def wordArrives (fr : List Byte) (errs : List (Nat × Nat)) (i : Nat) : WordClass × List Byte :=
  let w := bytesAt fr (8 * i) 8
  match errs.filter (fun e => e.1 == i) with
  | [] => (.clean, w)
  | es =>
    let sy := es.foldl (fun (sy : List Byte) e => sy.modify (e.2 / 8) (fun x => x ^^^ (1 <<< (e.2 % 8))))
      (encodeSymbols (wordOfBytes w) 0)
    let c := classify sy 0
    (c.1, (c.2).take 8)

/-- The 68 words of a frame after its way. -/
def frameArrives (fr : List Byte) (errs : List (Nat × Nat)) : List (WordClass × List Byte) := (List.range 68).map (wordArrives fr errs)

/-- A frame taken as its words arrive, with the wavelengths that had uncorrectable RS codewords: corrected words are counted and delivered; a
bad word or codeword, a tag that fails and a gap ask for a replay (R430). -/
def Dev.frameTake (s : Dev) (f : Nat) (gs : List (WordClass × List Byte)) (rs : List Nat) : Dev :=
  if !s.portUp f then s
  else
    let s := s.count F.PORT_COUNTS_CORRECTED_WORDS f (gs.filter (fun g => g.1.corrected)).length
    let x := s.port f
    let s := s.setPort f { x with rsErrs := rs.foldl (fun m w => SMap.set m w (SMap.get m 0 w + 1)) x.rsErrs }
    let fr := gs.flatMap (·.2)
    let w0 := fieldAt fr 0 8
    let w1 := fieldAt fr 8 8
    let seq := bitsOf w0 0 16
    if gs.any (fun g => g.1.bad) || !rs.isEmpty then s.nakFrame f (if (gs.take 1).any (fun g => g.1.bad) then none else some seq)
    else
      let kind := bitsOf w0 33 2
      if kind ≥ 2 ∨ w1 ≥ 2 ^ 32 then (s.violation f F.PORT_VIOL_FRAME).nakFrame f (some seq)
      else match openFrame (s.port f).rx fr with
        | none => (s.violation f F.PORT_VIOL_AUTH).nakFrame f (some seq)
        | some (body, k) =>
          let s := s.setPort f { s.port f with rx := k }
          let s := s.frameAck f w0 w1
          if kind = 1 || !s.portUp f then s
          else
            let x := s.port f
            let ahead := (seq + 65536 - x.lastAcc) % 65536
            if ahead = 1 then
              let r := parsePkts 17 (x.cont ++ body)
              let s := s.setPort f { x with lastAcc := seq, naking := false, nakRun := 0, cont := r.2 }
              r.1.foldl (fun s p => s.takePkt f p) s
            else if ahead = 0 ∨ ahead ≥ 32768 then s
            else s.nakFrame f (some seq)

/-- A frame arrives: as its sender made it, with the bits that its way inverts, each by its word and its place in the word's 80 bits; an
idle frame acknowledges it. -/
def Dev.frameReceive (s : Dev) (f : Nat) (fr : List Byte) (errs : List (Nat × Nat)) (rs : List Nat) : Dev :=
  if s.portUp f then (s.frameTake f (frameArrives fr errs) rs).idleFrame f else s

def execFrameReceive (f : FPort) (head body : List Byte) (errs : List (Fin 68 × Fin 80)) (rs : List (Fin 5)) (s : State) :
    Host.Outcome State Fault Refusal :=
  shaped (frameShape head body) (s.after (s.dev.frameReceive f (head ++ body) (errs.map (fun e => (e.1.val, e.2.val))) (rs.map (·.val))))

/-- 1,000 cycles without an intact frame (R430). -/
def Dev.frameSilence (s : Dev) (f : Nat) : Dev := s.portFast f

def execFrameSilence (f : FPort) (s : State) : Host.Outcome State Fault Refusal := s.after (s.dev.frameSilence f)

def execRekey (f : FPort) (s : State) : Host.Outcome State Fault Refusal := s.after (s.dev.rekeyPort f)

/-! Losses of light, RETRAIN (R431, R448, R454). -/

/-- A wavelength fails: a fast retrain in service; in a full training, the training restarts with the offer discarded; a port in FAILED
stays so. -/
def Dev.failWave (s : Dev) (f mask : Nat) : Dev :=
  if mask = 0 then s
  else
    let fail := fun (s : Dev) => (s.setFld F.PORT_LANES_GOOD f (s.fld F.PORT_LANES_GOOD f - (s.fld F.PORT_LANES_GOOD f &&& mask))).setFlag
      F.PORT_EVENT_LANE_FAILED f true
    if s.portUp f then (fail s).portTrain f false
    else if s.portState f = 1 then (fail s).portTrain f (s.port f).full
    else if s.portState f = 5 then fail s
    else s

def execWavelengthLoss (f : FPort) (w : Fin 5) (s : State) : Host.Outcome State Fault Refusal := s.after (s.dev.failWave f (2 ^ w.val))

/-- The end of the 100,000 cycles: wavelengths with more than 16 uncorrectable codewords fail. -/
def Dev.rsWindow (s : Dev) (f : Nat) : Dev :=
  let x := s.port f
  let m := (x.rsErrs.filter (fun e => decide (e.2 > 16))).foldl (fun n e => n + 2 ^ e.1) 0
  (s.setPort f { x with rsErrs := [] }).failWave f m

def execRsErrorWindowEnd (f : FPort) (s : State) : Host.Outcome State Fault Refusal := s.after (s.dev.rsWindow f)

/-- The wavelengths of a port that the fuses have not put out of use. -/
def Dev.wavesFused (s : Dev) (f : Nat) : Nat := (s.fused.waves.filter (fun w => w.1 == f)).foldl (fun m w => m &&& (31 - 2 ^ w.2)) 31

/-- A write to PORT_CTRL: RETRAIN is a full training from FAILED, with every wavelength tried again, a fast one in service. -/
def Dev.writePortCtrl (s : Dev) (f : Nat) (w : Word) : Dev :=
  if F.PORT_CTRL_RETRAIN.get w = 0 then s
  else if s.portState f = 5 then (s.setFld F.PORT_LANES_GOOD f (s.wavesFused f)).portTrain f true
  else if s.portUp f then (s.setFld F.PORT_LANES_GOOD f (s.wavesFused f)).portTrain f false
  else s

def execPortRetrain (who : Who) (f : FPort) (s : State) : Host.Outcome State Fault Refusal :=
  s.after (s.dev.asWriter who ⟨.PORT_CTRL, f⟩ 1 (fun d w => d.writePortCtrl f w))

end Sys2Proof.Machine
end

