-- ==== Sys2Proof/Machine/Fabric.lean ====
section
/-! DEFINITION. The fabric router (file 15): the link-state map, device IDs, routes, held packets, remote operations, lost devices, DNF. -/

namespace Sys2Proof.Machine

open Sys2Proof

/-! The map (R434, R435, R439). -/

/-- The 16-byte entry of a port in an LSA. -/
def Lsa.entry (l : Lsa) (f : Nat) : List Byte := bytesAt (SMap.get l.frags [] (f / 14)) (32 + 16 * (f % 14)) 16
def Lsa.serves (l : Lsa) (f : Nat) : Bool := bitOf (fieldAt (l.entry f) 1 1) 5
def Lsa.role (l : Lsa) (f : Nat) : Nat := bitsOf (fieldAt (l.entry f) 1 1) 0 2
def Lsa.peer (l : Lsa) (f : Nat) : Nat := fieldAt (l.entry f) 8 8
def Lsa.peerPort (l : Lsa) (f : Nat) : Nat := fieldAt (l.entry f) 4 1
def Lsa.lastSeq (l : Lsa) (f : Nat) : Nat := fieldAt (l.entry f) 6 2
/-- What the first granule of fragment 0 says: device ID, assigned, STARTER_ELIGIBLE. -/
def Lsa.devId (l : Lsa) : Nat := bitsOf (fieldAt (SMap.get l.frags [] 0) 8 2) 0 10
def Lsa.assigned (l : Lsa) : Bool := bitOf (fieldAt (SMap.get l.frags [] 0) 8 2) 15
def Lsa.eligible (l : Lsa) : Bool := bitOf (fieldAt (SMap.get l.frags [] 0) 10 1) 0

/-- The LSA held of an origin; one of which only fragments have come is not held yet. -/
def Dev.lsaOf (s : Dev) (disc : Nat) : Option Lsa := s.fab.map.find? (fun l => l.disc == disc && !l.frags.isEmpty)

/-- A link in service in the map: its sending end, its port, its receiving end, its role. -/
structure MapLink where
  src  : Nat
  port : Nat
  dst  : Nat
  role : Nat
  deriving DecidableEq

/-- The links that the LSAs of both ends show in service, between DISC_IDs. -/
def Dev.mapLinks (s : Dev) : List MapLink :=
  s.fab.map.flatMap (fun a => (List.range 48).filterMap (fun f =>
    if !a.serves f then none
    else match s.lsaOf (a.peer f) with
      | none => none
      | some b =>
        let g := a.peerPort f
        if b.serves g && b.peer g == a.disc && b.peerPort g == f then some ⟨a.disc, f, b.disc, a.role f⟩ else none))

/-- The ID bound to a DISC_ID, and the DISC_ID of an ID. -/
def Dev.idOf (s : Dev) (disc : Nat) : Option Nat := (s.fab.bound.find? (fun b => b.1 == disc)).map (·.2)
def Dev.discOf (s : Dev) (n : Nat) : Option Nat := (s.fab.bound.find? (fun b => b.2 == n)).map (·.1)

/-- The starter: the lowest DISC_ID among the eligible origins (R436). -/
def Dev.starter (s : Dev) : Option Nat :=
  match (s.fab.map.filter (·.eligible)).map (·.disc) with
  | [] => none
  | d :: ds => some (ds.foldl min d)

/-! FAB_DEV_n and lost devices (R448, R449). -/

/-- The map shows a bound device lost: its LSA has aged out, or no link to it is in service. -/
def Dev.isGone (s : Dev) (disc : Nat) : Bool := (s.lsaOf disc).isNone || !s.mapLinks.any (fun l => l.src == disc || l.dst == disc)

/-- FAB_DEV_n as the bindings, the routes and the losses give it. -/
def Dev.showDevs (s : Dev) : Dev :=
  let lost := ((List.range 1024).filter (s.flag F.FAB_DEV_LOST))
  let s := s.clearRegs (fun k => k / 1048576 == RegName.FAB_DEV.num)
  s.fab.bound.foldl (fun s b =>
    let rs := SMap.get s.fab.routes [] b.2
    let s := (s.setFlag F.FAB_DEV_BOUND b.2 true).setFlag F.FAB_DEV_REACHABLE b.2 (!rs.isEmpty)
    let s := (s.setFld F.FAB_DEV_HOPS b.2 (rs.headD []).length).setFld F.FAB_DEV_ROUTES b.2 rs.length
    s.setFlag F.FAB_DEV_LOST b.2 (lost.contains b.2)) s

/-- The answer of a remote request given to its requester: to a core as a message, to an engine as an answer it finds when it runs on. -/
def Dev.remoteAnswer (s : Dev) (r : RemReq) (code : Resp) (data : Option (List Byte)) : Dev :=
  let s := { s with remSent := s.remSent.erase r }
  match r.src with
  | .core n =>
    let tag := if r.tag ≥ 8256 then 3 else 2
    match code, data with
    | .ok, some d => s.send (.data (.core n) (r.addr / 64) tag none (lineOf d))
    | _, _ => s.send (.comp (.core n) (r.addr / 64) tag code)
  | _ => { s with remDone := s.remDone ++ [⟨r.tag, r.kind, r.addr, code, data.getD []⟩] }

/-- A device is declared lost: requests outstanding to it answer HOME_ABSENT, packets held for it are dropped, jobs that ask for it are
aborted (R442, R449). -/
def Dev.declareLost (s : Dev) (n : Nat) : Dev :=
  let s := s.setFlag F.FAB_DEV_LOST n true
  let mine := s.fab.opens.filter (fun o => o.dst == n)
  let s := { s with fab := { s.fab with opens := s.fab.opens.filter (fun o => o.dst != n) } }
  let s := mine.foldl (fun s o => s.remoteAnswer o.req .homeAbsent none) s
  let s := (List.range 48).foldl (fun s f =>
    let x := s.port f
    if x.heldAt.isSome && s.idOf x.peer == some n then
      (s.setPort f { x with held := [], heldAt := none }).count F.FAB_COUNTS_DROPPED 0 x.held.length
    else s) s
  ((List.range 64).filter (fun j => s.jobMember j n && s.flag F.JOB_CFG_AUTO_DNF j)).foldl (fun s j => s.dnfRaise j 2 n) s

/-- Devices that the map newly shows lost are declared lost; one whose links are back is lost no more. -/
def Dev.judgeLost (s : Dev) : Dev :=
  (s.fab.bound.filter (fun b => b.1 != s.disc)).foldl (fun s b =>
    let gone := s.isGone b.1
    if gone && !s.flag F.FAB_DEV_LOST b.2 then s.declareLost b.2
    else if gone then s else s.setFlag F.FAB_DEV_LOST b.2 false) s

/-- The bindings that the map's LSAs show are kept (R437). -/
def Dev.learnBindings (s : Dev) : Dev :=
  let new := (s.fab.map.filter (fun l => l.assigned && (s.idOf l.disc).isNone && (s.discOf l.devId).isNone)).map (fun l => (l.disc, l.devId))
  ({ s with fab := { s.fab with bound := s.fab.bound ++ new } } : Dev).showDevs

/-! Held packets (R442). -/

/-- The length in links of a packet's rest, and its route rewritten from this device. -/
def reroute (p : Pkt) (route : List Nat) : Pkt :=
  let i := pktHop p
  let old := (List.range i).map (pktRoute p)
  let fs := old ++ route.map (· % 64)
  let r := fs.zipIdx.foldl (fun n e => n + e.1 * 64 ^ e.2) 0
  let hops := i + (i + route.length) * 8 + pktClass p * 64
  bytesAt p 0 2 ++ leBytes 1 hops ++ bytesAt p 3 5 ++ leBytes 5 r ++ leBytes 1 (fieldAt p 0xD 1 ||| 4) ++ p.drop 14

/-- A held packet sent on from this device's own table, or dropped where no route fits. -/
def Dev.resendHeld (s : Dev) (die : Nat) (bad : List Nat) (p : Pkt) : Dev :=
  if pktClass p = 2 then s
  else
    let ok := fun (r : List Nat) => decide (r.length ≤ 6 - pktHop p)
      && (match r with | l :: _ => s.portServes (l % 64) && !bad.contains (l % 64) && s.joined die (dieOfPort (l % 64)) | [] => false)
    match (SMap.get s.fab.routes [] (pktDst p)).find? ok with
    | some r => (s.sendOn ((r.headD 0) % 64) (reroute p r)).count F.FAB_COUNTS_REROUTED 0 1
    | none => s.count F.FAB_COUNTS_DROPPED 0 1

/-- The frame SEQ a is at or before b, modulo 65,536. -/
def seqUpTo (a b : Nat) : Bool := (b + 65536 - a) % 65536 < 32768

/-- The peer's LSA reports a port: what it has accepted is discarded, the rest is sent on. -/
def Dev.releaseHeld (s : Dev) (f last : Nat) : Dev :=
  let x := s.port f
  if x.heldAt.isNone then s
  else
    let rest := x.held.filter (fun h => match h.1 with | some q => !seqUpTo q last | none => true)
    let s := s.setPort f { x with held := [], heldAt := none }
    let bad := (List.range 48).filter (fun g => (s.port g).heldAt.isSome || g == f)
    rest.foldl (fun s h => s.resendHeld (dieOfPort f) bad h.2) s

/-- No LSA of the peer within the bound: the held packets are dropped. -/
def Dev.holdTimeout (s : Dev) (f : Nat) : Dev :=
  let x := s.port f
  if x.heldAt.isNone then s
  else (s.setPort f { x with held := [], heldAt := none }).count F.FAB_COUNTS_DROPPED 0 x.held.length

def execHoldLsaTimeout (f : FPort) (s : State) : Host.Outcome State Fault Refusal := s.after (s.dev.holdTimeout f)

/-! LSAs (R434, R435, R439). -/

/-- An LSA fragment's layout is kept. -/
def lsaGranuleOk (p : Pkt) : Bool :=
  let g := granule p 0
  let k := bitsOf (fieldAt g 11 1) 0 4
  bitsOf (fieldAt g 8 2) 10 5 == 0 && bitsOf (fieldAt g 10 1) 2 6 == 0 && decide (k < 4) && bitsOf (fieldAt g 11 1) 4 4 == 4
    && allZero (bytesAt g 16 16) && pktLen p == (if k = 3 then 4 else 8)
    && (List.range (min 14 (48 - 14 * k))).all (fun i =>
        let e := bytesAt p (64 + 16 * i) 16
        fieldAt e 0 1 == 14 * k + i && bitsOf (fieldAt e 1 1) 6 2 == 0 && bitsOf (fieldAt e 2 2) 10 5 == 0 && fieldAt e 5 1 == 0)

/-- An origin's LSA is whole: it replaces the older one, its bindings and losses are seen, and packets held for its ports are released. -/
def Dev.lsaWhole (s : Dev) (l : Lsa) : Dev :=
  let s := ((s.storeLsa l).learnBindings).judgeLost
  (List.range 48).foldl (fun s f =>
    let x := s.port f
    let g := s.fld F.PORT_STATUS_PEER_PORT f
    if x.heldAt.isSome && x.peer == l.disc && !l.serves g && l.peerPort g == f then s.releaseHeld f (l.lastSeq g) else s) s

/-- An LSA packet taken: forwarded where its SEQ is new, and kept with its fellows until all four fragments are here. -/
def Dev.lsaTake (s : Dev) (f : Nat) (p : Pkt) : Dev :=
  if !lsaGranuleOk p then s.violation f F.PORT_VIOL_PACKET
  else
    let g := granule p 0
    let disc := fieldAt g 0 8
    let seq := fieldAt g 12 4
    let k := bitsOf (fieldAt g 11 1) 0 4
    if disc = s.disc then s
    else
      let cur := (s.fab.map.find? (fun l => l.disc == disc)).getD ⟨disc, 0, [], [], 0⟩
      if seq ≤ cur.seq && !cur.frags.isEmpty then s
      else
        let next := if cur.nextSeq = seq then cur.next else if cur.nextSeq < seq then [] else cur.next
        if seq < cur.nextSeq ∨ (SMap.find next k).isSome then s
        else
          let s := s.flood (ctlPkt 0x23 (s.fld F.FAB_SELF_DEVICE_ID 0) (pktData p)) (some f)
          let next := SMap.set next k (pktData p)
          if next.length = 4 then s.lsaWhole ⟨disc, seq, next, [], 0⟩
          else
            let l : Lsa := { cur with next := next, nextSeq := seq }
            { s with fab := { s.fab with map := s.fab.map.filter (fun x => x.disc != disc) ++ [l] } }

/-- The first packet of a type taken from a port's receive buffer and worked on; an idle frame returns its credits. -/
def Dev.ctlTake (s : Dev) (f type : Nat) (work : Dev → Pkt → Dev) : Dev :=
  match s.takeInbox f (fun p => pktType p == type) with
  | none => s
  | some (p, s) => (work s p).idleFrame f

def execLsa (f : FPort) (s : State) : Host.Outcome State Fault Refusal :=
  s.after (s.dev.ctlTake f 0x23 (fun d p => d.lsaTake f p))

/-- The device sends its LSA, once released. -/
def Dev.lsaPeriodic (s : Dev) : Dev := if s.phase = 7 ∨ (List.range 48).any s.portServes then s.sendLsa else s

def execLsaPeriodic (s : State) : Host.Outcome State Fault Refusal := s.after s.dev.lsaPeriodic

/-- An origin's LSA has not been refreshed: it leaves the map. -/
def Dev.lsaAge (s : Dev) (disc : Nat) : Dev :=
  if disc = s.disc || (s.lsaOf disc).isNone then s
  else
    let s := { s with fab := { s.fab with map := s.fab.map.filter (fun l => l.disc != disc), stale := true } }
    (s.setFlag F.FAB_SELF_CONVERGED 0 false).judgeLost

def execLsaAgeOut (origin : Word) (s : State) : Host.Outcome State Fault Refusal := s.after (s.dev.lsaAge origin.toNat)

/-! Device IDs (R436–R438). -/

/-- The DISC_IDs joined to a set by in-service local ports, closed n times. -/
def localClosure (links : List MapLink) : Nat → List Nat → List Nat
  | 0, ds => ds
  | n + 1, ds =>
    let new := (links.filter (fun l => l.role == 1 && ds.contains l.src && !ds.contains l.dst)).map (·.dst)
    if new.isEmpty then ds else localClosure links n (ds ++ new).dedup

/-- The group of a device: the set that in-service local ports connect. -/
def Dev.localGroup (s : Dev) (disc : Nat) : List Nat := localClosure s.mapLinks s.fab.map.length [disc]

/-- Numbers in ascending order. -/
def ascending (l : List Nat) : List Nat := l.mergeSort (· ≤ ·)

/-- The first assignment (R437). -/
def Dev.firstIds (s : Dev) : List (Nat × Nat) :=
  let ds := ascending (s.fab.map.filter (fun l => !l.frags.isEmpty) |>.map (·.disc))
  let groups := (ds.map (fun d => ascending (s.localGroup d))).dedup
  (groups.take 32).zipIdx.flatMap (fun g => (g.1.take 32).zipIdx.map (fun m => (m.1, 32 * g.2 + m.2)))

/-- The place of an unbound device (R438). -/
def Dev.placeFor (s : Dev) (bound : List (Nat × Nat)) (disc : Nat) : Option Nat :=
  let ids := bound.map (·.2)
  let near := (bound.filter (fun b => (s.localGroup disc).contains b.1)).map (·.2 / 32)
  match near with
  | [] => ((List.range 32).find? (fun g => !ids.any (fun n => n / 32 == g))).map (32 * ·)
  | g :: gs =>
    let g := gs.foldl min g
    ((List.range 32).find? (fun m => !ids.contains (32 * g + m))).map (32 * g + ·)

/-- Every binding once the origins of the map have been assigned. -/
def Dev.assignIds (s : Dev) : List (Nat × Nat) :=
  if s.fab.bound.isEmpty then s.firstIds
  else (ascending (s.fab.map.filter (fun l => !l.frags.isEmpty) |>.map (·.disc))).foldl (fun b d =>
    if b.any (fun x => x.1 == d) then b
    else match s.placeFor b d with | some n => b ++ [(d, n)] | none => b) s.fab.bound

/-- The device's own ID. -/
def Dev.takeId (s : Dev) (n : Nat) : Dev :=
  ((s.setFld F.FAB_SELF_DEVICE_ID 0 n).setFlag F.FAB_SELF_ASSIGNED 0 true).setFlag F.FAB_SELF_UNASSIGNED 0 false

/-- A DISC packet of this device flooded (R438). -/
def Dev.sendDisc (s : Dev) (target n op : Nat) : Dev :=
  let st := s.starter.getD 0
  let seq := max s.fab.discSeq (SMap.get s.fab.discSeen 0 st) + 1
  let s := { s with fab := { s.fab with discSeq := seq, discSeen := SMap.set s.fab.discSeen st seq } }
  let g := leBytes 8 target ++ leBytes 2 n ++ leBytes 1 op ++ leBytes 1 0 ++ leBytes 4 seq ++ leBytes 8 st ++ List.replicate 8 0
  s.flood (ctlPkt 0x22 (s.fld F.FAB_SELF_DEVICE_ID 0) g) none

/-- DISC_QUIET has passed: the device that finds itself the starter takes the role and assigns IDs; another one that the starter's
assignment over the same map leaves without an ID reports it (R437). -/
def Dev.starterElect (s : Dev) : Dev :=
  if s.starter ≠ some s.disc then
    let left := s.starter.isSome && !s.flag F.FAB_SELF_ASSIGNED 0 && !s.assignIds.any (fun b => b.1 == s.disc)
    (s.setFlag F.FAB_SELF_STARTER 0 false).setFlag F.FAB_SELF_UNASSIGNED 0 left
  else
    let s := s.setFlag F.FAB_SELF_STARTER 0 true
    let b := s.assignIds
    let s := { s with fab := { s.fab with bound := b } }
    let due := s.fab.map.filter (fun l => !l.frags.isEmpty && (!l.assigned || some l.devId != s.idOf l.disc))
    let s := due.foldl (fun s l => match s.idOf l.disc with
      | some n => if l.disc = s.disc then s.takeId n else s.sendDisc l.disc n 1
      | none => s) s
    let s := if (s.idOf s.disc).isNone then s.setFlag F.FAB_SELF_UNASSIGNED 0 true else s
    s.showDevs

def execStarterElect (s : State) : Host.Outcome State Fault Refusal := s.after s.dev.starterElect

/-- The device's ID and the bindings are discarded; requests outstanding answer HOME_ABSENT (R438, R454). -/
def Dev.forgetIds (s : Dev) : Dev :=
  let ops := s.fab.opens
  let s := { s with fab := { s.fab with bound := [], opens := [], routes := [], stale := true } }
  let s := ops.foldl (fun s o => s.remoteAnswer o.req .homeAbsent none) s
  let s := (s.setFld F.FAB_SELF_DEVICE_ID 0 0).setFlag F.FAB_SELF_ASSIGNED 0 false
  let s := ((s.setFlag F.FAB_SELF_UNASSIGNED 0 false).setFlag F.FAB_SELF_STARTER 0 false).setFlag F.FAB_SELF_CONVERGED 0 false
  s.showDevs

/-- A DISC packet taken. -/
def Dev.discTake (s : Dev) (f : Nat) (p : Pkt) : Dev :=
  let g := granule p 0
  let op := fieldAt g 10 1
  let st := fieldAt g 16 8
  let seq := fieldAt g 12 4
  if !(op == 1 || op == 2) || fieldAt g 11 1 != 0 || !allZero (bytesAt g 24 8) || fieldAt g 8 2 ≥ 1024 then s.violation f F.PORT_VIOL_PACKET
  else if s.starter ≠ some st || seq ≤ SMap.get s.fab.discSeen 0 st then s
  else
    let s := { s with fab := { s.fab with discSeen := SMap.set s.fab.discSeen st seq } }
    let s := s.flood (ctlPkt 0x22 (s.fld F.FAB_SELF_DEVICE_ID 0) (pktData p)) (some f)
    if op = 2 then s.forgetIds
    else if fieldAt g 0 8 = s.disc then s.takeId (fieldAt g 8 2)
    else s

def execDisc (f : FPort) (s : State) : Host.Outcome State Fault Refusal :=
  s.after (s.dev.ctlTake f 0x22 (fun d p => d.discTake f p))

/-- A write to FAB_CTRL. -/
def Dev.writeFabCtrl (s : Dev) (w : Word) : Dev := if F.FAB_CTRL_REDISCOVER.get w = 1 then (s.sendDisc 0 0 2).forgetIds else s

def execRediscover (who : Who) (s : State) : Host.Outcome State Fault Refusal :=
  s.after (s.dev.asWriter who ⟨.FAB_CTRL, 0⟩ 1 (fun d w => d.writeFabCtrl w))

/-- MAP_QUIET has passed without a change: the map is converged where it holds an LSA of every bound device. -/
def Dev.mapConverge (s : Dev) : Dev :=
  if s.fab.bound.all (fun b => (s.lsaOf b.1).isSome) then s.setFlag F.FAB_SELF_CONVERGED 0 true else s

def execMapConverge (s : State) : Host.Outcome State Fault Refusal := s.after s.dev.mapConverge

/-! Routes (R440). -/

/-- A link between device IDs. -/
structure IdLink where
  a    : Nat
  f    : Nat
  b    : Nat
  role : Nat
  deriving DecidableEq

def IdLink.id (l : IdLink) : Nat := l.a * 64 + l.f

/-- What the computation of one destination's routes uses. -/
structure RouteEnv where
  links : List IdLink
  ids   : List Nat
  rank  : Nat → Nat

/-- The link of lowest rank. -/
def RouteEnv.low (e : RouteEnv) (ls : List IdLink) : Option IdLink :=
  ls.foldl (fun best l => match best with
    | none => some l
    | some b => if e.rank l.id < e.rank b.id ∨ (e.rank l.id = e.rank b.id ∧ l.id < b.id) then some l else some b) none

def RouteEnv.between (e : RouteEnv) (a b : Nat) : List IdLink := e.links.filter (fun l => l.a == a && l.b == b)
def RouteEnv.group (e : RouteEnv) (a : Nat) : List Nat := e.ids.filter (fun n => n / 32 == a / 32)

/-- Numbers by ascending rank. -/
def RouteEnv.byRank (e : RouteEnv) (l : List Nat) : List Nat :=
  l.mergeSort (fun x y => decide (e.rank x < e.rank y ∨ (e.rank x = e.rank y ∧ x ≤ y)))

/-- lp of R440. -/
def RouteEnv.lp (e : RouteEnv) (a b : Nat) : Option (List IdLink) :=
  if a = b then some []
  else match e.low (e.between a b) with
    | some l => some [l]
    | none => (e.byRank ((e.group a).filter (fun m => m != a && m != b))).findSome? (fun m =>
        match e.low (e.between a m), e.low (e.between m b) with
        | some x, some y => some [x, y]
        | _, _ => none)

/-- Paths joined, or none. -/
def joinPaths (ps : List (Option (List IdLink))) : Option (List IdLink) :=
  ps.foldl (fun acc p => match acc, p with | some a, some b => some (a ++ b) | _, _ => none) (some [])

/-- A path passes no device twice and has at most six links. -/
def pathOk (src : Nat) (p : List IdLink) : Bool :=
  let ds := src :: p.map (·.b)
  ds.dedup.length == ds.length && decide (p.length ≤ 6)

/-- ROUTE_0 to ROUTE_3 towards a destination. -/
def RouteEnv.routes (e : RouteEnv) (src dst : Nat) : List (List Nat) :=
  let glob := fun (g h : Nat) => e.links.filter (fun l => l.role == 2 && l.a / 32 == g && l.b / 32 == h)
  let one := fun (l : Option IdLink) => l.map (fun x => [x])
  let cs : List (Option (List IdLink)) :=
    if dst / 32 = src / 32 then
      e.lp src dst :: ((e.group src).filter (fun m => m != src && m != dst)).map (fun m =>
        joinPaths [one (e.low (e.between src m)), e.lp m dst])
    else
      (glob (src / 32) (dst / 32)).map (fun g => joinPaths [e.lp src g.a, some [g], e.lp g.b dst])
        ++ ((List.range 32).filter (fun i => i != src / 32 && i != dst / 32)).map (fun i =>
          match e.low (glob (src / 32) i), e.low (glob i (dst / 32)) with
          | some g1, some g2 => joinPaths [e.lp src g1.a, some [g1], e.lp g1.b g2.a, some [g2], e.lp g2.b dst]
          | _, _ => none)
  let ps := (cs.filterMap id).filter (fun p => pathOk src p && !p.isEmpty)
  let key := fun (p : List IdLink) =>
    let g := match p.find? (fun l => l.role == 2) with | some l => l.id | none => (p.head?.map IdLink.id).getD 0
    (p.length, e.rank g, (p.head?.map IdLink.id).getD 0)
  let le := fun (p q : List IdLink) =>
    let x := key p
    let y := key q
    decide (x.1 < y.1 ∨ (x.1 = y.1 ∧ (x.2.1 < y.2.1 ∨ (x.2.1 = y.2.1 ∧ x.2.2 ≤ y.2.2))))
  (((ps.mergeSort le).map (fun p => p.map IdLink.id)).dedup).take 4

/-- The routes of every bound device computed anew. -/
def Dev.routeCompute (s : Dev) : Dev :=
  match s.ownId with
  | none => s
  | some me =>
    let links := s.mapLinks.filterMap (fun l => match s.idOf l.src, s.idOf l.dst with
      | some a, some b => some (⟨a, l.port, b, l.role⟩ : IdLink)
      | _, _ => none)
    let ids := s.fab.bound.map (·.2)
    let seed := s.fabParam 7
    let tab := ids.foldl (fun (m : SMap (List (List Nat))) d =>
      if d = me then m
      else
        let rank := fun x => (mix (BitVec.ofNat 64 (seed ^^^ (me <<< 32) ^^^ (d <<< 16) ^^^ x))).toNat
        let e : RouteEnv := ⟨links, ids, rank⟩
        SMap.set m d (e.routes me d)) []
    ({ s with fab := { s.fab with routes := tab, stale := false } } : Dev).showDevs

def execRouteRecompute (s : State) : Host.Outcome State Fault Refusal := s.after s.dev.routeCompute

/-! Requests sent (R43–R45, R441, R443). -/

/-- Granules queued at a port. -/
def Dev.queued (s : Dev) (f : Nat) : Nat := (s.port f).queue.foldl (fun n p => n + 1 + pktLen p) 0

/-- The routes that may be taken to a device from one of the dies given: over ports in service here, on I/O dies that those dies reach
(R27, R81), ROUTE_0 alone until the map converges. -/
def Dev.routesTo (s : Dev) (dies : List Nat) (n : Nat) : List (List Nat) :=
  let rs := (SMap.get s.fab.routes [] n).filter (fun r => match r with
    | l :: _ => (!s.fab.stale || s.portServes (l % 64)) && dies.all (fun d => s.joined d (dieOfPort (l % 64)))
    | [] => false)
  if s.flag F.FAB_SELF_CONVERGED 0 then rs else rs.take 1

/-- The job entry that admits a request at its source (R443). -/
def Dev.sourceJob (s : Dev) (r : RemReq) (n : Nat) : Option Nat :=
  match r.ctx with
  | none => none
  | some c => (List.range 64).find? (fun j => s.jobLive j && s.fld F.JOB_CFG_PARTITION j == r.part && s.jobRange j c && s.jobMember j n)

/-- The code with which a remote request ends at its source, if it does (R45, R443). -/
def Dev.sourceCode (s : Dev) (r : RemReq) (n : Nat) : Option Resp :=
  if s.ownId.isNone then some .homeAbsent
  else match s.discOf n with
    | none => some .homeAbsent
    | some d =>
      if (s.lsaOf d).isNone || s.flag F.FAB_DEV_LOST n || (s.routesTo [agentGate r.src] n).isEmpty then some .homeAbsent
      else if (s.sourceJob r n).isNone then some .perm else none

/-- The route of a request (R441). -/
def Dev.chooseRoute (s : Dev) (r : RemReq) (n : Nat) : List Nat :=
  match s.fab.opens.find? (fun o => o.dst == n && o.req.src == r.src && o.req.addr / 64 == r.addr / 64) with
  | some o => o.route
  | none =>
    let rs := s.routesTo [agentGate r.src] n
    let cost := fun (x : List Nat) => x.length * s.fabParam 8 + s.queued (x.headD 0 % 64)
    rs.tail.foldl (fun b x => if cost x < cost b then x else b) (rs.headD [])

/-- The data line of a request. -/
def RemReq.line (r : RemReq) : List Byte := bytesAt (List.replicate (r.addr % 64) 0 ++ r.data) 0 64

/-- The number of an integer atomic on the fabric (R444). -/
def AmoFn.fabOp : AmoFn → Nat
  | .swap => 0 | .add => 1 | .and => 2 | .or => 3 | .xor => 4 | .max => 5 | .min => 6 | .maxu => 7 | .minu => 8

/-- TYPE, atomic operation, and data granules of a request. -/
def RemReq.form (r : RemReq) : Nat × Nat × List Byte :=
  let en := leBytes 8 r.mask.toNat ++ List.replicate 24 0
  match r.kind with
  | .wrLine => (2, 0, r.line)
  | .wrPart => (3, 0, en ++ r.line)
  | .atomic (.int fn _) => (4, fn.fabOp, en ++ r.line)
  | .atomic (.fpAdd f) => (4, if f = 0 then 16 else if f = 1 then 17 else 18, en ++ r.line)
  | _ => (1, 0, [])

def Hint.code : Hint → Nat | .normal => 0 | .stream => 1 | .keep => 2 | .last => 3

/-- ROUTE and HOPS of a packet that sets out on a route. -/
def routeField (route : List Nat) : Nat := route.zipIdx.foldl (fun n e => n + e.1 % 64 * 64 ^ e.2) 0

/-- The packet of a request. -/
def Dev.reqPkt (s : Dev) (r : RemReq) (n j txn : Nat) (route : List Nat) : Pkt :=
  let m := r.form
  leBytes 1 m.1 ++ leBytes 1 (m.2.2.length / 32) ++ leBytes 1 (route.length * 8) ++ leBytes 1 (r.hint.code + m.2.1 * 4)
    ++ leBytes 2 (s.fld F.FAB_SELF_DEVICE_ID 0) ++ leBytes 2 n ++ leBytes 5 (routeField route)
    ++ leBytes 1 (if s.isVault r.part then 8 else 0) ++ leBytes 2 (s.fld F.JOB_CFG_JOB j)
    ++ leBytes 6 (bitsOf r.addr 0 45 / 64 * 64) ++ leBytes 2 0 ++ leBytes 4 txn ++ leBytes 2 (r.ctx.getD 0) ++ leBytes 2 0 ++ m.2.2

/-- The first remote request that waits leaves: answered here, or sent as a packet. -/
def Dev.packetSend (s : Dev) : Dev :=
  match s.remQ with
  | [] => s
  | r :: rest =>
    let s := { s with remQ := rest }
    let n := bitsOf r.addr 45 10
    match s.localForm r.addr with
    | some a =>
      let x := s.access ⟨r.kind, a / 64, r.src, 0, some r.part, r.ctx, r.hint, lineOf r.line, r.mask⟩
      match x.1 with
      | some (code, d) => x.2.remoteAnswer r code (some (lineBytes d))
      | none => { s with remQ := rest ++ [r] }
    | none =>
      match s.sourceCode r n with
      | some code => s.remoteAnswer r code none
      | none =>
        let j := (s.sourceJob r n).getD 0
        let route := s.chooseRoute r n
        let txn := s.fab.txn
        let o : OpenTxn := ⟨txn, n, route, r⟩
        let p := s.reqPkt r n j txn route
        let s := { s with remSent := s.remSent ++ [r], fab := { s.fab with txn := (txn + 1) % 2 ^ 32, opens := s.fab.opens ++ [o] } }
        s.sendOn (route.headD 0 % 64) p

def execFabricPacketSend (s : State) : Host.Outcome State Fault Refusal := s.after s.dev.packetSend

/-! Packets in transit (R441). -/

/-- A packet crosses this device: another hop of its route remains. -/
def transits (p : Pkt) : Bool := pktClass p != 2 && decide (pktHop p + 1 < pktHops p)

/-- A packet in transit goes on by its ROUTE. One that leaves on the other I/O die crosses the compute dies by the die route (R27); while
no way leads there it stays at the port it came in by (log entry 98). -/
def Dev.packetForward (t : Dev) (f : Nat) : Dev :=
  match t.takeInbox f transits with
  | none => t
  | some (p, s) =>
    let i := pktHop p + 1
    let p' := bytesAt p 0 2 ++ leBytes 1 (fieldAt p 2 1 + 1) ++ p.drop 3
    let out := pktRoute p i
    if s.joined (dieOfPort f) (dieOfPort out) then (s.sendOn out p').idleFrame f else t

def execFabricPacketForward (f : FPort) (s : State) : Host.Outcome State Fault Refusal := s.after (s.dev.packetForward f)

/-! Requests served (R443, R444). -/

/-- The entry that admits a packet at its target. -/
def Dev.targetJob (s : Dev) (p : Pkt) : Option Nat :=
  (List.range 64).find? (fun j => s.jobLive j && s.fld F.JOB_CFG_JOB j == pktJob p && s.flag F.JOB_CFG_INBOUND j && s.jobMember j (pktSrc p))

/-- An address lies in a partition's NEAR window, HOSTMEM or pads. -/
def Dev.placeOf (s : Dev) (a : Nat) : Option Nat :=
  match s.place a with
  | .near q _ _ => some q
  | .host o _ => o
  | .pad q _ _ => some q
  | _ => none

/-- The partition and context for which a packet is served, where it is admitted. -/
def Dev.admittedFor (s : Dev) (p : Pkt) : Option (Nat × Nat) :=
  match s.targetJob p with
  | none => none
  | some j =>
    let q := s.fld F.JOB_CFG_PARTITION j
    if s.placeOf (pktAddr p) == some q && pktSealed p == s.isVault q then some (q, s.fld F.JOB_RANGE_CTX_FIRST j) else none

/-- The operation an ATOMIC packet asks for. -/
def fabAtom (op mask : Nat) : AtomOp :=
  let w := (atomWidth mask).getD 8
  match op with
  | 0 => .int .swap w | 1 => .int .add w | 2 => .int .and w | 3 => .int .or w | 4 => .int .xor w | 5 => .int .max w | 6 => .int .min w
  | 7 => .int .maxu w | 8 => .int .minu w | 16 => .fpAdd 0 | 17 => .fpAdd 1 | _ => .fpAdd 10

/-- The home request of line i of a packet that came in on an I/O die. -/
def pktReq (die : Nat) (p : Pkt) (i part ctx : Nat) : Req :=
  let hint := [Hint.normal, .stream, .keep, .last].getD (bitsOf (fieldAt p 3 1) 0 2) .normal
  let line := pktAddr p / 64 + i
  let mask := fieldAt p 32 8
  match pktType p with
  | 2 => ⟨.wrLine, line, .fabric die, 0, some part, some ctx, hint, lineOf (bytesAt p (32 + 64 * i) 64), fullMask⟩
  | 3 => ⟨.wrPart, line, .fabric die, 0, some part, some ctx, hint, lineOf (bytesAt p 64 64), BitVec.ofNat 64 mask⟩
  | 4 => ⟨.atomic (fabAtom (bitsOf (fieldAt p 3 1) 2 6) mask), line, .fabric die, 0, some part, some ctx, hint, lineOf (bytesAt p 64 64), BitVec.ofNat 64 mask⟩
  | _ => ⟨.rdOnce, line, .fabric die, 0, some part, some ctx, hint, 0, 0⟩

/-- The lines of a packet served: a code and the line delivered for each, or none where a home must wait. -/
def Dev.serveLines (s : Dev) (die : Nat) (p : Pkt) (part ctx : Nat) : List Nat → Option (List (Resp × Line)) × Dev
  | [] => (some [], s)
  | i :: is =>
    let x := s.request (pktReq die p i part ctx)
    match x.1 with
    | none => (none, s)
    | some a =>
      let t := x.2.serveLines die p part ctx is
      match t.1 with
      | some l => (some (a :: l), t.2)
      | none => (none, s)

/-- The answer's data: the line read, or the old field in place. -/
def answerLine (p : Pkt) (a : Resp × Line) : List Byte :=
  if a.1 != .ok then List.replicate 64 0
  else if pktType p = 4 then lineBytes (mergeLine (BitVec.ofNat 64 (fieldAt p 32 8)) 0 a.2)
  else lineBytes a.2

/-- DATA rather than COMP answers a packet. -/
def answersData (p : Pkt) : Bool := pktType p == 1 || (pktType p == 4 && decide (bitsOf (fieldAt p 3 1) 2 6 ≤ 8))

/-- The answer of a packet: from this device, to its source, on a route of its own table. -/
def Dev.answerPkt (s : Dev) (die : Nat) (p : Pkt) (as : List (Resp × Line)) : Dev :=
  let rs := s.routesTo [die] (pktSrc p)
  match rs with
  | [] => s
  | r0 :: rest =>
    let cost := fun (x : List Nat) => x.length * s.fabParam 8 + s.queued (x.headD 0 % 64)
    let route := rest.foldl (fun b x => if cost x < cost b then x else b) r0
    let codes := as.zipIdx.foldl (fun n e => n + e.1.1.num * 16 ^ e.2) 0
    let data := if answersData p then as.flatMap (answerLine p) else []
    let q := leBytes 1 (if answersData p then 0x11 else 0x10) ++ leBytes 1 (data.length / 32) ++ leBytes 1 (route.length * 8 + 64) ++ leBytes 1 0
      ++ leBytes 2 (s.fld F.FAB_SELF_DEVICE_ID 0) ++ leBytes 2 (pktSrc p) ++ leBytes 5 (routeField route)
      ++ leBytes 1 (fieldAt p 0xD 1 &&& 11) ++ leBytes 2 (pktJob p) ++ leBytes 6 (pktAddr p) ++ leBytes 2 codes ++ leBytes 4 (pktTxn p)
      ++ leBytes 4 0 ++ data
    s.sendOn (route.headD 0 % 64) q

/-- A request packet at its target: PERM for one not admitted, else served and answered; it stays while a home must wait. -/
def Dev.serveReq (s : Dev) (f type : Nat) : Dev :=
  match s.takeInbox f (fun p => pktType p == type && !transits p) with
  | none => s
  | some (p, t) =>
    let t := t.idleFrame f
    if s.ownId ≠ some (pktDst p) then t
    else
      let n := List.range (pktLines p)
      match s.admittedFor p with
      | none => (t.count F.FAB_COUNTS_INBOUND_PERM 0 1).answerPkt (dieOfPort f) p (n.map (fun _ => (Resp.perm, (0 : Line))))
      | some (q, c) =>
        let x := t.serveLines (dieOfPort f) p q c n
        match x.1 with
        | none => s
        | some as => x.2.answerPkt (dieOfPort f) p as

def execFabricRd (f : FPort) (s : State) : Host.Outcome State Fault Refusal := s.after (s.dev.serveReq f 1)
def execFabricWr (f : FPort) (s : State) : Host.Outcome State Fault Refusal := s.after (s.dev.serveReq f 2)
def execFabricWrPart (f : FPort) (s : State) : Host.Outcome State Fault Refusal := s.after (s.dev.serveReq f 3)
def execFabricAtomic (f : FPort) (s : State) : Host.Outcome State Fault Refusal := s.after (s.dev.serveReq f 4)

/-! Answers (R445, R449). -/

/-- The response code of a number (R59). -/
def Resp.ofNum : Nat → Resp
  | 0 => .ok | 1 => .dataErr | 2 => .dataLost | 3 => .homeAbsent | 4 => .perm | 5 => .xlate | 6 => .ctxMismatch | _ => .timeout

/-- An answer packet reaches its source: it ends the request of its TXN; one that no request waits for is discarded and counted. -/
def Dev.takeAnswerPkt (s : Dev) (f type : Nat) : Dev :=
  match s.takeInbox f (fun p => pktType p == type && !transits p) with
  | none => s
  | some (p, s) =>
    let s := s.idleFrame f
    match s.fab.opens.find? (fun o => o.txn == pktTxn p && o.dst == pktSrc p) with
    | none => { s with late := SMap.set s.late 0 (SMap.get s.late 0 0 + 1) }
    | some o =>
      let s := { s with fab := { s.fab with opens := s.fab.opens.filter (fun x => x.txn != o.txn) } }
      s.remoteAnswer o.req (Resp.ofNum (bitsOf (fieldAt p 0x16 2) 0 4)) (if type = 0x11 then some (bytesAt p 32 64) else none)

def execFabricComp (f : FPort) (s : State) : Host.Outcome State Fault Refusal := s.after (s.dev.takeAnswerPkt f 0x10)
def execFabricData (f : FPort) (s : State) : Host.Outcome State Fault Refusal := s.after (s.dev.takeAnswerPkt f 0x11)

/-! DNF (R450, R451). -/

/-- A write to FAB_DNF_RAISE. -/
def Dev.writeDnfRaise (s : Dev) (w : Word) : Dev :=
  let job := F.FAB_DNF_RAISE_JOB.get w
  match (List.range 64).find? (fun j => s.flag F.JOB_CFG_VALID j && s.fld F.JOB_CFG_JOB j == job) with
  | some j => s.dnfRaise j 1 0
  | none => s

def execFabDnfRaise (who : Who) (job : BitVec 16) (s : State) : Host.Outcome State Fault Refusal :=
  s.after (s.dev.asWriter who ⟨.FAB_DNF_RAISE, 0⟩ (job.setWidth 64) (fun d w => d.writeDnfRaise w))

/-- A DNF packet taken. -/
def Dev.dnfPacket (s : Dev) (f : Nat) (p : Pkt) : Dev :=
  let g := granule p 0
  if !allZero (bytesAt g 12 20) then s.violation f F.PORT_VIOL_PACKET else s.dnfTake (dnfOf g) (some f)

def execDnf (f : FPort) (s : State) : Host.Outcome State Fault Refusal := s.after (s.dev.ctlTake f 0x24 (fun d p => d.dnfPacket f p))

/-- A write to JOB_CFG_j: SEALED follows PARTITION (R443). -/
def Dev.writeJobCfg (s : Dev) (j : Nat) (w : Word) : Dev :=
  let s := s.storeReg ⟨.JOB_CFG, j⟩ w
  s.setFlag F.JOB_CFG_SEALED j (s.isVault (s.fld F.JOB_CFG_PARTITION j))

end Sys2Proof.Machine
end

