-- ==== Sys2Proof/Machine/Gx.lean ====
section
/-! DEFINITION. The Gauntlet (R485–R500): policies, releases with withholding and noise, sealed exports and imports, the destination
ring, the noise sources. -/

namespace Sys2Proof.Machine

open Sys2Proof

/-! The policy (R485, R487). -/

def polMinN (pol : List Byte) : Nat := fieldAt pol 0x58 8
def polPHund (pol : List Byte) : Nat := fieldAt pol 0x60 2
def polMech (pol : List Byte) : Nat := fieldAt pol 0x62 1
def polMask (pol : List Byte) : Nat := fieldAt pol 0x63 1
def polNum (pol : List Byte) : Nat := fieldAt pol 0x64 4
def polDen (pol : List Byte) : Nat := fieldAt pol 0x68 4
def polMaxTop (pol : List Byte) : Nat := fieldAt pol 0x70 16
def polCost (pol : List Byte) : Nat := fieldAt pol 0x80 8

/-- The checks of a policy. -/
def policyOk (pol : List Byte) : Bool :=
  let pub := bytesAt pol 0x10 56
  pol.length == 1776
    && bytesAt pol 0 4 == [0x50, 0x4F, 0x4C, 0x59] && fieldAt pol 4 2 == 1
    && fieldAt pol 6 2 == 0 && fieldAt pol 0x6C 4 == 0 && fieldAt pol 0x90 16 == 0 && fieldAt pol 0x6EC 4 == 0
    && decide (polMask pol < 64) && (!bitOf (polMask pol) 5 || bitOf (polMask pol) 4)
    && decide (polMech pol ≤ 2) && decide (polPHund pol ≤ 10000)
    && (if polMech pol = 0 then polNum pol == 0 && polDen pol == 0 else polNum pol != 0 && polDen pol != 0)
    && lmsVerify 7 15 pub (bytesAt pol 0 0xA0) (bytesAt pol 0xA0 1612)

/-- Both channels verify the policy of a vault's record; where their verdicts differ it is refused (R487, R105). -/
def Dev.judgePolicy (s : Dev) (p : Nat) (pol : List Byte) (differ : Bool) : Dev :=
  let ok := policyOk pol && !differ
  let x := SMap.get s.vaults .init p
  let s := { s with vaults := SMap.set s.vaults p { x with policy := if ok then some pol else none, refused := !ok } }
  let s := if differ then s.report ⟨6, 9, some p, 19, 2, none, 0, p⟩ else s
  if ok then s else s.setFlag F.BOOT_STATUS_POLICY_REFUSED 0 true

/-! Noise (R492). -/

/-- Bit n of a stream: blocks of the cipher over a counter of cell, value and block number, byte 0 first, low bits first. -/
def noiseBit (ks : List (List Nat)) (c v n : Nat) : Nat :=
  let blk := aesBlock ks (leBytes 16 (c + v * 2 ^ 64 + (n / 128) * 2 ^ 72))
  bitsOf (fieldAt blk (n % 128 / 8) 1) (n % 8) 1

/-- k bits of a stream from a place, first bit least significant. -/
def noiseBits (bit : Nat → Nat) (pos k : Nat) : Nat := (List.range k).foldl (fun x i => x + bit (pos + i) * 2 ^ i) 0

/-- Bits that m − 1 takes. -/
def bitLength (n : Nat) : Nat := if n = 0 then 0 else Nat.log2 n + 1

/-- A sample and the place in the stream after it; none where the repetitions run past a bound. -/
abbrev Sample (α : Type) := Option (α × Nat)

/-- Repetitions that a sampler makes at most in the model. -/
def sampleBound : Nat := 2 ^ 64

def uniformAt (bit : Nat → Nat) (m : Nat) : Nat → Nat → Sample Nat
  | 0, _ => none
  | f + 1, pos =>
    let k := bitLength (m - 1)
    let x := noiseBits bit pos k
    if x < m then some (x, pos + k) else uniformAt bit m f (pos + k)

def bernAt (bit : Nat → Nat) (n d pos : Nat) : Sample Bool :=
  (uniformAt bit d sampleBound pos).map (fun r => (decide (r.1 < n), r.2))

/-- The count of the last loop of bexp. -/
def bexpTail (bit : Nat → Nat) (n d : Nat) : Nat → Nat → Nat → Sample Bool
  | 0, _, _ => none
  | f + 1, k, pos =>
    match bernAt bit n (d * k) pos with
    | none => none
    | some (true, pos) => bexpTail bit n d f (k + 1) pos
    | some (false, pos) => some (k % 2 == 1, pos)

/-- True with probability exp(−n/d): bexp(1, 1) once for each d that n exceeds. -/
def bexpAt (bit : Nat → Nat) (d : Nat) : Nat → Nat → Nat → Sample Bool
  | 0, _, _ => none
  | f + 1, n, pos =>
    if n > d then
      match bexpTail bit 1 1 sampleBound 1 pos with
      | none => none
      | some (false, pos) => some (false, pos)
      | some (true, pos) => bexpAt bit d f (n - d) pos
    else bexpTail bit n d sampleBound 1 pos

/-- How many times in succession bexp(1, 1) holds. -/
def runAt (bit : Nat → Nat) : Nat → Nat → Nat → Sample Nat
  | 0, _, _ => none
  | f + 1, v, pos =>
    match bexpAt bit 1 sampleBound 1 pos with
    | none => none
    | some (true, pos) => runAt bit f (v + 1) pos
    | some (false, pos) => some (v, pos)

/-- The discrete Laplace sampler. -/
def dlapAt (bit : Nat → Nat) (t d : Nat) : Nat → Nat → Sample Int
  | 0, _ => none
  | f + 1, pos =>
    match uniformAt bit t sampleBound pos with
    | none => none
    | some (u, pos) =>
      match bexpAt bit t sampleBound u pos with
      | none => none
      | some (false, pos) => dlapAt bit t d f pos
      | some (true, pos) =>
        match runAt bit sampleBound 0 pos with
        | none => none
        | some (v, pos) =>
          let y := (u + t * v) / d
          match bernAt bit 1 2 pos with
          | none => none
          | some (b, pos) => if b && y == 0 then dlapAt bit t d f pos else some (if b then -(y : Int) else (y : Int), pos)

/-- The discrete Gaussian sampler of variance a / d. -/
def dgaussAt (bit : Nat → Nat) (a d : Nat) : Nat → Nat → Sample Int
  | 0, _ => none
  | f + 1, pos =>
    let t := 1 + Nat.sqrt (a / d)
    match dlapAt bit t 1 sampleBound pos with
    | none => none
    | some (y, pos) =>
      let g := (y.natAbs * t * d : Int) - a
      match bexpAt bit (2 * a * t * t * d) sampleBound (g * g).natAbs pos with
      | none => none
      | some (true, pos) => some (y, pos)
      | some (false, pos) => dgaussAt bit a d f pos

/-- noise(c, v) under a policy. -/
def gxNoise (ks : List (List Nat)) (pol : List Byte) (c v : Nat) : Int :=
  let bit := noiseBit ks c v
  let r := if polMech pol = 1 then dlapAt bit (polNum pol) (polDen pol) sampleBound 0 else dgaussAt bit (polNum pol) (polDen pol) sampleBound 0
  if polMech pol = 0 then 0 else match r with | some x => x.1 | none => Config.lateNoise c v

/-! Cells (R491). -/

/-- A released value, which is never WITHHELD. -/
def gxSat (x : Int) : Int := max (-(2 ^ 127 : Nat) + 1) (min x ((2 ^ 127 : Nat) - 1))
def withheld : List Byte := int128 (-(2 ^ 127 : Nat))

/-- A two's-complement value of n bytes at an offset. -/
def intAt (bs : List Byte) (off n : Nat) : Int :=
  let v := fieldAt bs off n
  if v < 2 ^ (8 * n - 1) then (v : Int) else (v : Int) - (2 ^ (8 * n) : Nat)

/-- Whether a cell is withheld: its bit of the bitmap, and the tests of the policy. -/
def gxWithholds (pol : List Byte) (mag : Nat) (cell : List Byte) (marked : Bool) : Bool :=
  let n := fieldAt cell 0 8
  let t1 := fieldAt cell 0x10 16
  let t2 := fieldAt cell 0x20 16
  marked || decide (n < polMinN pol)
    || (polPHund pol != 0 && decide (10000 * (intAt cell (0x30 + 16 * mag) 16 - t1 - t2) < (polPHund pol : Int) * t1))
    || (polMaxTop pol != 0 && decide (t1 > polMaxTop pol))

/-- The bytes of an output cell. -/
def gxCell (ks : List (List Nat)) (pol hdr : List Byte) (c : Nat) (cell : List Byte) (marked : Bool) : List Byte :=
  let nval := fieldAt hdr 5 1
  let keyB := fieldAt hdr 4 1
  let m := polMask pol
  let key := bytesAt cell (0x30 + 16 * nval) (8 * ceilDiv keyB 8)
  if gxWithholds pol (fieldAt hdr 6 1) cell marked then (List.replicate (nval + 1) withheld).flatten ++ key
  else
    let n := if bitOf m 4 then gxSat ((fieldAt cell 0 8 : Int) + (if bitOf m 5 then gxNoise ks pol c 4 else 0)) else 0
    int128 n ++ (List.range nval).flatMap (fun v =>
      int128 (gxSat (intAt cell (0x30 + 16 * v) 16 + (if bitOf m v then gxNoise ks pol c v else 0)))) ++ key

/-! The destination ring (R495). -/

/-- The destination of a vault takes writes: VF Enable and the VF's Bus Master Enable are set. -/
def Dev.gxPath (s : Dev) (p : Nat) : Bool :=
  match s.partRec p with
  | some r => r.vf != 0 && s.flag F.PCI_STATUS_VF_ENABLE 0 && (s.fn (r.vf + 1)).bme
  | none => false

def Dev.vault (s : Dev) (p : Nat) : VaultSt := SMap.get s.vaults .init p
def Dev.setOp (s : Dev) (p : Nat) (o : Option GxOp) : Dev := { s with vaults := SMap.set s.vaults p { s.vault p with op := o } }

/-- The state of a vault in channel A and channel B. -/
def Dev.setGxState (s : Dev) (p v : Nat) : Dev := (s.setFld F.GX_STATUS_STATE p v).setFld F.GXB_STATUS_STATE p v

/-- The next operation of a seal is numbered, in both channels. -/
def Dev.gxNext (s : Dev) (p : Nat) : Dev := (s.bump F.GX_STATUS_SEQ p 1).bump F.GXB_STATUS_SEQ p 1

/-- The function code of a vault's VF. -/
def Dev.vaultFn (s : Dev) (p : Nat) : Nat := match s.partRec p with | some r => r.vf + 1 | none => 0

/-- The operation of a vault ends: RESULT, in channel B too where it took part, as it does in all but an import (R499; log entry 113);
SEALED unless BLOCKED, the guard off, the MSI-X. -/
def Dev.gxEnd (s : Dev) (p result : Nat) : Dev :=
  let s := if (s.vault p).op.any (fun o => o.kind == 2) then s else s.setFld F.GXB_STATUS_RESULT p result
  let s := ({ s with gxGuard := SMap.del s.gxGuard p } : Dev).setOp p none
  let s := if s.fld F.GX_STATUS_STATE p = 2 then s.setGxState p 1 else s
  ((s.setFld F.GX_STATUS_RESULT p result).setFlag F.GX_CTRL_GO p false).msixRaise (s.vaultFn p) 0

/-- Blocks of the ring that are free, of 64 bytes. -/
def Dev.gxRoom (s : Dev) (p : Nat) : Nat :=
  2 ^ (6 + s.fld F.GX_DEST_CFG_SIZE p) - (s.fld F.GX_DEST_POS_POSITION p + 2 ^ 32 - s.fld F.GX_DEST_CFG_HEAD p) % 2 ^ 32

/-- Blocks of the stream written upstream while the ring has room, in writes that cross neither 512 bytes nor a page. -/
def Dev.gxWrite (s : Dev) (p : Nat) (o : GxOp) : Nat → GxOp × Dev
  | 0 => (o, s)
  | n + 1 =>
    let pos := s.fld F.GX_DEST_POS_POSITION p
    let k := min (min ((o.stream.length - o.written) / 64) (s.gxRoom p)) (min 8 (64 - pos % 64))
    if k = 0 then (o, s)
    else
      let a := s.fld F.GX_DEST_BASE_BASE p * 4096 + pos % 2 ^ (6 + s.fld F.GX_DEST_CFG_SIZE p) * 64
      let s := (s.emit (.posted (s.vaultFn p - 1) a (bytesAt o.stream o.written (64 * k)))).setFld F.GX_DEST_POS_POSITION p ((pos + k) % 2 ^ 32)
      s.gxWrite p { o with written := o.written + 64 * k } n

/-- What the operation of a vault has to write is written as far as the ring and the port let it; a stream written whole ends the
operation, a lost path ends it with NO_PATH and no trailer (R497). -/
def Dev.gxPump (s : Dev) (p : Nat) : Dev :=
  match (s.vault p).op with
  | none => s
  | some o =>
    if o.stream.length < o.written + 64 then s
    else if !s.gxPath p then s.gxEnd p 2
    else
      let x := s.gxWrite p o (o.stream.length / 64 + 1)
      match x.1.fin with
      | some r => if x.1.written ≥ x.1.stream.length then x.2.gxEnd p r else x.2.setOp p (some x.1)
      | none => x.2.setOp p (some x.1)

/-- The trailer of a stream (R495), after zeros up to a whole block. -/
def withTrailer (stream : List Byte) (result seq : Nat) : List Byte :=
  let body := stream ++ List.replicate ((64 - stream.length % 64) % 64) 0
  body ++ leBytes 2 0x4758 ++ [1, 3] ++ leBytes 1 result ++ [0, 0, 0] ++ leBytes 8 seq ++ leBytes 8 body.length ++ List.replicate 8 0 ++ sha256 body

/-- Nothing more is produced: the trailer closes the stream, with the RESULT that GX_STATUS takes at the end. -/
def Dev.gxClose (s : Dev) (p : Nat) (o : GxOp) (trailer result : Nat) : Dev :=
  (s.setOp p (some { o with stream := withTrailer o.stream trailer (s.fld F.GX_STATUS_SEQ p), fin := some result })).gxPump p

/-- The channels disagree (R479, R493). -/
def Dev.gxBlock (s : Dev) (p : Nat) (o : GxOp) : Dev :=
  let s := ((s.setGxState p 3).setFlag F.GX_STATUS_SAFETY p true).setFlag F.GXB_STATUS_SAFETY p true
  let s := (s.count F.GX_COUNTS_BLOCKED p 1).report ⟨6, 9, some p, 19, 1, none, 0, p⟩
  s.gxClose p o 1 9

/-! Where a range lies. -/

/-- A range of n bytes lies in a partition's NEAR window or in its HOSTMEM. -/
def Dev.rangeOf (s : Dev) (p a n : Nat) : Bool :=
  match s.partRec p, s.localForm a with
  | some r, some b =>
    let near := r.nearBase
    let span := (s.chanList p).length * chanBytes
    let host := hostBase + r.hostOff * 2 ^ 30
    decide (near ≤ b ∧ b + n ≤ near + span) || decide (host ≤ b ∧ b + n ≤ host + r.hostSize * 2 ^ 30)
  | _, _ => false

/-- The first context of a partition. -/
def Dev.firstCtx (s : Dev) (p : Nat) : Option Nat := (s.partRec p).map (·.ctxBase)

/-- A range of a vault read by GX. -/
def Dev.gxRead (s : Dev) (p a n : Nat) : Bulk × Dev := s.bulkRead (.gx p) (some p) (s.firstCtx p) a n

/-! Releases (R491). -/

/-- The header of a record passes the checks of pass 1. -/
def Dev.recordOk (s : Dev) (p src aux : Nat) (h : List Byte) : Bool :=
  let nval := fieldAt h 5 1
  let keyB := fieldAt h 4 1
  let cell := fieldAt h 8 4
  let cells := fieldAt h 0x10 8
  fieldAt h 0 2 == 0x5442 && fieldAt h 2 1 == 1 && bitOf (fieldAt h 3 1) 0 && fieldAt h 0xE 1 == p
    && decide (1 ≤ nval ∧ nval ≤ 4) && decide (1 ≤ keyB ∧ keyB ≤ 32) && cell == 0x30 + 16 * nval + 8 * ceilDiv keyB 8
    && decide (cells < 2 ^ 32) && s.rangeOf p src (64 + cells * cell) && (aux == 0 || s.rangeOf p aux (ceilDiv cells 8))

/-- The header of a release (R495). -/
def Dev.releaseHeader (s : Dev) (p : Nat) (pol h : List Byte) : List Byte :=
  let nval := fieldAt h 5 1
  let m := polMask pol
  let noised := polMech pol != 0 && ((List.range nval).any (bitOf m) || (bitOf m 4 && bitOf m 5))
  leBytes 2 0x4758 ++ [1, 1] ++ leBytes 1 p ++ bytesAt h 4 1 ++ bytesAt h 5 1
    ++ leBytes 1 ((if bitOf m 4 then 1 else 0) + (if noised then 2 else 0)) ++ leBytes 8 (s.fld F.GX_STATUS_SEQ p) ++ bytesAt h 0x10 8
    ++ leBytes 4 (16 * (nval + 1) + 8 * ceilDiv (fieldAt h 4 1) 8) ++ leBytes 4 0 ++ bytesAt pol 8 8
    ++ leBytes 8 (s.vault p).serial ++ leBytes 8 (polCost pol) ++ leBytes 8 (s.fld F.GX_LEDGER_REMAINING p)

/-- The noise key of a release (R492): both channels' seeds and SEQ. -/
def Dev.noiseKey (s : Dev) (p : Nat) : List Byte × Dev :=
  let a := s.drbg 9 32
  let b := a.2.drbg 10 32
  (sha256 (a.1 ++ b.1 ++ leBytes 8 (s.fld F.GX_STATUS_SEQ p)), b.2)

/-- Pass 1 of a release once its header has been read: agree is 0 where the channels' verdicts and ledgers are equal, 1 where a verdict
differs before the debit, 2 where the ledgers differ after it. -/
def Dev.releaseBegin (s : Dev) (p : Nat) (o : GxOp) (h : List Byte) (agree : Nat) : Dev :=
  let pol := (s.vault p).policy.getD []
  if agree = 1 then s.gxBlock p o
  else if !s.recordOk p o.src o.aux h then s.gxClose p o 2 5
  else
    let n := 64 + fieldAt h 0x10 8 * fieldAt h 8 4
    match s.gxRead p o.src n with
    | (.wait, _) => s
    | (.err _, t) => t.gxClose p o 2 6
    | (.bytes all, t) =>
      let tag := hmacSha256 (t.vault p).rtagKey (bytesAt all 0 0x20 ++ List.replicate 32 0 ++ bytesAt all 0x40 (n - 64))
      if tag != bytesAt all 0x20 32 then t.gxClose p o 2 7
      else if t.fld F.GX_LEDGER_REMAINING p < polCost pol then t.gxClose p o 2 8
      else
        let left := t.fld F.GX_LEDGER_REMAINING p - polCost pol
        let s := (t.setFld F.GX_LEDGER_REMAINING p left).setFld F.GXB_LEDGER_REMAINING p left
        let s := (s.gxNext p).count F.GX_COUNTS_RELEASES p 1
        if agree = 2 then s.gxBlock p o
        else
          let k := if polMech pol = 0 then (([] : List Byte), s) else s.noiseKey p
          let s := k.2
          (s.setOp p (some { o with seq := s.fld F.GX_STATUS_SEQ p, hdr := h, nk := k.1, stream := s.releaseHeader p pol h })).gxPump p

/-- The next chunk of a release: 64 cells, with their bits of the bitmap. -/
def Dev.releaseChunk (s : Dev) (p : Nat) (o : GxOp) (agree : Bool) : Dev :=
  let pol := (s.vault p).policy.getD []
  let cells := fieldAt o.hdr 0x10 8
  let size := fieldAt o.hdr 8 4
  let k := min 64 (cells - o.next)
  match s.gxRead p (o.src + 64 + o.next * size) (k * size) with
  | (.wait, _) => s
  | (.err _, t) => t.gxClose p o 2 6
  | (.bytes bs, t) =>
    match (if o.aux = 0 then (Bulk.bytes [], t) else t.gxRead p (o.aux + o.next / 8) (ceilDiv k 8)) with
    | (.wait, _) => s
    | (.err _, t) => t.gxClose p o 2 6
    | (.bytes bm, t) =>
      if !agree then t.gxBlock p o
      else
        let ks := if o.nk.isEmpty then [] else aesKeys o.nk
        let out := (List.range k).flatMap (fun i =>
          gxCell ks pol o.hdr (o.next + i) (bytesAt bs (i * size) size) (o.aux != 0 && bitOf (fieldAt bm (i / 8) 1) (i % 8)))
        let o := { o with next := o.next + k, stream := o.stream ++ out }
        if o.next ≥ cells then t.gxClose p o 0 0 else (t.setOp p (some o)).gxPump p

/-! Exports (R498). -/

def exportKey (vk salt : List Byte) : List Byte := kdf vk "OCT-EXPORT-SALT" salt 32

/-- The 128-byte header of an export. -/
def Dev.exportHeader (s : Dev) (p len : Nat) (salt : List Byte) : List Byte :=
  let pol := (s.vault p).policy.getD []
  leBytes 2 0x4758 ++ [1, 2] ++ leBytes 1 p ++ [0, 0, 0] ++ leBytes 8 (s.fld F.GX_STATUS_SEQ p) ++ leBytes 8 len
    ++ leBytes 8 (s.fld F.FAB_DISC_ID_DISC_ID 0) ++ polLabel pol ++ polOwner pol ++ bytesAt salt 0 32 ++ List.replicate 16 0

/-- The start of an export. -/
def Dev.exportBegin (s : Dev) (p : Nat) (o : GxOp) (agree : Bool) : Dev :=
  if !agree then s.gxBlock p o
  else if o.len % 64 ≠ 0 ∨ o.len < 64 ∨ o.len > 2 ^ 30 ∨ !s.rangeOf p o.src o.len then s.gxClose p o 2 5
  else
    let x := s.drbg 9 32
    let s := x.2.gxNext p
    (s.setOp p (some { o with seq := s.fld F.GX_STATUS_SEQ p, salt := x.1, stream := s.exportHeader p o.len x.1 })).gxPump p

/-- The next 4 KiB of an export; the tag follows the last. -/
def Dev.exportChunk (s : Dev) (p : Nat) (o : GxOp) (agree : Bool) : Dev :=
  let k := min 4096 (o.len - o.next)
  match s.gxRead p (o.src + o.next) k with
  | (.wait, _) => s
  | (.err _, t) => t.gxClose p o 2 6
  | (.bytes bs, t) =>
    if !agree then t.gxBlock p o
    else
      let ks := aesKeys (exportKey (t.vault p).vaultKey o.salt)
      let iv := List.replicate 12 (0 : Byte)
      let ct := (List.range (ceilDiv k 16)).flatMap (fun i =>
        List.zipWith (· ^^^ ·) ((bs.drop (16 * i)).take 16) (aesBlock ks (iv ++ beBytes 4 (o.next / 16 + i + 2))))
      let o := { o with next := o.next + k, stream := o.stream ++ ct }
      if o.next ≥ o.len then
        t.gxClose p { o with stream := o.stream ++ gcmTag ks iv (o.stream.take 128) (o.stream.drop 128) } 0 0
      else (t.setOp p (some o)).gxPump p

/-! Imports (R499). -/

/-- The header of a container matches the vault. -/
def Dev.importOk (s : Dev) (p : Nat) (o : GxOp) (h : List Byte) : Bool :=
  let pol := (s.vault p).policy.getD []
  let len := fieldAt h 0x10 8
  fieldAt h 0 2 == 0x4758 && bytesAt h 2 2 == [1, 2] && fieldAt h 0x18 8 == s.fld F.FAB_DISC_ID_DISC_ID 0
    && bytesAt h 0x20 16 == polLabel pol && bytesAt h 0x30 32 == polOwner pol
    && len % 64 == 0 && o.len == 192 + len && s.rangeOf p o.src o.len && s.rangeOf p o.aux len

/-- The whole of an import: channel A alone, nothing on the ring. -/
def Dev.importRun (s : Dev) (p : Nat) (o : GxOp) : Dev :=
  if !s.rangeOf p o.src o.len || decide (o.len < 192) then s.gxEnd p 5
  else match s.gxRead p o.src 128 with
    | (.wait, _) => s
    | (.err _, t) => t.gxEnd p 6
    | (.bytes h, t) =>
      if !t.importOk p o h then t.gxEnd p 5
      else
        let len := o.len - 192
        match t.gxRead p (o.src + 128) (len + 16) with
        | (.wait, _) => s
        | (.err _, t) => t.gxEnd p 6
        | (.bytes bs, t) =>
          let key := exportKey (t.vault p).vaultKey (bytesAt h 0x50 32)
          let pt := gcmOpen key (List.replicate 12 0) h (bs.take len) (bytesAt bs len 16)
          match t.bulkWrite (.gx p) (some p) (t.firstCtx p) o.aux (pt.getD (List.replicate len 0)) with
          | (.wait, _) => s
          | (.err _, t) => t.gxEnd p 6
          | (.bytes _, t) => t.gxEnd p (if pt.isSome then 0 else 10)

/-! GO (R489). -/

/-- The bytes of the record and of the bitmap guarded against writes (R490). -/
def Dev.guard (s : Dev) (p : Nat) (o : GxOp) (h : List Byte) : Dev :=
  let cells := fieldAt h 0x10 8
  { s with gxGuard := SMap.set s.gxGuard p ((s.localForm o.src).getD 0, 64 + cells * fieldAt h 8 4,
      (s.localForm o.aux).getD 0, if o.aux = 0 then 0 else ceilDiv cells 8) }

/-- The operation of a vault goes on from where it stands: pass 1, a chunk, or an import; nothing while bytes wait for the ring. -/
def Dev.gxRun (s : Dev) (p agree : Nat) : Dev :=
  match (s.vault p).op with
  | none => s
  | some o =>
    if o.fin.isSome || decide (o.stream.length ≥ o.written + 64) then s
    else if o.kind = 2 then s.importRun p o
    else if !o.stream.isEmpty then (if o.kind = 0 then s.releaseChunk p o (agree == 0) else s.exportChunk p o (agree == 0))
    else if o.kind = 1 then s.exportBegin p o (agree == 0)
    else match s.gxRead p o.src 64 with
      | (.wait, _) => s
      | (.err _, t) => t.gxClose p o 2 6
      | (.bytes h, t) => (t.guard p o h).releaseBegin p o h agree

/-- The RESULT that refuses a GO, checks in order; none where it is accepted. -/
def Dev.gxRefusal (s : Dev) (p kind : Nat) : Option Nat :=
  let st := s.fld F.GX_STATUS_STATE p
  let mech := polMech ((s.vault p).policy.getD [])
  let ill := !s.flag F.NSE_STATUS_HEALTHY 0 || !s.flag F.NSE_STATUS_HEALTHY 1
  if st = 3 then some 11
  else if st = 4 then some 1
  else if s.fld F.GX_DEST_BASE_BASE p = 0 || !s.gxPath p then some 2
  else if s.dieState 10 != 0 || !s.reaches 9 10 then some 4
  else if ((kind = 0 ∧ mech ≠ 0) ∨ kind = 1) ∧ ill then some 3
  else none

/-- A write to GX_CTRL: KIND unless 3, and GO. -/
def Dev.writeGxCtrl (s : Dev) (p agree : Nat) (w : Word) : Dev :=
  let st := s.fld F.GX_STATUS_STATE p
  let k := F.GX_CTRL_KIND.get w
  let s := if k = 3 then s else s.setFld F.GX_CTRL_KIND p k
  if F.GX_CTRL_GO.get w = 0 ∨ st = 2 ∨ st = 0 then s
  else
    let kind := s.fld F.GX_CTRL_KIND p
    match s.gxRefusal p kind with
    | some r => (s.setFld F.GX_STATUS_RESULT p r).count F.GX_COUNTS_REFUSED p 1
    | none =>
      let src := s.fld F.GX_SRC_ADDR p * 64
      let aux := s.fld F.GX_AUX_ADDR p * 64
      let s := (s.setGxState p 2).setFlag F.GX_CTRL_GO p true
      let s := s.setOp p (some ⟨kind, 0, src, aux, s.fld F.GX_LEN_BYTES p, [], 0, [], [], [], 0, none⟩)
      let s := if kind = 0 then { s with gxGuard := SMap.set s.gxGuard p ((s.localForm src).getD 0, 64, 0, 0) } else s
      s.gxRun p agree

/-- A GO of a kind by someone. -/
def Dev.gxGo (s : Dev) (who : Who) (p kind agree : Nat) : Dev :=
  s.asWriter who ⟨.GX_CTRL, p⟩ (BitVec.ofNat 64 (1 + 2 * kind)) (fun d w => d.writeGxCtrl p agree w)

/-- GX_RELEASE: agree says whether the channels' verdicts and ledgers are equal. -/
def execGxRelease (who : Who) (p : VaultIx) (agree : Fin 3) (s : State) : Host.Outcome State Fault Refusal := s.after (s.dev.gxGo who p 0 agree)
/-- GX_EXPORT. -/
def execGxExport (who : Who) (p : VaultIx) (agree : Fin 3) (s : State) : Host.Outcome State Fault Refusal := s.after (s.dev.gxGo who p 1 agree)
/-- GX_IMPORT. -/
def execGxImport (who : Who) (p : VaultIx) (s : State) : Host.Outcome State Fault Refusal := s.after (s.dev.gxGo who p 2 0)

/-- GX_CHUNK (R493): the next chunk, with whether the channels' digests are equal. -/
def execGxChunk (p : VaultIx) (agree : Fin 3) (s : State) : Host.Outcome State Fault Refusal := s.after (s.dev.gxRun p agree)

/-- A write to GX_DEST_CFG: SIZE up to 20, HEAD; what waits for room goes on (R495). -/
def Dev.writeGxDest (s : Dev) (p : Nat) (w : Word) : Dev := (s.storeReg ⟨.GX_DEST_CFG, p⟩ w).gxPump p

def execGxDestHeadWrite (who : Who) (p : VaultIx) (head : BitVec 32) (s : State) : Host.Outcome State Fault Refusal :=
  s.after (s.dev.asWriter who ⟨.GX_DEST_CFG, p⟩ (F.GX_DEST_CFG_HEAD.put (s.dev.reg .GX_DEST_CFG p) head.toNat) (fun d w => d.writeGxDest p w))

/-! The noise sources (R500). -/

/-- A health or known-answer test fails: that NSE stops. -/
def Dev.nseFail (s : Dev) (d which : Nat) : Dev :=
  if s.dieState (9 + d) != 0 then s
  else
    let f := if which = 0 then F.NSE_STATUS_REPETITION_FAIL else if which = 1 then F.NSE_STATUS_PROPORTION_FAIL else F.NSE_STATUS_KAT_FAIL
    ((s.setFlag f d true).setFlag F.NSE_STATUS_HEALTHY d false).report ⟨6, 9 + d, none, 20, 3, none, 0, 9 + d⟩

def execNseHealthFail (d : Fin 2) (which : Fin 3) (s : State) : Host.Outcome State Fault Refusal := s.after (s.dev.nseFail d which)

end Sys2Proof.Machine
end

