-- ==== Sys2Proof/Machine/Power.lean ====
section
/-! DEFINITION. Power (file 19) and the clock dividers (R63, R64): limit levels, the rail and region limiters, VR_ALERT_N, CAPC, the
thermal controller, the thermal trip, the regulators' telemetry. -/

namespace Sys2Proof.Machine

open Sys2Proof

/-! Limit levels (R507). -/

/-- A rail group is forced: its input is low, or has been high for less than the hold (R510). -/
def Dev.forced (s : Dev) (j : Nat) : Bool :=
  s.pins.pwrgood && (s.pwr.alerts.contains j || (SMap.find s.pwr.rising j).isSome)

/-- The groups that force something on a die: its own rail, the stacks' on a compute die, bit 10. -/
def groupsOf (d : Nat) : List Nat := (if d < 8 then [d, 9] else if d = 8 then [8] else []) ++ [10]

/-- The dies that a group forces. -/
def diesOfGroup (j : Nat) : List Nat := (List.range 11).filter (fun d => (groupsOf d).contains j)

def Dev.zone (s : Dev) (z : Nat) : ZoneSt := SMap.get s.pwr.zones .init z
def Dev.setPwr (s : Dev) (x : PwrSt) : Dev := { s with pwr := x }

/-- The level of a region's limiter, as PWR_STATUS holds it. -/
def Dev.regionLevel (s : Dev) (g : Nat) : Nat := bitsOf (s.fld F.PWR_STATUS_REGION_LEVEL (g / 4)) (3 * (g % 4)) 3
def Dev.setRegionLevel (s : Dev) (g v : Nat) : Dev :=
  let w := s.fld F.PWR_STATUS_REGION_LEVEL (g / 4)
  s.setFld F.PWR_STATUS_REGION_LEVEL (g / 4) (w - (bitsOf w (3 * (g % 4)) 3 <<< (3 * (g % 4))) + (v <<< (3 * (g % 4))))

/-- The limit level of a region's engines, of the cores, of a die's routers. -/
def Dev.engineLevel (s : Dev) (g : Nat) : Nat :=
  if s.forced (g / 4) || s.forced 10 then 4
  else max (s.fld F.PWR_STATUS_RAIL_LEVEL (g / 4)) (max (s.regionLevel g) (s.zone g).level)
def Dev.coreLevel (s : Dev) : Nat := if s.forced 8 then 4 else max (s.fld F.PWR_STATUS_RAIL_LEVEL 8) (s.zone 32).level
def Dev.routerLevel (s : Dev) : Nat := if s.forced 10 then 4 else 0

/-! Divider steps (R63, R64, R507). -/

/-- The step that a level asks of CK_ARITH within its limit: none where a finer admission stands for it. -/
def arithStep (level limit : Nat) : Nat :=
  if level = 3 then (if limit = 0 then 0 else 1) else if level ≥ 4 then (if limit < 2 then 0 else 2) else 0
def coreStep (level limit : Nat) : Nat := if level = 0 then 0 else if level ≤ 2 then min 1 limit else min 2 limit
def nocStep (level limit : Nat) : Nat := if level = 4 then min 2 limit else 0

/-- The blocks of a die with a divider of a clock (0 CK_ARITH, 1 CK_CORE, 2 CK_NOC), each with the step that its level asks of it within
the limit: the engines of the die's regions, the cores as one, the routers as one. -/
def Dev.stepsAsked (s : Dev) (d clk : Nat) : List (Nat × Nat) :=
  match clk with
  | 0 => if d < 8 then (List.range 4).map (fun r =>
      (4 * d + r, arithStep (s.engineLevel (4 * d + r)) (s.fld F.CLK_STEP_LIMIT_ARITH_LIMIT d))) else []
  | 1 => if d = 8 then [(32, coreStep s.coreLevel (s.fld F.CLK_STEP_LIMIT_CORE_LIMIT d))] else []
  | _ => [(40 + d, nocStep s.routerLevel (s.fld F.CLK_STEP_LIMIT_NOC_LIMIT d))]

/-- What of CLK_STATUS shows a clock's steps. -/
def stepField : Nat → Fld
  | 0 => F.CLK_STATUS_ARITH_STEP_MAX | 1 => F.CLK_STATUS_CORE_STEP_MAX | _ => F.CLK_STATUS_NOC_STEP_MAX

/-- The new dividers of a die's blocks of one clock take effect (R63): from here on their clocks run at them, and CLK_STATUS shows the
largest. -/
def Dev.dividerStep (s : Dev) (d clk : Nat) : Dev :=
  let asked := s.stepsAsked d clk
  if !s.dieRuns d || asked.isEmpty then s
  else
    (s.setPwr { s.pwr with steps := asked.foldl (fun m b => SMap.set m b.1 b.2) s.pwr.steps }).setFld (stepField clk) d
      ((asked.map (·.2)).foldl max 0)

def execDividerStep (d : DieIx) (clk : Fin 3) (s : State) : Host.Outcome State Fault Refusal := s.after (s.dev.dividerStep d clk)

/-! The rail limiter (R508). -/

/-- L and calm after a tick, from I_tick, the sum of the last 10,000 ticks and the trips. -/
def limiterStep (l calm amps sum peak sust : Nat) : Nat × Nat :=
  if amps > peak ∨ sum > sust * 10000 then (min (l + 1) 4, 0)
  else if 10 * amps ≤ 9 * peak ∧ 10 * sum ≤ 9 * sust * 10000 then
    if calm + 1 = 100 then (l - 1, 0) else (l, calm + 1)
  else (l, 0)

/-- A tick of a die's limiter. -/
def Dev.railTick (s : Dev) (d amps : Nat) : Dev :=
  if !s.dieRuns d || !s.flag F.BOOT_STATUS_LOCKED 0 then s
  else
    let x := SMap.get s.pwr.lims .init d
    let hist := (amps :: x.hist).take 10000
    let sum := hist.sum
    let r := limiterStep (s.fld F.PWR_STATUS_RAIL_LEVEL d) x.calm amps sum (s.fld F.PWR_LIMIT_PEAK_TRIP d) (s.fld F.PWR_LIMIT_SUST_TRIP d)
    let s := s.setPwr { s.pwr with lims := SMap.set s.pwr.lims d ⟨hist, r.2⟩ }
    let s := ((s.setFld F.PWR_STATUS_RAIL_LEVEL d r.1).setFld F.PWR_STATUS_I_TICK d (min amps 1023)).setFld F.PWR_STATUS_A1000 d
      (min (sum / 10000) 1023)
    let s := if sum > s.fld F.PWR_LIMIT_SUST_TRIP d * 10000 then s.setFlag F.PWR_EVENT_SUSTAINED d true else s
    if r.1 ≥ 1 then s.count F.PWR_COUNTS_LIMIT_TICKS d 1 else s

def execRailLimiterTick (d : Fin 9) (amps : Nat) (s : State) : Host.Outcome State Fault Refusal := s.after (s.dev.railTick d amps)

/-! The region limiter (R512). -/

/-- A region's share is compared with its budget: level and calm. -/
def Dev.regionCompare (s : Dev) (g watts : Nat) : Dev :=
  if !s.dieRuns (g / 4) || (s.partOfRegion g).isNone || !s.flag F.BOOT_STATUS_LOCKED 0 then s
  else
    let b := s.fld F.CAPC_REGION_BUDGET_W g
    let l := s.regionLevel g
    let c := SMap.get s.pwr.calm 0 g
    let r : Nat × Nat := if watts > b then (min (l + 1) 4, 0)
      else if 10 * watts ≤ 9 * b then (if c + 1 = 10 then (l - 1, 0) else (l, c + 1)) else (l, 0)
    let raised := if (decide (r.1 > 0) || decide (l > 0)) && !s.pwr.raised.contains g then s.pwr.raised ++ [g] else s.pwr.raised
    (s.setPwr { s.pwr with calm := SMap.set s.pwr.calm g r.2, raised := raised }).setRegionLevel g r.1

def execRegionLimiterCompare (g : RegionIx) (watts : Nat) (s : State) : Host.Outcome State Fault Refusal := s.after (s.dev.regionCompare g watts)

/-! VR_ALERT_N (R510). -/

/-- PWR_STATUS.ALERT of every die follows the groups that force it. -/
def Dev.showAlerts (s : Dev) : Dev :=
  (List.range 11).foldl (fun s d => if s.dieState d = 0 then s.setFlag F.PWR_STATUS_ALERT d ((groupsOf d).any s.forced) else s) s

/-- An assertion accepted: the event of every die it forces, a count where the die is not in reset. -/
def Dev.alertAccept (s : Dev) (j : Nat) : Dev :=
  let s := s.setPwr { s.pwr with rising := SMap.del s.pwr.rising j }
  ((diesOfGroup j).foldl (fun s d =>
    let s := s.setFlag F.PWR_EVENT_ALERT d true
    if s.dieState d = 0 then s.count F.PWR_COUNTS_ALERTS d 1 else s) s).showAlerts

/-- An input goes low: accepted while PWRGOOD is high, else kept for its rise (R561). -/
def Dev.alertAssert (s : Dev) (j : Nat) : Dev :=
  if s.pwr.alerts.contains j then s
  else
    let s := s.setPwr { s.pwr with alerts := s.pwr.alerts ++ [j] }
    if s.pins.pwrgood then s.alertAccept j else s

def execVrAlertAssert (j : DieIx) (s : State) : Host.Outcome State Fault Refusal := s.afterPin (if s.dev.pins.refclk then s.dev.alertAssert j else s.dev)

/-- An input rises: the hold begins. -/
def Dev.alertRise (s : Dev) (j : Nat) : Dev :=
  if !s.pwr.alerts.contains j then s
  else s.setPwr { s.pwr with alerts := s.pwr.alerts.filter (· != j),
                             rising := if s.pins.pwrgood then SMap.set s.pwr.rising j s.time else s.pwr.rising }

def execVrAlertDeassert (j : DieIx) (s : State) : Host.Outcome State Fault Refusal := s.afterPin (if s.dev.pins.refclk then s.dev.alertRise j else s.dev)

/-- The hold of a group ends: the other controls stand again. -/
def Dev.alertRelease (s : Dev) (j : Nat) : Dev :=
  match SMap.find s.pwr.rising j with
  | some _ => (s.setPwr { s.pwr with rising := SMap.del s.pwr.rising j }).showAlerts
  | none => s

def execVrAlertHoldExpire (j : DieIx) (s : State) : Host.Outcome State Fault Refusal := s.afterMgmt (s.dev.alertRelease j)

/-! CAPC (R511, R512). -/

/-- The phase signature of a region's epoch. -/
def Dev.signature (s : Dev) (g : Nat) : Nat :=
  (List.range 8).foldl (fun n k =>
    let c := SMap.get s.pwr.phase 0 (8 * g + k)
    n + (if c = 0 then 0 else if c ≤ 15 then 1 else if c ≤ 255 then 2 else 3) * 4 ^ k) 0

/-- The maximum current of a rail (R553), in amperes. -/
def railAmps (n : Nat) : Nat :=
  if n < 8 then 350 else if n = 8 then 500 else if n < 25 then 20 else if n = 25 then 400 else if n = 26 then 40 else if n < 29 then 120
  else if n < 37 then 60 else if n = 37 then 40 else 12

/-- A rail's mean power over the epoch in watts; a silent regulator counts at its maximum, one not polled in it as last read. -/
def Dev.railPower (s : Dev) (n : Nat) : Nat :=
  if s.flag F.RAIL_STATUS_VR_SILENT n then railAmps n * s.fld F.RAIL_CFG_NOM_MV n / 1000
  else match SMap.find s.pwr.polls n with
    | some (sum, k) => sum / max k 1
    | none => s.fld F.RAIL_STATUS_VR_POUT n

/-- A region has an owner for CAPC: its partition is not being reloaded (R515). -/
def Dev.capcOwned (s : Dev) (g : Nat) : Bool :=
  match s.partOfRegion g with
  | some p => !(s.flag F.RELOAD_STATUS_BUSY 0 && s.fld F.RELOAD_STATUS_PARTITION 0 == p)
  | none => false

/-- The entries of a region after an epoch: that of its signature learns, first in its list, of at most 32. -/
def Dev.learn (s : Dev) (g sig x : Nat) : List Learned :=
  let l := SMap.get s.pwr.learned [] g
  let e := (l.find? (fun e => e.sig == sig)).getD ⟨sig, 0, 0⟩
  let b := s.fld F.CAPC_REGION_BUDGET_W g
  let y : Nat := if s.pwr.raised.contains g then b + b / 10 else x
  let need : Nat := if e.count = 0 then y else ((e.need : Int) + ((y : Int) - e.need) / 4).toNat
  (⟨sig, need, min (e.count + 1) 15⟩ :: l.filter (fun e => e.sig != sig)).take 32

/-- The entry of a region's signature. -/
def Dev.entryOf (s : Dev) (g sig : Nat) : Learned := ((SMap.get s.pwr.learned [] g).find? (fun e => e.sig == sig)).getD ⟨sig, 0, 0⟩

/-- PKG_BUDGET in force. -/
def Dev.packageBudget (s : Dev) : Nat := min (s.fld F.CAPC_CFG_PKG_BUDGET 0) 3400

/-- The end of an epoch, with the mean VDD_ARITH power of every region over it. -/
def Dev.capcEpoch (s : Dev) (watts : List Nat) : Dev :=
  let gs := List.range 32
  let own := gs.filter s.capcOwned
  let s := own.foldl (fun s g => s.setPwr { s.pwr with learned := SMap.set s.pwr.learned g (s.learn g (s.signature g) (watts.getD g 0)) }) s
  let req := fun (s : Dev) (g : Nat) =>
    if !s.capcOwned g then 0
    else
      let e := s.entryOf g (s.signature g)
      if e.count ≥ 4 then e.need else s.fused.capcBudget
  let reqs := gs.map (req s)
  let other := ((List.range 32).map (fun i => s.railPower (8 + i))).sum
  let avail : Int := (s.packageBudget : Int) - other
  let sum := reqs.sum
  let fits := decide ((sum : Int) ≤ avail)
  let budget := fun (r : Nat) =>
    if fits then ((r : Int) + (avail - sum) / (own.length : Int)).toNat else (max (s.fld F.CAPC_CFG_FLOOR_W 0 : Int) ((r : Int) * avail / sum)).toNat
  let s := gs.foldl (fun s g =>
    let r := reqs.getD g 0
    let known := s.capcOwned g && decide ((s.entryOf g (s.signature g)).count ≥ 4)
    let b := if s.capcOwned g then budget r else 0
    (((s.setFld F.CAPC_REGION_SIGNATURE g (s.signature g)).setFld F.CAPC_REGION_BUDGET_W g (min b 4095)).setFld F.CAPC_REGION_NEED_W g
      (min r 4095)).setFlag F.CAPC_REGION_KNOWN g known) s
  let s := ((s.setFld F.CAPC_STATUS_AVAIL_W 0 (min avail.toNat 65535)).setFld F.CAPC_STATUS_OTHER_W 0 (min other 65535)).setFlag
    F.CAPC_STATUS_SCALED 0 (!fits)
  (s.count F.CAPC_STATUS_EPOCHS 0 1).setPwr { s.pwr with phase := [], polls := [], raised := gs.filter (fun g => decide (s.regionLevel g > 0)) }

def execCapcEpoch (watts : List Nat) (s : State) : Host.Outcome State Fault Refusal :=
  shaped (wattsShape watts) (s.after (if s.dev.phase = 7 then s.dev.capcEpoch watts else s.dev))

/-! Thermal control (R513). -/

/-- The zone of a sensor of a die. -/
def zoneOf (d i : Nat) : Nat := if d < 8 then 4 * d + i / 4 else 24 + d
def zonesOf (d : Nat) : List Nat := if d < 8 then [4 * d, 4 * d + 1, 4 * d + 2, 4 * d + 3] else [24 + d]
def dieOfZone (z : Nat) : Nat := if z < 32 then z / 4 else z - 24

/-- The sensors of a die are read: each zone keeps its readings; TMAX and HOTTEST show the hottest. -/
def Dev.thermalSample (s : Dev) (d : Nat) (readings : List Int) : Dev :=
  if !s.dieRuns d then s
  else
    let rs := readings.take (sensorsOf d)
    let s := rs.zipIdx.foldl (fun s r =>
      let z := zoneOf d r.2
      let x := s.zone z
      s.setPwr { s.pwr with zones := SMap.set s.pwr.zones z { x with reads := SMap.set x.reads r.2 r.1 } }) s
    let hot := rs.zipIdx.foldl (fun (m : Int × Nat) r => if r.1 > m.1 then r else m) (rs.headD 0, 0)
    (s.setFld F.THERM_STATUS_TMAX d (min hot.1.toNat 255)).setFld F.THERM_STATUS_HOTTEST d hot.2

def execThermalSample (d : DieIx) (readings : List Int) (s : State) : Host.Outcome State Fault Refusal := shaped (readingsShape d readings) (s.after (s.dev.thermalSample d readings))

/-- A thermal level set; THERMAL_LEVEL shows the highest of the die. -/
def Dev.setThermal (s : Dev) (z v : Nat) : Dev :=
  let d := dieOfZone z
  let s := s.setPwr { s.pwr with zones := SMap.set s.pwr.zones z { s.zone z with level := v } }
  s.setFld F.THERM_STATUS_THERMAL_LEVEL d ((zonesOf d).foldl (fun m z => max m (s.zone z).level) 0)

/-- 10,000 cycles have passed with a sensor at THROTTLE or more. -/
def Dev.thermalRise (s : Dev) (z : Nat) : Dev :=
  let d := dieOfZone z
  let t := s.fld F.THERM_CFG_THROTTLE d
  let x := s.zone z
  if !s.dieRuns d || !s.flag F.BOOT_STATUS_LOCKED 0 || !x.reads.any (fun r => decide (r.2 ≥ (t : Int))) || decide (x.level ≥ 4) then s
  else ((s.setThermal z (x.level + 1)).count F.PWR_COUNTS_THROTTLES d 1).setFlag F.PWR_EVENT_THROTTLE d true

def execThermalLevelRise (z : Fin 33) (s : State) : Host.Outcome State Fault Refusal := s.after (s.dev.thermalRise z)

/-- 10,000 cycles have passed with every sensor at least 3 °C below THROTTLE. -/
def Dev.thermalFall (s : Dev) (z : Nat) : Dev :=
  let d := dieOfZone z
  let t := s.fld F.THERM_CFG_THROTTLE d
  let x := s.zone z
  if !s.dieRuns d || !x.reads.all (fun r => decide (r.2 + 3 ≤ (t : Int))) || x.level == 0 then s
  else s.setThermal z (x.level - 1)

def execThermalLevelFall (z : Fin 33) (s : State) : Host.Outcome State Fault Refusal := s.after (s.dev.thermalFall z)

/-- A sensor reaches TRIP: THERMTRIP_N is latched, with or without REFCLK; MGMT, where it runs, stops every divided clock and captures a
crash record. -/
def Dev.thermtrip (s : Dev) (d : Nat) : Dev :=
  if s.pins.tripped || !s.pins.pwrgood then s
  else
    let s := if s.pins.refclk then s.crash 9 (some d) none none 0 (fun _ => false) else s
    { s with pins := { s.pins with tripped := true, stopped := true } }

def execThermtrip (d : DieIx) (s : State) : Host.Outcome State Fault Refusal := s.afterPin (s.dev.thermtrip d)

/-! Telemetry (R514). -/

/-- A regulator is polled: output voltage in mV, current in tenths of an ampere, power in watts, or no answer. -/
def Dev.pmbusPoll (s : Dev) (n : Nat) (r : Option (Nat × Nat × Nat)) : Dev :=
  if s.phase < 2 then s
  else match r with
    | none => s.setFlag F.RAIL_STATUS_VR_SILENT n true
    | some (v, i, p) =>
      let s := ((s.setFlag F.RAIL_STATUS_VR_SILENT n false).setFld F.RAIL_STATUS_VR_VOUT n (min v 65535)).setFld F.RAIL_STATUS_VR_IOUT n (min i 65535)
      let s := s.setFld F.RAIL_STATUS_VR_POUT n (min p 65535)
      let q := SMap.get s.pwr.polls (0, 0) n
      s.setPwr { s.pwr with polls := SMap.set s.pwr.polls n (q.1 + p, q.2 + 1) }

def execPmbusPoll (n : RailIx) (r : Option (Nat × Nat × Nat)) (s : State) : Host.Outcome State Fault Refusal := s.afterMgmt (s.dev.pmbusPoll n r)

/-! Rail windows (R554). -/

/-- Lowest and highest bound of a rail's window before image lock, in mV. -/
def railWide (n : Nat) : Nat × Nat :=
  if n < 8 then (630, 876) else if n = 8 then (679, 927) else if n < 25 then (989, 1113) else if n = 25 then (698, 804)
  else if n = 26 then (1710, 1890) else if n < 29 then (817, 987) else (737, 866)

/-- The nominal range of a rail (R553). -/
def railNominal (n : Nat) : Nat × Nat :=
  if n < 8 then (650, 850) else if n = 8 then (700, 900) else if n < 25 then (1020, 1080) else if n = 25 then (720, 780)
  else if n = 26 then (1800, 1800) else if n < 29 then (860, 940) else (760, 840)

/-- The tolerance of a rail in percent. -/
def railTol (n : Nat) : Nat := if 26 ≤ n ∧ n < 29 then 5 else 3

/-- The window in force: before lock the wide one, from lock on that of NOM_MV, bounds rounded toward it. -/
def Dev.railWindow (s : Dev) (n : Nat) : Nat × Nat :=
  if s.flag F.BOOT_STATUS_LOCKED 0 then
    let m := s.fld F.RAIL_CFG_NOM_MV n
    (ceilDiv (m * (100 - railTol n)) 100, m * (100 + railTol n) / 100)
  else railWide n

/-- The dies a rail feeds. -/
def diesOfRail (n : Nat) : List Nat :=
  if n < 9 then [n] else if n < 25 then [(n - 9) / 2] else if n < 27 then List.range 11 else if n < 29 then [n - 18] else [n - 29]

end Sys2Proof.Machine
end

