-- ==== Sys2Proof/Machine/Recovery.lean ====
section
/-! DEFINITION. Recovery (file 20): the error log's commands, a die lost and released (R525–R527), the package
quiesce-and-reset (R533), rail samples (R514, R528). -/

namespace Sys2Proof.Machine

open Sys2Proof

/-! The error log. -/

/-- The next report reaches MGMT and is written (R517, R519). -/
def Dev.nextReport (s : Dev) : Dev :=
  match s.reports with
  | [] => s
  | e :: rest => ({ s with reports := rest } : Dev).logEntry e

def execErrorReport (s : State) : Host.Outcome State Fault Refusal := s.afterMgmt s.dev.nextReport

def execElogSafetyClear (who : Who) (s : State) : Host.Outcome State Fault Refusal :=
  s.afterMgmt (s.dev.asWriter who ⟨.ELOG_STATUS, 0⟩ (BitVec.ofNat 64 (2 ^ 33)) (fun d w => d.storeReg ⟨.ELOG_STATUS, 0⟩ w))

/-- A heartbeat of a die reaches MGMT with its snapshot (R523, R529). -/
def Dev.heartbeat (s : Dev) (d : Nat) : Dev :=
  if s.dieAnswers d then s.setDie d { s.die d with lastHb := s.time, snapshot := s.dieSnapshot d } else s

def execHeartbeat (d : DieIx) (s : State) : Host.Outcome State Fault Refusal := s.after (s.dev.heartbeat d)

/-! A die held in reset (R20, R85, R363, R524–R526). -/

/-- A register of the Die domain of a die (R20). -/
def dieClears (d k : Nat) : Bool :=
  match regOfKey k with
  | none => false
  | some r => r.name.domain == .die && match r.unitOf with
    | some (.dieCommon, u) => u == d
    | some (b, u) => b.die u == some d
    | none => false

/-- What the fuses say of a die's links (LINK_STATUS). -/
def Dev.showPartners (s : Dev) (d : Nat) : Dev :=
  (endsOf d).foldl (fun s e =>
    match partnerOf e with
    | some (p, _, f) => (s.setFld F.LINK_STATUS_PARTNER_DIE e p).setFld F.LINK_STATUS_PARTNER_LINK e (f % 16)
    | none => s) s

/-- What becomes of a message in flight when a die goes (R526): its own answers and snoops are discarded, requests and answers of its homes
become HOME_ABSENT, what goes to its requesters is lost. -/
def Dev.netLoses (s : Dev) (d : Nat) (m : NetMsg) : Option NetMsg :=
  let homed := fun (line : Nat) => match s.homeOf line with | some h => dieOfHome h == d | none => false
  let asks := fun (a : Agent) => agentDie a == some d
  match m with
  | .req r => if asks r.src then none else if homed r.line then some (.comp r.src r.line r.tag .homeAbsent) else some m
  | .wbDirty c l _ => if d == 8 then none else if homed l then some (.comp (.core c) l 1 .homeAbsent) else some m
  | .evictClean _ l | .lostNote _ l | .snpShare _ l | .snpInv _ l | .snpAck _ l | .snpData _ l _ =>
    if d == 8 || homed l then none else some m
  | .grant c l => if d == 8 then none else if homed l then some (.comp (.core c) l 0 .homeAbsent) else some m
  | .comp a l t _ => if asks a then none else if homed l then some (.comp a l t .homeAbsent) else some m
  | .data a l t _ _ => if asks a then none else if homed l then some (.comp a l t .homeAbsent) else some m

/-- Requests that the homes of a die had not answered. -/
def Dev.unanswered (s : Dev) (d : Nat) : List Req :=
  (s.homes.filter (fun (h : Nat × HomeSt) => dieOfHome h.1 == d)).flatMap (fun (h : Nat × HomeSt) =>
    ((h.2.opens.map (·.req)).filter (fun r => r.kind != .evict) ++ h.2.queue).filter (fun r => agentDie r.src != some d))

/-- The homes of a die lost: what they had not answered answers HOME_ABSENT; their filters and check entries go, window requests stay
held. -/
def Dev.dropHomes (s : Dev) (d : Nat) : Dev :=
  let rs := s.unanswered d
  let net := s.net.filterMap (s.netLoses d)
  let s := { s with net := net ++ rs.map (fun (r : Req) => NetMsg.comp r.src r.line r.tag .homeAbsent) }
  (s.homes.map (fun (h : Nat × HomeSt) => h.1)).foldl (fun (s : Dev) h =>
    if dieOfHome h = d then (s.setHome h { HomeSt.init with held := (s.home h).held }).setFld F.HOME_STATUS_SF_USED h 0 else s) s

/-- The orphan sweep (R526, R364): no L2 keeps a line homed on the die, and nothing is written back or recorded. -/
def Dev.orphanSweep (s : Dev) (d : Nat) : Dev :=
  (s.l2s.map (·.1)).foldl (fun s n =>
    let gone := ((s.l2 n).lines.map (·.line)).filter (fun l => match s.homeOf l with | some h => dieOfHome h == d | none => false)
    gone.foldl (fun s l => s.l2Drop n l) s) s

/-- A queue of a controller of a reset die is gone; its counts of the words it has met stay (R323). -/
def Dev.dropChans (s : Dev) (d : Nat) : Dev :=
  let mine := fun (c : Nat) => (if c < 256 then c / 32 else 8) == d
  { s with chans := s.chans.map (fun (e : Nat × ChanSt) => if mine e.1 then (e.1, { e.2 with rdq := [], wrq := [], held := [], draining := false, rows := [], done := [] }) else e) }

/-- A queued DIMM write as the loss of the clock leaves it: each byte old or new (R85). -/
def Dev.tornWrite (s : Dev) (q : ChReq) : ChReq × Dev :=
  let r := s.free (2 ^ 256)
  ({ q with mask := q.mask &&& r.1 }, r.2)

/-- The DIMM write queues at the reset of the core die: drained, or, with its clock or VDD_CORE lost, torn byte by byte. -/
def Dev.drainDimms (s : Dev) (torn : Bool) : Dev :=
  (List.range 12).foldl (fun s m =>
    let ctl := 256 + m
    (s.chan ctl).wrq.foldl (fun s q =>
      let x := if torn then s.tornWrite q else (q, s)
      (x.2.performReq ctl x.1).2) s) s

/-- Words of the stacks of a reset compute die whose owner has failed, and whose generation therefore does not advance: unrefreshed, they
hold anything (R526). -/
def Dev.loseStacks (s : Dev) (d : Nat) : Dev :=
  let mine := fun (w : Nat) => decide (w < 2 ^ 38 ∧ w / 2 ^ 35 = d) && (match s.partOfChan (w / 2 ^ 30) with | some p => s.partState p == 5 | none => false)
  (s.mem.wordsWhere mine).foldl (fun s w =>
    let r := s.free (2 ^ 80)
    r.2.putSymbols w (leBytes 10 r.1)) s

/-- The core die's own share of a reset (R361, R363, R416): every L2 is dead; the HOSTMEM homes reclaim, unless the clock or VDD_CORE is
lost, which their release shows; the DIMM queues go; walks and page requests answer XLATE. -/
def Dev.dropCore (s : Dev) (dark : Bool) : Dev :=
  let s := (List.range 64).foldl (fun s n => s.l2Die n) s
  let s := if dark then s else (List.range 16).foldl (fun s i => s.reclaim (32 + i)) s
  let s := s.orderReclaim
  let s := s.drainDimms dark
  let s := s.walks.foldl (fun s w => w.reqs.foldl (fun s q => s.refuse w.ctx q) s) s
  let cs := (s.walks.map (·.cluster)).dedup
  let s := cs.foldl (fun s c => s.setWalks c (s.walks.filter (fun w => w.cluster != c))) s
  let s := s.prs.foldl (fun s e =>
    let s := e.2.waiting.foldl (fun s w => s.refuse w.1 w.2.2.2.2.2) s
    let s := s.setPr e.1 { s.pr e.1 with waiting := [] }
    e.2.entries.foldl (fun s x => s.prFail e.1 x) s) s
  { s with harts := [], files := [], hots := [], wcache := [] }

/-- A partition that touches a die in reset (R281, R526, R117): it enters RESET without a QUIESCE, its L2s flushed where the core die can;
one already in RESET stays, and one that failed does too. -/
def Dev.partLoses (s : Dev) (p : Nat) : Dev :=
  let st := s.partState p
  if st = 1 ∨ st = 2 ∨ st = 3 then
    let s := if st = 1 then s.setPartSt p { s.partSt p with reload := true } else s
    ((s.flushAll p []).enterReset p 4).reportPart p 4 0
  else s

/-- MGMT holds a die in reset (R525): the entry, the state, what the reset clears, the partitions it touches, DIE_DOWN, the crash record.
A die already in reset or DEAD is not reset again (R534). -/
def Dev.dieReset (s : Dev) (d trigger rail : Nat) : Dev :=
  if s.dieState d != 0 then s
  else
    let hit := (List.range 32).filter (fun p => (s.diesOf p).contains d)
    let s := s.logEntry ⟨4, d, none, 0, trigger, none, 0, if trigger = 3 then rail else 0⟩
    let s := (s.setDieState d 1).setFld F.DIE_STATUS_LAST_TRIGGER d trigger
    let s := s.count F.DIE_STATUS_RESETS d 1
    let s := s.crash trigger (some d) none none 0 (· == d)
    let dark := trigger == 1 || (trigger == 3 && rail == 8)
    let s := if d = 8 then s.dropCore dark else s.orphanSweep d
    let s := s.dropHomes d
    let s := (endsOf d).foldl (fun s e => s.linkDown e) s
    let s := if d ≥ 9 then (List.range 24).foldl (fun s i => s.portDown (24 * (d - 9) + i)) s else s
    let s := if d < 8 then s.loseStacks d else s
    let s := hit.foldl (fun s p => s.partLoses p) s
    let s := (s.dropChans d).clearRegs (dieClears d)
    let s := s.showPartners d
    let s := { s with nseUsed := SMap.del s.nseUsed d, scs := SMap.delWhere s.scs (fun g => g / 4 == d), scOut := s.scOut.filter (fun o => o.region / 4 != d)
                      pwr := { s.pwr with lims := SMap.del s.pwr.lims d, zones := SMap.delWhere s.pwr.zones (fun z => dieOfZone z == d),
                                          calm := SMap.delWhere s.pwr.calm (fun g => g / 4 == d)
                                          steps := SMap.delWhere s.pwr.steps (fun b =>
                                            if b < 32 then b / 4 == d else if b = 32 then d == 8 else b == 40 + d) } }
    let s := s.setDie d { s.die d with tries := 0, trigger := trigger, trained := false, dark := dark }
    s.eventAll ⟨0x40, d, 0⟩

/-- A write to DIE_CTRL. -/
def Dev.writeDieCtrl (s : Dev) (d : Nat) (w : Word) : Dev := if F.DIE_CTRL_RESET.get w = 1 then s.dieReset d 4 0 else s

def execDieReset (who : Who) (d : DieIx) (s : State) : Host.Outcome State Fault Refusal :=
  s.afterMgmt (s.dev.asWriter who ⟨.DIE_CTRL, d⟩ 1 (fun s w => s.writeDieCtrl d w))

/-- HB_LIMIT passes without a heartbeat (R521). -/
def Dev.heartbeatLimit (s : Dev) (d : Nat) : Dev := if s.phase ≥ 2 then s.dieReset d 2 0 else s

def execHeartbeatLimitExpire (d : DieIx) (s : State) : Host.Outcome State Fault Refusal := s.afterMgmt (s.dev.heartbeatLimit d)

/-- A partition reset has not reached RESET within its bound (R532). -/
def Dev.forcedReset (s : Dev) (p : Nat) : Dev :=
  if s.partState p = 3 ∧ (s.partSt p).resetAt.isSome then (s.diesOf p).foldl (fun s d => s.dieReset d 4 0) s else s

def execForcedResetExpire (p : PartIx) (s : State) : Host.Outcome State Fault Refusal := s.afterMgmt (s.dev.forcedReset p)

/-! Release of a die (R527). -/

/-- The floor that the image's ROUTE record gives a link end (R101). -/
def Dev.floorOf (s : Dev) (e : Nat) : Option Nat :=
  let ents := (s.boot.records.filter (fun r => r.type == 4)).flatMap (fun r => groups 8 ((r.bytes.length - 16) / 8) (r.bytes.drop 16))
  (ents.find? (fun x => fieldAt x 0 1 == 1 && fieldAt x 1 1 == e / 16 && fieldAt x 2 1 == e % 16)).map (fun x => fieldAt x 3 1)

/-- A die's share of the image in its own registers: the floors of its links, at which a link below leaves service (R79), and the roles of
its ports. -/
def Dev.dieImage (s : Dev) (d : Nat) : Dev :=
  let s := (endsOf d).foldl (fun s e => match s.floorOf e with
    | some v =>
      let s := s.setFld F.LINK_CTRL_MIN_STATE e v
      if s.flag F.LINK_STATUS_IN_SERVICE e && !s.serves e (s.linkState e) then s.setService e false else s
    | none => s) s
  if d ≥ 9 then (List.range 24).foldl (fun s i => s.setFld F.PORT_STATUS_ROLE (24 * (d - 9) + i) (s.portRole (24 * (d - 9) + i))) s else s

/-- Every link of a die to a die that can train has ended its training; the ports of an I/O die have too. -/
def Dev.dieTrained (s : Dev) (d : Nat) : Bool :=
  (endsOf d).all (fun e => !s.pllUp (otherEnd e / 16) || decide (s.linkState e ≥ 2))
    && (d ≥ 8 || (s.die d).trained)
    && (d < 9 || (List.range 24).all (fun i => let f := 24 * (d - 9) + i
        s.portRole f == 0 || (decide (s.portState f ≥ 2))))

/-- Slices of a compute die whose self-test failed are lost (R333). -/
def Dev.loseSlices (s : Dev) (d : Nat) (bad : List Nat) : Dev :=
  bad.foldl (fun s i => let g := 4 * d + i % 4; if s.flag F.SC_STATUS_LOST g then s else s.scLose g) s

/-- The end of a die reset: release once everything has trained, or, when the PLL has failed to relock as often as WD_CFG allows, DEAD, and
every partition that touches the die with it. -/
def Dev.dieRelease (s : Dev) (d : Nat) (relocked : Bool) (bad : List Nat) : Dev :=
  let x := s.die d
  if s.dieState d != 1 then s
  else if !relocked then
    if x.trigger ≠ 1 then s
    else if x.tries + 1 ≥ max 1 (s.fld F.WD_CFG_RELOCK_TRIES 0) then
      let s := s.setDieState d 2
      (List.range 32).foldl (fun s p => if (s.diesOf p).contains d then s.setPartState p 5 else s) s
    else s.setDie d { x with tries := x.tries + 1 }
  else if !s.flag F.CLK_STATUS_PLL_LOCK d || s.pwr.railHold.any (fun n => (diesOfRail n).contains d) || !s.dieTrained d then s
  else
    let s := ((s.dieImage d).setDieState d 0).loseSlices d (if d < 8 then bad else [])
    let s := if d = 8 && x.dark then (List.range 16).foldl (fun s i => s.setFlag F.HOME_STATUS_UNTRACKED (32 + i) true) s else s
    s.showAlerts.eventAll ⟨0x41, d, 0⟩

def execDieRelease (d : DieIx) (relocked : Bool) (bad : List (Fin 4)) (s : State) : Host.Outcome State Fault Refusal :=
  s.after (s.dev.dieRelease d relocked (bad.map (·.val)))

/-! The package reset (R20, R115, R524, R533). -/

/-- A register that a package reset leaves (R20): the Power-on domain, DIE_STATE with its DEAD entries alone. -/
def packageKeeps (k : Nat) : Bool :=
  match regOfKey k with
  | none => false
  | some r => r.name.domain == .powerOn

/-- The rows marked in any pad take their spares (R152). -/
def Dev.padsReset (s : Dev) : Dev := ((s.padMarked.map (· / 16384)).dedup).foldl (fun s c => s.padReset c) s

/-- The device as a package reset leaves it: start-up begins anew, memory keeps its words under generations that have moved on. -/
def Dev.packageReset (s : Dev) : Dev :=
  let dead := (List.range 11).filter (fun d => s.dieState d == 2)
  let s := s.padsReset
  let t : Dev := { Dev.reset with
    time := s.time, draws := s.draws, powerOns := s.powerOns
    regs := s.regs.filter (fun e => packageKeeps e.1)
    mem := s.mem, padTaken := s.padTaken, padAside := s.padAside, padSeat := s.padSeat, applied := s.applied, t2Units := s.t2Units, ugenAll := s.ugenAll, ugen := s.ugen, ugenBase := s.ugenBase, t2Map := s.t2Map
    chans := s.chans.map (fun (e : Nat × ChanSt) => (e.1, { ChanSt.init with ue := e.2.ue, temp := e.2.temp, refresh := e.2.refresh }))
    reports := s.reports
    boot := { BootSt.init with start := s.time }
    fused := s.fused
    dies := s.dies.map (fun e => (e.1, { e.2 with tries := 0, trigger := 0, trained := false, dark := false }))
    att := { s.att with waiting := [], partial_ := [] }
    pwr := { PwrSt.init with alerts := s.pwr.alerts, rising := s.pwr.rising, inWin := s.pwr.inWin, railHold := s.pwr.railHold }
    pins := s.pins, crashes := s.crashes, out := s.out }
  let t := t.setFld F.DIE_STATE_STATE 0 (dead.foldl (fun n d => n + 2 * 4 ^ d) 0)
  (List.range 11).foldl (fun s d => s.showPartners d) t.advanceUgens

/-- A package reset with its trigger: the entry, the crash record, then the reset. -/
def Dev.packageFault (s : Dev) (trigger rail : Nat) : Dev :=
  let s := s.logEntry ⟨5, 9, none, 23, trigger, none, 0, if trigger = 3 then rail else 0⟩
  (s.crash trigger none none none 0 (fun _ => false)).packageReset

/-- The package quiesce-and-reset is asked for (R533): every die stops issuing. -/
def Dev.packageAsk (s : Dev) : Dev := if s.drain.isSome then s else { s with drain := some (s.time, 5, 0xFF) }

/-- A write to RESET_CTRL. -/
def Dev.writeResetCtrl (s : Dev) (w : Word) : Dev :=
  if F.RESET_CTRL_KEY.get w ≠ 0xA5 then s
  else
    let s := (List.range 11).foldl (fun s d => if bitOf (F.RESET_CTRL_DIE.get w) d then s.dieReset d 4 0 else s) s
    if F.RESET_CTRL_PACKAGE.get w = 1 then s.packageAsk else s

def execResetCtrlDie (who : Who) (mask : BitVec 11) (key : BitVec 8) (s : State) : Host.Outcome State Fault Refusal :=
  s.afterMgmt (s.dev.asWriter who ⟨.RESET_CTRL, 0⟩ (BitVec.ofNat 64 (mask.toNat + key.toNat * 2 ^ 24)) (fun d w => d.writeResetCtrl w))

def execResetCtrlPackage (who : Who) (key : BitVec 8) (s : State) : Host.Outcome State Fault Refusal :=
  s.afterMgmt (s.dev.asWriter who ⟨.RESET_CTRL, 0⟩ (BitVec.ofNat 64 (2 ^ 16 + key.toNat * 2 ^ 24)) (fun d w => d.writeResetCtrl w))

/-- The drain ends: queued DIMM writes are performed, the record is captured, the package reset begins. -/
def Dev.drainDone (s : Dev) : Dev :=
  match s.drain with
  | none => s
  | some (_, trigger, _) => ((if s.dieState 8 = 0 then s.drainDimms false else s).dropChans 8).packageFault trigger 0

def execPackageDrainDone (s : State) : Host.Outcome State Fault Refusal := s.afterMgmt s.dev.drainDone

/-! Rail samples (R514, R528, R554). -/

/-- A rail out of its window for three samples: the entry, and the reset of what it feeds, held; VDD_IO asserts FAULT_N alone. -/
def Dev.railReact (s : Dev) (n : Nat) : Dev :=
  let s := s.logEntry ⟨6, 9, none, 23, 5, none, 0, n⟩
  if n = 26 then s
  else
    let s := s.setPwr { s.pwr with railHold := s.pwr.railHold ++ [n] }
    if packageRail n then s.packageFault 3 n else s.dieReset ((diesOfRail n).headD 0) 3 n

/-- A sample of a rail's ADC. -/
def Dev.railSample (s : Dev) (n mv : Nat) : Dev :=
  if s.phase < 2 && !s.pwr.railHold.contains n then s
  else
    let win := s.railWindow n
    let out := decide (mv < win.1 ∨ win.2 < mv)
    let s := (s.setFld F.RAIL_STATUS_ADC_MV n (min mv 4095)).setFlag F.RAIL_STATUS_OUT n out
    if out then
      let run := s.fld F.RAIL_STATUS_RUN n
      let s := s.setPwr { s.pwr with inWin := SMap.set s.pwr.inWin n 0 }
      let s := (diesOfRail n).foldl (fun s d => s.setFlag F.PWR_EVENT_RAIL_OUT d true) s
      let s := s.setFld F.RAIL_STATUS_RUN n (min 3 (run + 1))
      if run = 2 && !s.pwr.railHold.contains n then s.railReact n else s
    else
      let k := SMap.get s.pwr.inWin 0 n + 1
      let s := (s.setFld F.RAIL_STATUS_RUN n 0).setPwr { s.pwr with inWin := SMap.set s.pwr.inWin n (min k 10) }
      if k ≥ 10 then s.setPwr { s.pwr with railHold := s.pwr.railHold.filter (· != n) } else s

def execRailSample (n : RailIx) (mv : Nat) (s : State) : Host.Outcome State Fault Refusal := s.afterMgmt (s.dev.railSample n mv)

end Sys2Proof.Machine
end

