-- ==== Sys2Proof/Machine/Image.lean ====
section
/-! DEFINITION. The Colovi image (file 04): header, records, the checks of R94 in their order, and the configuration that records give a
partition. -/

namespace Sys2Proof.Machine

open Sys2Proof

/-- A check that failed: CODE of BOOT_ERROR, RECORD, ABSENT, DETAIL. -/
structure ImgErr where
  code   : Nat
  record : Nat
  absent : Bool
  detail : Nat
  deriving DecidableEq, Repr

/-- A failure of the header, the source or check 0. -/
def headErr (code : Nat) : ImgErr := ⟨code, 0xFFF, false, 0⟩

/-! Header (R92, R93). -/

def imgFlag (bs : List Byte) (i : Nat) : Bool := bitOf (fieldAt bs 6 2) i
def imgLen (bs : List Byte) : Nat := fieldAt bs 8 4
def imgCount (bs : List Byte) : Nat := fieldAt bs 0xC 2
def imgTarget (bs : List Byte) : Nat := fieldAt bs 0xE 1
def imgSlot (bs : List Byte) : Nat := fieldAt bs 0xF 1
def imgSerial (bs : List Byte) : Nat := fieldAt bs 0x10 8
def imgRollback (bs : List Byte) : Nat := fieldAt bs 0x18 1
def imgRevoke (bs : List Byte) : Nat := fieldAt bs 0x19 1
def imgKey (bs : List Byte) : List Byte := bytesAt bs 0x20 56

/-- Check 1, and what R95 adds to it. -/
def headerGood (bs : List Byte) (part : Bool) : Bool :=
  bytesAt bs 0 6 == [0x43, 0x4F, 0x4C, 0x56, 1, 0] && bitsOf (fieldAt bs 6 2) 2 14 == 0 && imgFlag bs 0 == part
    && decide (0x80 + 1616 ≤ imgLen bs ∧ imgLen bs ≤ if part then 2 ^ 24 else 2 ^ 28) && imgLen bs % 8 == 0
    && decide (1 ≤ imgCount bs ∧ imgCount bs ≤ 4095) && decide (imgTarget bs < if part then 32 else 1) && decide (imgSlot bs < 4)
    && decide (imgRollback bs ≤ 64) && decide (imgRevoke bs < 16) && allZero (bytesAt bs 0x1A 6) && allZero (bytesAt bs 0x58 40)
    && beNat (bytesAt bs 0x20 4) == 7 && beNat (bytesAt bs 0x24 4) == 4 && allZero (bytesAt bs (imgLen bs - 4) 4)
    && !bitOf (imgRevoke bs) (imgSlot bs) && (!part || (!imgFlag bs 1 && imgRevoke bs == 0))

/-- S: the offset just past the last record. -/
def imgEnd (bs : List Byte) : Nat := imgLen bs - 1616

/-! Records: form (R96–R106). -/

/-- The 8-byte entries of a record with their offsets. -/
def ImgRec.entries (r : ImgRec) : List (Nat × List Byte) :=
  ((groups 8 ((r.bytes.length - 16) / 8) (r.bytes.drop 16)).zipIdx).map (fun e => (16 + 8 * e.2, e.1))

/-- A SAFETY entry: its offset, address and value. -/
def ImgRec.loads (r : ImgRec) : List (Nat × Nat × Word) :=
  ((groups 16 ((r.bytes.length - 16) / 16) (r.bytes.drop 16)).zipIdx).map (fun e =>
    (16 + 16 * e.2, fieldAt e.1 0 8, BitVec.ofNat 64 (fieldAt e.1 8 8)))

def ones (w n : Nat) : Nat := ((List.range n).filter (bitOf w)).length

/-- A link window of a die-common block that names no link of its die (R70, R71). -/
def noSuchLink (r : RegId) : Bool :=
  (r.name == .LINK_STATUS || r.name == .LANE_MAP || r.name == .LINK_CTRL || r.name == .LINK_COUNTS || r.name == .LINK_EVENT
    || r.name == .LANE_ERR_LIMIT) && !linkExists r.ix

/-- The register at a CTRL address that a SAFETY entry may set (R104): it holds an RWL field, and neither CLOCK nor ROUTE loads it. -/
def safetyReg (a : Nat) : Option RegId :=
  if a < ctrlBase ∨ ctrlLimit < a then none
  else match ctrlPlace (a - ctrlBase) with
    | .block b u o => match regAt b u o with
      | some r => if r.name.fields.any (fun f => f.acc == .rwl) && r.name != .CLK_STEP_LIMIT && r.name != .LINK_CTRL && !noSuchLink r
          then some r else none
      | none => none
    | _ => none

/-- A value that a SAFETY entry may load: reserved bits zero, each RWL field within its range. -/
def safetyValue (r : RegId) (v : Word) : Bool :=
  let known := r.name.fields.foldl (fun m f => m ||| ((2 ^ f.width - 1) <<< f.lo)) 0
  v.toNat &&& known == v.toNat && r.name.fields.all (fun f =>
    let x := bitsOf v.toNat f.lo f.width
    f.acc != .rwl || decide (f.least ≤ x ∧ x ≤ f.most))

/-- The ordered pairs of distinct dies. -/
def diePairsAll : List (Nat × Nat) := (List.range 11).flatMap (fun a => ((List.range 11).filter (· != a)).map (fun b => (a, b)))
/-- Every link end. -/
def allEnds : List Nat := (List.range 11).flatMap endsOf

/-- The range of a fabric parameter (R453). -/
def paramGood (id v : Nat) : Bool :=
  match id with
  | 1 | 7 => true
  | 2 => decide (v ≤ 1)
  | 3 => decide (v ≤ 2)
  | 4 => decide (2 ≤ v ∧ v ≤ 4)
  | 5 | 8 => decide (v ≤ 65535)
  | 6 | 9 | 10 => v != 0
  | _ => false

/-- Bad offsets of a ROUTE entry. -/
def routeBad (o : Nat) (e : List Byte) : List Nat :=
  let b := fun i => fieldAt e i 1
  match b 0 with
  | 0 =>
    let mids := [b 3, b 4, b 5, b 6]
    let used := mids.takeWhile (· != 0xFF)
    bad (b 1 > 10) (o + 1) ++ bad (b 2 > 10 || b 2 == b 1) (o + 2) ++ bad (used.any (· > 10) || (mids.drop used.length).any (· != 0xFF)) (o + 3)
      ++ bad (b 7 != 0) (o + 7)
  | 1 => bad (b 1 > 10) (o + 1) ++ bad (!(endsOf (b 1)).contains (16 * b 1 + b 2)) (o + 2) ++ bad (b 3 < 2 || b 3 > 4) (o + 3)
      ++ bad (fieldAt e 4 4 != 0) (o + 4)
  | 2 => bad (b 1 == 0 || b 1 > 10) (o + 1) ++ bad (fieldAt e 2 2 != 0) (o + 2) ++ bad (!paramGood (b 1) (fieldAt e 4 4)) (o + 4)
  | _ => [o]

/-- What a ROUTE entry is about: two of KIND 0 or 1 about one pair or one end are one too many. -/
def routeKey (e : List Byte) : Nat × Nat × Nat := (fieldAt e 0 1, fieldAt e 1 1, fieldAt e 2 1)

/-- Bad offsets of a SPARE entry. -/
def spareBad (o : Nat) (e : List Byte) : List Nat :=
  let b := fun i => fieldAt e i 1
  match b 0 with
  | 0 => bad (b 1 > 7) (o + 1) ++ bad (b 2 > 16) (o + 2) ++ bad (b 3 > 16) (o + 3) ++ bad (fieldAt e 4 4 != 0) (o + 4)
  | 1 => bad (b 1 > 127) (o + 1) ++ bad (b 2 > 31) (o + 2) ++ bad (b 3 != 0) (o + 3) ++ bad (fieldAt e 4 2 > 511) (o + 4)
      ++ bad (b 6 > 7) (o + 6) ++ bad (b 7 != 0) (o + 7)
  | 2 => bad (b 1 != 9 && b 1 != 10) (o + 1) ++ bad (b 2 > 23) (o + 2) ++ bad (b 3 > 25) (o + 3) ++ bad (fieldAt e 4 4 != 0) (o + 4)
  | _ => [o]

/-- Bad offsets of a GANG entry. -/
def gangBad (o : Nat) (e : List Byte) : List Nat :=
  let b := fun i => fieldAt e i 1
  bad (b 0 > 127) o ++ bad (b 1 ≥ 16 || ones (b 1) 4 != (if b 2 = 3 then 4 else 2)) (o + 1) ++ bad (b 2 == 0 || b 2 > 3) (o + 2)
    ++ bad (fieldAt e 3 5 != 0) (o + 3)

/-- Bytes from an offset to the end of a record are zero. -/
def tailZero (bs : List Byte) (o : Nat) : Bool := allZero (bs.drop o)

/-- Bad offsets of a record's body, by its type. -/
def bodyBad (r : ImgRec) : List Nat :=
  let b := r.bytes
  let n := b.length
  match r.type with
  | 1 =>
    let regs := fieldAt b 0x10 4
    bad (n != 40) 4 ++ bad (regs == 0) 0x10 ++ bad (bitsOf (fieldAt b 0x16 2) 2 14 != 0) 0x16
      ++ bad (fieldAt b 0x18 8 % 2 ^ 36 != 0 || decide (fieldAt b 0x18 8 + ones regs 32 * 2 ^ 36 > 2 ^ 41)) 0x18
      ++ bad (decide (fieldAt b 0x20 2 + fieldAt b 0x22 2 > 4096)) 0x20 ++ bad (fieldAt b 0x22 2 == 0 || decide (fieldAt b 0x22 2 > 4096)) 0x22
      ++ bad (decide (fieldAt b 0x24 1 > 32) || (bitOf (fieldAt b 0x16 2) 0 && fieldAt b 0x24 1 == 0)) 0x24 ++ reserved b 0x25 3
  | 2 => r.entries.flatMap (fun e => gangBad e.1 e.2)
  | 3 =>
    bad (n != 16 + 88) 4 ++ r.entries.flatMap (fun e =>
      bad (fieldAt e.2 0 1 > 10 || (r.entries.filter (fun x => fieldAt x.2 0 1 == fieldAt e.2 0 1)).length != 1) e.1
        ++ [1, 2, 3].flatMap (fun i => bad (fieldAt e.2 i 1 > 2) (e.1 + i)) ++ bad (fieldAt e.2 4 4 != 0) (e.1 + 4))
  | 4 =>
    let ks := r.entries.map (fun e => routeKey e.2)
    r.entries.flatMap (fun e => routeBad e.1 e.2 ++ bad (fieldAt e.2 0 1 < 2 && decide (((ks.filter (· == routeKey e.2)).length) > 1)) e.1)
      ++ bad (!(diePairsAll.all (fun p => ks.contains (0, p.1, p.2)) && allEnds.all (fun e => ks.contains (1, e / 16, e % 16)))) 0x10
  | 5 => r.entries.flatMap (fun e => spareBad e.1 e.2)
  | 6 => bad (n != 32) 4 ++ bad (decide (fieldAt b 0x10 4 + fieldAt b 0x14 4 > 8192)) 0x14 ++ bad (bitsOf (fieldAt b 0x1A 2) 3 13 != 0) 0x1A
      ++ reserved b 0x1C 4
  | 7 => bad (n % 16 != 0) 4 ++ r.loads.flatMap (fun e => match safetyReg e.2.1 with
      | some g => bad (!safetyValue g e.2.2) (e.1 + 8)
      | none => [e.1])
  | 8 =>
    let k := fieldAt b 0x10 4
    bad (n != 0x18 + (k + 7) / 8 * 8) 0x10 ++ reserved b 0x14 4 ++ bad (!tailZero b (0x18 + k)) (0x18 + k)
  | _ =>
    let t := fieldAt b 0x10 1
    let k := fieldAt b 0x28 4
    bad (t > 3) 0x10 ++ reserved b 0x11 7 ++ bad (t < 3 && fieldAt b 0x18 8 != 0) 0x18 ++ bad (t < 3 && fieldAt b 0x20 8 != 0) 0x20
      ++ bad (n != 0x30 + (k + 7) / 8 * 8) 0x28 ++ reserved b 0x2C 4 ++ bad (!tailZero b (0x30 + k)) (0x30 + k)

/-- The TARGET of a FIRMWARE record. -/
def ImgRec.target (r : ImgRec) : Nat := fieldAt r.bytes 0x10 1

/-- SCOPE is of the kind that the type carries (R97). -/
def ImgRec.scopeKind (r : ImgRec) : Bool :=
  let pkg := r.scope == 0xFF
  let part := decide (r.scope < 32)
  match r.type with
  | 3 | 4 | 7 => pkg
  | 5 => pkg || part
  | 9 => if r.target = 3 then part else pkg
  | _ => part

/-- Two records of which an image may hold one (R97). -/
def ImgRec.twin (a b : ImgRec) : Bool := a.type == b.type && a.scope == b.scope && a.type != 5 && (a.type != 9 || a.target == b.target)

/-- The lowest of bad offsets. -/
def lowest : List Nat → Option Nat
  | [] => none
  | x :: xs => some (xs.foldl min x)

/-- The form of a record after those before it (R11, R96, R97): the lowest bad offset. -/
def recForm (before : List ImgRec) (room : Nat) (r : ImgRec) : Option Nat :=
  let b := r.bytes
  let prev := match before.getLast? with | some x => x.type | none => 1
  let len := fieldAt b 4 4
  let head := bad (r.type < prev || r.type > 9 || before.any (fun x => x.twin r)) 0 ++ bad (fieldAt b 2 2 != 1) 2
    ++ bad (len % 8 != 0 || decide (len < 16) || decide (len > room)) 4 ++ bad (!r.scopeKind) 8 ++ reserved b 9 7
  lowest (if len % 8 != 0 || len < 16 || len > room then head else head ++ bodyBad r)

/-- A record that a partial image for a partition may not hold (R97). -/
def outOfScope (p : Nat) (r : ImgRec) : Bool :=
  r.type == 3 || r.type == 4 || r.type == 7 || r.scope != p || (r.type == 9 && r.target != 3)

/-- Check 6: the records in order, each judged for its form and then its scope. -/
def parseRecs (bs : List Byte) (stop : Nat) (target : Option Nat) : Nat → Nat → List ImgRec → Except ImgErr (List ImgRec)
  | 0, off, acc => if off = stop then .ok acc else .error ⟨7, acc.length, false, 0⟩
  | n + 1, off, acc =>
    let i := acc.length
    let room := stop - off
    if room < 16 then .error ⟨7, i, false, 4⟩
    else
      let head := bytesAt bs off 16
      let len := fieldAt head 4 4
      let r : ImgRec := ⟨fieldAt head 0 2, fieldAt head 8 1, i, bytesAt bs off (max 16 (min len room))⟩
      match recForm acc room r with
      | some d => .error ⟨7, i, false, d⟩
      | none => match target with
        | some p => if outOfScope p r then .error ⟨10, i, false, 8⟩ else parseRecs bs stop target n (off + len) (acc ++ [r])
        | none => parseRecs bs stop target n (off + len) (acc ++ [r])

/-! The configuration of a partition (R98, R99, R103, R105, R106). -/

def PartRec.none : PartRec := ⟨0, 0, false, false, 0, 0, 0, 0, [], 0, 0, 0, false, false, false, [], 0, 0, false⟩

/-- A record taken into the configuration of its partition. -/
def PartRec.take (x : PartRec) (r : ImgRec) : PartRec :=
  let b := r.bytes
  match r.type with
  | 1 =>
    let f := fieldAt b 0x16 2
    let regs := fieldAt b 0x10 4
    { x with regions := regs, groups := fieldAt b 0x14 2, vault := bitOf f 0, aFromPte := bitOf f 1, nearBase := fieldAt b 0x18 8
             ctxBase := fieldAt b 0x20 2, ctxCount := fieldAt b 0x22 2, vf := fieldAt b 0x24 1
             gangs := (x.gangs.filter (fun g => bitOf regs (g.cluster / 4))).map (fun g => { g with dissolved := false }) }
  | 2 => { x with gangs := r.entries.map (fun e => ⟨fieldAt e.2 0 1, fieldAt e.2 1 1, fieldAt e.2 2 1, false⟩) }
  | 6 =>
    let f := fieldAt b 0x1A 2
    { x with hostOff := fieldAt b 0x10 4, hostSize := fieldAt b 0x14 4, hotThreshold := fieldAt b 0x18 2, t2Compress := bitOf f 0
             td500 := bitOf f 1, notice := bitOf f 2 }
  | 8 => { x with policy := bytesAt b 0x18 (fieldAt b 0x10 4) }
  | 9 => if r.target = 3 then { x with loadAddr := fieldAt b 0x18 8, entry := fieldAt b 0x20 8, hasEntry := true } else x
  | _ => x

/-- A partition's configuration after records of an image, from the one in force. -/
def PartRec.after (x : PartRec) (p : Nat) (rs : List ImgRec) : PartRec :=
  (rs.filter (fun r => r.scope == p)).foldl PartRec.take x

/-! Check 7. -/

/-- Where two partitions' PARTITION records meet: the offset of the first field that overlaps. -/
def partsMeet (a b : PartRec) : List Nat :=
  let span := fun (x : PartRec) => (x.nearBase, x.nearBase + ones x.regions 32 * 2 ^ 36)
  bad (a.regions &&& b.regions != 0) 0x10 ++ bad (a.groups &&& b.groups != 0) 0x14
    ++ bad (decide ((span a).1 < (span b).2 ∧ (span b).1 < (span a).2)) 0x18
    ++ bad (decide (a.ctxBase < b.ctxBase + b.ctxCount ∧ b.ctxBase < a.ctxBase + a.ctxCount)) 0x20 ++ bad (a.vf != 0 && a.vf == b.vf) 0x24

/-- HOSTMEM ranges overlap; one of size 0 is no range (R103). -/
def hostMeets (a b : PartRec) : Bool := decide (a.hostSize ≠ 0 ∧ b.hostSize ≠ 0 ∧ a.hostOff < b.hostOff + b.hostSize ∧ b.hostOff < a.hostOff + a.hostSize)

/-- A SPARE entry as fused or applied. -/
def spareOf (e : List Byte) : Spare := ⟨fieldAt e 0 1, fieldAt e 1 1, fieldAt e 2 1, fieldAt e 3 1, fieldAt e 4 2, fieldAt e 6 1⟩

/-- A die's cluster slots after a substitution is applied (R102). -/
def slotsAfter (slots : List Nat) (x : Spare) : List Nat :=
  if x.kind ≠ 0 then slots
  else slots.zipIdx.map (fun e => if e.2 / 16 = x.b1 ∧ e.1 = x.b2 then x.b3 else e.1)

/-- Two spare entries of which the later contradicts the other or claims its spare (R102). -/
def sparesMeet (a b : Spare) : Bool :=
  a.kind == b.kind && a.b1 == b.b1 && match a.kind with
    | 0 => a.b2 == b.b2 || a.b3 == b.b3
    | 1 => a.b2 == b.b2 && (a.b45 == b.b45 || a.b6 == b.b6)
    | _ => a.b2 == b.b2 || a.b3 == b.b3

/-- An entry agrees with the spares in force (R102): it repeats a fused one, or contradicts none; a substitution names a slot that a
cluster of its scope reports and the slot of the die that none does. -/
def spareGood (slots : List Nat) (fused known : List Spare) (mine : Nat → Bool) (x : Spare) : Bool :=
  fused.contains x || (!(fused ++ known).any (sparesMeet x) && match x.kind with
    | 0 =>
      let own := (slots.drop (16 * x.b1)).take 16
      !own.contains x.b3 && (own.zipIdx.any (fun e => e.1 == x.b2 && mine (16 * x.b1 + e.2)))
    | 1 => mine x.b1
    | _ => true)

/-- The conflict of a record with those before it, with other partitions' configuration, with the fuses and the part: an offset in it. The
spec names no code for a POLICY record of a partition that is no vault (R97), for a partition-scope SPARE entry of KIND 2, or of KIND 1
for a cluster outside the partition (R102): they fail here, with CONFLICT (DESIGN CHOICE, log entry 123). -/
def Dev.conflictOf (s : Dev) (part : Bool) (others : List (Nat × PartRec)) (recs : List ImgRec) (r : ImgRec) : Option Nat :=
  let before := recs.take r.index
  let base := fun (p : Nat) => if part then (s.partRec p).getD .none else .none
  let cfg := fun (p : Nat) => (base p).after p recs
  let defined := fun (p : Nat) => recs.any (fun x => x.type == 1 && x.scope == p)
  match r.type with
  | 1 =>
    let me := cfg r.scope
    let prior := (before.filter (·.type == 1)).map (fun x => cfg x.scope) ++ others.map (·.2)
    let dead := part && ((List.range 32).any (fun g => bitOf me.regions g && s.dieState (g / 4) == 2))
    let dark := part && !(List.range 256).any (fun c => bitOf me.regions (c / 8) && s.flag F.CH_STATUS_IN_SERVICE c)
    lowest (prior.flatMap (partsMeet me) ++ bad (dead || dark) 0x10)
  | 2 =>
    let regs := (cfg r.scope).regions
    lowest (bad (!defined r.scope) 8 ++ r.entries.flatMap (fun e =>
      bad (!bitOf regs (fieldAt e.2 0 1 / 4)) e.1
        ++ bad (r.entries.any (fun x => decide (x.1 < e.1) && fieldAt x.2 0 1 == fieldAt e.2 0 1 && fieldAt x.2 1 1 &&& fieldAt e.2 1 1 != 0)) (e.1 + 1)))
  | 4 => lowest (r.entries.flatMap (fun e => match fieldAt e.2 0 1 with
      | 0 =>
        let path := fieldAt e.2 1 1 :: (((bytesAt e.2 3 4).map (·.toNat)).filter (· != 0xFF) ++ [fieldAt e.2 2 1])
        bad ((path.zip (path.drop 1)).any (fun h => linkCount h.1 h.2 == 0)) e.1
      | 1 =>
        let f := otherEnd (16 * fieldAt e.2 1 1 + fieldAt e.2 2 1)
        bad (r.entries.any (fun x => routeKey x.2 == (1, f / 16, f % 16) && fieldAt x.2 3 1 != fieldAt e.2 3 1)) (e.1 + 3)
      | _ => bad (r.entries.any (fun x => decide (x.1 < e.1) && fieldAt x.2 0 1 == 2 && fieldAt x.2 1 1 == fieldAt e.2 1 1)) e.1))
  | 5 =>
    let prior := (before.filter (·.type == 5)).flatMap (fun x => x.entries.map (fun e => spareOf e.2))
    let mine := fun (c : Nat) => r.scope == 0xFF || bitOf (cfg r.scope).regions (c / 4)
    let run := r.entries.foldl (fun (acc : List Nat × List Spare × Option Nat) e =>
      let x := spareOf e.2
      match acc.2.2 with
      | some _ => acc
      | none =>
        if spareGood acc.1 s.fused.spares acc.2.1 mine x && (r.scope == 0xFF || x.kind < 2) then
          (if s.fused.spares.contains x then acc.1 else slotsAfter acc.1 x, x :: acc.2.1, none)
        else (acc.1, acc.2.1, some e.1)) ((prior.filter (fun x => !s.fused.spares.contains x)).foldl slotsAfter s.fused.slots, s.applied ++ prior, none)
    lowest (bad (r.scope != 0xFF && !defined r.scope) 8 ++ run.2.2.toList)
  | 6 =>
    let me := cfg r.scope
    let prior := (before.filter (·.type == 6)).map (fun x => cfg x.scope) ++ others.map (·.2)
    lowest (bad (!defined r.scope) 8 ++ bad (prior.any (hostMeets me)) 0x10)
  | 7 => lowest (r.loads.flatMap (fun e => match safetyReg e.2.1 with
      | some ⟨.RAIL_CFG, n⟩ =>
        let v := F.RAIL_CFG_NOM_MV.get e.2.2
        bad (decide (v < (railNominal n).1 ∨ (railNominal n).2 < v)) (e.1 + 8)
      | _ => []))
  | 8 => lowest (bad (!defined r.scope || !(cfg r.scope).vault) 8)
  | 9 =>
    if r.target ≠ 3 then none
    else
      let me := cfg r.scope
      let lo := hostBase + me.hostOff * 2 ^ 30
      lowest (bad (!defined r.scope || me.groups == 0) 8
        ++ bad (decide (me.loadAddr < lo ∨ lo + me.hostSize * 2 ^ 30 < me.loadAddr + fieldAt r.bytes 0x28 4)) 0x18)
  | _ => none

/-! Check 8. -/

/-- The CTRL address at which a block's unit begins (R53). -/
def blockBase (b : Block) (u : Nat) : Nat :=
  let region := fun g => 0x10000000 * (g / 4) + 0x01000000 * (g % 4)
  let cluster := fun c => region (c / 4) + 0x400000 + 0x100000 * (c % 4)
  ctrlBase + match b with
  | .queueManager => region u
  | .home => region u + 0x10000
  | .sysCache => region u + 0x20000
  | .tbe => region u + 0x30000
  | .cde => region u + 0x40000
  | .channel => region (u / 8) + 0x10000 * (8 + u % 8)
  | .clusterCtl => cluster u
  | .mxa => cluster (u / 4) + 0x10000 * (1 + u % 4)
  | .vxe => cluster u + 0x50000
  | .spe => cluster u + 0x60000
  | .mve => cluster u + 0x70000
  | .atc => cluster u + 0x80000
  | .clusterCache => cluster u + 0x90000
  | .coreGroup => 0x80000000 + 0x100000 * u
  | .htu => 0x82000000
  | .dimm => 0x83000000 + 0x10000 * u
  | .hostHomes => 0x84000000
  | .hostLink => 0x85000000 + 0x10000 * u
  | .port => 0x90000000 + 0x10000000 * (u / 24) + 0x10000 * (u % 24)
  | .fabric => 0x91000000 + 0x10000000 * u
  | .gx => 0x92000000
  | .gxB => 0xA2000000
  | .nse => 0x93000000 + 0x10000000 * u
  | .pcie => 0x94000000
  | .mgmt => 0x95000000
  | .serial => 0x96000000
  | .capc => 0x97000000
  | .dieCommon => 0x08000000 + 0x10000000 * u

/-- Every address that a full image must set (R104), ascending. -/
def safetyAddrs : List Nat :=
  let rows := mapRows.filter (fun m => m.name.fields.any (fun f => f.acc == .rwl) && m.name != .CLK_STEP_LIMIT && m.name != .LINK_CTRL)
  let all := rows.flatMap (fun m => (List.range m.block.units).flatMap (fun u => (List.range m.count).flatMap (fun i =>
    (List.range m.count2).map (fun j => blockBase m.block u + m.off + i * m.stride + j * m.stride2))))
  (all.filter (fun a => (safetyReg a).isSome)).mergeSort (· ≤ ·)

/-- A record found absent. -/
def absentErr (type scope target : Nat) : ImgErr := ⟨9, 0xFFF, true, type + scope * 65536 + target * 2 ^ 24⟩

/-- The first thing that a full image lacks, in order of type and scope. -/
def missingFull (recs : List ImgRec) : Option ImgErr :=
  let has := fun (t sc : Nat) => recs.find? (fun r => r.type == t && r.scope == sc)
  let fw := fun (t sc : Nat) => recs.any (fun r => r.type == 9 && r.scope == sc && r.target == t)
  let parts := (recs.filter (·.type == 1))
  let opt := fun (b : Bool) (e : ImgErr) => if b then [e] else []
  let errs := opt parts.isEmpty (absentErr 1 0 0) ++ opt (has 3 0xFF).isNone (absentErr 3 0xFF 0)
    ++ (match has 4 0xFF with
      | none => [absentErr 4 0xFF 0]
      | some r => (([1, 2, 3].filter (fun i => !r.entries.any (fun e => fieldAt e.2 0 1 == 2 && fieldAt e.2 1 1 == i))).map (fun i =>
          (⟨9, r.index, false, i⟩ : ImgErr))))
    ++ (parts.filter (fun p => (has 6 p.scope).isNone)).map (fun p => absentErr 6 p.scope 0)
    ++ (match has 7 0xFF with
      | none => [absentErr 7 0xFF 0]
      | some r =>
        let set := r.loads.map (·.2.1)
        (safetyAddrs.filter (fun a => !set.contains a)).map (fun a => (⟨9, r.index, false, a % 2 ^ 32⟩ : ImgErr)))
    ++ ([0, 1, 2].filter (fun t => !fw t 0xFF)).map (fun t => absentErr 9 0xFF t)
    ++ (parts.filter (fun p => fieldAt p.bytes 0x14 2 != 0 && !fw 3 p.scope)).map (fun p => absentErr 9 p.scope 3)
  errs.head?

/-- What a partial image lacks: its PARTITION record, or the firmware that R563 asks for. -/
def Dev.missingPart (s : Dev) (p : Nat) (recs : List ImgRec) : Option ImgErr :=
  if !recs.any (·.type == 1) then some (absentErr 1 p 0)
  else
    let old := (s.partRec p).getD .none
    let new := old.after p recs
    if new.groups ≠ 0 ∧ (new.vault ∨ !old.hasEntry) ∧ !recs.any (·.type == 9) then some (absentErr 9 p 3) else none

/-! The whole verification (R94). -/

/-- Checks 1 to 8 on an image, against the room of its memory. -/
def Dev.judgeImage (s : Dev) (part : Bool) (room : Nat) (bs : List Byte) : Except ImgErr (List ImgRec) :=
  if !headerGood bs part then .error (headErr 2)
  else if imgLen bs > room then .error (headErr 6)
  else if s.fused.keyHash.getD (imgSlot bs) 0 = 0 ∨ bitOf s.fused.revoked (imgSlot bs)
      ∨ sha256 (imgKey bs) ≠ leBytes 32 (s.fused.keyHash.getD (imgSlot bs) 0) then .error (headErr 3)
  else if imgRollback bs < s.fused.rollback then .error (headErr 4)
  else if !lmsVerify 7 15 (imgKey bs) (bytesAt bs 0 (imgEnd bs)) (bytesAt bs (imgEnd bs) 1612) then .error (headErr 5)
  else
    let target := if part then some (imgTarget bs) else none
    match parseRecs bs (imgEnd bs) target (imgCount bs) 0x80 [] with
    | .error e => .error e
    | .ok recs =>
      let others := if part then s.recs.filter (fun e => e.1 != imgTarget bs) else []
      match recs.findSome? (fun r => (s.conflictOf part others recs r).map (fun d => (⟨8, r.index, false, d⟩ : ImgErr))) with
      | some e => .error e
      | none => match if part then s.missingPart (imgTarget bs) recs else missingFull recs with
        | some e => .error e
        | none => .ok recs

end Sys2Proof.Machine
end

