-- ==== Sys2Proof/Machine/Boot.lean ====
section
/-! DEFINITION. Start-up (R86–R115) and partial reload (R116, R117, R563): the resets of the pins, the steps from fuses to release, the
staging wait, the halt; and the arrival of flits and the end of link training, on which step 2 waits. -/

namespace Sys2Proof.Machine

open Sys2Proof

/-! Pins (R524, R549–R551, R561). -/

/-- The device with PWRGOOD low (R20, R115): everything at its initial value, what DIMM words hold anew unknown. -/
def Dev.powerOff (s : Dev) : Dev :=
  { Dev.reset with
    draws := s.draws, powerOns := s.powerOns + 1, pwr := { PwrSt.init with alerts := s.pwr.alerts }
    pins := { PinSt.init with sysLow := s.pins.sysLow, perstLow := s.pins.perstLow, refclk := s.pins.refclk }, out := s.out }

/-- PWRGOOD low for 1 µs or more. -/
def Dev.pwrFall (s : Dev) : Dev := if s.pins.pwrgood then s.powerOff else s

def execPwrgoodFall (s : State) : Host.Outcome State Fault Refusal := s.afterPin s.dev.pwrFall

/-- PWRGOOD rises: straps sampled, REFCLK running (R550), alert inputs that are low accepted. -/
def Dev.pwrRise (s : Dev) (bootSrc i3cSa : Nat) : Dev :=
  if s.pins.pwrgood then s
  else
    let s := { s with time := 0, boot := BootSt.init
                      pins := { s.pins with pwrgood := true, floating := false, refclk := true, bootSrc := bootSrc, i3cSa := i3cSa } }
    s.pwr.alerts.foldl Dev.alertAccept (s.setFlag F.BOOT_STATUS_COLD 0 true)

def execPwrgoodRise (bootSrc i3cSa : Fin 4) (s : State) : Host.Outcome State Fault Refusal := s.afterPin (s.dev.pwrRise bootSrc i3cSa)

/-- SYS_RST_N low for 16 REFCLK cycles: a package reset, one with that of PERST_N. -/
def Dev.sysRst (s : Dev) : Dev :=
  if s.pins.sysLow || !s.pins.refclk then s
  else
    let t := if s.pins.pwrgood && !s.pins.perstLow then s.packageFault 6 0 else s
    { t with pins := { t.pins with sysLow := true } }

def execSysRstNLow (s : State) : Host.Outcome State Fault Refusal := s.afterPin s.dev.sysRst

/-- PERST_N low for 16 REFCLK cycles. -/
def Dev.perst (s : Dev) : Dev :=
  if s.pins.perstLow || !s.pins.refclk then s
  else
    let t := if s.pins.pwrgood && !s.pins.sysLow then s.packageFault 7 0 else s.setFlag F.PCI_STATUS_LINK_UP 0 false
    { t with pins := { t.pins with perstLow := true } }

def execPerstNLow (s : State) : Host.Outcome State Fault Refusal := s.afterPin s.dev.perst

def execSysRstNDeassert (s : State) : Host.Outcome State Fault Refusal :=
  s.afterPin { s.dev with pins := { s.dev.pins with sysLow := false } }

def execPerstNDeassert (s : State) : Host.Outcome State Fault Refusal :=
  s.afterPin { s.dev with pins := { s.dev.pins with perstLow := false } }

def execRefclkStop (s : State) : Host.Outcome State Fault Refusal :=
  s.afterPin { s.dev with pins := { s.dev.pins with refclk := false } }

/-- VDD_IO below 1.0 V: the latch of THERMTRIP_N is released; the clocks that the trip stopped stay stopped. -/
def execVddIoFall (s : State) : Host.Outcome State Fault Refusal :=
  s.afterPin { s.dev with pins := { s.dev.pins with tripped := false } }

/-! Step 2: fuses, PLLs, links. -/

/-- A global cluster is served by another physical cluster of its die (R34, R102): the pad's banks and the spare rows in use are the new
one's, and the old one's stay with it. -/
def Dev.seatCluster (s : Dev) (c slot : Nat) : Dev :=
  let old := SMap.get s.padSeat slot c
  if old = slot then s.setFld F.CL_STATUS_PHYS_SLOT c slot
  else
    let key := fun (k : Nat) => 17 * (c / 16) + k
    let x := SMap.get s.padAside ((Config.fuseBanks (key slot)).toNat, 0, 0) (key slot)
    let mine := (s.fld F.CL_PAD_STATUS_BANK_MAP c, s.fld F.CL_PAD_SPARE_LO_USED c, s.fld F.CL_PAD_SPARE_HI_USED c)
    let s := { s with padAside := SMap.set (SMap.del s.padAside (key slot)) (key old) mine, padSeat := SMap.set s.padSeat c slot
                      padMarked := s.padMarked.filter (fun k => k / 16384 != c), padTaken := s.padTaken.filter (fun t => t.b1 != c) }
    let s := ((s.setFld F.CL_PAD_STATUS_BANK_MAP c x.1).setFld F.CL_PAD_SPARE_LO_USED c x.2.1).setFld F.CL_PAD_SPARE_HI_USED c x.2.2
    let s := (s.setFld F.CL_PAD_PENDING_ROW_PENDING c 0).setFld F.CL_PAD_PENDING_MAPOUT c 0
    (s.setFld F.CL_PAD_STATUS_BANKS c (ones x.1 32)).setFld F.CL_STATUS_PHYS_SLOT c slot

/-- Every cluster seated as the slots in force say. -/
def Dev.seatAll (s : Dev) : Dev := (List.range 128).foldl (fun s c => s.seatCluster c (s.fused.slots.getD c 0)) s

/-- What the fuses show in registers (R86, R87, R102, R434, R513). The pads' banks and spare rows in use are shown at a power-on; what service
has made of them since stays with its physical cluster through a package reset (R20). -/
def Dev.showFuses (s : Dev) : Dev :=
  let f := s.fused
  let s := (s.setReg .FUSE_OPTIONS 0 (BitVec.ofNat 64 (f.options % 8))).setFld F.FUSE_ROLLBACK_FLOOR 0 (2 ^ f.rollback - 1)
  let s := (s.setFld F.FUSE_KEYSTATE_REVOKED 0 f.revoked).setFld F.ATTEST_FUSE_COUNT_NEXT 0 f.attNext
  let s := (List.range 4).foldl (fun s k => s.putWords .FUSE_KEYHASH (4 * k) (leBytes 32 (f.keyHash.getD k 0)) 4) s
  let s := s.setFld F.FAB_DISC_ID_DISC_ID 0 f.discId
  let s := (List.range 11).foldl (fun s d => (s.setFld F.THERM_CFG_TRIP d 105).showPartners d) s
  if !s.flag F.BOOT_STATUS_COLD 0 then s.seatAll
  else
    let s := (List.range 128).foldl (fun s c =>
      let m := (Config.fuseBanks (17 * (c / 16) + f.slots.getD c 0)).toNat
      let s := { s with padSeat := SMap.set s.padSeat c (f.slots.getD c 0) }
      ((s.setFld F.CL_STATUS_PHYS_SLOT c (f.slots.getD c 0)).setFld F.CL_PAD_STATUS_BANK_MAP c m).setFld F.CL_PAD_STATUS_BANKS c (ones m 32)) s
    let s := f.waves.foldl (fun s w => s.setFld F.PORT_LANES_GOOD w.1 (s.fld F.PORT_LANES_GOOD w.1 &&& (31 - 2 ^ w.2))) s
    (f.spares.filter (·.kind == 1)).foldl (fun s x => s.padSpareTake x.b1 x.b2) s

/-- The fuses are loaded. -/
def Dev.fusesLoad (s : Dev) (f : Fuses) : Dev :=
  if s.phase ≠ 0 then s else (({ s with fused := f, applied := [] } : Dev).showFuses.attShow).setPhase 1

def execFusesLoaded (s : State) : Host.Outcome State Fault Refusal := s.after (s.dev.fusesLoad s.fuses)

/-- The PLL of a die locks (R66, R68); an I/O die's noise source is instantiated with its clock. -/
def Dev.pllLock (s : Dev) (d : Nat) : Dev :=
  if s.phase = 0 ∨ s.dieState d = 2 ∨ s.flag F.CLK_STATUS_PLL_LOCK d ∨ s.pwr.railHold.any (fun n => (diesOfRail n).contains d) then s
  else
    let s := (s.setFlag F.CLK_STATUS_PLL_LOCK d true).setReg .SLOW_COUNT d 0
    if d ≥ 9 then s.setFlag F.NSE_STATUS_HEALTHY (d - 9) true else s

def execPllLock (d : DieIx) (s : State) : Host.Outcome State Fault Refusal := s.after (s.dev.pllLock d)

/-- A die loses PLL lock: its divided clocks stop, so its links go DOWN, whether or not the die is in reset already (R67, R82, R525). -/
def Dev.lockLost (s : Dev) (d : Nat) : Dev :=
  if !s.flag F.CLK_STATUS_PLL_LOCK d then s
  else
    let s := (s.setFlag F.CLK_STATUS_PLL_LOCK d false).setFlag F.CLK_EVENT_LOCK_LOST d true
    let s := (endsOf d).foldl (fun s e => s.linkDown e) (s.count F.CLK_EVENT_LOCK_LOST_COUNT d 1)
    s.dieReset d 1 0

def execLockLost (d : DieIx) (s : State) : Host.Outcome State Fault Refusal := s.after (s.dev.lockLost d)

/-! Errors of start-up. -/

/-- BOOT_ERROR. -/
def Dev.bootErr (s : Dev) (e : ImgErr) : Dev :=
  (((s.setFld F.BOOT_ERROR_CODE 0 e.code).setFld F.BOOT_ERROR_RECORD 0 e.record).setFlag F.BOOT_ERROR_ABSENT 0 e.absent).setFld F.BOOT_ERROR_DETAIL 0 e.detail

/-- Start-up halts (R114, R529). -/
def Dev.halt (s : Dev) (e : ImgErr) : Dev :=
  let s := (s.bootErr e).setPhase 9
  (s.logEntry ⟨5, 9, none, 23, 8, none, 0, 0⟩).crash 8 none none none 0 (fun _ => false)

/-- The staging wait is entered, or refused by fuse (R113). -/
def Dev.stageWait (s : Dev) : Dev :=
  if s.flag F.FUSE_OPTIONS_PCIE_BOOT_DISABLE 0 then s.halt ⟨0x0D, 0xFFF, false, s.boot.lastCode⟩
  else ({ s with boot := { s.boot with slot := 2 } } : Dev).setPhase 8

/-- Every link of dies that can train has ended its training. -/
def Dev.linksDone (s : Dev) : Bool :=
  allEnds.all (fun e => s.dieState (e / 16) == 2 || s.dieState (otherEnd e / 16) == 2 || decide (s.linkState e ≥ 2))

/-- The end of step 2 (R108, R110, R88): the rails, measured in mV, must lie in their windows; then the source is chosen. -/
def Dev.stepTwo (s : Dev) (rails : List Nat) : Dev :=
  if s.phase ≠ 1 ∨ !s.linksDone then s
  else
    let out := fun n => let v := rails.getD n 0; decide (v < (railWide n).1 ∨ (railWide n).2 < v)
    let s := (List.range 40).foldl (fun s n =>
      (s.setFld F.RAIL_STATUS_ADC_MV n (min (rails.getD n 0) 4095)).setFlag F.RAIL_STATUS_OUT n (out n)) s
    match (List.range 40).find? out with
    | some n => s.halt ⟨0x0B, 0xFFF, false, n⟩
    | none =>
      if s.pins.bootSrc = 3 then s.halt (headErr 0x0C)
      else if s.pins.bootSrc = 2 then s.stageWait
      else ({ s with boot := { s.boot with slot := 0 } } : Dev).setPhase 2

/-- The training of a link ends. -/
def execLinkTrainingEnd (e : LinkEnd) (good : BitVec 34) (rtt : Nat) (late : Bool) (rails : List Nat) (s : State) :
    Host.Outcome State Fault Refusal :=
  shaped (railsShape rails) (s.after ((s.dev.linkEnd e good.toNat rtt late).stepTwo rails))

def execFlitReceive (e : LinkEnd) (f : Flit) (s : State) : Host.Outcome State Fault Refusal := shaped (flitShape f) (s.after (s.dev.flitReceive e f))

/-! Step 3: the image. -/

/-- The boot route from I/O die 0 to a compute die (R109). -/
def bootRoute (d : Nat) : List Nat :=
  match d with
  | 0 => [4, 0] | 1 => [5, 1] | 2 => [5, 6, 2] | 3 => [5, 6, 7, 3] | 4 => [4] | 5 => [5] | 6 => [5, 6] | _ => [5, 6, 7]

/-- A compute die's pads can be reached: every pair of its boot route has a link in service. -/
def Dev.bootReach (s : Dev) (d : Nat) : Bool :=
  let path := bootRoute d
  ((9 :: path).zip path).all (fun h => !(s.pairLinks h.1 h.2).isEmpty)

/-- The pads of the staging memory, ascending, with their sizes. -/
def Dev.stagePads (s : Dev) : List (Nat × Nat) :=
  ((List.range 128).filter (fun c => s.bootReach (c / 16))).map (fun c => (c, s.padSize c))

def Dev.stageRoom (s : Dev) : Nat := ((s.stagePads).map (·.2)).sum

/-- The cluster and pad offset of a byte of the staging memory. -/
def stagePlace : List (Nat × Nat) → Nat → Option (Nat × Nat)
  | [], _ => none
  | (c, n) :: rest, o => if o < n then some (c, o) else stagePlace rest (o - n)

/-- Bytes that step 3 stages, from the first byte of the staging memory on. -/
def Dev.stageStore (s : Dev) (pads : List (Nat × Nat)) (bs : List Byte) : Dev :=
  (groups 64 ((bs.length + 63) / 64) bs).zipIdx.foldl (fun s x =>
    match stagePlace pads (64 * x.2) with
    | some (c, off) => (s.padWrite c off (BitVec.ofNat 64 (2 ^ x.1.length - 1)) (lineOf x.1)).2
    | none => s) s

/-- The bytes of the fuse array that an accepted image burns (R95). -/
def Fuses.burnImage (f : Fuses) (bs : List Byte) : Fuses :=
  { f with rollback := if imgFlag bs 1 then max f.rollback (imgRollback bs) else f.rollback, revoked := f.revoked ||| imgRevoke bs }

/-- An image accepted: the fuses it asks for burned, its records kept for step 4. -/
def Dev.acceptImage (s : Dev) (bs : List Byte) (recs : List ImgRec) : Dev :=
  let f := s.fused.burnImage bs
  let s := { s with fused := f, boot := { s.boot with records := recs, serial := imgSerial bs, keyHash := sha256 (imgKey bs) } }
  ((s.setFld F.FUSE_ROLLBACK_FLOOR 0 (2 ^ f.rollback - 1)).setFld F.FUSE_KEYSTATE_REVOKED 0 f.revoked).setPhase 4

/-- A slot fails: slot B is read where the straps and fuses allow it, else the staging wait is entered. -/
def Dev.slotFails (s : Dev) (e : ImgErr) : Dev :=
  let s := s.bootErr e
  let s := { s with boot := { s.boot with lastCode := e.code } }
  if s.boot.slot = 0 ∧ s.pins.bootSrc = 1 ∧ !s.flag F.FUSE_OPTIONS_SLOT_B_DISABLE 0 then
    ({ s with boot := { s.boot with slot := 1 } } : Dev).setPhase 2
  else s.stageWait

/-- The flash byte offset at which a slot starts (R89): A at 0, B at 256 MiB. -/
def slotOffset (slot : Nat) : Nat := if slot = 0 then 0 else 0x10000000

/-- The image of a slot has been read from its place in the flash, at most the 256 MiB of the slot, or could not be (R89, R90), and is
verified (R94). Bytes read from another offset are not those of the slot being read. -/
def Dev.imageRead (s : Dev) (image : Option (Nat × List Byte)) : Dev :=
  if s.phase ≠ 2 then s
  else match image with
    | none => s.slotFails (headErr 1)
    | some (off, bs) =>
      if off ≠ slotOffset s.boot.slot then s
      else
        let bs := bs.take 0x10000000
        let s := (s.stageStore s.stagePads bs).setPhase 3
        match s.judgeImage false s.stageRoom bs with
        | .error e => s.slotFails e
        | .ok recs => s.acceptImage bs recs

/-- The fuse array after fuses of the device have been burned: only the floor, the revocations and the attestation bank move, and only
upward (R86). -/
def Fuses.burned (f g : Fuses) : Fuses :=
  { f with rollback := max f.rollback g.rollback, revoked := f.revoked ||| g.revoked, attNext := max f.attNext g.attNext }

/-- The effect of a command that may burn fuses. -/
def State.afterBurn (s : State) (d : Dev) : Host.Outcome State Fault Refusal :=
  .next (if s.dev.clocked then { s with dev := d, fuses := s.fuses.burned d.fused } else s)

def execImageReadDone (image : Option (Nat × List Byte)) (s : State) : Host.Outcome State Fault Refusal := s.afterBurn (s.dev.imageRead image)

/-- The bytes staged, a line at a time; an image past the staging memory reads zero there and is judged too large. -/
def Dev.stagedLines (s : Dev) (pads : List (Nat × Nat)) : Nat → Nat → List Byte × Dev
  | 0, _ => ([], s)
  | n + 1, o =>
    match stagePlace pads o with
    | none => ([], s)
    | some (c, off) =>
      let r := s.padRead c off fullMask
      let t := r.2.2.stagedLines pads n (o + 64)
      (lineBytes r.2.1 ++ t.1, t.2)

/-- GO of BOOT_GO (R113): start-up resumes at check 1 on the staged image. -/
def Dev.writeBootGo (s : Dev) (w : Word) : Dev :=
  if F.BOOT_GO_GO.get w = 0 ∨ s.phase ≠ 8 then s
  else
    let len := s.fld F.STAGE_LEN_LENGTH 0
    let r := s.stagedLines s.stagePads ((len + 63) / 64) 0
    let bs := bytesAt r.1 0 len
    let s := r.2.setPhase 3
    match s.judgeImage false s.stageRoom bs with
    | .error e => (s.bootErr e).setPhase 8
    | .ok recs => s.acceptImage bs recs

def execBootGo (who : Who) (s : State) : Host.Outcome State Fault Refusal :=
  s.afterBurn (s.dev.asWriter who ⟨.BOOT_GO, 0⟩ 1 (fun d w => d.writeBootGo w))

/-! Step 4: records (R96–R107). -/

/-- HOSTMEM_SHORT: a TIER range passes the populated capacity (R110). -/
def Dev.showShort (s : Dev) : Dev :=
  s.setFlag F.BOOT_STATUS_HOSTMEM_SHORT 0 (s.boot.dimmsDone && s.recs.any (fun e =>
    decide (e.2.hostSize ≠ 0 ∧ s.hostBytes < (e.2.hostOff + e.2.hostSize) * 2 ^ 30)))

/-- A SPARE entry put in force (R102): a substitution in the slots, a pad row in its bank's count. One already in force is not applied
again. -/
def Dev.applySpare (s : Dev) (x : Spare) : Dev :=
  if s.fused.spares.contains x || s.applied.contains x then s
  else
    let s := { s with applied := s.applied ++ [x], fused := { s.fused with slots := slotsAfter s.fused.slots x } }
    if x.kind = 0 then s.seatAll
    else if x.kind = 1 && !s.padTaken.contains x then ({ s with padTaken := s.padTaken ++ [x] } : Dev).padSpareTake x.b1 x.b2
    else s

def Dev.applySpares (s : Dev) (recs : List ImgRec) : Dev :=
  (recs.filter (·.type == 5)).foldl (fun s r => r.entries.foldl (fun s e => s.applySpare (spareOf e.2)) s) s

/-- A register loaded from the SAFETY record: its RWL fields. -/
def Dev.loadSafety (s : Dev) (a : Nat) (v : Word) : Dev :=
  match safetyReg a with
  | none => s
  | some r => r.name.fields.foldl (fun s f => if f.acc = .rwl then s.setFld ⟨r.name, f.lo, f.width⟩ r.ix (bitsOf v.toNat f.lo f.width) else s) s

/-- What the blocks of a region show of its owner: system-cache ways, TD500_COMPAT; a region without an owner is powered down (R98). -/
def Dev.showRegion (s : Dev) (g : Nat) : Dev :=
  let own := (s.partOfRegion g).isSome
  let s := s.setFld F.SC_STATUS_WAYS_ON g (if own && !s.flag F.SC_STATUS_LOST g then 0xFFFF else 0)
  s.setFlag F.SC_STATUS_TD500 g (s.scTd g)

/-- PARTITION of the VF apertures: the partition that names the VF. -/
def Dev.showVfs (s : Dev) : Dev :=
  (List.range 128).foldl (fun s i =>
    match s.recs.find? (fun e => e.2.vf == i / 4 + 1) with
    | some e => s.setFld F.APER_PARTITION (16 + i) e.1
    | none => s.setFld F.APER_PARTITION (16 + i) 0) s

/-- A partition's records applied, its blocks showing them, its policy passed to GX. -/
def Dev.applyPart (s : Dev) (p : Nat) (recs : List ImgRec) (differ : Bool) : Dev :=
  let x := ((s.partRec p).getD .none).after p recs
  let s := { s with recs := SMap.set s.recs p x }
  let s := ((s.regionsOf p).foldl Dev.showRegion (s.initPart p)).markAgents p
  if recs.any (fun r => r.type == 8 && r.scope == p) then s.judgePolicy p x.policy differ else s

/-- The package records of a full image. -/
def Dev.applyPackage (s : Dev) (recs : List ImgRec) : Dev :=
  recs.foldl (fun s r => match r.type with
    | 3 => r.entries.foldl (fun s e =>
        let d := fieldAt e.2 0 1
        ((s.setFld F.CLK_STEP_LIMIT_ARITH_LIMIT d (fieldAt e.2 1 1)).setFld F.CLK_STEP_LIMIT_CORE_LIMIT d (fieldAt e.2 2 1)).setFld
          F.CLK_STEP_LIMIT_NOC_LIMIT d (fieldAt e.2 3 1)) s
    | 4 => r.entries.foldl (fun s e =>
        if fieldAt e.2 0 1 = 2 then { s with fab := { s.fab with params := SMap.set s.fab.params (fieldAt e.2 1 1) (fieldAt e.2 4 4) } } else s) s
    | 7 => r.loads.foldl (fun s e => s.loadSafety e.2.1 e.2.2) s
    | _ => s) s

/-- The records of the full image are applied, and image lock takes effect; the staging memory is cleared. A vault whose name stands in
differ is one on whose policy the two channels of GX disagree. -/
def Dev.applyRecords (s : Dev) (differ : List Nat) : Dev :=
  if s.phase ≠ 4 then s
  else
    let recs := s.boot.records
    let s := (List.range 128).foldl (fun s c => s.padZero c) s
    let s := (s.applyPackage recs).applySpares recs
    let s := (List.range 11).foldl (fun s d => s.dieImage d) s
    let s := (recs.filter (·.type == 1)).foldl (fun s r => s.applyPart r.scope recs (differ.contains r.scope)) s
    let s := ((List.range 32).foldl Dev.showRegion s).showVfs
    let s := (s.setReg .IMAGE_ID 0 (BitVec.ofNat 64 s.boot.serial)).setFld F.BOOT_STATUS_SOURCE 0 s.boot.slot
    ((s.setFlag F.BOOT_STATUS_LOCKED 0 true).showShort).setPhase 5

def execRecordsApplied (differ : List VaultIx) (s : State) : Host.Outcome State Fault Refusal :=
  s.after (s.dev.applyRecords (differ.map (·.val)))

/-! Step 5: memories. -/

/-- A channel after training: absent or failed ones are mapped out, the others are in the channel list unless a map-out of this power-on
keeps them out; at start-up every word is filled (R313, R317). -/
def Dev.chanTrained (s : Dev) (c : Nat) (cause : Nat) (fill : Bool) : Dev :=
  let old := s.fld F.CH_STATUS_CAUSE c
  let now := if old ≠ 0 then old else cause
  let s := (s.setFld F.CH_STATUS_CAUSE c now).setFlag F.CH_STATUS_IN_SERVICE c (now == 0)
  if fill then { s with mem := s.mem.refill c 255 [] } else s

/-- Every compute die that runs has trained its stacks. -/
def Dev.stacksReady (s : Dev) : Bool := (List.range 8).all (fun d => s.dieState d != 0 || (s.die d).trained)

/-- The stacks of a compute die end their training, at start-up from the end of step 2 or while the die is held in reset (R108, R527).
Slices whose self-test fails are lost (R333). -/
def Dev.stacksTrained (s : Dev) (d : Nat) (absent failed badSlices : List Nat) : Dev :=
  let st := s.dieState d
  if (s.die d).trained || st == 2 || !s.flag F.CLK_STATUS_PLL_LOCK d || s.phase < 2 || s.phase == 9 then s
  else
    let s := (List.range 32).foldl (fun s i =>
      s.chanTrained (32 * d + i) (if absent.contains (i / 16) then 1 else if failed.contains i then 2 else 0) (st == 0)) s
    let s := s.setDie d { s.die d with trained := true }
    let s := if st = 0 then s.loseSlices d badSlices else s
    { s with boot := { s.boot with stacksDone := s.boot.stacksDone || s.stacksReady } }

def execStackTrainingDone (d : Fin 8) (absent : List (Fin 2)) (failed : List (Fin 32)) (badSlices : List (Fin 4)) (s : State) :
    Host.Outcome State Fault Refusal :=
  s.after (s.dev.stacksTrained d (absent.map (·.val)) (failed.map (·.val)) (badSlices.map (·.val)))

/-- Why a DIMM is left out (R110, R319, R323): 0 it is not, 1 a type the controllers do not support, 2 a rate below 6,400 MT/s, 3 its training,
4 an SPD that cannot be read. -/
def DimmSpd.leftOut (x : DimmSpd) : Nat :=
  if !x.read then 4
  else if !(x.registered && x.width == 8 && [1, 2, 4].contains x.ranks && decide (1 ≤ x.high ∧ x.high ≤ 4 ∧ 16 ≤ x.gib ∧ x.gib ≤ 256)) then 1
  else if x.rate < 6400 then 2
  else if !x.trains then 3
  else 0

/-- What a DIMM channel shows of its DIMMs; of two DIMMs left out, LEFT_OUT names the cause of the first. -/
def Dev.showDimms (s : Dev) (m : Nat) (ds : List DimmSpd) : Dev :=
  let good := ds.filter (fun x => x.leftOut == 0)
  let why := ((ds.map (·.leftOut)).find? (· != 0)).getD 0
  let s := s.clearReg .T2_STATUS m
  let s := (s.setFlag F.T2_STATUS_POPULATED m (!ds.isEmpty)).setFlag F.T2_STATUS_USED m (!good.isEmpty)
  let s := (s.setFld F.T2_STATUS_DIMMS m ds.length).setFld F.T2_STATUS_RANKS m ((good.map (·.ranks)).sum)
  (s.setFld F.T2_STATUS_CAPACITY m ((good.map (·.gib)).sum)).setFld F.T2_STATUS_LEFT_OUT m why

/-- Words that a change of the channel list moves to other addresses (R321, R323): the DIMMs keep their symbols, and each word is found at the
address that now decodes to its place; the words of a channel that is out are lost to HOSTMEM, and what an unwritten word holds at an
address is unknown anew. -/
def Dev.remapHost (s : Dev) : Dev :=
  let old := s.t2Map
  let new := s.dimmList
  if old = new then s
  else
    let host := fun (e : Host.Cell) => decide (2 ^ 38 ≤ e.1 / 16 ∧ e.1 / 16 < 2 ^ 41)
    let moved := (s.mem.cells.filter host).filterMap (fun e =>
      let o := (e.1 / 16 - 2 ^ 38) * 8
      let k := o / 4096
      let m := old.getD (k % old.length) 12
      if new.contains m then some (16 * t2Word (s.hostOffset m ((k / old.length) * 4096 + o % 4096)) + e.1 % 16, e.2) else none)
    let mem : Mem := { s.mem with cells := s.mem.cells.filter (fun e => !host e), t2Pass := [] }
    { s with mem := moved.foldl (fun (m : Mem) e => m.put e.1 e.2) mem, t2Map := new, powerOns := s.powerOns + 1 }

/-- DIMMs are read through SPD and trained. -/
def Dev.dimmsTrained (s : Dev) (spd : List (List DimmSpd)) : Dev :=
  if s.boot.dimmsDone || s.phase < 2 || s.phase == 9 || s.dieState 8 != 0 || !s.flag F.CLK_STATUS_PLL_LOCK 8 then s
  else
    let s := (List.range 12).foldl (fun s m => s.showDimms m (spd.getD m [])) s
    let cmin := s.dimmMin
    let s := s.dimmList.foldl (fun s m => s.setFld F.T2_STATUS_UNUSED m (s.fld F.T2_STATUS_CAPACITY m - cmin)) s
    let s := s.remapHost
    ({ s with boot := { s.boot with dimmsDone := true } } : Dev).showShort

def execDimmTrainingDone (spd : List (List DimmSpd)) (s : State) : Host.Outcome State Fault Refusal :=
  shaped (spdShape spd) (s.after (s.dev.dimmsTrained spd))

/-! Steps 6 to 8. -/

/-- Every port with a role has ended its training, or waits for certification to establish keys (R431). -/
def Dev.portsReady (s : Dev) : Bool :=
  (List.range 48).all (fun f => s.portRole f == 0 || s.dieState (portDie f) != 0 || decide (s.portState f ≥ 2) || s.flag F.PORT_STATUS_KEYWAIT f)

/-- TARGET 3 firmware of records copied to HOSTMEM: whether every write of it was answered OK; none while a home must wait. -/
def Dev.copyFirmware (s : Dev) (recs : List ImgRec) : Option Bool × Dev :=
  (recs.filter (fun r => r.type == 9 && r.target == 3)).foldl (fun x r =>
    match x.1 with
    | none => x
    | some ok =>
      let y := x.2.bulkWrite .mgmt (some r.scope) none (fieldAt r.bytes 0x18 8) (bytesAt r.bytes 0x30 (fieldAt r.bytes 0x28 4))
      match y.1 with
      | .bytes _ => (some ok, y.2)
      | .err _ => (some false, y.2)
      | .wait => (none, y.2)) (some true, s)

/-- The firmware is in HOSTMEM: step 6 ends, and step 7 begins, which a package reset leaves out (R108). What lies past the populated capacity
is not stored. -/
def Dev.firmwareCopied (s : Dev) : Dev :=
  if s.phase ≠ 5 ∨ !s.boot.stacksDone ∨ !s.boot.dimmsDone ∨ !s.portsReady ∨ s.boot.fwDone then s
  else
    let x := s.copyFirmware s.boot.records
    if x.1.isNone then s
    else
      let s := { x.2 with boot := { x.2.boot with fwDone := true } }
      if s.flag F.BOOT_STATUS_COLD 0 then s.setPhase 6 else s

def execFirmwareCopyDone (s : State) : Host.Outcome State Fault Refusal := s.after s.dev.firmwareCopied

/-- Step 7 (R111): attestation bank bits burned until one reads back 1, four at most; the session's level-1 seed and I are drawn. -/
def Dev.reserveLeaf (s : Dev) : List Bool → Nat → Dev
  | _, 0 => (({ s with att := { s.att with exhausted := true } } : Dev).setFlag F.BOOT_STATUS_ATTEST_EXHAUSTED 0 true).attShow
  | backs, n + 1 =>
    let q := s.fused.attNext
    if q ≥ 16384 then s.reserveLeaf [] 0
    else
      let s := ({ s with fused := { s.fused with attNext := q + 1 } } : Dev).setFld F.ATTEST_FUSE_COUNT_NEXT 0 (q + 1)
      match backs with
      | true :: _ =>
        let a := s.drbg 9 48
        let s := { a.2 with att := { a.2.att with leaf := q, seed := a.1.take 32, ident := a.1.drop 32, next := 0, certified := false, exhausted := false } }
        (s.setFlag F.BOOT_STATUS_LEAF_RESERVED 0 true).attShow
      | _ :: rest => s.reserveLeaf rest n
      | [] => s.reserveLeaf [] n

def Dev.leafStep (s : Dev) (backs : List Bool) : Dev :=
  if s.phase ≠ 6 ∨ s.flag F.BOOT_STATUS_LEAF_RESERVED 0 ∨ s.flag F.BOOT_STATUS_ATTEST_EXHAUSTED 0 then s else s.reserveLeaf backs 4

def execAttestLeafReserve (readbacks : List Bool) (s : State) : Host.Outcome State Fault Refusal := s.afterBurn (s.dev.leafStep readbacks)

/-- Release (R112): PHASE 7; every partition the image defines enters RUN, or RESET or FAILED where it touches a die in reset or DEAD;
CAPC starts from its fused budget (R115). -/
def Dev.releaseAll (s : Dev) : Dev :=
  let ready := if s.flag F.BOOT_STATUS_COLD 0 then
      s.phase == 6 && (s.flag F.BOOT_STATUS_LEAF_RESERVED 0 || s.flag F.BOOT_STATUS_ATTEST_EXHAUSTED 0)
    else s.phase == 5 && s.boot.fwDone
  if !ready then s
  else
    let s := s.setPhase 7
    let s := (List.range 32).foldl (fun s g => s.setFld F.CAPC_REGION_BUDGET_W g s.fused.capcBudget) s
    s.recs.foldl (fun s e =>
      let ds := s.diesOf e.1
      if ds.any (fun d => s.dieState d == 2) then s.setPartState e.1 5
      else if ds.any (fun d => s.dieState d == 1) then s.setPartState e.1 4
      else s.enterRun e.1) s

def execRelease (s : State) : Host.Outcome State Fault Refusal := s.after s.dev.releaseAll

/-- The level-1 tree is certified (R111): waiting requests are answered, and ports that wait for it send their OFFER. -/
def Dev.certifyDone (s : Dev) : Dev :=
  if s.phase ≠ 7 ∨ s.att.seed.isEmpty ∨ s.att.certified ∨ s.dieState 9 ≠ 0 then s
  else
    let s := s.certify
    let s := s.attServe s.att.waiting.length
    (List.range 48).foldl (fun s f => if s.flag F.PORT_STATUS_KEYWAIT f then s.kxOffer f else s) s

def execLevel1Certified (s : State) : Host.Outcome State Fault Refusal := s.after s.dev.certifyDone

/-! Partial reload (R116, R117, R563). -/

/-- The end of a reload: what RELOAD_STATUS shows. -/
def Dev.reloadEnd (s : Dev) (code : Option Nat) : Dev :=
  let s := { s with boot := { s.boot with reload := [], reloadBytes := [], reloadErr := none, reloadWho := none, reloadPart := none, reloadStage := 0 } }
  let s := (s.setFlag F.RELOAD_STATUS_BUSY 0 false).setFlag F.RELOAD_CTRL_GO 0 false
  match code with
  | none => (s.setFlag F.RELOAD_STATUS_DONE 0 true).setFlag F.RELOAD_STATUS_FAILED 0 false
  | some c => ((s.setFlag F.RELOAD_STATUS_FAILED 0 true).setFlag F.RELOAD_STATUS_DONE 0 false).setFld F.RELOAD_STATUS_CODE 0 c

/-- The image copied into the reload buffer: its header first, then as much as its length says. A party may name only an address in NEAR
or HOSTMEM that is its own (step 1); where a home must wait, the copy is tried again. A header that check 1 refuses is judged as it
is, its length being no length. An image that begins at an allowed address and whose IMAGE_LENGTH runs past what its party may name
ends SCOPE: the spec gives no code for it (DESIGN CHOICE, log entry 102). -/
def Dev.reloadCopy (s : Dev) : Dev :=
  let a := s.fld F.RELOAD_ADDR_ADDRESS 0
  let who := s.boot.reloadWho
  let fail := fun (s : Dev) (c : Nat) => ({ s with boot := { s.boot with reloadStage := 2, reloadErr := some c } } : Dev)
  let memory := match s.localForm a with
    | some b => (match s.place b with | .near _ _ _ | .host _ _ => true | _ => false)
    | none => false
  if a % 8 ≠ 0 || !memory || !s.rangeOpen who a 128 then fail s 0x0A
  else
    let h := s.bulkRead .mgmt who none a 128
    match h.1 with
    | .wait => s
    | .err _ => fail h.2 1
    | .bytes hd =>
      let n := min (max 128 (imgLen hd)) (2 ^ 24)
      if headerGood hd true && !h.2.rangeOpen who a n then fail h.2 0x0A
      else if !headerGood hd true then { h.2 with boot := { h.2.boot with reloadStage := 2, reloadBytes := hd } }
      else
        let r := h.2.bulkRead .mgmt who none a n
        match r.1 with
        | .wait => s
        | .err _ => fail r.2 1
        | .bytes bs => { r.2 with boot := { r.2.boot with reloadStage := 2, reloadBytes := bs } }

/-- A write to RELOAD_CTRL: GO, unless a reload is in progress or the device is not released. -/
def Dev.writeReloadCtrl (s : Dev) (who : Who) (w : Word) : Dev :=
  if F.RELOAD_CTRL_GO.get w = 0 ∨ s.flag F.RELOAD_STATUS_BUSY 0 ∨ s.phase ≠ 7 then s
  else
    let party := match who with | .core n _ => s.partOfCore n | _ => none
    let s := (s.setFlag F.RELOAD_STATUS_BUSY 0 true).setFlag F.RELOAD_CTRL_GO 0 true
    ({ s with boot := { s.boot with reloadWho := party, reloadStage := 1, reloadErr := none, reloadBytes := [], reload := [], reloadPart := none } } : Dev).reloadCopy

def execReloadGo (who : Who) (s : State) : Host.Outcome State Fault Refusal :=
  s.after (s.dev.asWriter who ⟨.RELOAD_CTRL, 0⟩ 1 (fun d w => d.writeReloadCtrl who w))

/-- The reload of a partition begins (step 4): from RUN through QUIESCE, with a reset under way in one reset, from FAILED to RESET. -/
def Dev.reloadReset (s : Dev) (p : Nat) : Dev :=
  let s := s.setPartSt p { s.partSt p with reload := true }
  match s.partState p with
  | 2 => s.partQuiesce p 5
  | 3 | 4 => s
  | _ => s.enterReset p 5

/-- The copied image is verified. -/
def Dev.reloadVerify (s : Dev) : Dev :=
  let s := if s.boot.reloadStage = 1 then s.reloadCopy else s
  if s.boot.reloadStage ≠ 2 then s
  else match s.boot.reloadErr with
    | some c => s.reloadEnd (some c)
    | none =>
      let bs := s.boot.reloadBytes
      let p := imgTarget bs
      let s := s.setFld F.RELOAD_STATUS_PARTITION 0 p
      if (match s.boot.reloadWho with | some q => q != p | none => false) then s.reloadEnd (some 0x0A)
      else match s.judgeImage true (2 ^ 24) bs with
        | .error e => s.reloadEnd (some e.code)
        | .ok recs => ({ s with boot := { s.boot with reload := recs, reloadPart := some p, reloadStage := 3 } } : Dev).reloadReset p

def execReloadVerifyDone (s : State) : Host.Outcome State Fault Refusal := s.after s.dev.reloadVerify

/-- A region that its partition drops: unowned, its blocks at their reset values. -/
def Dev.dropRegion (s : Dev) (g : Nat) : Dev :=
  let s := s.clearRegs (fun k => match regOfKey k with
    | none => false
    | some r => r.name.domain == .partition && match r.unitOf with | some (b, u) => b.region u == some g | none => false)
  let s := [4 * g, 4 * g + 1, 4 * g + 2, 4 * g + 3].foldl (fun s c => s.setFld F.CL_STATUS_PHYS_SLOT c (s.fused.slots.getD c 0)) s
  s.showRegion g

/-- The pads of the regions that a partition gains are zero (R152). -/
def Dev.zeroGained (s : Dev) (old new : PartRec) : Dev :=
  (List.range 128).foldl (fun s c => if bitOf new.regions (c / 4) && !bitOf old.regions (c / 4) then s.padZero c else s) s

/-- UGEN of every unit that a new HOSTMEM range takes from outside the old one (R313). -/
def Dev.takeUnits (s : Dev) (old new : PartRec) : Dev :=
  ((List.range new.hostSize).map (new.hostOff + ·)).foldl (fun s u =>
    if old.hostOff ≤ u ∧ u < old.hostOff + old.hostSize then s
    else
      let lo := hostBase / 64 + u * 2 ^ 24
      let s := (List.range 16).foldl (fun s i => s.lltForget (32 + i) (fun l => decide (lo ≤ l ∧ l < lo + 2 ^ 24))) s
      s.advanceUgen u) s

/-- LOADING: the records of the partial image are applied, the firmware is copied, and the partition enters RUN. Where a write of the firmware
is answered with another code than OK, its record cannot be applied: the partition enters FAILED (R281), and RELOAD_STATUS shows a
failure whose CODE the spec does not give: a free value (log entry 107). -/
def Dev.reloadLoad (s : Dev) (differ : Bool) : Dev :=
  let s0 := s
  match s.boot.reloadPart with
  | none => s
  | some p =>
    if s.partState p ≠ 1 then s
    else
      let recs := s.boot.reload
      let old := (s.partRec p).getD .none
      let new := old.after p recs
      let gone := (List.range 32).filter (fun g => bitOf old.regions g && !bitOf new.regions g)
      let s := ((s.takeUnits old new).zeroGained old new).applySpares recs
      let s := s.applyPart p recs differ
      let s := (gone.foldl Dev.dropRegion s).showVfs
      let s := { s with att := { s.att with partial_ := SMap.set s.att.partial_ p (imgSerial s.boot.reloadBytes) } }
      let x := s.showShort.copyFirmware recs
      match x.1 with
      | none => s0
      | some true => (x.2.enterRun p).reloadEnd none
      | some false =>
        let r := x.2.free 256
        (r.2.setPartState p 5).reloadEnd (some r.1)

def execReloadLoadingDone (differ : Bool) (s : State) : Host.Outcome State Fault Refusal := s.after (s.dev.reloadLoad differ)

end Sys2Proof.Machine
end

