-- ==== Sys2Proof/Machine/Pcie.lean ====
section
/-! DEFINITION. The PCI Express port (file 17): functions, configuration space and the status capability, apertures and their ordering,
the staging window, MSI-X, the resets of a function, protocol violations; and the bounds of requesters (R522), the port's among them. -/

namespace Sys2Proof.Machine

open Sys2Proof

/-! Functions and configuration requests (R112, R113, R467, R474, R475). -/

def Dev.pciUp (s : Dev) : Bool := s.flag F.PCI_STATUS_LINK_UP 0

/-- A function answers: PF0 and PF1 always, VF n (n + 1) while VF Enable covers it. -/
def Dev.fnExists (s : Dev) (f : Nat) : Bool :=
  f < 2 || (s.flag F.PCI_STATUS_VF_ENABLE 0 && decide (f ≤ s.fld F.PCI_STATUS_NUM_VFS 0 + 1))

/-- A completion: status 0 Successful Completion, 1 Unsupported Request, 2 Configuration Request Retry Status, 4 Completer Abort. -/
def Dev.pciComplete (s : Dev) (f tag code : Nat) (data : List Byte) : Dev := s.emit (.completion f tag code data)

/-- A configuration request of a function: Retry Status but after release and in the staging wait, Unsupported Request from a function that
is not there or is under reset, else served; a read gives a dword. -/
def Dev.config (s : Dev) (f tag : Nat) (work : Dev → Option Nat × Dev) : Dev :=
  if !s.pciUp then s
  else if s.phase ≠ 7 ∧ s.phase ≠ 8 then s.pciComplete f tag 2 []
  else if !s.fnExists f || (s.fn f).flr.isSome then s.pciComplete f tag 1 []
  else
    let r := work s
    r.2.pciComplete f tag 0 (match r.1 with | some v => leBytes 4 v | none => [])

/-! Resets of a function (R302, R475). -/

/-- What an FLR does: the contexts of the function are disabled, requests to it are turned away until it completes. A vault's stream to the
function loses its path. -/
def Dev.fnStop (s : Dev) (f : Nat) : Dev :=
  let s := if f = 0 then s else
    ((List.range 4096).filter (fun c => s.fld F.CTX_CTRL_FUNC c == f && s.bound c)).foldl (fun s c => s.disableCtx c 3) s
  let s := s.setFn f { s.fn f with flr := some s.time }
  if f < 2 then s
  else s.recs.foldl (fun s e => if e.2.vf + 1 = f then s.gxPump e.1 else s) s

/-- The function's own registers at their reset values. -/
def Dev.fnClear (s : Dev) (f : Nat) : Dev := s.setFn f { s.fn f with bme := false, open_ := [], pend := [] }

/-- The functions that VF Enable covers. -/
def Dev.vfs (s : Dev) : List Nat := if s.flag F.PCI_STATUS_VF_ENABLE 0 then (List.range (s.fld F.PCI_STATUS_NUM_VFS 0)).map (· + 2) else []

/-- VF Enable cleared. -/
def Dev.vfDisable (s : Dev) : Dev :=
  let fs := s.vfs
  fs.foldl (fun s f => (s.fnClear f).fnStop f) (s.setFlag F.PCI_STATUS_VF_ENABLE 0 false)

/-- A Function Level Reset; of PF0 it takes VF Enable with it. -/
def Dev.flr (s : Dev) (f : Nat) : Dev :=
  let s := if f = 0 then s.vfDisable else s
  (s.fnClear f).fnStop f

def execFlr (f : FuncIx) (tag : BitVec 14) (s : State) : Host.Outcome State Fault Refusal :=
  s.afterMgmt (s.dev.config f tag.toNat (fun s => (none, s.flr f)))

/-- The FLR of a function completes. -/
def execFlrComplete (f : FuncIx) (s : State) : Host.Outcome State Fault Refusal :=
  s.afterMgmt (s.dev.setFn f { s.dev.fn f with flr := none })

/-- A write to VF Enable and NumVFs: ignored in the staging wait (R474); without ARI it sets NO_ARI; a clear acts as an FLR of every VF. -/
def Dev.vfEnable (s : Dev) (enable : Bool) (n : Nat) (ari : Bool) : Dev :=
  if s.phase ≠ 7 then s
  else if !enable then s.vfDisable
  else if !ari then s.setFlag F.PCI_STATUS_NO_ARI 0 true
  else if s.flag F.PCI_STATUS_VF_ENABLE 0 then s
  else (s.setFlag F.PCI_STATUS_VF_ENABLE 0 true).setFld F.PCI_STATUS_NUM_VFS 0 n

def execVfEnableWrite (tag : BitVec 14) (enable : Bool) (numVfs : Fin 33) (ari : Bool) (s : State) : Host.Outcome State Fault Refusal :=
  s.afterMgmt (s.dev.config 0 tag.toNat (fun s => (none, s.vfEnable enable numVfs ari)))

/-- Bus Master Enable written: a clear acts as an FLR on PF1 or a VF; once set, what is pending and unmasked is sent (R473). -/
def Dev.writeBme (s : Dev) (f : Nat) (b : Bool) : Dev :=
  let x := s.fn f
  if x.bme = b then s
  else if !b then
    let s := s.setFn f { x with bme := false }
    if f = 0 then s else s.fnStop f
  else
    let go := x.pend.filter x.open_.contains
    go.foldl (fun s v => s.emit (.msix f v)) (s.setFn f { x with bme := true, pend := x.pend.filter (fun v => !x.open_.contains v) })

def execBusMasterClear (f : FuncIx) (tag : BitVec 14) (s : State) : Host.Outcome State Fault Refusal :=
  s.afterMgmt (s.dev.config f tag.toNat (fun s => (none, s.writeBme f false)))

/-- A Hot Reset or link down: an FLR of every function; no read outstanding is completed. -/
def Dev.hotReset (s : Dev) : Dev :=
  if !s.pciUp then s
  else
    let s := { s with pci := { s.pci with reqs := s.pci.reqs.filter (·.write) } }
    let s := (s.flr 0).flr 1
    (s.setFlag F.PCI_STATUS_LINK_UP 0 false).setFld F.PCI_STATUS_NUM_VFS 0 0

def execHotReset (s : State) : Host.Outcome State Fault Refusal := s.afterMgmt s.dev.hotReset

/-- Link training reaches L0 (R465, R474): rate code 1–7, width in lanes; without flit mode only at 32 GT/s and below. -/
def Dev.pciTrained (s : Dev) (rate width : Nat) (flit : Bool) : Dev :=
  if s.pciUp || s.phase < 2 || s.pins.perstLow then s
  else
    let s := (s.setFlag F.PCI_STATUS_LINK_UP 0 true).setFld F.PCI_STATUS_RATE 0 (if flit then rate else min rate 5)
    (s.setFld F.PCI_STATUS_WIDTH 0 width).setFlag F.PCI_STATUS_FLIT 0 flit

def execPcieLinkUp (rate : Fin 7) (width : Fin 3) (flit : Bool) (s : State) : Host.Outcome State Fault Refusal :=
  s.after (s.dev.pciTrained (rate.val + 1) (2 ^ width.val) flit)

/-! The status capability (R477). -/

/-- ACTION written: taken only with its key, and then it reads zero. -/
def Dev.dvsecAction (s : Dev) (v : Nat) : Dev :=
  if bitsOf v 0 8 ≠ 0xA5 then { s with pci := { s.pci with action := bitsOf v 0 15 } }
  else
    let s := { s with pci := { s.pci with action := 0 } }
    let s := if bitOf v 13 then s.askReset (bitsOf v 8 5) 1 1 0 else s
    if bitOf v 14 then s.packageAsk else s

/-- CRASH_DATA: the dword at CRASH_SEL, which advances. -/
def Dev.crashData (s : Dev) : Nat × Dev := (s.crashDword s.pci.sel, { s with pci := { s.pci with sel := (s.pci.sel + 1) % 2 ^ 32 } })

/-- STATUS. -/
def Dev.dvsecStatus (s : Dev) : Nat :=
  s.phase + (if s.faultN then 16 else 0) + (if s.pins.tripped then 32 else 0) + (if s.crashes > 0 then 64 else 0)

/-- A dword of the capability that a read does not change. -/
def Dev.dvsec (s : Dev) (o : Nat) : Nat :=
  match o / 4 with
  | 0 => 0x00010023
  | 1 => Config.vendorId % 65536 + 0x03010000
  | 2 => 0x0001
  | 3 => s.dvsecStatus
  | 4 => bitsOf (s.reg .BOOT_ERROR 0).toNat 0 32
  | 5 => bitsOf s.partStates 0 32
  | 6 => bitsOf s.partStates 32 32
  | 7 => (if s.crashes > 0 then 320 else 0) + min s.crashes 65535 * 65536
  | 8 => s.pci.sel
  | 10 => s.pci.action
  | _ => 0

/-- A configuration read. What only the base specification defines reads as a free value. -/
def Dev.configRead (s : Dev) (f off : Nat) : Nat × Dev :=
  if f = 0 ∧ 0x400 ≤ off ∧ off < 0x430 then
    if (off - 0x400) / 4 = 9 then s.crashData else (s.dvsec (off - 0x400), s)
  else if off < 4 ∧ f < 2 then (Config.vendorId % 65536 + (0x0900 + f) * 65536, s)
  else
    let r := s.free (2 ^ 32)
    if off / 4 = 1 then (r.1 - (if bitOf r.1 2 then 4 else 0) + (if (s.fn f).bme then 4 else 0), r.2) else r

/-- A configuration write: the command register's Bus Master Enable, CRASH_SEL, ACTION. -/
def Dev.configWrite (s : Dev) (f off v : Nat) : Dev :=
  if off / 4 = 1 then s.writeBme f (bitOf v 2)
  else if f = 0 ∧ off / 4 = 0x420 / 4 then { s with pci := { s.pci with sel := v } }
  else if f = 0 ∧ off / 4 = 0x428 / 4 then s.dvsecAction v
  else s

def execConfigRequest (f : FuncIx) (tag : BitVec 14) (off : BitVec 12) (write : Option (BitVec 32)) (s : State) :
    Host.Outcome State Fault Refusal :=
  s.afterMgmt (s.dev.config f tag.toNat (fun s => match write with
    | none => let r := s.configRead f off.toNat; (some r.1, r.2)
    | some v => (none, s.configWrite f off.toNat v.toNat)))

def execDvsecPartitionReset (tag : BitVec 14) (p : PartIx) (key : BitVec 8) (s : State) : Host.Outcome State Fault Refusal :=
  s.afterMgmt (s.dev.config 0 tag.toNat (fun s => (none, s.dvsecAction (key.toNat + p.val * 256 + 2 ^ 13))))

def execDvsecPackageReset (tag : BitVec 14) (key : BitVec 8) (s : State) : Host.Outcome State Fault Refusal :=
  s.afterMgmt (s.dev.config 0 tag.toNat (fun s => (none, s.dvsecAction (key.toNat + 2 ^ 14))))

def execCrashDataRead (tag : BitVec 14) (s : State) : Host.Outcome State Fault Refusal :=
  s.afterMgmt (s.dev.config 0 tag.toNat (fun s => let r := s.crashData; (some r.1, r.2)))

/-! MSI-X (R473). -/

/-- Vectors of a function. -/
def fnVectors (f : Nat) : Nat := if f < 2 then 64 else if f < 34 then 8 else 0

/-- A write to PCI_NOTIFY. -/
def Dev.writePciNotify (s : Dev) (w : Word) : Dev :=
  let f := F.PCI_NOTIFY_FUNC.get w
  let v := F.PCI_NOTIFY_VECTOR.get w
  if v ≥ fnVectors f ∨ (f = 0 ∧ v < 2) ∨ (f ≥ 2 ∧ v = 0) then s else s.msixRaise f v

def execPciNotify (who : Who) (func vec : BitVec 6) (s : State) : Host.Outcome State Fault Refusal :=
  s.after (s.dev.asWriter who ⟨.PCI_NOTIFY, 0⟩ (BitVec.ofNat 64 (func.toNat + vec.toNat * 64)) (fun d w => d.writePciNotify w))

/-- A vector unmasked: its pending write is sent. -/
def Dev.msixOpen (s : Dev) (f v : Nat) : Dev :=
  let x := s.fn f
  if !s.pciUp || !s.fnExists f || decide (v ≥ fnVectors f) || x.open_.contains v then s
  else
    let go := x.bme && x.pend.contains v
    let s := s.setFn f { x with open_ := x.open_ ++ [v], pend := if go then x.pend.filter (· != v) else x.pend }
    if go then s.emit (.msix f v) else s

def execMsixUnmask (f : FuncIx) (v : Fin 64) (s : State) : Host.Outcome State Fault Refusal := s.after (s.dev.msixOpen f v)

/-! Memory requests: what turns one away (R469–R476). -/

/-- An error in PCI_ERR_LOG and PCI_ERR_ADDR: the first since VALID was cleared is shown, all are counted. -/
def Dev.pciLog (s : Dev) (f : Nat) (code : Resp) (write : Bool) (a : Nat) : Dev :=
  let s := s.count F.PCI_ERR_LOG_COUNT 0 1
  if s.flag F.PCI_ERR_LOG_VALID 0 then s
  else
    let s := ((s.setFlag F.PCI_ERR_LOG_VALID 0 true).setFld F.PCI_ERR_LOG_FUNC 0 f).setFld F.PCI_ERR_LOG_CODE 0 code.num
    (s.setFlag F.PCI_ERR_LOG_WRITE 0 write).setFld F.PCI_ERR_ADDR_ADDRESS 0 a

def Dev.unsupported (s : Dev) : Dev := s.count F.PCI_VIOL_UNSUPPORTED 0 1

/-- A read to be completed at once with a status, in its place among the reads received before it (R472). -/
def Dev.readEnds (s : Dev) (f tag code : Nat) (data : List Byte) : Dev :=
  { s with pci := { s.pci with reqs := s.pci.reqs ++ [PciReq.mk f false [] data 0 data.length 0 .normal 0 tag none (code + 2)] } }

/-- The BARs of a function are in service: after release, PF0's in the staging wait too, while I/O die 0 is out of reset (R474, R526). -/
def Dev.barsUp (s : Dev) (f : Nat) : Bool :=
  s.fnExists f && s.dieState 9 == 0 && (s.phase == 7 || (s.phase == 8 && f == 0))

/-- A memory request turned away before it reaches a BAR: UR, or discarded, and counted where the spec counts it. -/
def Dev.turnAway (s : Dev) (f tag : Nat) (write odd : Bool) : Option Dev :=
  let s' := if write then s else s.readEnds f tag 1 []
  if !s.barsUp f then some s'
  else if (s.fn f).flr.isSome then some (if write then s'.unsupported else s')
  else if odd then some s'.unsupported
  else none

/-! Apertures (R470–R472). -/

/-- The aperture that an offset of a function's BAR 0 lies in. -/
def aperOf (f off : Nat) : Nat := if f = 1 then off / 2 ^ 32 % 16 else 16 + 4 * (f - 2) + off / 2 ^ 32 % 4

/-- The aperture takes requests: it is enabled, and PF1's does not name a vault (R480). -/
def Dev.aperOn (s : Dev) (a : Nat) : Bool := s.flag F.APER_ENABLE a && (decide (16 ≤ a) || !s.isVault (s.fld F.APER_PARTITION a))

/-- The pieces of a request from an address: line address, data, mask. -/
def pciPieces (a : Nat) (bs : List (Option Byte)) : List (Nat × Line × BitVec 64) :=
  let at_ := fun (l : Nat) (i : Nat) => if l * 64 + i < a then none else (bs[l * 64 + i - a]?).getD none
  ((List.range ((a + bs.length + 63) / 64 - a / 64)).map (fun k =>
    let l := a / 64 + k
    let cells := (List.range 64).map (at_ l)
    (l, lineOf (cells.map (·.getD 0)), BitVec.ofNat 64 ((cells.zipIdx).foldl (fun m x => if x.1.isSome then m + 2 ^ x.2 else m) 0)))).filter
      (fun p => p.2.2 != 0)

/-- The line that a piece asks for, in local form; a sum past bit 54 names no line. -/
def Dev.pciLine (s : Dev) (l : Nat) : Option Nat := if l ≥ 2 ^ 49 then none else (s.localForm (l * 64)).map (· / 64)

/-- The pieces of an issued request, as far as their homes answer. -/
def Dev.pciSend (s : Dev) (q : PciReq) : Nat → PciReq × Dev
  | 0 => (q, s)
  | n + 1 => match q.pieces with
    | [] => (q, s)
    | (l, d, m) :: rest =>
      let x := match s.pciLine l with
        | none => (some (Resp.homeAbsent, (0 : Line)), s)
        | some k =>
          let kind := if !q.write then ReqKind.rdOnce else if m = fullMask then ReqKind.wrLine else ReqKind.wrPart
          s.request ⟨kind, k, .pcie q.func, q.tag, some q.part, some q.ctx, q.hint, d, m⟩
      match x.1 with
      | none => (q, s)
      | some (code, ln) =>
        let bad := code != .ok
        let s := if bad && q.write then x.2.pciLog q.func code true (l * 64) else x.2
        let err := if bad && !q.write then some (q.err.getD (code, l * 64)) else q.err
        s.pciSend { q with pieces := rest, got := if q.write then [] else q.got ++ lineBytes ln, err := err } n

/-- The pieces of a request that wait for an earlier write of its function to their line (R380, R472), and the others. -/
def PciReq.split (q : PciReq) (before : List PciReq) : List (Nat × Line × BitVec 64) × List (Nat × Line × BitVec 64) :=
  q.pieces.partition (fun p => before.any (fun b => b.write && b.func == q.func && b.pieces.any (fun x => x.1 == p.1)))

/-- The requests of the port in the order received (R472): one that must wait for earlier writes of its function waits; the others send
what they can. A write all of whose lines have answered is gone. -/
def Dev.pciIssue (s : Dev) (before : List PciReq) : List PciReq → List PciReq × Dev
  | [] => (before, s)
  | q :: rest =>
    if q.issued = 0 && before.any (fun b => b.write && b.func == q.func) then s.pciIssue (before ++ [q]) rest
    else
      let ps := q.split before
      let t := s.pciSend { q with issued := max 1 q.issued, pieces := ps.2 } ps.2.length
      let r : PciReq × Dev := ({ t.1 with pieces := ps.1 ++ t.1.pieces }, t.2)
      if r.1.write && r.1.pieces.isEmpty then
        let s := match r.1.err with | some (c, a) => r.2.pciLog q.func c true a | none => r.2
        s.pciIssue before rest
      else r.2.pciIssue (before ++ [r.1]) rest

/-- Reads completed in the order received (R470, R472). -/
def Dev.pciAnswer (s : Dev) : Nat → Dev
  | 0 => s
  | n + 1 => match takeFirst (fun (q : PciReq) => !q.write) s.pci.reqs with
    | none => s
    | some (q, rest) =>
      let t := { s with pci := { s.pci with reqs := rest } }
      if q.issued ≥ 2 then (t.pciComplete q.func q.tag (q.issued - 2) q.got).pciAnswer n
      else if q.issued = 0 || !q.pieces.isEmpty then s
      else match q.err with
        | none => (t.pciComplete q.func q.tag 0 (bytesAt q.got q.skip q.len)).pciAnswer n
        | some (c, a) => ((t.pciLog q.func c false a).pciComplete q.func q.tag 4 []).pciAnswer n

/-- The port goes on with what waits, unless I/O die 0 is in reset or a package reset is being drained for. -/
def Dev.pciRun (s : Dev) : Dev :=
  if s.dieState 9 != 0 || !s.issues then s
  else
    let reqs := s.pci.reqs
    let r := ({ s with pci := { s.pci with reqs := [] } } : Dev).pciIssue [] reqs
    ({ r.2 with pci := { r.2.pci with reqs := r.1 } } : Dev).pciAnswer reqs.length

/-- A memory request through an aperture, admitted: with Relaxed Ordering a write is issued at once. -/
def Dev.aperRequest (s : Dev) (f tag off : Nat) (write ro : Bool) (bs : List (Option Byte)) : Dev :=
  let a := aperOf f off
  if !s.aperOn a then (if write then s else s.readEnds f tag 4 []).unsupported.pciRun
  else
    let addr := s.fld F.APER_BASE a * 2 ^ 30 + off % 2 ^ 32
    if !write && f ≥ 2 then ((s.pciLog f .perm false (addr / 64 * 64)).readEnds f tag 4 []).pciRun
    else
      let q : PciReq := ⟨f, write, pciPieces addr bs, [], addr % 64, bs.length, s.fld F.APER_CONTEXT a, hintOf (s.fld F.APER_HINT a),
        s.fld F.APER_PARTITION a, tag, none, if write && ro then 1 else 0⟩
      ({ s with pci := { s.pci with reqs := s.pci.reqs ++ [q] } } : Dev).pciRun

/-- A memory write of PF1 or a VF: its bytes, those without byte enable absent; odd where its traffic class is not 0. -/
def Dev.aperWrite (s : Dev) (f off : Nat) (bs : List (Option Byte)) (ro odd : Bool) : Dev :=
  if !s.pciUp || f == 0 then s
  else match s.turnAway f 0 true odd with
    | some t => t.pciRun
    | none => s.aperRequest f 0 off true ro bs

def execApertureWrite (f : FuncIx) (off : BitVec 36) (data : List (Option Byte)) (ro : Bool) (tc : Fin 8) (s : State) :
    Host.Outcome State Fault Refusal :=
  s.after (s.dev.aperWrite f off.toNat data ro (tc != 0))

/-- A memory read of PF1 or a VF; odd where its traffic class is not 0 or it is an AtomicOp. -/
def Dev.aperRead (s : Dev) (f tag off len : Nat) (odd : Bool) : Dev :=
  if !s.pciUp || f == 0 then s
  else match s.turnAway f tag false odd with
    | some t => t.pciRun
    | none => s.aperRequest f tag off false false (List.replicate len (some 0))

def execApertureRead (f : FuncIx) (tag : BitVec 14) (off : BitVec 36) (len : Fin 4097) (tc : Fin 8) (atomicOp : Bool) (s : State) :
    Host.Outcome State Fault Refusal :=
  s.after (s.dev.aperRead f tag.toNat off.toNat len (tc != 0 || atomicOp))

/-- A write to APER_a: one that sets ENABLE is ignored where its CONTEXT lies outside the partition, where PF1's aperture names a vault, and
where no partition names the VF. -/
def Dev.writeAper (s : Dev) (a : Nat) (w : Word) : Dev :=
  let vf := (s.recs.find? (fun e => e.2.vf == (a - 16) / 4 + 1)).map (·.1)
  let p := if a < 16 then some (F.APER_PARTITION.get w) else vf
  let good := match p with
    | none => false
    | some p => s.partOfCtx (F.APER_CONTEXT.get w) == some p && (decide (16 ≤ a) || !s.isVault p)
  if F.APER_ENABLE.get w = 1 && !good then s
  else
    let keep := s.fld F.APER_PARTITION a
    let s := s.storeReg ⟨.APER, a⟩ w
    if a < 16 then s else s.setFld F.APER_PARTITION a keep

def execAperRegisterWrite (who : Who) (a : Fin 144) (w : Word) (s : State) : Host.Outcome State Fault Refusal :=
  s.after (s.dev.asWriter who ⟨.APER, a⟩ w (fun d w => d.writeAper a w))

/-! The staging window (R109, R113, R469). -/

/-- Bytes of the staging memory from an offset: none past its end or where a word cannot be read. -/
def Dev.stageRead (s : Dev) (off n : Nat) : Option (List Byte) × Dev :=
  if off + n > s.stageRoom then (none, s)
  else
    let pads := s.stagePads
    let r := (List.range ((off + n + 63) / 64 - off / 64)).foldl (fun (acc : Option (List Byte) × Dev) k =>
      match stagePlace pads ((off / 64 + k) * 64) with
      | some (c, o) =>
        let x := acc.2.padRead c o (rangeMask off n (off / 64 + k))
        (if x.1 == .ok then acc.1.map (· ++ lineBytes x.2.1) else none, x.2.2)
      | none => (none, acc.2)) (some [], s)
    (r.1.map (fun bs => bytesAt bs (off % 64) n), r.2)

/-- Bytes written into the staging memory. -/
def Dev.stageWrite (s : Dev) (off : Nat) (bs : List (Option Byte)) : Dev :=
  let pads := s.stagePads
  (pciPieces off bs).foldl (fun s p => match stagePlace pads (p.1 * 64) with
    | some (c, o) => (s.padWrite c o p.2.2 p.2.1).2
    | none => s) s

/-- An access through PF0 BAR 2. -/
def Dev.stageAccess (s : Dev) (tag off : Nat) (write : Option (List (Option Byte))) (len : Nat) : Dev :=
  if !s.pciUp then s
  else match s.turnAway 0 tag write.isSome false with
    | some t => t.pciRun
    | none =>
      let t := match write with
        | some bs => if s.phase = 8 ∧ off + bs.length ≤ s.stageRoom then s.stageWrite off bs else s.unsupported
        | none =>
          if s.phase ≠ 8 then s.readEnds 0 tag 4 []
          else match s.stageRead off len with
            | (some bs, t) => t.readEnds 0 tag 0 bs
            | (none, t) => t.readEnds 0 tag 4 []
      t.pciRun

def execStagingBarAccess (tag : BitVec 14) (off : BitVec 29) (write : Option (List (Option Byte))) (len : Fin 4097) (s : State) :
    Host.Outcome State Fault Refusal :=
  s.after (s.dev.stageAccess tag.toNat off.toNat write len)

/-! Violations (R476). -/

def Dev.pciViolation (s : Dev) (f : Fld) : Dev := if s.pciUp then s.count f 0 1 else s

def execPoisonedWrite (s : State) : Host.Outcome State Fault Refusal := s.after (s.dev.pciViolation F.PCI_VIOL_POISONED)

def execUnexpectedCompletion (s : State) : Host.Outcome State Fault Refusal := s.after (s.dev.pciViolation F.PCI_VIOL_UNEXPECTED_CPL)

def execMalformedTlp (s : State) : Host.Outcome State Fault Refusal := s.after (s.dev.pciViolation F.PCI_VIOL_MALFORMED)

/-! Requester bounds (R522). -/

/-- The die of a requester. -/
def Requester.die : Requester → Nat
  | .engine e _ => regionOfEngine e / 4
  | .l2 _ _ | .core _ _ | .walk _ _ _ => 8
  | .pcie _ => 9
  | .queue q => q.val / 512

/-- The address of the slot that a queue fetches next. -/
def Dev.slotAddr (s : Dev) (q : Nat) : Nat :=
  let pos := s.fetchPos q
  match (s.queue q).fallback with
  | some l => l.base * 4096 + 64 * (pos - 2 ^ 32)
  | none => s.fld F.Q_BASE_BASE q * 4096 + 64 * (pos % s.ringSlots q)

/-- The tile of an engine, by its number. -/
def Dev.tileOn (s : Dev) (e : Nat) : Option Tile :=
  if e < 512 then (SMap.find s.arrays (s.logical e)).map (·.tile) else SMap.find s.engs e

/-- A request reaches its bound without an answer: it answers TIMEOUT, and an answer that comes later is discarded (R60). -/
def Dev.requestTimeout (s : Dev) (r : Requester) : Dev :=
  let s' := s.count F.DIE_ERR_COUNTS_TIMEOUTS r.die 1
  match r with
  | .engine e addr =>
    let e := if e.val < 512 then s.logical e else e.val
    match s.tileOn e with
    | none => s
    | some t =>
      let s' := { s' with remSent := s'.remSent.filter (fun q => q.tag != e) }
      s'.tileError e t .timeout addr
  | .l2 n line => if s.l2Waits n line then s'.coreComp n 0 line .timeout else s
  | .core n addr =>
    let h := s.hart n
    if (h.waitOn (addr / 64)).isSome then s'.coreComp n 2 (addr / 64) .timeout
    else if h.wcOut.any (fun e => e.line == addr / 64) then s'.coreComp n 3 (addr / 64) .timeout
    else s
  | .queue q =>
    if s.mayFetch q then s'.setQueue q { s'.queue q with fetched := (s'.queue q).fetched ++ [⟨s.fetchPos q, [], some (.timeout, s.slotAddr q)⟩] } else s
  | .walk c ctx vpage =>
    if s.walks.any (fun w => w.cluster == c.val && w.ctx == ctx.val && w.vpage == vpage && !w.walked) then
      { s' with walks := s'.walks.map (fun w => if w.cluster == c.val && w.ctx == ctx.val && w.vpage == vpage && !w.walked then { w with walked := true, leaf := none } else w) }
    else s
  | .pcie ix =>
    match s.pci.reqs[ix]? with
    | none => s
    | some q =>
      match q.pieces with
      | [] => s
      | (l, _, _) :: _ =>
        if q.issued ≠ 1 then s
        else
          let q := { q with pieces := [], err := some (q.err.getD (.timeout, l * 64)) }
          ({ s' with pci := { s'.pci with reqs := s'.pci.reqs.set ix q } } : Dev).pciRun

def execRequestTimeout (r : Requester) (s : State) : Host.Outcome State Fault Refusal := s.after (s.dev.requestTimeout r)

end Sys2Proof.Machine
end

