-- ==== Sys2Proof/Machine/Serial.lean ====
section
/-! DEFINITION. The serial paths: MGMT over I3C (R112, R504, R531) with its MCTP and PLDM endpoints, and the TAP (R560). -/

namespace Sys2Proof.Machine

open Sys2Proof

/-! I3C. -/

/-- An answer on the bus. -/
def Dev.serial (s : Dev) (bs : List Byte) : Dev := s.emit (.serial bs)

/-- MGMT is served over I3C from the end of step 2, at its dynamic address (R112, R531). -/
def Dev.onBus (s : Dev) (t : Dev) : Dev := if s.pins.i3cAddr.isSome && decide (s.phase ≥ 2) then t else s

/-- A dynamic address: by ENTDAA, or by SETDASA to the static address that the strap gives (R549). -/
def Dev.i3cAssign (s : Dev) (static : Option Nat) (addr : Nat) : Dev :=
  let named := match static with | some a => a == 0x30 + s.pins.i3cSa | none => true
  if s.pins.i3cAddr.isSome || !named || s.phase < 2 then s else { s with pins := { s.pins with i3cAddr := some addr } }

def execI3cAddressAssign (static : Option (BitVec 7)) (addr : BitVec 7) (s : State) : Host.Outcome State Fault Refusal :=
  s.afterMgmt (s.dev.i3cAssign (static.map (·.toNat)) addr.toNat)

/-- STATUS: the capability's bytes 0x0C to 0x1F. -/
def Dev.i3cStatus (s : Dev) : List Byte := [3, 4, 5, 6, 7].flatMap (fun i => leBytes 4 (s.dvsec (4 * i)))

def execI3cStatus (s : State) : Host.Outcome State Fault Refusal := s.afterMgmt (s.dev.onBus (s.dev.serial s.dev.i3cStatus))

/-- Dwords of the crash record. -/
def execI3cCrashRead (first : BitVec 16) (count : BitVec 8) (s : State) : Host.Outcome State Fault Refusal :=
  let n := count.toNat
  s.afterMgmt (if n = 0 ∨ n > 64 then s.dev
    else s.dev.onBus (s.dev.serial ((List.range n).flatMap (fun i => leBytes 4 (s.dev.crashDword (first.toNat + i))))))

/-- Entries of the error log by their index in the ring. -/
def execI3cElogRead (first : BitVec 16) (count : BitVec 8) (s : State) : Host.Outcome State Fault Refusal :=
  let n := count.toNat
  s.afterMgmt (if n = 0 ∨ n > 8 then s.dev
    else s.dev.onBus (s.dev.serial ((List.range n).flatMap (fun i =>
      (List.range 4).flatMap (fun w => leBytes 8 (s.dev.reg .ELOG ((first.toNat + i) % 1024 * 4 + w)).toNat)))))

/-- A reset command: answered accepted (0) or refused (1), and then done. -/
def Dev.i3cReset (s : Dev) (good : Bool) (work : Dev → Dev) : Dev :=
  s.onBus (if good then work (s.serial [0]) else s.serial [1])

def execI3cPartitionReset (key p : BitVec 8) (s : State) : Host.Outcome State Fault Refusal :=
  s.afterMgmt (s.dev.i3cReset (key == 0xA5 && decide (p.toNat < 32) && s.dev.partRuns p.toNat) (fun d => d.askReset p.toNat 1 1 0))

def execI3cPackageReset (key : BitVec 8) (s : State) : Host.Outcome State Fault Refusal :=
  s.afterMgmt (s.dev.i3cReset (key == 0xA5) Dev.packageAsk)

def execI3cDieReset (key d : BitVec 8) (s : State) : Host.Outcome State Fault Refusal :=
  s.afterMgmt (s.dev.i3cReset (key == 0xA5 && decide (d.toNat < 11)) (fun x => x.dieReset d.toNat 4 0))

def execI3cAttest (p : PartIx) (package : Bool) (data : List Byte) (s : State) : Host.Outcome State Fault Refusal :=
  shaped (dataShape data) (s.afterMgmt (s.dev.onBus (s.dev.i3cAttest (if package then none else some p.val) data)))

/-- An MCTP control message answered: completion code first. -/
def Dev.mctp (s : Dev) : MctpCtl → Dev
  | .setEndpointId eid =>
    if eid = 0 ∨ eid = 0xFF then s.serial [2]
    else ({ s with pins := { s.pins with eid := eid.toNat } } : Dev).serial [0, 0, eid, 0]
  | .getEndpointId => s.serial [0, BitVec.ofNat 8 s.pins.eid, 0, 0]
  | .getVersions t =>
    if t = 0 ∨ t = 1 ∨ t = 0x7E ∨ t = 0xFF then
      let r := s.free (2 ^ 32)
      r.2.serial ([0, 1] ++ leBytes 4 r.1)
    else s.serial [0x80]
  | .getMessageTypes => s.serial [0, 3, 0, 1, 0x7E]

def execMctpControl (m : MctpCtl) (s : State) : Host.Outcome State Fault Refusal := s.afterMgmt (s.dev.onBus (s.dev.mctp m))

/-- A sensor's reading. -/
def Dev.sensor (s : Dev) : Sensor → Nat
  | .tmax d => s.fld F.THERM_STATUS_TMAX d
  | .railVoltage n => s.fld F.RAIL_STATUS_VR_VOUT n
  | .railCurrent n => s.fld F.RAIL_STATUS_VR_IOUT n
  | .packagePower => ((List.range 40).map (fun n => s.fld F.RAIL_STATUS_VR_POUT n)).sum

def execPldmRequest (x : Sensor) (s : State) : Host.Outcome State Fault Refusal :=
  s.afterMgmt (s.dev.onBus (s.dev.serial (leBytes 4 (s.dev.sensor x))))

/-! Boundary scan (R560, R561). The instruction loaded: 0 BYPASS, 1 IDCODE, 2 SAMPLE/PRELOAD, 3 EXTEST, 4 CLAMP, 5 HIGHZ. -/

/-- The instruction in effect: those that drive pins act as BYPASS but in PHASE 8 and 9. -/
def Dev.tapNow (s : Dev) : Nat := if s.pins.tapIr ≥ 3 ∧ s.phase ≠ 8 ∧ s.phase ≠ 9 then 0 else s.pins.tapIr

/-- What the boundary outputs are driven with by the TAP: the boundary register under EXTEST and CLAMP. -/
def Dev.tapDrives (s : Dev) : Option Nat := if s.tapNow = 3 ∨ s.tapNow = 4 then some s.pins.bsr else none

/-- The outputs float: PWRGOOD is low, or HIGHZ is in effect. -/
def Dev.outputsFloat (s : Dev) : Bool := s.pins.floating || s.tapNow == 5

/-- The boundary register captures the pins, whose levels the model does not hold, and is loaded. -/
def Dev.boundary (s : Dev) (v : Nat) : Dev :=
  let r := s.free (2 ^ 64)
  ({ r.2 with pins := { r.2.pins with bsr := v } } : Dev).emit (.scan r.1)

def Dev.loadTap (s : Dev) (i : Nat) : Dev := { s with pins := { s.pins with tapIr := i } }

def execBypass (s : State) : Host.Outcome State Fault Refusal := s.afterPin (s.dev.loadTap 0)

def execIdcode (s : State) : Host.Outcome State Fault Refusal := s.afterPin ((s.dev.loadTap 1).emit (.scan 0x10900B67))

def execSamplePreload (v : Word) (s : State) : Host.Outcome State Fault Refusal := s.afterPin ((s.dev.loadTap 2).boundary v.toNat)

def execExtest (v : Word) (s : State) : Host.Outcome State Fault Refusal :=
  let d := s.dev.loadTap 3
  s.afterPin (if d.tapNow = 3 then d.boundary v.toNat else d)

def execClamp (s : State) : Host.Outcome State Fault Refusal := s.afterPin (s.dev.loadTap 4)

def execHighz (s : State) : Host.Outcome State Fault Refusal := s.afterPin (s.dev.loadTap 5)

end Sys2Proof.Machine
end

