-- ==== Sys2Proof/Machine/Ctrl.lean ====
section
/-! DEFINITION. Accesses to CTRL space (R53–R58): what a write to each register does, plain register writes, PF0's BAR 0, strict device
accesses of the cores. -/

namespace Sys2Proof.Machine

open Sys2Proof

/-! The work of a write (R14): a register with an effect of its own, else its fields by their access codes. -/

/-- The work of a write taken from someone. -/
def Dev.regWork (s : Dev) (who : Who) (r : RegId) (w : Word) : Dev :=
  match r.name with
  | .CH_CTRL => s.writeChCtrl r.ix w
  | .SC_PRELOAD_CTRL => s.writeScPreload r.ix w
  | .SC_WAYS => s.writeScWays r.ix w
  | .CC_CTRL => s.writeCcCtrl r.ix w
  | .XP_PR_HEAD => s.writePrHead r.ix w
  | .XP_PR_RESP => s.writePrResp r.ix w
  | .XP_INV_CTRL => s.writeInvCtrl r.ix w
  | .XP_CHECK_CTRL => s.writeCheckCtrl r.ix w
  | .DB => s.writeDb r.ix w
  | .Q_CTRL => s.writeQCtrl r.ix w
  | .Q_CFG => s.writeQCfg r.ix w
  | .Q_BASE | .Q_CQ_BASE | .Q_SEED => s.writeQFixed r w
  | .Q_CQ_HEAD => s.writeCqHead r.ix w
  | .TOKEN => s.writeToken (r.ix / 4096) (r.ix % 4096) w
  | .CTX_CTRL => s.writeCtxCtrl r.ix w
  | .CTX_PACE => s.writeCtxPace r.ix w
  | .MVE_STAGE => s.writeMveStage r.ix w
  | .PART_CTRL => s.writePartCtrl r.ix w
  | .LINK_CTRL => s.writeLinkCtrl r.ix w
  | .PORT_CTRL => s.writePortCtrl r.ix w
  | .ATT_CTRL => s.writeAttCtrl who w
  | .FAB_CTRL => s.writeFabCtrl w
  | .FAB_DNF_RAISE => s.writeDnfRaise w
  | .JOB_CFG => s.writeJobCfg r.ix w
  | .GX_CTRL => let a := s.free 3; a.2.writeGxCtrl r.ix a.1 w
  | .GX_DEST_CFG => s.writeGxDest r.ix w
  | .DIE_CTRL => s.writeDieCtrl r.ix w
  | .RESET_CTRL => s.writeResetCtrl w
  | .BOOT_GO => s.writeBootGo w
  | .RELOAD_CTRL => s.writeReloadCtrl who w
  | .PCI_NOTIFY => s.writePciNotify w
  | .APER => s.writeAper r.ix w
  | _ => s.storeReg r w

/-- What a read of a register gives (R14); a token is read at the file of its partition's lead region. -/
def Dev.regRead (s : Dev) (r : RegId) : Word :=
  if r.name = .TOKEN then
    match s.partOfRegion (r.ix / 4096) with
    | some p => s.readReg ⟨.TOKEN, s.leadRegion p * 4096 + r.ix % 4096⟩
    | none => s.readReg r
  else s.readReg r

/-! Interrupt files (R55, R57). -/

/-- Who reaches a core's file, by the page of its window: 0 the machine-level file, 1 the supervisor-level file, the others guest files. An
engine's MSI reaches those that are open to its partition. -/
def Dev.fileReached (s : Dev) (who : Who) (core page : Nat) : Bool :=
  match who with
  | .pf0 | .mgmt => true
  | .engine p => s.msiOpen (some p.val) core
  | .core n .machine => n.val == core
  | .core n .supervisor => n.val == core && decide (1 ≤ page)
  | .core n .guest => n.val == core && decide (2 ≤ page)
  | .core _ .user => false

/-- A write to a file: at its first word the identity becomes pending. -/
def Dev.fileWrite (s : Dev) (core page off : Nat) (w : Word) : Dev :=
  let k := core * 16 + page
  let id := bitsOf w.toNat 0 32
  let f := SMap.get s.files [] k
  if off ≠ 0 || id = 0 || id > 2047 || f.contains id then s
  else { s with files := SMap.set s.files k (f ++ [id]) }

/-! An access by its CTRL offset. -/

/-- A read or, with a word, a write: its code, the word read, the device after it. A read that is not OK gives no data. -/
def Dev.ctrlAccess (s : Dev) (who : Who) (off size : Nat) (write : Option Word) : Resp × Word × Dev :=
  let pl := ctrlPlace off
  match pl with
  | .absent => (.homeAbsent, 0, s)
  | .imsic core page o =>
    if !s.blockAnswers who .coreGroup 0 then (.homeAbsent, 0, s)
    else if !ctrlSized off size pl || !s.fileReached who core page then (.perm, 0, s)
    else match write with
      | some w => (.ok, 0, s.fileWrite core page o w)
      | none => (.ok, 0, s)
  | .block b u o =>
    if !s.blockAnswers who b u then (.homeAbsent, 0, s)
    else if !ctrlSized off size pl || !s.ctrlOpen who b u ((regAt b u o).or (bandOf b u o)) then (.perm, 0, s)
    else match regAt b u o, write with
      | none, _ => (.ok, 0, s)
      | some r, none => (.ok, s.regRead r, s)
      | some r, some w => match s.takes who b u r w with
        | none => (.ok, 0, s)
        | some w => (.ok, 0, s.regWork who r w)

/-- A register write of someone's: an aligned 8-byte write in CTRL space (R14). -/
def execRegisterWrite (who : Who) (off : BitVec 32) (w : Word) (s : State) : Host.Outcome State Fault Refusal :=
  let r := s.dev.ctrlAccess who off.toNat 8 (some w)
  s.afterBurn (r.2.2.emit (.ctrl who r.1 none))

/-! PF0 BAR 0 (R469, R472, R476). -/

/-- An access through BAR 0: a write refused is discarded and a read refused ends in Completer Abort, both logged. -/
def Dev.bar0 (s : Dev) (tag off size : Nat) (write : Option Word) : Dev :=
  if !s.pciUp then s
  else match s.turnAway 0 tag write.isSome false with
    | some t => t.pciRun
    | none =>
      let r := s.ctrlAccess .pf0 off size write
      let t := if r.1 = .ok then r.2.2 else r.2.2.pciLog 0 r.1 write.isSome (ctrlBase + off)
      (if write.isSome then t
       else if r.1 = .ok then t.readEnds 0 tag 0 (leBytes size r.2.1.toNat)
       else t.readEnds 0 tag 4 []).pciRun

def execBar0CtrlAccess (tag : BitVec 14) (off : BitVec 32) (size : Fin 9) (write : Option Word) (s : State) :
    Host.Outcome State Fault Refusal :=
  s.afterBurn (s.dev.bar0 tag.toNat off.toNat size.val write)

/-! Strict device accesses of the cores (R371, R378). -/

/-- A strict access of the core waits for its response. -/
def Hart.strictWaits (h : Hart) : Bool := h.waits.any (fun x => x.1 == .strictLoad || x.1 == .strictStore)

/-- The request of a strict access to memory. -/
def Dev.strictAsk (s : Dev) (n : CoreIx) (w : WaitKind × Nat × Nat) (pa size : Nat) (store : Option Word) : Dev :=
  match store with
    | none => (s.stall n w).askOnce n .rdOnce pa size 0 (byteMask pa size)
    | some v => (s.stall n w).askOnce n .wrPart pa size (lineOf (List.replicate (pa % 64) 0 ++ leBytes size v.toNat)) (byteMask pa size)

/-- A strict access of a core: misaligned, it faults; to CTRL, it is answered there; to memory, it is one request to its home or to another
device. One strict access of a core is outstanding at a time. -/
def Dev.strictAccess (s : Dev) (n : CoreIx) (lvl : Level) (pa size : Nat) (store : Option Word) : Dev :=
  if !s.coreUp n then s
  else
    let kind := if store.isSome then WaitKind.strictStore else WaitKind.strictLoad
    let h := s.hart n
    let s := s.setHart n { h with sealed := true }
    let pa' := s.answerAddr pa
    let w : WaitKind × Nat × Nat := (kind, pa', size)
    if !([1, 2, 4, 8].contains size) || pa % size ≠ 0 then s.finish n w (kind.fault pa)
    else if (s.hart n).strictWaits then s.result n .stalled
    else match s.localForm pa with
      | some a =>
        if ctrlBase ≤ a ∧ a ≤ ctrlLimit then
          let r := s.ctrlAccess (.core n lvl) (a - ctrlBase) size store
          if r.1 = .ok then r.2.2.finish n w (if store.isSome then .done else .value (r.2.1.toNat % 2 ^ (8 * size)))
          else r.2.2.finish n w (kind.fault pa)
        else s.strictAsk n w pa size store
      | none => if remoteForm pa then s.strictAsk n w pa size store else s.finish n w (kind.fault pa)

def execStrictDeviceAccess (n : CoreIx) (lvl : Level) (pa : BitVec 56) (size : Fin 9) (store : Option (BitVec 64)) (s : State) :
    Host.Outcome State Fault Refusal :=
  s.afterBurn (s.dev.strictAccess n lvl pa.toNat size.val store)

/-! Loads and stores of the cores (R369): those of CTRL, in the local form or under the device's own ID (R44), and those of PBMT 2 are
strict device accesses; the others are made of weak normal memory. -/

/-- An access is a strict device access. -/
def Dev.strictly (s : Dev) (pa : Nat) (pbmt : Fin 4) : Bool :=
  memType pa pbmt == .strict || (memType pa pbmt != .pageFault && (match s.localForm pa with
    | some a => decide (ctrlBase ≤ a ∧ a ≤ ctrlLimit)
    | none => false))

def execCoreLoad (n : CoreAt) (pa : BitVec 56) (size : Fin 9) (pbmt : Fin 4) (bad : Bool) (s : State) :
    Host.Outcome State Fault Refusal :=
  shaped (loadShape size) (s.afterBurn
    (if s.dev.strictly pa.toNat pbmt then s.dev.strictAccess n.core n.lvl pa.toNat size.val none else s.dev.coreLoad n.core pa.toNat size pbmt bad))

def execCoreStore (n : CoreAt) (pa : BitVec 56) (data : List Byte) (pbmt : Fin 4) (merge : Bool) (s : State) :
    Host.Outcome State Fault Refusal :=
  shaped (storeShape data) (s.afterBurn
    (if s.dev.strictly pa.toNat pbmt && decide (data.length ≤ 8) then
      s.dev.strictAccess n.core n.lvl pa.toNat data.length (some (BitVec.ofNat 64 (leNat data)))
     else s.dev.coreStore n.core pa.toNat data (if s.dev.strictly pa.toNat pbmt then 2 else pbmt) merge))

/-! Time (R9, R62, R68): one REFCLK cycle, which is one CK_SLOW cycle, for each step on an empty queue. -/

/-- CK_ARITH cycles in the tick that begins at a time, for a step of the divider: thirteen, half or a quarter as many. -/
def arithCycles (time step : Nat) : Nat := 13 * (time + 1) / 2 ^ step - 13 * time / 2 ^ step

/-- CK_ARITH cycles of a region in this tick, at the divider that its engines hold (R63). -/
def Dev.regionCycles (s : Dev) (g : Nat) : Nat := arithCycles s.time (SMap.get s.pwr.steps 0 g)

/-- The counters of the logical arrays: RUN and HELD. -/
def Dev.tickArray (s : Dev) (a : Nat) : Dev :=
  let n := s.regionCycles (a / 16)
  (s.members a).foldl (fun s m =>
    if s.fld F.MXA_STATUS_STATE m = 2 then s.bump F.MXA_BUSY_COUNT m n
    else if s.fld F.MXA_STATUS_STATE m = 3 then s.bump F.MXA_HOLD_COUNT m n
    else s) s

/-- The counters of an engine: RUN and WAIT. -/
def Dev.tickEngine (s : Dev) (e : Nat) : Dev :=
  if e < 512 then s
  else
    let n := s.regionCycles (regionOfEngine e)
    match s.fld F.ENG_STATUS_STATE (e - 512) with
    | 2 => s.bump F.ENG_BUSY_COUNT (e - 512) n
    | 3 => s.bump F.ENG_WAIT_COUNT (e - 512) n
    | _ => s

/-- The counters of a context (R294). -/
def Dev.tickCtx (s : Dev) (c : Nat) : Dev :=
  if s.ctxState c = 2 then s.bump F.CTX_ACCT_RUN_RUN c 1
  else if (s.cx c).eligible.isSome then s.bump F.CTX_ACCT_WAIT_WAIT c 1
  else s

/-- SLOW_COUNT of every die whose PLL is in lock (R68). -/
def Dev.tickDies (s : Dev) : Dev :=
  (List.range 11).foldl (fun s d => if s.flag F.CLK_STATUS_PLL_LOCK d then s.bump F.SLOW_COUNT_COUNT d 1 else s) s

/-- What happens in one REFCLK cycle with no command: the counters, and what waited for a home goes on. -/
def Dev.tick (s : Dev) : Dev :=
  if !s.mgmtRuns then s
  else
    let s := if s.clocked then
        let s := s.tickDies
        let s := (s.arrays.map (·.1)).foldl Dev.tickArray s
        let s := (s.engs.map (·.1)).foldl Dev.tickEngine s
        let s := (s.ctxs.map (·.1)).foldl Dev.tickCtx s
        let s := (s.writeStamps.flushNotices s.notices.length).pciRun
        let s := s.attServe s.att.waiting.length
        if s.boot.reloadStage = 1 then s.reloadCopy else s
      else s
    { s with time := s.time + 1 }

end Sys2Proof.Machine
end

