-- ==== Sys2Proof/Machine/Dispatch.lean ====
section
/-! DEFINITION. The meaning of each command: one arm for each constructor of Instr. -/

namespace Sys2Proof.Machine

def exec (i : Instr) (s : State) : Host.Outcome State Fault Refusal :=
  match i with
  | .pwrgoodRise bootSrc i3cSa => Sys2Proof.Machine.execPwrgoodRise bootSrc i3cSa s
  | .pwrgoodFall => Sys2Proof.Machine.execPwrgoodFall s
  | .sysRstNLow => Sys2Proof.Machine.execSysRstNLow s
  | .perstNLow => Sys2Proof.Machine.execPerstNLow s
  | .perstNDeassert => Sys2Proof.Machine.execPerstNDeassert s
  | .fusesLoaded => Sys2Proof.Machine.execFusesLoaded s
  | .pllLock d => Sys2Proof.Machine.execPllLock d s
  | .lockLost d => Sys2Proof.Machine.execLockLost d s
  | .dividerStep d clk => Sys2Proof.Machine.execDividerStep d clk s
  | .imageReadDone image => Sys2Proof.Machine.execImageReadDone image s
  | .bootGo who => Sys2Proof.Machine.execBootGo who s
  | .recordsApplied differ => Sys2Proof.Machine.execRecordsApplied differ s
  | .stackTrainingDone d absent failed badSlices => Sys2Proof.Machine.execStackTrainingDone d absent failed badSlices s
  | .dimmTrainingDone spd => Sys2Proof.Machine.execDimmTrainingDone spd s
  | .firmwareCopyDone => Sys2Proof.Machine.execFirmwareCopyDone s
  | .attestLeafReserve readbacks => Sys2Proof.Machine.execAttestLeafReserve readbacks s
  | .release => Sys2Proof.Machine.execRelease s
  | .level1Certified => Sys2Proof.Machine.execLevel1Certified s
  | .reloadGo who => Sys2Proof.Machine.execReloadGo who s
  | .reloadVerifyDone => Sys2Proof.Machine.execReloadVerifyDone s
  | .reloadLoadingDone differ => Sys2Proof.Machine.execReloadLoadingDone differ s
  | .linkTrainingStart e => Sys2Proof.Machine.execLinkTrainingStart e s
  | .linkTrainingEnd e good rtt late rails => Sys2Proof.Machine.execLinkTrainingEnd e good rtt late rails s
  | .laneLockLoss e lane => Sys2Proof.Machine.execLaneLockLoss e lane s
  | .laneErrWindowEnd e => Sys2Proof.Machine.execLaneErrWindowEnd e s
  | .flitReceive e f => Sys2Proof.Machine.execFlitReceive e f s
  | .linkRetrain who e => Sys2Proof.Machine.execLinkRetrain who e s
  | .registerWrite who off w => Sys2Proof.Machine.execRegisterWrite who off w s
  | .nop q => Sys2Proof.Machine.execNop q s
  | .setSeed q => Sys2Proof.Machine.execSetSeed q s
  | .matmul a => Sys2Proof.Machine.execMatmul a s
  | .conv a => Sys2Proof.Machine.execConv a s
  | .vxEw c => Sys2Proof.Machine.execVxEw c s
  | .vxAct c => Sys2Proof.Machine.execVxAct c s
  | .vxReduce c => Sys2Proof.Machine.execVxReduce c s
  | .vxSoftmax c => Sys2Proof.Machine.execVxSoftmax c s
  | .vxNorm c => Sys2Proof.Machine.execVxNorm c s
  | .vxOptim c => Sys2Proof.Machine.execVxOptim c s
  | .spGather c => Sys2Proof.Machine.execSpGather c s
  | .spScatter c => Sys2Proof.Machine.execSpScatter c s
  | .spEmbed c => Sys2Proof.Machine.execSpEmbed c s
  | .spSpmv c => Sys2Proof.Machine.execSpSpmv c s
  | .tbPartition g => Sys2Proof.Machine.execTbPartition g s
  | .tbAggregate g => Sys2Proof.Machine.execTbAggregate g s
  | .cdCompress g => Sys2Proof.Machine.execCdCompress g s
  | .cdDecompress g => Sys2Proof.Machine.execCdDecompress g s
  | .mvCopy c => Sys2Proof.Machine.execMvCopy c s
  | .mvFill c => Sys2Proof.Machine.execMvFill c s
  | .mvPages c => Sys2Proof.Machine.execMvPages c s
  | .mxaTileStart a => Sys2Proof.Machine.execMxaTileStart a s
  | .mxaPassEnd a staged => Sys2Proof.Machine.execMxaPassEnd a staged s
  | .mxaWeightsAvailable a => Sys2Proof.Machine.execMxaWeightsAvailable a s
  | .mxaHoldLimitExpire a => Sys2Proof.Machine.execMxaHoldLimitExpire a s
  | .mxaSelftestRequest who c w => Sys2Proof.Machine.execMxaSelftestRequest who c w s
  | .mxaSelftestBegin a => Sys2Proof.Machine.execMxaSelftestBegin a s
  | .mxaSelftestEnd a good => Sys2Proof.Machine.execMxaSelftestEnd a good s
  | .mxaPowerGate a => Sys2Proof.Machine.execMxaPowerGate a s
  | .mxaPowerUpDone a => Sys2Proof.Machine.execMxaPowerUpDone a s
  | .selftestDue a => Sys2Proof.Machine.execSelftestDue a s
  | .padRead c off arr => Sys2Proof.Machine.execPadRead c off arr s
  | .engineTileTake t => Sys2Proof.Machine.execEngineTileTake t s
  | .tileSteal t => Sys2Proof.Machine.execTileSteal t s
  | .tableQueueTake u => Sys2Proof.Machine.execTableQueueTake u s
  | .mveStageWrite who c w => Sys2Proof.Machine.execMveStageWrite who c w s
  | .stageSplitEffect c => Sys2Proof.Machine.execStageSplitEffect c s
  | .engineResponseError e code addr => Sys2Proof.Machine.execEngineResponseError e code addr s
  | .tbeLockstepMismatch g => Sys2Proof.Machine.execTbeLockstepMismatch g s
  | .doorbell who q v => Sys2Proof.Machine.execDoorbell who q v s
  | .descriptorFetch q => Sys2Proof.Machine.execDescriptorFetch q s
  | .descriptorAccept q => Sys2Proof.Machine.execDescriptorAccept q s
  | .falseStartReread q => Sys2Proof.Machine.execFalseStartReread q s
  | .falseStartStop q => Sys2Proof.Machine.execFalseStartStop q s
  | .queueResume who q => Sys2Proof.Machine.execQueueResume who q s
  | .queueSkip who q resume => Sys2Proof.Machine.execQueueSkip who q resume s
  | .queueEnable who q cfg => Sys2Proof.Machine.execQueueEnable who q cfg s
  | .queueDisable who q cfg => Sys2Proof.Machine.execQueueDisable who q cfg s
  | .tileIssue q => Sys2Proof.Machine.execTileIssue q s
  | .hurdleArrive q => Sys2Proof.Machine.execHurdleArrive q s
  | .hurdlePoll q => Sys2Proof.Machine.execHurdlePoll q s
  | .hurdleExpire q => Sys2Proof.Machine.execHurdleExpire q s
  | .tokenWrite who g t v => Sys2Proof.Machine.execTokenWrite who g t v s
  | .descriptorComplete q => Sys2Proof.Machine.execDescriptorComplete q s
  | .completionRecordWrite q => Sys2Proof.Machine.execCompletionRecordWrite q s
  | .msiHoldoffExpire q => Sys2Proof.Machine.execMsiHoldoffExpire q s
  | .cqHeadWrite who q v => Sys2Proof.Machine.execCqHeadWrite who q v s
  | .partResetRequest who p => Sys2Proof.Machine.execPartResetRequest who p s
  | .quiesceDone p => Sys2Proof.Machine.execQuiesceDone p s
  | .quiesceLimitExpire p hung => Sys2Proof.Machine.execQuiesceLimitExpire p hung s
  | .partResetDone p => Sys2Proof.Machine.execPartResetDone p s
  | .runSlotGrant p => Sys2Proof.Machine.execRunSlotGrant p s
  | .lapEnd c => Sys2Proof.Machine.execLapEnd c s
  | .preemptGraceExpire c => Sys2Proof.Machine.execPreemptGraceExpire c s
  | .saveAreaWriteDone c => Sys2Proof.Machine.execSaveAreaWriteDone c s
  | .restoreReadDone c => Sys2Proof.Machine.execRestoreReadDone c s
  | .ctxHold who c w => Sys2Proof.Machine.execCtxHold who c w s
  | .ctxRelease who c w => Sys2Proof.Machine.execCtxRelease who c w s
  | .ctxClear who c w => Sys2Proof.Machine.execCtxClear who c w s
  | .ctxDisable who c w => Sys2Proof.Machine.execCtxDisable who c w s
  | .contextDrained c => Sys2Proof.Machine.execContextDrained c s
  | .drainLimitExpire c => Sys2Proof.Machine.execDrainLimitExpire c s
  | .pacerArm who c w => Sys2Proof.Machine.execPacerArm who c w s
  | .pacerPoll c => Sys2Proof.Machine.execPacerPoll c s
  | .t1ChannelAccess ch arrive upset => Sys2Proof.Machine.execT1ChannelAccess ch arrive upset s
  | .t2ChannelAccess m arrive upset => Sys2Proof.Machine.execT2ChannelAccess m arrive upset s
  | .ageFallback ctl => Sys2Proof.Machine.execAgeFallback ctl s
  | .patrolScrub ctl upset => Sys2Proof.Machine.execPatrolScrub ctl upset s
  | .channelMapout who ch => Sys2Proof.Machine.execChannelMapout who ch s
  | .mapoutComplete p => Sys2Proof.Machine.execMapoutComplete p s
  | .dimmTempRead m temp => Sys2Proof.Machine.execDimmTempRead m temp s
  | .hotDecay m => Sys2Proof.Machine.execHotDecay m s
  | .scRequest g chan blk r fault => Sys2Proof.Machine.execScRequest g chan blk r fault s
  | .scFill g chan blk => Sys2Proof.Machine.execScFill g chan blk s
  | .scPrefetchFill g chan blk => Sys2Proof.Machine.execScPrefetchFill g chan blk s
  | .scPreloadGo who g => Sys2Proof.Machine.execScPreloadGo who g s
  | .scPreloadDone g => Sys2Proof.Machine.execScPreloadDone g s
  | .scUnlock who g => Sys2Proof.Machine.execScUnlock who g s
  | .scWayWindow g => Sys2Proof.Machine.execScWayWindow g s
  | .scWayPowerDownDone g way => Sys2Proof.Machine.execScWayPowerDownDone g way s
  | .epochWrite who p epoch => Sys2Proof.Machine.execEpochWrite who p epoch s
  | .rdShared core line => Sys2Proof.Machine.execRdShared core line s
  | .rdUnique core line => Sys2Proof.Machine.execRdUnique core line s
  | .upgrade core line => Sys2Proof.Machine.execUpgrade core line s
  | .makeUnique core line => Sys2Proof.Machine.execMakeUnique core line s
  | .rdOnce src tag line part ctx hint mask => Sys2Proof.Machine.execRdOnce src tag line part ctx hint mask s
  | .wrLine src tag line part ctx hint data => Sys2Proof.Machine.execWrLine src tag line part ctx hint data s
  | .wrPart src tag line part ctx hint data mask => Sys2Proof.Machine.execWrPart src tag line part ctx hint data mask s
  | .atomic src tag line part ctx op data mask => Sys2Proof.Machine.execAtomic src tag line part ctx op data mask s
  | .wbDirty core line => Sys2Proof.Machine.execWbDirty core line s
  | .evictClean core line => Sys2Proof.Machine.execEvictClean core line s
  | .lostNote core line => Sys2Proof.Machine.execLostNote core line s
  | .snpShare core line => Sys2Proof.Machine.execSnpShare core line s
  | .snpInv core line => Sys2Proof.Machine.execSnpInv core line s
  | .snpAck core line => Sys2Proof.Machine.execSnpAck core line s
  | .snpData core line => Sys2Proof.Machine.execSnpData core line s
  | .grant core line evict => Sys2Proof.Machine.execGrant core line evict s
  | .comp dst line tag => Sys2Proof.Machine.execComp dst line tag s
  | .data dst line tag evict => Sys2Proof.Machine.execData dst line tag evict s
  | .snoopTimeout h line core => Sys2Proof.Machine.execSnoopTimeout h line core s
  | .reclaimOrder h => Sys2Proof.Machine.execReclaimOrder h s
  | .l2FlushLimitExpire core => Sys2Proof.Machine.execL2FlushLimitExpire core s
  | .coreLoad n pa size pbmt bad => Sys2Proof.Machine.execCoreLoad n pa size pbmt bad s
  | .coreStore n pa data pbmt merge => Sys2Proof.Machine.execCoreStore n pa data pbmt merge s
  | .storePerform n ix => Sys2Proof.Machine.execStorePerform n ix s
  | .wcDrain n ix => Sys2Proof.Machine.execWcDrain n ix s
  | .coreFence n pre sr sw si so => Sys2Proof.Machine.execCoreFence n pre sr sw si so s
  | .coreAmo n pa size fn x pbmt mark => Sys2Proof.Machine.execCoreAmo n pa size fn x pbmt mark s
  | .coreLr n pa size pbmt mark => Sys2Proof.Machine.execCoreLr n pa size pbmt mark s
  | .coreSc n pa data pbmt mark => Sys2Proof.Machine.execCoreSc n pa data pbmt mark s
  | .strictDeviceAccess n lvl pa size store => Sys2Proof.Machine.execStrictDeviceAccess n lvl pa size store s
  | .coreTrap n => Sys2Proof.Machine.execCoreTrap n s
  | .imsicMsi ix => Sys2Proof.Machine.execImsicMsi ix s
  | .coreWake n => Sys2Proof.Machine.execCoreWake n s
  | .corePowerGate n => Sys2Proof.Machine.execCorePowerGate n s
  | .ccDrop who c => Sys2Proof.Machine.execCcDrop who c s
  | .ccEnableWrite who c enable => Sys2Proof.Machine.execCcEnableWrite who c enable s
  | .atcMiss c ctx va tag need => Sys2Proof.Machine.execAtcMiss c ctx va tag need s
  | .htuWalk c ctx vpage => Sys2Proof.Machine.execHtuWalk c ctx vpage s
  | .walkDone c ctx vpage => Sys2Proof.Machine.execWalkDone c ctx vpage s
  | .prHeadWrite who p head => Sys2Proof.Machine.execPrHeadWrite who p head s
  | .prRespRetry who p id => Sys2Proof.Machine.execPrRespRetry who p id s
  | .prRespFail who p id => Sys2Proof.Machine.execPrRespFail who p id s
  | .prLimitExpire p ix => Sys2Proof.Machine.execPrLimitExpire p ix s
  | .invalidationGo who p ctrl => Sys2Proof.Machine.execInvalidationGo who p ctrl s
  | .atcInvAck p c => Sys2Proof.Machine.execAtcInvAck p c s
  | .invalidationLate p => Sys2Proof.Machine.execInvalidationLate p s
  | .checkFlush who p => Sys2Proof.Machine.execCheckFlush who p s
  | .portTrainingStart f => Sys2Proof.Machine.execPortTrainingStart f s
  | .echo f rtt => Sys2Proof.Machine.execEcho f rtt s
  | .cap f g => Sys2Proof.Machine.execCap f g s
  | .kx f p => Sys2Proof.Machine.execKx f p s
  | .portTrainingDone f good late => Sys2Proof.Machine.execPortTrainingDone f good late s
  | .frameReceive f head body errs rs => Sys2Proof.Machine.execFrameReceive f head body errs rs s
  | .frameSilence f => Sys2Proof.Machine.execFrameSilence f s
  | .rekey f => Sys2Proof.Machine.execRekey f s
  | .wavelengthLoss f w => Sys2Proof.Machine.execWavelengthLoss f w s
  | .rsErrorWindowEnd f => Sys2Proof.Machine.execRsErrorWindowEnd f s
  | .portRetrain who f => Sys2Proof.Machine.execPortRetrain who f s
  | .holdLsaTimeout f => Sys2Proof.Machine.execHoldLsaTimeout f s
  | .lsa f => Sys2Proof.Machine.execLsa f s
  | .lsaPeriodic => Sys2Proof.Machine.execLsaPeriodic s
  | .lsaAgeOut origin => Sys2Proof.Machine.execLsaAgeOut origin s
  | .starterElect => Sys2Proof.Machine.execStarterElect s
  | .disc f => Sys2Proof.Machine.execDisc f s
  | .rediscover who => Sys2Proof.Machine.execRediscover who s
  | .mapConverge => Sys2Proof.Machine.execMapConverge s
  | .routeRecompute => Sys2Proof.Machine.execRouteRecompute s
  | .fabricPacketSend => Sys2Proof.Machine.execFabricPacketSend s
  | .fabricPacketForward f => Sys2Proof.Machine.execFabricPacketForward f s
  | .fabricRd f => Sys2Proof.Machine.execFabricRd f s
  | .fabricWr f => Sys2Proof.Machine.execFabricWr f s
  | .fabricWrPart f => Sys2Proof.Machine.execFabricWrPart f s
  | .fabricAtomic f => Sys2Proof.Machine.execFabricAtomic f s
  | .fabricComp f => Sys2Proof.Machine.execFabricComp f s
  | .fabricData f => Sys2Proof.Machine.execFabricData f s
  | .fabDnfRaise who job => Sys2Proof.Machine.execFabDnfRaise who job s
  | .dnf f => Sys2Proof.Machine.execDnf f s
  | .configRequest f tag off write => Sys2Proof.Machine.execConfigRequest f tag off write s
  | .apertureWrite f off data ro tc => Sys2Proof.Machine.execApertureWrite f off data ro tc s
  | .apertureRead f tag off len tc atomicOp => Sys2Proof.Machine.execApertureRead f tag off len tc atomicOp s
  | .bar0CtrlAccess tag off size write => Sys2Proof.Machine.execBar0CtrlAccess tag off size write s
  | .stagingBarAccess tag off write len => Sys2Proof.Machine.execStagingBarAccess tag off write len s
  | .aperRegisterWrite who a w => Sys2Proof.Machine.execAperRegisterWrite who a w s
  | .flr f tag => Sys2Proof.Machine.execFlr f tag s
  | .vfEnableWrite tag enable numVfs ari => Sys2Proof.Machine.execVfEnableWrite tag enable numVfs ari s
  | .busMasterClear f tag => Sys2Proof.Machine.execBusMasterClear f tag s
  | .hotReset => Sys2Proof.Machine.execHotReset s
  | .poisonedWrite => Sys2Proof.Machine.execPoisonedWrite s
  | .unexpectedCompletion => Sys2Proof.Machine.execUnexpectedCompletion s
  | .malformedTlp => Sys2Proof.Machine.execMalformedTlp s
  | .pciNotify who func vec => Sys2Proof.Machine.execPciNotify who func vec s
  | .msixUnmask f v => Sys2Proof.Machine.execMsixUnmask f v s
  | .dvsecPartitionReset tag p key => Sys2Proof.Machine.execDvsecPartitionReset tag p key s
  | .dvsecPackageReset tag key => Sys2Proof.Machine.execDvsecPackageReset tag key s
  | .crashDataRead tag => Sys2Proof.Machine.execCrashDataRead tag s
  | .gxRelease who p agree => Sys2Proof.Machine.execGxRelease who p agree s
  | .gxExport who p agree => Sys2Proof.Machine.execGxExport who p agree s
  | .gxImport who p => Sys2Proof.Machine.execGxImport who p s
  | .gxChunk p agree => Sys2Proof.Machine.execGxChunk p agree s
  | .gxDestHeadWrite who p head => Sys2Proof.Machine.execGxDestHeadWrite who p head s
  | .attestRequest who w => Sys2Proof.Machine.execAttestRequest who w s
  | .nseHealthFail d which => Sys2Proof.Machine.execNseHealthFail d which s
  | .railLimiterTick d amps => Sys2Proof.Machine.execRailLimiterTick d amps s
  | .regionLimiterCompare g watts => Sys2Proof.Machine.execRegionLimiterCompare g watts s
  | .capcEpoch watts => Sys2Proof.Machine.execCapcEpoch watts s
  | .vrAlertAssert j => Sys2Proof.Machine.execVrAlertAssert j s
  | .vrAlertHoldExpire j => Sys2Proof.Machine.execVrAlertHoldExpire j s
  | .thermalSample d readings => Sys2Proof.Machine.execThermalSample d readings s
  | .thermalLevelRise z => Sys2Proof.Machine.execThermalLevelRise z s
  | .thermalLevelFall z => Sys2Proof.Machine.execThermalLevelFall z s
  | .thermtrip d => Sys2Proof.Machine.execThermtrip d s
  | .railSample n mv => Sys2Proof.Machine.execRailSample n mv s
  | .pmbusPoll n r => Sys2Proof.Machine.execPmbusPoll n r s
  | .errorReport => Sys2Proof.Machine.execErrorReport s
  | .elogSafetyClear who => Sys2Proof.Machine.execElogSafetyClear who s
  | .heartbeat d => Sys2Proof.Machine.execHeartbeat d s
  | .heartbeatLimitExpire d => Sys2Proof.Machine.execHeartbeatLimitExpire d s
  | .engineHangExpire e => Sys2Proof.Machine.execEngineHangExpire e s
  | .requestTimeout r => Sys2Proof.Machine.execRequestTimeout r s
  | .forcedResetExpire p => Sys2Proof.Machine.execForcedResetExpire p s
  | .dieReset who d => Sys2Proof.Machine.execDieReset who d s
  | .resetCtrlDie who mask key => Sys2Proof.Machine.execResetCtrlDie who mask key s
  | .resetCtrlPackage who key => Sys2Proof.Machine.execResetCtrlPackage who key s
  | .packageDrainDone => Sys2Proof.Machine.execPackageDrainDone s
  | .dieRelease d relocked bad => Sys2Proof.Machine.execDieRelease d relocked bad s
  | .i3cAddressAssign static addr => Sys2Proof.Machine.execI3cAddressAssign static addr s
  | .i3cStatus => Sys2Proof.Machine.execI3cStatus s
  | .i3cCrashRead first count => Sys2Proof.Machine.execI3cCrashRead first count s
  | .i3cElogRead first count => Sys2Proof.Machine.execI3cElogRead first count s
  | .i3cPartitionReset key p => Sys2Proof.Machine.execI3cPartitionReset key p s
  | .i3cPackageReset key => Sys2Proof.Machine.execI3cPackageReset key s
  | .i3cDieReset key d => Sys2Proof.Machine.execI3cDieReset key d s
  | .i3cAttest p package data => Sys2Proof.Machine.execI3cAttest p package data s
  | .mctpControl m => Sys2Proof.Machine.execMctpControl m s
  | .pldmRequest x => Sys2Proof.Machine.execPldmRequest x s
  | .bypass => Sys2Proof.Machine.execBypass s
  | .idcode => Sys2Proof.Machine.execIdcode s
  | .samplePreload v => Sys2Proof.Machine.execSamplePreload v s
  | .extest v => Sys2Proof.Machine.execExtest v s
  | .clamp => Sys2Proof.Machine.execClamp s
  | .highz => Sys2Proof.Machine.execHighz s
  | .sysRstNDeassert => Sys2Proof.Machine.execSysRstNDeassert s
  | .vrAlertDeassert j => Sys2Proof.Machine.execVrAlertDeassert j s
  | .channelTrainingLost ctl retrained => Sys2Proof.Machine.execChannelTrainingLost ctl retrained s
  | .refclkStop => Sys2Proof.Machine.execRefclkStop s
  | .vddIoFall => Sys2Proof.Machine.execVddIoFall s
  | .flrComplete f => Sys2Proof.Machine.execFlrComplete f s
  | .pcieLinkUp rate width flit => Sys2Proof.Machine.execPcieLinkUp rate width flit s

end Sys2Proof.Machine
end

