-- ==== Sys2Proof/Safety.lean ====
section
/-! DEFINITION. What counts as safe: a step that answers a next state, a part whose fuses only ever grow, a queue that only its sender
fills. -/

namespace Sys2Proof

open Sys2Proof.Machine

/-- A step answers a next state: the machine stops only at a command that is no event of the device. -/
def Safe (s : State) : Prop := ∃ t, step s = .next t

/-- The fuses of a part later in its life (R86): the anti-rollback floor has not fallen, no revocation and no attestation bit has been
undone, and what manufacture wrote is unchanged. -/
structure FusesGrown (f g : Fuses) : Prop where
  rollback : f.rollback ≤ g.rollback
  revoked  : f.revoked ||| g.revoked = g.revoked
  attNext  : f.attNext ≤ g.attNext
  options  : g.options = f.options
  keyHash  : g.keyHash = f.keyHash
  slots    : g.slots = f.slots
  spares   : g.spares = f.spares
  waves    : g.waves = f.waves
  trim     : g.trim = f.trim
  discId   : g.discId = f.discId
  budget   : g.capcBudget = f.capcBudget
  seed     : g.seed = f.seed

/-- The state with another device: its queue and its fuses as they were. -/
def Machine.State.withDev (s : State) (d : Dev) : State := { s with dev := d }

/-- The state after a command that burned fuses of the device (R86). -/
def Machine.State.withBurn (s : State) (d : Dev) : State := { s with dev := d, fuses := s.fuses.burned d.fused }

/-- A write command by someone of a word to a register is taken, and its work is done with the word v: the register's block answers the
writer (R81), its check lets the write through (R56–R58), and what is taken of the word is v (R58, R480). -/
def Machine.Dev.accepts (s : Dev) (who : Who) (r : RegId) (w v : Word) : Bool :=
  match r.unitOf with
  | none => false
  | some (b, u) => s.blockAnswers who b u && s.ctrlOpen who b u (some r) && s.takes who b u r w == some v

/-- The same command is turned away with PERM: the block answers, and its check refuses. -/
def Machine.Dev.refusesPerm (s : Dev) (who : Who) (r : RegId) : Bool :=
  match r.unitOf with
  | none => false
  | some (b, u) => s.blockAnswers who b u && !s.ctrlOpen who b u (some r)

/-- The commands that are events at the device's pins or in its test access port: they act with the clocks stopped too. -/
def Instr.atPins : Instr → Bool
  | .pwrgoodRise _ _ | .pwrgoodFall | .sysRstNLow | .perstNLow | .perstNDeassert | .vrAlertAssert _ | .thermtrip _ | .bypass
  | .idcode | .samplePreload _ | .extest _ | .clamp | .highz | .sysRstNDeassert | .vrAlertDeassert _ | .refclkStop
  | .vddIoFall => true
  | _ => false

/-- The commands that MGMT alone carries out, or that come over the ports it serves: they act while power is good and REFCLK runs
(R28, R108). -/
def Instr.byMgmt : Instr → Bool
  | .configRequest _ _ _ _ | .flr _ _ | .vfEnableWrite _ _ _ _ | .busMasterClear _ _ | .hotReset
  | .dvsecPartitionReset _ _ _ | .dvsecPackageReset _ _ | .crashDataRead _ | .vrAlertHoldExpire _ | .railSample _ _
  | .pmbusPoll _ _ | .errorReport | .elogSafetyClear _ | .heartbeatLimitExpire _ | .forcedResetExpire _ | .dieReset _ _
  | .resetCtrlDie _ _ _ | .resetCtrlPackage _ _ | .packageDrainDone | .i3cAddressAssign _ _ | .i3cStatus | .i3cCrashRead _ _
  | .i3cElogRead _ _ | .i3cPartitionReset _ _ | .i3cPackageReset _ | .i3cDieReset _ _ | .i3cAttest _ _ _ | .mctpControl _
  | .pldmRequest _ | .flrComplete _ => true
  | _ => false

/-- The commands that can burn fuses of the part (R86, R98, R502): the start of the boot image's use, the reservation of an attestation
leaf, and the accesses to CTRL space that can ask for these. -/
def Instr.burns : Instr → Bool
  | .imageReadDone _ | .bootGo _ | .attestLeafReserve _ | .registerWrite _ _ _ | .strictDeviceAccess _ _ _ _ _
  | .bar0CtrlAccess _ _ _ _ | .coreLoad _ _ _ _ _ | .coreStore _ _ _ _ _ => true
  | _ => false

/-- The register that a write command of someone names, and who writes it. -/
def Instr.writes : Instr → Option (Who × RegId)
  | .bootGo who => some (who, ⟨.BOOT_GO, 0⟩)
  | .reloadGo who => some (who, ⟨.RELOAD_CTRL, 0⟩)
  | .linkRetrain who e => some (who, ⟨.LINK_CTRL, e⟩)
  | .mxaSelftestRequest who c _ => some (who, ⟨.CL_SELFTEST_CTRL, c⟩)
  | .mveStageWrite who c _ => some (who, ⟨.MVE_STAGE, c⟩)
  | .doorbell who q _ => some (who, ⟨.DB, q⟩)
  | .queueResume who q => some (who, ⟨.Q_CTRL, q⟩)
  | .queueSkip who q _ => some (who, ⟨.Q_CTRL, q⟩)
  | .queueEnable who q _ => some (who, ⟨.Q_CFG, q⟩)
  | .queueDisable who q _ => some (who, ⟨.Q_CFG, q⟩)
  | .tokenWrite who g t _ => some (who, ⟨.TOKEN, g * 4096 + t⟩)
  | .cqHeadWrite who q _ => some (who, ⟨.Q_CQ_HEAD, q⟩)
  | .partResetRequest who p => some (who, ⟨.PART_CTRL, p⟩)
  | .ctxHold who c _ => some (who, ⟨.CTX_CTRL, c⟩)
  | .ctxRelease who c _ => some (who, ⟨.CTX_CTRL, c⟩)
  | .ctxClear who c _ => some (who, ⟨.CTX_CTRL, c⟩)
  | .ctxDisable who c _ => some (who, ⟨.CTX_CTRL, c⟩)
  | .pacerArm who c _ => some (who, ⟨.CTX_PACE, c⟩)
  | .channelMapout who ch => some (who, ⟨.CH_CTRL, ch⟩)
  | .scPreloadGo who g => some (who, ⟨.SC_PRELOAD_CTRL, g⟩)
  | .scUnlock who g => some (who, ⟨.SC_PRELOAD_CTRL, g⟩)
  | .epochWrite who p _ => some (who, ⟨.TIER_POOL_CFG, p⟩)
  | .ccDrop who c => some (who, ⟨.CC_CTRL, c⟩)
  | .ccEnableWrite who c _ => some (who, ⟨.CC_CTRL, c⟩)
  | .prHeadWrite who p _ => some (who, ⟨.XP_PR_HEAD, p⟩)
  | .prRespRetry who p _ => some (who, ⟨.XP_PR_RESP, p⟩)
  | .prRespFail who p _ => some (who, ⟨.XP_PR_RESP, p⟩)
  | .invalidationGo who p _ => some (who, ⟨.XP_INV_CTRL, p⟩)
  | .checkFlush who p => some (who, ⟨.XP_CHECK_CTRL, p⟩)
  | .portRetrain who f => some (who, ⟨.PORT_CTRL, f⟩)
  | .rediscover who => some (who, ⟨.FAB_CTRL, 0⟩)
  | .fabDnfRaise who _ => some (who, ⟨.FAB_DNF_RAISE, 0⟩)
  | .aperRegisterWrite who a _ => some (who, ⟨.APER, a⟩)
  | .pciNotify who _ _ => some (who, ⟨.PCI_NOTIFY, 0⟩)
  | .gxDestHeadWrite who p _ => some (who, ⟨.GX_DEST_CFG, p⟩)
  | .attestRequest who _ => some (who, ⟨.ATT_CTRL, 0⟩)
  | .elogSafetyClear who => some (who, ⟨.ELOG_STATUS, 0⟩)
  | .dieReset who d => some (who, ⟨.DIE_CTRL, d⟩)
  | .resetCtrlDie who _ _ => some (who, ⟨.RESET_CTRL, 0⟩)
  | .resetCtrlPackage who _ => some (who, ⟨.RESET_CTRL, 0⟩)
  | .gxRelease who p _ => some (who, ⟨.GX_CTRL, p⟩)
  | .gxExport who p _ => some (who, ⟨.GX_CTRL, p⟩)
  | .gxImport who p => some (who, ⟨.GX_CTRL, p⟩)
  | _ => none

end Sys2Proof
end

