-- ==== Sys2Proof/Certificates/Slice0/Obligations.lean ====
section
/-! DEFINITION. The statements for the provers. A statement with several clauses is one conjunction, a clause for each command it
names; a clause says under which conditions on the state and the operands the command completes, and gives the next state whole, so that
all it does not show as changed is unchanged. -/

section

open Sys2Proof Sys2Proof.Machine

/-- The events of the reset and power pins complete (R108, R551, R524, R474, R561). The model's own choices that it may rest on: log entries 3, 6, 60. -/
def Obligations.PinEventsTakeEffect : Prop :=
  (∀ (s : State) (bootSrc i3cSa : Fin 4), s.dev.pins.pwrgood = false →
     exec (.pwrgoodRise bootSrc i3cSa) s = .next (s.withDev (
       s.dev.pwr.alerts.foldl Dev.alertAccept
         (Dev.setFlag { s.dev with
           time := 0, boot := BootSt.init,
           pins := { s.dev.pins with pwrgood := true, floating := false, refclk := true, bootSrc := bootSrc, i3cSa := i3cSa } }
           F.BOOT_STATUS_COLD 0 true)))) ∧
  (∀ (s : State), s.dev.pins.pwrgood = true →
     exec .pwrgoodFall s = .next (s.withDev (
       { Dev.reset with
         draws := s.dev.draws, powerOns := s.dev.powerOns + 1, pwr := { PwrSt.init with alerts := s.dev.pwr.alerts },
         pins := { PinSt.init with sysLow := s.dev.pins.sysLow, perstLow := s.dev.pins.perstLow, refclk := s.dev.pins.refclk },
         out := s.dev.out }))) ∧
  (∀ (s : State), s.dev.pins.sysLow = false → s.dev.pins.refclk = true → s.dev.pins.pwrgood = true → s.dev.pins.perstLow = false →
     exec .sysRstNLow s = .next (s.withDev (
       { s.dev.packageFault 6 0 with pins := { (s.dev.packageFault 6 0).pins with sysLow := true } }))) ∧
  (∀ (s : State), s.dev.pins.perstLow = false → s.dev.pins.refclk = true → s.dev.pins.pwrgood = true → s.dev.pins.sysLow = false →
     exec .perstNLow s = .next (s.withDev (
       { s.dev.packageFault 7 0 with pins := { (s.dev.packageFault 7 0).pins with perstLow := true } }))) ∧
  (∀ (s : State), exec .sysRstNDeassert s = .next (s.withDev ({ s.dev with pins := { s.dev.pins with sysLow := false } }))) ∧
  (∀ (s : State), exec .perstNDeassert s = .next (s.withDev ({ s.dev with pins := { s.dev.pins with perstLow := false } }))) ∧
  (∀ (s : State), exec .refclkStop s = .next (s.withDev ({ s.dev with pins := { s.dev.pins with refclk := false } }))) ∧
  (∀ (s : State), exec .vddIoFall s = .next (s.withDev ({ s.dev with pins := { s.dev.pins with tripped := false } })))

/-- Fuse loading, PLL lock, loss of lock and the divider steps complete (R86, R66, R67, R63, R68, R507). The model's own choices that it may rest on: log entries 3, 47, 61. -/
def Obligations.ClockEventsTakeEffect : Prop :=
  (∀ (s : State), s.dev.clocked = true → s.dev.phase = 0 →
     exec .fusesLoaded s = .next (s.withDev ((({ s.dev with fused := s.fuses, applied := [] } : Dev).showFuses.attShow).setPhase 1))) ∧
  (∀ (s : State) (d : DieIx), s.dev.clocked = true → s.dev.phase ≠ 0 → s.dev.dieState d ≠ 2 → s.dev.flag F.CLK_STATUS_PLL_LOCK d = false →
     s.dev.pwr.railHold = [] →
     exec (.pllLock d) s = .next (s.withDev (
       let t := (s.dev.setFlag F.CLK_STATUS_PLL_LOCK d true).setReg .SLOW_COUNT d 0
       if d.val ≥ 9 then t.setFlag F.NSE_STATUS_HEALTHY (d - 9) true else t))) ∧
  (∀ (s : State) (d : DieIx), s.dev.clocked = true → s.dev.flag F.CLK_STATUS_PLL_LOCK d = true →
     exec (.lockLost d) s = .next (s.withDev (
       let t := (s.dev.setFlag F.CLK_STATUS_PLL_LOCK d false).setFlag F.CLK_EVENT_LOCK_LOST d true
       ((endsOf d).foldl (fun t e => t.linkDown e) (t.count F.CLK_EVENT_LOCK_LOST_COUNT d 1)).dieReset d 1 0))) ∧
  (∀ (s : State) (d : DieIx) (clk : Fin 3), s.dev.clocked = true → s.dev.dieRuns d = true → (s.dev.stepsAsked d clk).isEmpty = false →
     exec (.dividerStep d clk) s = .next (s.withDev (
       (s.dev.setPwr { s.dev.pwr with steps := (s.dev.stepsAsked d clk).foldl (fun m b => SMap.set m b.1 b.2) s.dev.pwr.steps }).setFld
         (stepField clk) d (((s.dev.stepsAsked d clk).map (·.2)).foldl max 0))))

/-- The image is read, judged and applied (R90, R94, R95, R107, R113). The model's own choices that it may rest on: log entries 5, 57, 58, 59, 119, 123. -/
def Obligations.ImageEventsTakeEffect : Prop :=
  (∀ (s : State) (bs : List Byte), s.dev.clocked = true → s.dev.phase = 2 →
     exec (.imageReadDone (some (slotOffset s.dev.boot.slot, bs))) s = .next (
       let t := (s.dev.stageStore s.dev.stagePads (bs.take 0x10000000)).setPhase 3
       let d := match t.judgeImage false t.stageRoom (bs.take 0x10000000) with
         | .error e => t.slotFails e
         | .ok recs => t.acceptImage (bs.take 0x10000000) recs
       s.withBurn d)) ∧
  (∀ (s : State), s.dev.clocked = true → s.dev.phase = 2 →
     exec (.imageReadDone none) s = .next (s.withBurn (s.dev.slotFails (headErr 1)))) ∧
  (∀ (s : State) (who : Who), s.dev.clocked = true → s.dev.phase = 8 → s.dev.accepts who ⟨.BOOT_GO, 0⟩ 1 1 = true →
     exec (.bootGo who) s = .next (
       let len := s.dev.fld F.STAGE_LEN_LENGTH 0
       let r := s.dev.stagedLines s.dev.stagePads ((len + 63) / 64) 0
       let bs := bytesAt r.1 0 len
       let t := r.2.setPhase 3
       let u := match t.judgeImage false t.stageRoom bs with
         | .error e => (t.bootErr e).setPhase 8
         | .ok recs => t.acceptImage bs recs
       let d := u.emit (.ctrl who .ok none)
       s.withBurn d)) ∧
  (∀ (s : State) (differ : List VaultIx), s.dev.clocked = true → s.dev.phase = 4 →
     exec (.recordsApplied differ) s = .next (s.withDev (
       let recs := s.dev.boot.records
       let t := (List.range 128).foldl (fun t c => t.padZero c) s.dev
       let t := (t.applyPackage recs).applySpares recs
       let t := (List.range 11).foldl (fun t d => t.dieImage d) t
       let t := (recs.filter (fun r => r.type == 1)).foldl (fun t r => t.applyPart r.scope recs ((differ.map Fin.val).contains r.scope)) t
       let t := ((List.range 32).foldl Dev.showRegion t).showVfs
       let t := (t.setReg .IMAGE_ID 0 (BitVec.ofNat 64 t.boot.serial)).setFld F.BOOT_STATUS_SOURCE 0 t.boot.slot
       ((t.setFlag F.BOOT_STATUS_LOCKED 0 true).showShort).setPhase 5)))

/-- Training of the memories, firmware copy, leaf reservation, release and certification complete (R108, R110, R111, R112, R115, R313, R317, R321). The model's own choices that it may rest on: log entries 62, 63, 65, 66, 120. -/
def Obligations.MemoriesAndReleaseTakeEffect : Prop :=
  (∀ (s : State) (d : Fin 8) (absent : List (Fin 2)) (failed : List (Fin 32)) (badSlices : List (Fin 4)), s.dev.clocked = true →
     (s.dev.die d).trained = false → s.dev.dieState d = 0 → s.dev.flag F.CLK_STATUS_PLL_LOCK d = true → 2 ≤ s.dev.phase → s.dev.phase ≠ 9 →
     exec (.stackTrainingDone d absent failed badSlices) s = .next (s.withDev (
       let t := (List.range 32).foldl (fun t i => t.chanTrained (32 * d + i)
         (if (absent.map Fin.val).contains (i / 16) then 1 else if (failed.map Fin.val).contains i then 2 else 0) true) s.dev
       let t := (t.setDie d { t.die d with trained := true }).loseSlices d (badSlices.map Fin.val)
       { t with boot := { t.boot with stacksDone := t.boot.stacksDone || t.stacksReady } }))) ∧
  (∀ (s : State) (spd : List (List DimmSpd)), s.dev.clocked = true → spdShape spd = true → s.dev.boot.dimmsDone = false → 2 ≤ s.dev.phase →
     s.dev.phase ≠ 9 → s.dev.dieState 8 = 0 → s.dev.flag F.CLK_STATUS_PLL_LOCK 8 = true →
     exec (.dimmTrainingDone spd) s = .next (s.withDev (
       let t := (List.range 12).foldl (fun t m => t.showDimms m (spd.getD m [])) s.dev
       let least := t.dimmMin
       let t := (t.dimmList.foldl (fun t m => t.setFld F.T2_STATUS_UNUSED m (t.fld F.T2_STATUS_CAPACITY m - least)) t).remapHost
       ({ t with boot := { t.boot with dimmsDone := true } } : Dev).showShort))) ∧
  (∀ (s : State), s.dev.clocked = true → s.dev.phase = 5 → s.dev.boot.stacksDone = true → s.dev.boot.dimmsDone = true → s.dev.portsReady = true →
     s.dev.boot.fwDone = false →
     (s.dev.copyFirmware s.dev.boot.records).1.isNone = false →
     exec .firmwareCopyDone s = .next (s.withDev (
       let t := (s.dev.copyFirmware s.dev.boot.records).2
       let t := { t with boot := { t.boot with fwDone := true } }
       if t.flag F.BOOT_STATUS_COLD 0 then t.setPhase 6 else t))) ∧
  (∀ (s : State) (rest : List Bool), s.dev.clocked = true → s.dev.phase = 6 → s.dev.flag F.BOOT_STATUS_LEAF_RESERVED 0 = false →
     s.dev.flag F.BOOT_STATUS_ATTEST_EXHAUSTED 0 = false → s.dev.fused.attNext < 16384 →
     exec (.attestLeafReserve (true :: rest)) s = .next (
       let q := s.dev.fused.attNext
       let t := ({ s.dev with fused := { s.dev.fused with attNext := q + 1 } } : Dev).setFld F.ATTEST_FUSE_COUNT_NEXT 0 (q + 1)
       let a := t.drbg 9 48
       let t : Dev := { a.2 with
         att := { a.2.att with leaf := q, seed := a.1.take 32, ident := a.1.drop 32, next := 0, certified := false, exhausted := false } }
       let d := (t.setFlag F.BOOT_STATUS_LEAF_RESERVED 0 true).attShow
       s.withBurn d)) ∧
  (∀ (s : State), s.dev.clocked = true → s.dev.flag F.BOOT_STATUS_COLD 0 = true → s.dev.phase = 6 → s.dev.flag F.BOOT_STATUS_LEAF_RESERVED 0 = true →
     exec .release s = .next (s.withDev (
       let t := (List.range 32).foldl (fun t g => t.setFld F.CAPC_REGION_BUDGET_W g t.fused.capcBudget) (s.dev.setPhase 7)
       t.recs.foldl (fun t e =>
         if (t.diesOf e.1).any (fun d => t.dieState d == 2) then t.setPartState e.1 5
         else if (t.diesOf e.1).any (fun d => t.dieState d == 1) then t.setPartState e.1 4
         else t.enterRun e.1) t))) ∧
  (∀ (s : State), s.dev.clocked = true → s.dev.phase = 7 → s.dev.att.seed.isEmpty = false → s.dev.att.certified = false → s.dev.dieState 9 = 0 →
     exec .level1Certified s = .next (s.withDev (
       let t := s.dev.certify
       let t := t.attServe t.att.waiting.length
       (List.range 48).foldl (fun t f => if t.flag F.PORT_STATUS_KEYWAIT f then t.kxOffer f else t) t)))

/-- A partial reload runs from GO to its end (R116, R117, R563). The model's own choices that it may rest on: log entries 67, 102, 107, 123. -/
def Obligations.ReloadEventsTakeEffect : Prop :=
  (∀ (s : State) (who : Who), s.dev.clocked = true → s.dev.flag F.RELOAD_STATUS_BUSY 0 = false → s.dev.phase = 7 →
     s.dev.accepts who ⟨.RELOAD_CTRL, 0⟩ 1 1 = true →
     exec (.reloadGo who) s = .next (s.withDev (
       let party := match who with | .core n _ => s.dev.partOfCore n | _ => none
       let t := (s.dev.setFlag F.RELOAD_STATUS_BUSY 0 true).setFlag F.RELOAD_CTRL_GO 0 true
       (({ t with boot := { t.boot with
         reloadWho := party, reloadStage := 1, reloadErr := none, reloadBytes := [], reload := [], reloadPart := none } } : Dev).reloadCopy).emit
         (.ctrl who .ok none)))) ∧
  (∀ (s : State), s.dev.clocked = true → s.dev.boot.reloadStage = 2 → s.dev.boot.reloadErr = none → s.dev.boot.reloadWho = none →
     exec .reloadVerifyDone s = .next (s.withDev (
       let bs := s.dev.boot.reloadBytes
       let t := s.dev.setFld F.RELOAD_STATUS_PARTITION 0 (imgTarget bs)
       match t.judgeImage true (2 ^ 24) bs with
       | .error e => t.reloadEnd (some e.code)
       | .ok recs => ({ t with boot := { t.boot with
           reload := recs, reloadPart := some (imgTarget bs), reloadStage := 3 } } : Dev).reloadReset (imgTarget bs)))) ∧
  (∀ (s : State) (code : Nat), s.dev.clocked = true → s.dev.boot.reloadStage = 2 → s.dev.boot.reloadErr = some code →
     exec .reloadVerifyDone s = .next (s.withDev (s.dev.reloadEnd (some code)))) ∧
  (∀ (s : State) (p : Nat) (differ : Bool), s.dev.clocked = true → s.dev.boot.reloadPart = some p → s.dev.partState p = 1 →
     exec (.reloadLoadingDone differ) s = .next (s.withDev (
       let recs := s.dev.boot.reload
       let old := (s.dev.partRec p).getD .none
       let new := old.after p recs
       let gone := (List.range 32).filter (fun g => bitOf old.regions g && !bitOf new.regions g)
       let t := (((s.dev.takeUnits old new).zeroGained old new).applySpares recs).applyPart p recs differ
       let t := (gone.foldl Dev.dropRegion t).showVfs
       let t : Dev := { t with att := { t.att with partial_ := SMap.set t.att.partial_ p (imgSerial t.boot.reloadBytes) } }
       let x := t.showShort.copyFirmware recs
       match x.1 with
       | none => s.dev
       | some true => (x.2.enterRun p).reloadEnd none
       | some false => ((x.2.free 256).2.setPartState p 5).reloadEnd (some (x.2.free 256).1))))

/-- Training of a die-to-die link starts, ends and is asked for (R75, R76, R82). The model's own choices that it may rest on: log entries 76, 99. -/
def Obligations.LinkTrainingTakesEffect : Prop :=
  (∀ (s : State) (e : LinkEnd), s.dev.clocked = true → linkExists e = true → s.dev.linkState e = 0 → s.dev.pllUp (e / 16) = true →
     s.dev.pllUp (otherEnd e / 16) = true →
     exec (.linkTrainingStart e) s = .next (s.withDev ([e.val, otherEnd e].foldl (fun t k =>
       (t.setFld F.LINK_STATUS_STATE k 1).setFlag F.LINK_CTRL_RETRAIN k false) s.dev))) ∧
  (∀ (s : State) (e : LinkEnd) (good : BitVec 34) (rtt : Nat) (late : Bool) (rails : List Nat), s.dev.clocked = true →
     railsShape rails = true → linkExists e = true → s.dev.linkState e = 1 →
     exec (.linkTrainingEnd e good rtt late rails) s = .next (s.withDev (
       let f := otherEnd e
       let t := [e.val, f].foldl (fun t k =>
         let m := t.fld F.LANE_MAP_GOOD k
         (if m &&& good.toNat = m then t else t.setFlag F.LINK_EVENT_LANE_FAILED k true).setFld F.LANE_MAP_GOOD k (m &&& good.toNat)) s.dev
       let g := t.fld F.LANE_MAP_GOOD e &&& t.fld F.LANE_MAP_GOOD f
       let st := if late || decide (rtt > 200) then 5 else linkWidth (laneCount g)
       ((t.endTraining e g rtt st).endTraining f g rtt st).stepTwo rails))) ∧
  (∀ (s : State) (who : Who) (e : LinkEnd), s.dev.clocked = true → linkExists e = true → 2 ≤ s.dev.linkState e →
     s.dev.accepts who ⟨.LINK_CTRL, e⟩ 0x100 0x100 = true →
     exec (.linkRetrain who e) s = .next (s.withDev ((s.dev.linkTrain e).emit (.ctrl who .ok none))))

/-- A lane that loses lock or passes its error limit leaves service (R77, R82). The model's own choices that it may rest on: log entries 76, 100. -/
def Obligations.LaneFailuresTakeEffect : Prop :=
  (∀ (s : State) (e : LinkEnd) (lane : Fin 34), s.dev.clocked = true → linkExists e = true → s.dev.linkState e ≠ 0 →
     exec (.laneLockLoss e lane) s = .next (s.withDev (
       let m := s.dev.fld F.LANE_MAP_GOOD e
       let t := (s.dev.setFld F.LANE_MAP_GOOD e (m - (m &&& 2 ^ lane.val))).setFlag F.LINK_EVENT_LANE_FAILED e true
       if 2 ≤ s.dev.linkState e ∧ s.dev.linkState e ≤ 4 then t.linkTrain e else t))) ∧
  (∀ (s : State) (e : LinkEnd), s.dev.clocked = true → linkExists e = true → s.dev.fld F.LANE_ERR_LIMIT_WINDOW e ≠ 0 →
     exec (.laneErrWindowEnd e) s = .next (s.withDev (
       let x := s.dev.link e
       let over_ := x.laneErr.filter (fun n => decide (n.2 > s.dev.fld F.LANE_ERR_LIMIT_LIMIT e))
       (s.dev.setLink e { x with laneErr := [] }).failLanes e (over_.foldl (fun m n => m + 2 ^ n.1) 0))))

/-- A flit is delivered, corrected, discarded or answered with a NAK (R72, R73, R74). The model's own choices that it may rest on: log entries 8, 100, 101, 117. -/
def Obligations.FlitIsDeliveredOrNaked : Prop :=
  (∀ (s : State) (e : LinkEnd) (f : Flit), s.dev.clocked = true → flitShape f = true → linkExists e = true → 2 ≤ s.dev.linkState e →
     s.dev.linkState e ≤ 4 → (f.kind == 0 && !s.dev.maySend (otherEnd e) f.slots) = false →
     (s.dev.flitComes e f).1.any (fun g => g.cls.bad) = true →
     exec (.flitReceive e f) s = .next (s.withDev (
       let gs := (s.dev.flitComes e f).1
       let t := (s.dev.flitComes e f).2
       let seen := !((gs[0]?).any (fun g => g.cls.bad))
       if (t.link e).naking && !(seen && bitsOf (gotWord gs 0) 0 8 == ((t.link e).lastAcc + 1) % 256) then t else t.nakFlit e))) ∧
  (∀ (s : State) (e : LinkEnd) (f : Flit), s.dev.clocked = true → flitShape f = true → linkExists e = true → 2 ≤ s.dev.linkState e →
     s.dev.linkState e ≤ 4 → (f.kind == 0 && !s.dev.maySend (otherEnd e) f.slots) = false →
     (s.dev.flitComes e f).1.any (fun g => g.cls.bad) = false →
     exec (.flitReceive e f) s = .next (s.withDev (
       let gs := (s.dev.flitComes e f).1
       let t := (s.dev.flitComes e f).2.flitAck e (bitsOf (gotWord gs 1) 0 8) (bitOf (gotWord gs 1) 8) (gotCredits gs)
       let y := t.link (otherEnd e)
       let t := t.setLink (otherEnd e) { y with due := (y.due.zip (gotCredits gs)).map (fun n => n.1 - n.2) }
       let x := t.link e
       let seq := bitsOf (gotWord gs 0) 0 8
       let ahead := (seq + 256 - x.lastAcc) % 256
       let ms := gotMsgs gs f.slots
       if bitsOf (gotWord gs 0) 8 2 ≠ 0 then t
       else if ahead = 1 then
         t.setLink e { x with
           lastAcc := seq, naking := false, nakRun := 0, delivered := x.delivered ++ ms,
           due := (List.range 4).map (fun c => x.due.getD c 0 + (ms.filter (fun m => m.cls == c)).length) }
       else if ahead = 0 ∨ ahead ≥ 128 ∨ x.naking then t
       else t.nakFlit e)))

/-- A partition's reset: asked for, QUIESCE, its end and its limit, RESET, and the return to service (R281, R318, R361, R362). The model's own choices that it may rest on: log entries 44, 45, 53. -/
def Obligations.PartitionResetsTakeEffect : Prop :=
  (∀ (s : State) (who : Who) (p : PartIx), s.dev.clocked = true → s.dev.partRuns p = true → s.dev.accepts who ⟨.PART_CTRL, p⟩ 1 1 = true →
     exec (.partResetRequest who p) s = .next (s.withDev (((s.dev.partQuiesce p 1).reportPart p 1 0).emit (.ctrl who .ok none)))) ∧
  (∀ (s : State) (p : PartIx), s.dev.clocked = true → s.dev.partState p = 3 → s.dev.startedOf p = false → s.dev.requestsOut p = false →
     (s.dev.l2sOf p).length ≤ ((s.dev.flushAll p []).l2sOf p).length →
     exec (.quiesceDone p) s = .next (s.withDev ((s.dev.flushAll p []).enterReset p (s.dev.partSt p).cause))) ∧
  (∀ (s : State) (p : PartIx) (hung : List CoreIx), s.dev.clocked = true → s.dev.partState p = 3 →
     exec (.quiesceLimitExpire p hung) s = .next (s.withDev ((s.dev.flushAll p (hung.map (·.val))).enterReset p ((s.dev.flushAll p (hung.map (·.val))).partSt p).cause))) ∧
  (∀ (s : State) (n : CoreIx) (p : Nat), s.dev.clocked = true → s.dev.partOfCore n = some p → s.dev.partState p = 3 →
     exec (.l2FlushLimitExpire n) s = .next (s.withDev (s.dev.setL2 n { L2St.init with dead := true }))) ∧
  (∀ (s : State) (p : PartIx), s.dev.clocked = true → s.dev.partState p = 4 → (s.dev.diesOf p).any (fun d => s.dev.dieState d != 0) = false →
     s.dev.unreclaimed p = false → (s.dev.partSt p).reload = false → (s.dev.chanList p).isEmpty = false →
     ((s.dev.partSt p).escs.filter (fun t => decide (s.dev.time < t + s.dev.fld F.PART_ESC_FAULT_WINDOW p))).length < 4 →
     (s.dev.coresOf p).all (fun n => !(s.dev.l2 n).dead) = true →
     exec (.partResetDone p) s = .next (s.withDev ((s.dev.setPartSt p { s.dev.partSt p with
       escs := (s.dev.partSt p).escs.filter (fun t => decide (s.dev.time < t + s.dev.fld F.PART_ESC_FAULT_WINDOW p)), reload := false }).enterRun p))) ∧
  (∀ (s : State) (p : PartIx) (m : MapOut), s.dev.clocked = true →
     s.dev.mapouts.find? (fun m => m.started && s.dev.partOfChan m.chan == some p.val) = some m → s.dev.windowOpen p = false →
     exec (.mapoutComplete p) s = .next (s.withDev (
       let t := (s.dev.regionsOf p).foldl (fun (t : Dev) g => t.finishAll g ((t.sc g).waiting.length + 2)) s.dev
       let t := ((t.dropWindow p).advanceWgen p).setFlag F.CH_STATUS_IN_SERVICE m.chan false
       let t := ({ t with mapouts := t.mapouts.filter (fun n => n.chan != m.chan) } : Dev).holdHomes p false
       let t := ((t.regionsOf p).foldl (fun t h => t.pump h) t).startMapouts
       if (t.chanList p).isEmpty then t.askReset p 6 1 0 else t)))

/-- The watchdogs of snoops, invalidations, engines and drains reset the partition they find (R301, R359, R412, R521). The model's own choices that it may rest on: log entry 7. -/
def Obligations.WatchdogsTakeEffect : Prop :=
  (∀ (s : State) (h : HomeIx) (line : Nat) (core : CoreIx) (p : Nat), s.dev.clocked = true → s.dev.fld F.HOME_CFG_SNOOP_LIMIT h ≠ 0 →
     (s.dev.home h).opens.any (fun o => o.req.line == line && o.waits.contains core) = true →
     (s.dev.home h).unsent.any (fun u => u.1 == core.val && u.2.1 == line) = false →
     (s.dev.setFlag F.HOME_EVENT_SNOOP_TIMEOUT h true).partOfCore core = some p → (s.dev.setFlag F.HOME_EVENT_SNOOP_TIMEOUT h true).partRuns p = true →
     exec (.snoopTimeout h line core) s = .next (s.withDev ((((s.dev.setFlag F.HOME_EVENT_SNOOP_TIMEOUT h true).partQuiesce p 1).reportPart p 7 core).crash 10 none (some p) none 0 (fun _ => false)))) ∧
  (∀ (s : State) (p : PartIx) (v : InvSt), s.dev.clocked = true → SMap.find s.dev.invs p = some v →
     s.dev.mapouts.any (fun m => m.started && s.dev.partOfChan m.chan == some p.val) = false →
     ((s.dev.setFlag F.XP_INV_STATUS_LATE p true).setFld F.XP_INV_STATUS_LAG_CLUSTER p (v.waitAtc.headD 0)).partRuns p = true →
     exec (.invalidationLate p) s = .next (s.withDev (
       (((((s.dev.setFlag F.XP_INV_STATUS_LATE p true).setFld F.XP_INV_STATUS_LAG_CLUSTER p (v.waitAtc.headD 0)).partQuiesce p 1).reportPart p 8 (v.waitAtc.headD 0)).crash
         10 none (some p) v.ctx 0 (fun _ => false))))) ∧
  (∀ (s : State) (a : Fin 512) (e : Fin 960) (r : MxRun) (p : Nat), s.dev.clocked = true → e.val = a.val → SMap.find s.dev.arrays a = some r → r.run = true → r.held = none →
     s.dev.fld F.HANG_LIMIT_LIMIT (a / 16 / 4) ≠ 0 → s.dev.partOfRegion (a / 16) = some p → s.dev.partRuns p = true →
     exec (.engineHangExpire e) s = .next (s.withDev (
       let c := s.dev.ctxOfQueue r.tile.q
       let t := s.dev.setDie (a / 16 / 4) { s.dev.die (a / 16 / 4) with hungCtx := ctxField (some c), hungBlock := 5 }
       (((t.partQuiesce p 1).reportPart p 6 (a / 4)).crash 10 none (some p) (some c) 0 (fun _ => false))))) ∧
  (∀ (s : State) (e : Fin 960) (t : Tile) (g cl p : Nat), s.dev.clocked = true → 512 ≤ e.val → s.dev.fld F.ENG_STATUS_STATE (e.val - 512) = 2 → SMap.find s.dev.engs e = some t →
     g = (if e.val < 896 then (e.val - 512) % 128 / 4 else (e.val - 896) % 32) → cl = (if e.val < 896 then (e.val - 512) % 128 else 4 * g) →
     s.dev.fld F.HANG_LIMIT_LIMIT (g / 4) ≠ 0 → s.dev.partOfRegion g = some p → s.dev.partRuns p = true →
     exec (.engineHangExpire e) s = .next (s.withDev (
       let c := s.dev.ctxOfQueue t.q
       let blk := if e.val < 640 then 6 else if e.val < 768 then 7 else if e.val < 896 then 8 else if e.val < 928 then 9 else 10
       let t := s.dev.setDie (g / 4) { s.dev.die (g / 4) with hungCtx := ctxField (some c), hungBlock := blk }
       (((t.partQuiesce p 1).reportPart p 6 cl).crash 10 none (some p) (some c) 0 (fun _ => false))))) ∧
  (∀ (s : State) (c : CtxIx) (p : Nat), s.dev.clocked = true → (match (s.dev.cx c).proc with | .fault | .disable _ => true | _ => false) = true →
     s.dev.partOfCtx c = some p → s.dev.partRuns p = true →
     exec (.drainLimitExpire c) s = .next (s.withDev ((s.dev.partQuiesce p 2).reportPart p 2 0)))

/-- Writes of CTX_CTRL and of ARM, and the end of a drain (R284, R291, R296, R300, R302). The model's own choices that it may rest on: log entry 38. -/
def Obligations.ContextControlWritesTakeEffect : Prop :=
  (∀ (s : State) (who : Who) (c : CtxIx) (w v : Word), s.dev.clocked = true → s.dev.accepts who ⟨.CTX_CTRL, c⟩ (F.CTX_CTRL_HOLD.put w 1) v = true →
     F.CTX_CTRL_HOLD.get v = 1 → F.CTX_CTRL_RELEASE.get v = 0 → F.CTX_CTRL_CLEAR.get v = 0 → F.CTX_CTRL_DISABLE.get v = 0 →
     exec (.ctxHold who c w) s = .next (s.withDev (
       let t := s.dev.storeReg ⟨.CTX_CTRL, c⟩ v
       let f := t.fld F.CTX_CTRL_FUNC c
       let t := (t.setReg .CTX_CTRL c 0).setFld F.CTX_CTRL_PRIORITY c (F.CTX_CTRL_PRIORITY.get v)
       let t := (t.setFld F.CTX_CTRL_WEIGHT c (F.CTX_CTRL_WEIGHT.get v)).setFld F.CTX_CTRL_FUNC c (if f > 33 then F.CTX_CTRL_FUNC.get (s.dev.reg .CTX_CTRL c) else f)
       (if t.fld F.CTX_SAVE_BASE c = 0 || (match (t.cx c).proc with | .disable _ | .fault => true | _ => false) then t
         else if t.ctxState c = 1 || t.ctxState c = 3 then (t.setFld F.CTX_STATE_STATE c 4).settle c
         else if t.ctxState c = 2 then t.preempt c true else t).emit (.ctrl who .ok none)))) ∧
  (∀ (s : State) (who : Who) (c : CtxIx) (w v : Word), s.dev.clocked = true → s.dev.accepts who ⟨.CTX_CTRL, c⟩ (F.CTX_CTRL_RELEASE.put w 1) v = true →
     F.CTX_CTRL_HOLD.get v = 0 → F.CTX_CTRL_RELEASE.get v = 1 → F.CTX_CTRL_CLEAR.get v = 0 → F.CTX_CTRL_DISABLE.get v = 0 →
     exec (.ctxRelease who c w) s = .next (s.withDev (
       let t := s.dev.storeReg ⟨.CTX_CTRL, c⟩ v
       let f := t.fld F.CTX_CTRL_FUNC c
       let t := (t.setReg .CTX_CTRL c 0).setFld F.CTX_CTRL_PRIORITY c (F.CTX_CTRL_PRIORITY.get v)
       let t := (t.setFld F.CTX_CTRL_WEIGHT c (F.CTX_CTRL_WEIGHT.get v)).setFld F.CTX_CTRL_FUNC c (if f > 33 then F.CTX_CTRL_FUNC.get (s.dev.reg .CTX_CTRL c) else f)
       (if t.ctxState c = 4 then (t.setFld F.CTX_STATE_STATE c 1).settle c else t).emit (.ctrl who .ok none)))) ∧
  (∀ (s : State) (who : Who) (c : CtxIx) (w v : Word), s.dev.clocked = true → s.dev.accepts who ⟨.CTX_CTRL, c⟩ (F.CTX_CTRL_CLEAR.put w 1) v = true →
     F.CTX_CTRL_HOLD.get v = 0 → F.CTX_CTRL_RELEASE.get v = 0 → F.CTX_CTRL_CLEAR.get v = 1 → F.CTX_CTRL_DISABLE.get v = 0 →
     exec (.ctxClear who c w) s = .next (s.withDev (
       let t := s.dev.storeReg ⟨.CTX_CTRL, c⟩ v
       let f := t.fld F.CTX_CTRL_FUNC c
       let t := (t.setReg .CTX_CTRL c 0).setFld F.CTX_CTRL_PRIORITY c (F.CTX_CTRL_PRIORITY.get v)
       let t := (t.setFld F.CTX_CTRL_WEIGHT c (F.CTX_CTRL_WEIGHT.get v)).setFld F.CTX_CTRL_FUNC c (if f > 33 then F.CTX_CTRL_FUNC.get (s.dev.reg .CTX_CTRL c) else f)
       (if (t.ctxState c = 5 || t.ctxState c = 6) && t.flag F.CTX_STATE_DRAINED c then
           let q := t.ctxQueue c
           let t := if t.queueState q = 2 then (t.setFld F.Q_STATUS_STATE q 1).setQueue q { t.queue q with fstart := none } else t
           ((t.setFld F.CTX_STATE_STATE c 1).setFlag F.CTX_STATE_DRAINED c false).settle c
         else t).emit (.ctrl who .ok none)))) ∧
  (∀ (s : State) (who : Who) (c : CtxIx) (w v : Word), s.dev.clocked = true → s.dev.accepts who ⟨.CTX_CTRL, c⟩ (F.CTX_CTRL_DISABLE.put w 1) v = true →
     F.CTX_CTRL_HOLD.get v = 0 → F.CTX_CTRL_RELEASE.get v = 0 → F.CTX_CTRL_CLEAR.get v = 0 → F.CTX_CTRL_DISABLE.get v = 1 →
     exec (.ctxDisable who c w) s = .next (s.withDev (
       let t := s.dev.storeReg ⟨.CTX_CTRL, c⟩ v
       let f := t.fld F.CTX_CTRL_FUNC c
       let t := (t.setReg .CTX_CTRL c 0).setFld F.CTX_CTRL_PRIORITY c (F.CTX_CTRL_PRIORITY.get v)
       let t := (t.setFld F.CTX_CTRL_WEIGHT c (F.CTX_CTRL_WEIGHT.get v)).setFld F.CTX_CTRL_FUNC c (if f > 33 then F.CTX_CTRL_FUNC.get (s.dev.reg .CTX_CTRL c) else f)
       (if t.ctxState c == 0 || (match (t.cx c).proc with | .disable _ => true | _ => false) then t
         else (t.stopContext c ⟨0x21, 2, 0⟩ (.disable 2)).settle c).emit (.ctrl who .ok none)))) ∧
  (∀ (s : State) (who : Who) (c : CtxIx) (w v : Word), s.dev.clocked = true → s.dev.accepts who ⟨.CTX_PACE, c⟩ (F.CTX_PACE_ARM.put w 1) v = true →
     F.CTX_PACE_ARM.get v = 1 →
     exec (.pacerArm who c w) s = .next (s.withDev (
       let t := (s.dev.setFld F.CTX_PACE_DEADLINE c (F.CTX_PACE_DEADLINE.get v)).setFld F.CTX_PACE_MARGIN c (F.CTX_PACE_MARGIN.get v)
       let x := (t.cx c).pacer
       let q := t.ctxQueue c
       let head := t.fld F.Q_POS_HEAD q
       let pEnd := t.fld F.CTX_PACE_WORK_P_END c
       (if x.armed || !t.bound c || sub32 pEnd head ≥ 2 ^ 31 || (t.queue q).fallback.isSome then t
         else if pEnd = head then t.count F.CTX_PACE_STATUS_MET c 1
         else (t.setCx c { t.cx c with pacer := (⟨true, t.time, head, pEnd, t.fld F.CTX_PACE_DEADLINE c, t.fld F.CTX_PACE_MARGIN c,
             t.fld F.CTX_PACE_WORK_WORK_EST c, t.fld F.CTX_FALLBACK_SLOTS c, t.fld F.CTX_FALLBACK_BASE c, x.n, x.sum, 0, false, none⟩ : Pacer) }).setFlag
           F.CTX_PACE_ARM c true).emit (.ctrl who .ok none)))) ∧
  (∀ (s : State) (c : CtxIx), s.dev.clocked = true → (s.dev.cx c).closed = true → (s.dev.cx c).proc = .fault →
     (s.dev.queue (s.dev.ctxQueue c)).inflight.isEmpty = true → (s.dev.queue (s.dev.ctxQueue c)).records.isEmpty = true →
     s.dev.queueStarted (s.dev.ctxQueue c) = false → s.dev.queueRuns (s.dev.ctxQueue c) = true →
     exec (.contextDrained c) s = .next (s.withDev ((s.dev.setFlag F.CTX_STATE_DRAINED c true).setCx c { s.dev.cx c with proc := .none, saved := none }))) ∧
  (∀ (s : State) (c : CtxIx) (n : Nat), s.dev.clocked = true → (s.dev.cx c).closed = true → (s.dev.cx c).proc = .disable n →
     (s.dev.queue (s.dev.ctxQueue c)).inflight.isEmpty = true → (s.dev.queue (s.dev.ctxQueue c)).records.isEmpty = true →
     s.dev.queueStarted (s.dev.ctxQueue c) = false → s.dev.queueRuns (s.dev.ctxQueue c) = true →
     exec (.contextDrained c) s = .next (s.withDev (
       let q := s.dev.ctxQueue c
       let t := (s.dev.setFlag F.CTX_STATE_DRAINED c true).setCx c .init
       let t := ((t.setFld F.Q_STATUS_STATE q 0).setFlag F.Q_CFG_ENABLE q false).setQueue q
         { QueueSt.init with lastMsi := (s.dev.queue q).lastMsi, msiPend := (s.dev.queue q).msiPend }
       let t := (((t.setFld F.CTX_STATE_STATE c 0).setFlag F.CTX_STATE_BOUND c false).setFld F.CTX_STATE_QUEUE c 0).setFld F.CTX_STATE_DISABLE_CAUSE c n
       let t := t.setFlag F.CTX_STATE_WORK c false
       match t.partOfCtx c with
       | some p => t.setFld F.PART_STATUS_RUNNING p (t.runningOf p).length
       | none => t)))

/-- Run slots, laps, preemption, the save area, restore, and the pacer's polls (R289, R290, R291, R292, R293, R297, R298). The model's own choices that it may rest on: log entries 38, 106. -/
def Obligations.ContextProceduresTakeEffect : Prop :=
  (∀ (s : State) (p : PartIx) (c0 : Nat) (cs : List Nat), s.dev.clocked = true → s.dev.partRuns p = true →
     (s.dev.runningOf p).length < s.dev.fld F.PART_LAP_RUN_MAX p → s.dev.eligibleOf p = c0 :: cs →
     exec (.runSlotGrant p) s = .next (s.withDev (
       let c := cs.foldl (fun a b => if s.dev.grantsBefore b a then b else a) c0
       let x := s.dev.cx c
       let t := s.dev.setCx c { x with lapStart := s.dev.time, eligible := none, proc := if x.saved.isSome then .restore else x.proc }
       (t.setFld F.CTX_STATE_STATE c 2).settle c))) ∧
  (∀ (s : State) (c : CtxIx) (p : Nat), s.dev.clocked = true → s.dev.partOfCtx c = some p → s.dev.ctxState c = 2 → s.dev.fld F.PART_LAP_LAP_LEN p ≠ 0 →
     ((s.dev.cx c).proc == .none || (s.dev.cx c).proc == .restore) = true → s.dev.partRuns p = true →
     exec (.lapEnd c) s = .next (s.withDev (
       if (s.dev.eligibleOf p).any (fun e => decide (s.dev.priority e ≥ s.dev.priority c)) && s.dev.fld F.CTX_SAVE_BASE c != 0 then
         (s.dev.setCx c { s.dev.cx c with proc := .preempt false, procStart := s.dev.time, late := false }).withdraw (s.dev.ctxQueue c) (fun _ => true)
       else s.dev.setCx c { s.dev.cx c with lapStart := s.dev.time }))) ∧
  (∀ (s : State) (c : CtxIx) (hold : Bool), s.dev.clocked = true → (s.dev.cx c).proc = .preempt hold →
     exec (.preemptGraceExpire c) s = .next (s.withDev (
       let held := s.dev.arrays.filter (fun e => e.2.tile.q == s.dev.ctxQueue c && e.2.held.isSome)
       let t := held.foldl (fun s e => if s.wouldTear e.2 then s else s.dropArray e.1) s.dev
       if held.any (fun e => t.wouldTear e.2) && !(t.cx c).late then (t.setCx c { t.cx c with late := true }).count F.CTX_ACCT_PREEMPT_LATE c 1 else t))) ∧
  (∀ (s : State) (c : CtxIx) (hold : Bool), s.dev.clocked = true → (s.dev.cx c).proc = .preempt hold → s.dev.queueStarted (s.dev.ctxQueue c) = false →
     s.dev.queueRuns (s.dev.ctxQueue c) = true →
     exec (.saveAreaWriteDone c) s = .next (s.withDev (
       let q := s.dev.ctxQueue c
       let ds := (s.dev.queue q).inflight.take 64
       let area := s.dev.saveArea c ds ((s.dev.cx c).saves + 1)
       let r := runEng s.dev (s.dev.qmId q .save) (writeE (s.dev.fld F.CTX_SAVE_BASE c * 4096) (putAt area 12 (leBytes 4 (crc32c area))) .normal)
       match r.1 with
       | .ok _ =>
         let t := r.2.setCx c { r.2.cx c with proc := .none, saves := (s.dev.cx c).saves + 1, saved := some ⟨ds, crc32c area⟩, late := false }
         let t := t.setFld F.CTX_STATE_STATE c (if hold then 4 else 3)
         (if hold then t else t.count F.CTX_ACCT_PREEMPT_PREEMPTS c 1).settle c
       | .error (.wait _) => r.2
       | .error (.err code a) => (r.2.fault c 2 code.num a 0).settle c))) ∧
  (∀ (s : State) (c : CtxIx) (sv : Saved), s.dev.clocked = true → (s.dev.cx c).proc = .restore → (s.dev.cx c).saved = some sv →
     s.dev.queueRuns (s.dev.ctxQueue c) = true →
     exec (.restoreReadDone c) s = .next (s.withDev (
       let q := s.dev.ctxQueue c
       let r := runEng s.dev (s.dev.qmId q .save) (readE (s.dev.qmId q .save) (s.dev.fld F.CTX_SAVE_BASE c * 4096) 0x1840 .normal)
       match r.1 with
       | .ok bs =>
         let good := fieldAt bs 0 2 == 0x4153 && fieldAt bs 2 1 == 1 && fieldAt bs 4 2 == c.val && fieldAt bs 6 2 == q && fieldAt bs 8 4 == (s.dev.cx c).saves
             && fieldAt bs 12 4 == sv.check && crc32c (putAt bs 12 [0, 0, 0, 0]) == sv.check
         if !good then ((r.2.dropSaved q sv.descs).fault c 5 0 0 sv.descs.length).settle c
         else
           let t := r.2.mapDescs q (fun d => if sv.descs.any (fun y => y.pos == d.pos) then restoreDesc bs (fieldAt bs 3 1) d else d)
           (t.setCx c { t.cx c with proc := .none, saved := none }).settle c
       | .error (.wait _) => r.2
       | .error (.err code a) => ((r.2.dropSaved q sv.descs).fault c 2 code.num a sv.descs.length).settle c))) ∧
  (∀ (s : State) (c : CtxIx), s.dev.clocked = true → s.dev.queueRuns (s.dev.ctxQueue c) = true →
     exec (.pacerPoll c) s = .next (s.withDev ((s.dev.pacerEval c).settle c)))

/-- Writes of doorbells, Q_CTRL, Q_CFG, Q_CQ_HEAD and tokens (R252, R260, R263, R264, R268, R276, R302). The model's own choices that it may rest on: log entries 10, 39, 105. -/
def Obligations.QueueRegisterWritesTakeEffect : Prop :=
  (∀ (s : State) (who : Who) (q : QueueIx) (w v : Word), s.dev.clocked = true → s.dev.accepts who ⟨.DB, q⟩ w v = true → s.dev.queueState q ≠ 0 →
     (match (s.dev.cx (s.dev.ctxOfQueue q)).proc with | .disable _ => true | _ => false) = false → bitsOf v.toNat 48 16 = s.dev.fld F.Q_CFG_DB_KEY q →
     sub32 (bitsOf v.toNat 0 32) (s.dev.fld F.Q_POS_HEAD q) ≤ s.dev.ringSlots q → sub32 (bitsOf v.toNat 0 32) (s.dev.fld F.Q_POS_TAIL q) < 2 ^ 31 →
     exec (.doorbell who q w) s = .next (s.withDev (
       let t := s.dev.setFld F.Q_POS_TAIL q (bitsOf v.toNat 0 32)
       let t := match (t.queue q).fstart with
         | some f => if t.queueState q = 2 then t.setQueue q { t.queue q with fstart := some { f with due := t.time, wait := 8 } } else t
         | none => t
       (t.settle (t.ctxOfQueue q)).emit (.ctrl who .ok none)))) ∧
  (∀ (s : State) (who : Who) (q : QueueIx), s.dev.clocked = true → s.dev.accepts who ⟨.Q_CTRL, q⟩ 1 1 = true → s.dev.queueState q = 3 → s.dev.fld F.Q_STATUS_CAUSE q ≠ 5 →
     exec (.queueResume who q) s = .next (s.withDev (((s.dev.setFld F.Q_STATUS_STATE q 1).setQueue q
       { (s.dev.setFld F.Q_STATUS_STATE q 1).queue q with fetched := [], fstart := none, skip := false }).emit (.ctrl who .ok none)))) ∧
  (∀ (s : State) (who : Who) (q : QueueIx) (resume : Bool) (t : Dev) (x : Except Stop (List Byte)) (d : Dev), s.dev.clocked = true →
     s.dev.accepts who ⟨.Q_CTRL, q⟩ (if resume then 3 else 2) (if resume then 3 else 2) = true → s.dev.queueState q = 3 → s.dev.fld F.Q_STATUS_CAUSE q = 1 →
     s.dev.fld F.Q_POS_HEAD q ≠ s.dev.fld F.Q_POS_TAIL q → (s.dev.resume q).setQueue q { (s.dev.resume q).queue q with skip := true } = t →
     t.fetchRun q (t.fld F.Q_POS_HEAD q) 1 = (x, d) →
     exec (.queueSkip who q resume) s = .next (s.withDev ((
       match x with
       | .error (.wait _) => d
       | x =>
         let pos := t.fld F.Q_POS_HEAD q
         let n := t.ringSlots q
         let bs := match x with | .ok bs => bs | _ => []
         let ok := fieldAt bs 1 1 == genOfLap (pos / n)
           && (match slotsOfOp (fieldAt bs 0 1) with | some k => (checkHeader bs k).isEmpty && decide (pos % n + k ≤ n) | none => false)
         let u := (d.setQueue q { d.queue q with skip := false }).passSlots q (if ok then fieldAt bs 2 1 else 1)
         let e := { u.newDesc q pos pos 1 (if ok then bs else leBytes 64 0) 0 [] [] with status := some 0x09 }
         (u.setQueue q { u.queue q with inflight := (u.queue q).inflight ++ [e] }).settle (u.ctxOfQueue q)).emit (.ctrl who .ok none)))) ∧
  (∀ (s : State) (who : Who) (q : QueueIx) (cfg v : Word) (p : Nat), s.dev.clocked = true → s.dev.accepts who ⟨.Q_CFG, q⟩ (F.Q_CFG_ENABLE.put cfg 1) v = true →
     F.Q_CFG_ENABLE.get v = 1 → s.dev.flag F.Q_CFG_ENABLE q = false → s.dev.queueState q = 0 →
     (s.dev.storeReg ⟨.Q_CFG, q⟩ (F.Q_CFG_ENABLE.put v 0)).partOfQueue q = some p → (s.dev.storeReg ⟨.Q_CFG, q⟩ (F.Q_CFG_ENABLE.put v 0)).partRuns p = true →
     (s.dev.storeReg ⟨.Q_CFG, q⟩ (F.Q_CFG_ENABLE.put v 0)).partOfCtx ((s.dev.storeReg ⟨.Q_CFG, q⟩ (F.Q_CFG_ENABLE.put v 0)).ctxOfQueue q) = some p →
     (s.dev.storeReg ⟨.Q_CFG, q⟩ (F.Q_CFG_ENABLE.put v 0)).bound ((s.dev.storeReg ⟨.Q_CFG, q⟩ (F.Q_CFG_ENABLE.put v 0)).ctxOfQueue q) = false →
     exec (.queueEnable who q cfg) s = .next (s.withDev (
       let t := s.dev.storeReg ⟨.Q_CFG, q⟩ (F.Q_CFG_ENABLE.put v 0)
       let c := t.ctxOfQueue q
       let t := (t.setFlag F.Q_CFG_ENABLE q true).setReg .Q_POS q 0
       let t := (t.setReg .Q_STATUS q 0).setFld F.Q_STATUS_STATE q 1
       let t := (t.setQueue q { QueueSt.init with lastDone := t.time, lastMsi := (t.queue q).lastMsi, msiPend := (t.queue q).msiPend }).setCx c .init
       let t := ((t.setFld F.CTX_STATE_STATE c 1).setFld F.CTX_STATE_QUEUE c q).setFlag F.CTX_STATE_BOUND c true
       let t := (t.setFlag F.CTX_STATE_DRAINED c false).setFlag F.CTX_PACE_ARM c false
       ([RegName.CTX_ACCT_RUN, .CTX_ACCT_WAIT, .CTX_ACCT_PREEMPT, .CTX_ACCT_HOLD, .CTX_PACE_STATUS].foldl (fun s r => s.clearReg r c) t).emit (.ctrl who .ok none)))) ∧
  (∀ (s : State) (who : Who) (q : QueueIx) (cfg v : Word), s.dev.clocked = true → s.dev.accepts who ⟨.Q_CFG, q⟩ (F.Q_CFG_ENABLE.put cfg 0) v = true →
     F.Q_CFG_ENABLE.get v = 0 → s.dev.flag F.Q_CFG_ENABLE q = true →
     exec (.queueDisable who q cfg) s = .next (s.withDev (
       ((s.dev.setFlag F.Q_CFG_ENABLE q false).disableCtx (s.dev.ctxOfQueue q) 1).emit (.ctrl who .ok none)))) ∧
  (∀ (s : State) (who : Who) (g : RegionIx) (t : Fin 4096) (w v : Word) (p : Nat), s.dev.clocked = true → s.dev.accepts who ⟨.TOKEN, g * 4096 + t⟩ w v = true →
     s.dev.partOfRegion g = some p → t.val ≠ 0 →
     exec (.tokenWrite who g t w) s = .next (s.withDev (
       ((s.dev.setFld F.TOKEN_VALUE (s.dev.leadRegion p * 4096 + t) (F.TOKEN_VALUE.get v)).tokenChanged p t).emit (.ctrl who .ok none)))) ∧
  (∀ (s : State) (who : Who) (q : QueueIx) (w v : Word), s.dev.clocked = true → s.dev.accepts who ⟨.Q_CQ_HEAD, q⟩ w v = true →
     exec (.cqHeadWrite who q w) s = .next (s.withDev (
       let t := s.dev.storeReg ⟨.Q_CQ_HEAD, q⟩ v
       (if sub32 (t.queue q).cqPos (t.fld F.Q_CQ_HEAD_HEAD q) < t.cqSlots q then t.setFlag F.Q_STATUS_CQ_FULL q false else t).emit (.ctrl who .ok none))))

/-- Descriptors fetched and judged; false starts reread and given up (R259, R261, R262, R265, R266). The model's own choices that it may rest on: log entries 29, 30, 40. -/
def Obligations.FetchAndAcceptanceTakeEffect : Prop :=
  (∀ (s : State) (q : QueueIx), s.dev.clocked = true → (s.dev.queue q).skip = false → s.dev.mayFetch q = true →
     exec (.descriptorFetch q) s = .next (s.withDev (
       let pos := s.dev.fetchPos q
       let r := s.dev.fetchRun q pos (s.dev.fetchRoom q pos)
       match r.1 with
       | .ok bs => r.2.fetchTake q pos bs
       | .error (.wait _) => r.2
       | .error (.err code a) => r.2.setQueue q { r.2.queue q with fetched := (r.2.queue q).fetched ++ [⟨pos, [], some (code, a)⟩] }))) ∧
  (∀ (s : State) (q : QueueIx) (l : List (List Byte)), s.dev.clocked = true → s.dev.queueRuns q = true →
     (s.dev.queueState q == 1 || s.dev.queueState q == 2) = true → s.dev.fetchStopped q = false → (s.dev.queue q).fetched.isEmpty = false →
     chainMembers 5 (((s.dev.queue q).fetched.takeWhile (·.err.isNone)).map (·.bytes)) = some l →
     ((s.dev.cx (s.dev.ctxOfQueue q)).pacer.armed && (s.dev.cx (s.dev.ctxOfQueue q)).pacer.slots != 0
       && (((s.dev.queue q).fetched.takeWhile (·.err.isNone)).take l.length).any
         (fun f => decide (f.pos < 2 ^ 32 ∧ sub32 f.pos (s.dev.cx (s.dev.ctxOfQueue q)).pacer.pEnd < 2 ^ 31))) = false →
     exec (.descriptorAccept q) s = .next (s.withDev (
       let fs := ((s.dev.queue q).fetched.takeWhile (·.err.isNone)).take l.length
       let r := s.dev.checkAll q fs
       if r.1.any (fun m => m.2.wait) then r.2
       else
         let ms := (r.1.zip (chainErrors (fs.map (·.bytes)))).map (fun m => (m.1.1, m.1.2, m.1.2.errs ++ s.dev.placeErrors q m.1.1 ++ m.2))
         if ms.any (fun m => !m.2.2.isEmpty) then r.2.acceptBad q (ms.map (fun m => (m.1, m.2.2)))
         else r.2.acceptGood q (ms.map (fun m => (m.1, m.2.1)))))) ∧
  (∀ (s : State) (q : QueueIx) (f : FalseStart), s.dev.clocked = true → (s.dev.queue q).fstart = some f → s.dev.queueState q = 2 → s.dev.queueRuns q = true →
     s.dev.fetchStopped q = false →
     exec (.falseStartReread q) s = .next (s.withDev (
       let r := s.dev.fetchRun q f.pos (s.dev.fetchRoom q f.pos)
       let t := (r.2.setFld F.Q_STATUS_STATE q 1).setQueue q { r.2.queue q with fstart := none }
       match r.1 with
       | .ok bs =>
         if fieldAt bs 1 1 = genOfLap (f.pos / s.dev.ringSlots q) then t.fetchTake q f.pos bs
         else r.2.setQueue q { r.2.queue q with fstart := some { f with due := s.dev.time + f.wait, wait := min (2 * f.wait) 1024, gen := fieldAt bs 1 1 } }
       | .error (.wait _) => r.2
       | .error (.err code a) => t.setQueue q { t.queue q with fetched := (t.queue q).fetched ++ [⟨f.pos, [], some (code, a)⟩] }))) ∧
  (∀ (s : State) (q : QueueIx) (f : FalseStart), s.dev.clocked = true → (s.dev.queue q).fstart = some f → s.dev.queueState q = 2 → s.dev.queueRuns q = true →
     s.dev.noneWhole q = true →
     exec (.falseStartStop q) s = .next (s.withDev (
       ((s.dev.setQueue q { s.dev.queue q with fstart := none, fetched := [] }).stopQueue q 1 0).pushRec q
         [.event ⟨1, f.gen, s.dev.fld F.Q_BASE_BASE q * 4096 + 64 * (f.pos % s.dev.ringSlots q)⟩ f.pos 0])))

/-- Tiles issued, NOP and SET_SEED, hurdles, completions, their records and MSIs (R265, R267, R268, R269, R270, R271, R274, R276, R278, R285). The model's own choices that it may rest on: log entries 38, 45, 105. -/
def Obligations.HurdlesAndCompletionsTakeEffect : Prop :=
  (∀ (s : State) (q : QueueIx) (d : Desc) (ix cl : Nat), s.dev.clocked = true → s.dev.queueRuns q = true → s.dev.bound (s.dev.ctxOfQueue q) = true →
     s.dev.ctxState (s.dev.ctxOfQueue q) = 2 → (s.dev.cx (s.dev.ctxOfQueue q)).proc = .none → s.dev.issueUnit q = some d → s.dev.nextTile q d = some ix →
     (kindOfOp d.op).table = false → (s.dev.queue q).inflight.any (fun x => x.head == d.head && x.acq) = false → s.dev.shortest (s.dev.issueClusters q) = some cl →
     exec (.tileIssue q) s = .next (s.withDev (
       (s.dev.mapDescs q (fun x => if x.head = d.pos then { x with issued := true, acqDone := true } else x)).setDeque cl (s.dev.deque cl ++ [⟨q, d.pos, ix⟩])))) ∧
  (∀ (s : State) (q : QueueIx) (d : Desc) (ix : Nat), s.dev.clocked = true → s.dev.queueRuns q = true → s.dev.bound (s.dev.ctxOfQueue q) = true →
     s.dev.ctxState (s.dev.ctxOfQueue q) = 2 → (s.dev.cx (s.dev.ctxOfQueue q)).proc = .none → s.dev.issueUnit q = some d → s.dev.nextTile q d = some ix →
     kindOfOp d.op = .cde → (s.dev.queue q).inflight.any (fun x => x.head == d.head && x.acq) = false →
     exec (.tileIssue q) s = .next (s.withDev (
       (s.dev.mapDescs q (fun x => if x.head = d.pos then { x with issued := true, acqDone := true } else x)).setTableQ (q / 128) (s.dev.tableQ (q / 128) ++ [⟨q, d.pos, ix⟩])))) ∧
  (∀ (s : State) (q : QueueIx) (d : Desc), s.dev.clocked = true → s.dev.queueRuns q = true →
     (s.dev.queue q).inflight.find? (fun d => d.op == 0 && d.status.isNone && d.stopped.isNone) = some d →
     ((s.dev.queue q).inflight.takeWhile (fun x => x.pos != d.pos)).any (fun x => x.isHurdle && x.status.isNone) = false →
     exec (.nop q) s = .next (s.withDev (s.dev.modDesc q d.pos (fun d => { d with status := some 0 })))) ∧
  (∀ (s : State) (q : QueueIx) (d : Desc), s.dev.clocked = true → s.dev.queueRuns q = true →
     (s.dev.queue q).inflight.find? (fun d => d.op == 2 && d.status.isNone && d.stopped.isNone) = some d →
     ((s.dev.queue q).inflight.takeWhile (fun x => x.pos != d.pos)).any (fun x => x.isHurdle && x.status.isNone) = false →
     exec (.setSeed q) s = .next (s.withDev (s.dev.modDesc q d.pos (fun d => { d with status := some 0 })))) ∧
  (∀ (s : State) (q : QueueIx) (d : Desc) (ds : List Desc), s.dev.clocked = true → s.dev.queueRuns q = true → (s.dev.queue q).inflight = d :: ds →
     d.isHurdle = true → d.arrived = none → d.status = none → d.stopped = none →
     exec (.hurdleArrive q) s = .next (s.withDev (
       let t := (s.dev.modDesc q d.pos (fun d => { d with arrived := some s.dev.time })).applySignal q d
       match t.desc q d.pos with
       | some d => if d.waits then t.evalHurdle q d else t
       | none => t))) ∧
  (∀ (s : State) (q : QueueIx) (d : Desc) (p : Nat), s.dev.clocked = true → s.dev.queueRuns q = true → s.dev.partOfQueue q = some p →
     (s.dev.queue q).inflight.find? (fun d => d.waits && fieldAt d.bytes 0x30 8 != 0) = some d → fieldAt d.bytes 0x30 8 ≠ 0 →
     exec (.hurdlePoll q) s = .next (s.withDev (
       let toks := (List.range 4).all (fun n => (d.tok n).1 == 0 || decide (s.dev.token p (d.tok n).1 ≥ (d.tok n).2))
       let r := runEng s.dev (s.dev.qmId q .hurdle) (readNumE (s.dev.qmId q .hurdle) (fieldAt d.bytes 0x30 8) 8 .normal)
       match r.1 with
       | .ok w => if toks && hurdleWord d w then ((r.2.ccDropPart p).modDesc q d.pos (fun d => { d with status := some 0 })).phaseCount (q / 128) 7 else r.2
       | .error (.wait _) => r.2
       | .error (.err code a) => r.2.failDesc q d.pos 0x11 code.num a 2 code.num))) ∧
  (∀ (s : State) (q : QueueIx) (d : Desc), s.dev.clocked = true → s.dev.queueRuns q = true → (s.dev.queue q).inflight.find? (·.waits) = some d →
     fieldAt d.bytes 0x4C 4 ≠ 0 →
     exec (.hurdleExpire q) s = .next (s.withDev (
       let t := s.dev.modDesc q d.pos (fun d => { d with status := some 0x13, post := [stoppedRec 3 0 0] })
       (t.setQueue q { t.queue q with fetched := [], fstart := none }).stopQueue q 3 0))) ∧
  (∀ (s : State) (q : QueueIx) (d : Desc), s.dev.clocked = true → s.dev.queueRuns q = true → dueDesc (s.dev.queue q).inflight = some d → d.quiet = true → d.status = some 0 →
     exec (.descriptorComplete q) s = .next (s.withDev ((s.dev.complete q d.pos).closeProc (s.dev.ctxOfQueue q)))) ∧
  (∀ (s : State) (q : QueueIx) (d : Desc), s.dev.clocked = true → s.dev.queueRuns q = true → dueDesc (s.dev.queue q).inflight = some d → (d.quiet && d.status == some 0) = false →
     exec (.descriptorComplete q) s = .next (s.withDev (
       let t := s.dev.modDesc q d.pos (fun d => { d with queued := true })
       let t := t.pushRec q (.completion d.pos :: d.post.map (fun e => .event e (t.fld F.Q_POS_HEAD q) d.op))
       t.closeProc (t.ctxOfQueue q)))) ∧
  (∀ (s : State) (q : QueueIx) (r : CqRec) (rs : List CqRec), s.dev.clocked = true → s.dev.queueRuns q = true →
     (s.dev.queueState q == 3 && s.dev.fld F.Q_STATUS_CAUSE q == 5) = false →
     (s.dev.queue q).records = r :: rs → sub32 (s.dev.queue q).cqPos (s.dev.fld F.Q_CQ_HEAD_HEAD q) < s.dev.cqSlots q →
     exec (.completionRecordWrite q) s = .next (s.withDev (
       let n := (s.dev.queue q).cqPos
       let a := s.dev.fld F.Q_CQ_BASE_BASE q * 4096 + n % s.dev.cqSlots q * 32
       let x := runEng s.dev (s.dev.qmId q .record) (writeE a (s.dev.recBytes q n r) .normal)
       match x.1 with
       | .ok _ => x.2.recordWritten q r
       | .error (.wait _) => x.2
       | .error (.err code va) =>
         (x.2.stopQueue q 5 code.num).report ⟨1, q / 512, s.dev.partOfQueue q, 1, code.num, some (s.dev.ctxOfQueue q), va, q⟩))) ∧
  (∀ (s : State) (q : QueueIx), s.dev.clocked = true → s.dev.queueRuns q = true → (s.dev.queue q).msiPend = true →
     exec (.msiHoldoffExpire q) s = .next (s.withDev ((s.dev.setQueue q { s.dev.queue q with lastMsi := none }).queueMsi q)))

/-- A VXE tile of EW, ACT, REDUCE, SOFTMAX, NORM or OPTIM is run whole (R209, R213, R214, R250). The model's own choices that it may rest on: log entries 2, 16, 17, 18, 19, 20, 21, 118, 121, 122. -/
def Obligations.VectorTilesRun : Prop :=
  ∀ (s : State) (c : ClusterIx) (i : Instr) (op : Nat) (t : Tile) (d : Desc) (ds : List Desc), s.dev.clocked = true →
    (i, op) ∈ [(Instr.vxEw c, 0x10), (.vxAct c, 0x11), (.vxReduce c, 0x12), (.vxSoftmax c, 0x13), (.vxNorm c, 0x14), (.vxOptim c, 0x15)] →
    SMap.find s.dev.engs (512 + c) = some t → s.dev.unit t = d :: ds → d.op = op →
    exec i s = .next (s.withDev (
      let id := s.dev.engId (512 + c) t.q
      let r := runEng s.dev id (vxTile id (d :: ds) t.ix)
      match r.1 with
      | .ok o => (r.2.endTile (512 + c) t o).ringDoorbells
      | .error (.wait paged) => r.2.setFld F.ENG_STATUS_STATE c (if paged then 3 else 2)
      | .error (.err code a) => (r.2.tileError (512 + c) t code a).ringDoorbells))

/-- An SPE tile of GATHER, SCATTER, EMBED or SPMV is run whole (R209, R213, R225, R250). The model's own choices that it may rest on: log entries 2, 16, 17, 19, 23, 24, 114, 115, 118, 121, 122, 124. -/
def Obligations.SparseTilesRun : Prop :=
  ∀ (s : State) (c : ClusterIx) (i : Instr) (op : Nat) (t : Tile) (d : Desc) (ds : List Desc), s.dev.clocked = true →
    (i, op) ∈ [(Instr.spGather c, 0x20), (.spScatter c, 0x21), (.spEmbed c, 0x22), (.spSpmv c, 0x23)] →
    SMap.find s.dev.engs (640 + c) = some t → s.dev.unit t = d :: ds → d.op = op →
    exec i s = .next (s.withDev (
      let id := s.dev.engId (640 + c) t.q
      let r := runEng s.dev id (spTile id d t.ix)
      match r.1 with
      | .ok o => (r.2.endTile (640 + c) t o).ringDoorbells
      | .error (.wait paged) => r.2.setFld F.ENG_STATUS_STATE (640 + c - 512) (if paged then 3 else 2)
      | .error (.err code a) => (r.2.tileError (640 + c) t code a).ringDoorbells))

/-- A tile of a TBE, a CDE or an MVE is run whole (R209, R213, R234, R239, R241, R244, R250). The model's own choices that it may rest on: log entries 2, 16, 19, 25, 26, 27, 28, 118, 121. -/
def Obligations.TableCodecAndMoveTilesRun : Prop :=
  (∀ (s : State) (g : RegionIx) (i : Instr) (op : Nat) (t : Tile) (d : Desc) (ds : List Desc), s.dev.clocked = true →
     (i, op) ∈ [(Instr.cdCompress g, 0x40), (.cdDecompress g, 0x41)] →
     SMap.find s.dev.engs (928 + g) = some t → s.dev.unit t = d :: ds → d.op = op →
     exec i s = .next (s.withDev (
       let id := s.dev.engId (928 + g) t.q
       let r := runEng s.dev id (cdTile id d t.ix)
       match r.1 with
       | .ok o => (r.2.endTile (928 + g) t o).ringDoorbells
       | .error (.wait paged) => r.2.setFld F.ENG_STATUS_STATE (928 + g - 512) (if paged then 3 else 2)
       | .error (.err code a) => (r.2.tileError (928 + g) t code a).ringDoorbells))) ∧
  (∀ (s : State) (c : ClusterIx) (i : Instr) (op : Nat) (t : Tile) (d : Desc) (ds : List Desc), s.dev.clocked = true →
     (i, op) ∈ [(Instr.mvCopy c, 0x50), (.mvFill c, 0x51), (.mvPages c, 0x52)] →
     SMap.find s.dev.engs (768 + c) = some t → s.dev.unit t = d :: ds → d.op = op →
     exec i s = .next (s.withDev (
       let id := s.dev.engId (768 + c) t.q
       let r := runEng s.dev id (mvTile id d t.ix)
       match r.1 with
       | .ok o => (r.2.endTile (768 + c) t o).ringDoorbells
       | .error (.wait paged) => r.2.setFld F.ENG_STATUS_STATE (768 + c - 512) (if paged then 3 else 2)
       | .error (.err code a) => (r.2.tileError (768 + c) t code a).ringDoorbells))) ∧
  (∀ (s : State) (g : RegionIx) (i : Instr) (op : Nat) (t : Tile) (d : Desc) (ds : List Desc), s.dev.clocked = true →
     (i, op) ∈ [(Instr.tbPartition g, 0x30), (.tbAggregate g, 0x31)] →
     SMap.find s.dev.engs (896 + g) = some t → s.dev.unit t = d :: ds → d.op = op →
     exec i s = .next (s.withDev (
       let id := s.dev.engId (896 + g) t.q
       let r := runEng s.dev id (tbTile id d t.ix (hmacSha256 (s.dev.rtagKey id.part)))
       match r.1 with
       | .ok o =>
         let u := r.2.modDesc t.q t.pos (fun d => { d with pairs := o.pairs, buckets := o.buckets, rowsRead := o.rows, tiles := if o.last then t.ix + 1 else d.tiles })
         (u.endTile (896 + g) t o.out).ringDoorbells
       | .error (.wait paged) => r.2.setFld F.ENG_STATUS_STATE (896 + g - 512) (if paged then 3 else 2)
       | .error (.err code a) => (r.2.tileError (896 + g) t code a).ringDoorbells)))

/-- Matrix tiles: start, pass end, HELD and its limit, weights, and MATMUL and CONV run to their end (R129, R132, R138, R139, R141, R145, R148). The model's own choices that it may rest on: log entries 2, 16, 17, 19, 22, 103, 104, 122. -/
def Obligations.MatrixTilesTakeEffect : Prop :=
  (∀ (s : State) (a : ArrayIx) (i : Instr) (op : Nat) (r : MxRun) (d : Desc) (n : Nat), s.dev.clocked = true → (i, op) ∈ [(Instr.matmul a, 8), (.conv a, 9)] →
     SMap.find s.dev.arrays (s.dev.logical a) = some r → r.run = true → r.held = none → s.dev.desc r.tile.q r.tile.pos = some d → d.op = op →
     s.dev.passBound (s.dev.logical a) = n + 1 →
     exec i s = .next (s.withDev (
       let l := s.dev.logical a
       let t := s.dev.passEnd l true
       match SMap.find t.arrays l with
       | some r' => if r' = r then t else t.runMatrix l op n
       | none => t))) ∧
  (∀ (s : State) (a : ArrayIx) (r : MxRun), s.dev.clocked = true → SMap.find s.dev.arrays (s.dev.logical a) = some r → r.run = false →
     ((s.dev.members (s.dev.logical a)).map (fun m => s.dev.fld F.MXA_STATUS_STATE m)).all (fun x => x == 0 || x == 1) = true →
     exec (.mxaTileStart a) s = .next (s.withDev (
       if ((s.dev.members (s.dev.logical a)).map (fun m => s.dev.fld F.MXA_STATUS_STATE m)).all (· == 1) then s.dev.arrayRun (s.dev.logical a) r
       else s.dev.powerUp (s.dev.logical a)))) ∧
  (∀ (s : State) (a : ArrayIx) (staged : Bool) (r : MxRun) (d : Desc) (ds : List Desc), s.dev.clocked = true →
     SMap.find s.dev.arrays (s.dev.logical a) = some r → s.dev.unit r.tile = d :: ds → r.run = true → r.held = none →
     exec (.mxaPassEnd a staged) s = .next (s.withDev (
       let l := s.dev.logical a
       let f := mxFields d.bytes
       let b := tileBox f.m f.n f.tm f.tn r.tile.ix
       let dims := shapeDims (s.dev.fld F.MXA_STATUS_SHAPE l)
       let counted := fun (t : Dev) => (t.members l).foldl (fun t m => (t.bump F.MXA_PASSES_COUNT m 1).bump F.MXA_BUBBLE_COUNT m (64 - b.nr)) t
       let ends := decide (r.pass + 1 ≥ f.foldPasses dims.1)
       let last := ends && decide (r.fold + 1 ≥ foldsOf b.nc dims.2)
       let c1 := foldEnd (d :: ds) b.c0 b.nc dims.2 r.fold
       let x := runEng s.dev (s.dev.engId l r.tile.q) (foldRun (s.dev.engId l r.tile.q) (d :: ds) r dims.2 dims.1 (b.c0 + r.cols) c1 ends last)
       match x.1 with
       | .ok o =>
         let t := (counted (x.2.countFormats (l / 4) (o.outs.foldl TileOut.add .zero))).loadCells l r.tile o.pass.wts
         let r' := { r with exp := o.pass.table, part := o.pass.part, even := o.even, odd := o.odd }
         if last then (t.matrixDone l r.tile).ringDoorbells
         else if ends then
           t.ringDoorbells.nextPass l { r' with pass := 0, fold := r.fold + 1, cols := c1 - b.c0, stats := addStats r.stats o.outs } staged
         else t.nextPass l { r' with pass := r.pass + 1 } staged
       | .error (.wait _) => x.2
       | .error (.err code va) => (x.2.tileError l r.tile code va).ringDoorbells))) ∧
  (∀ (s : State) (a : ArrayIx) (r : MxRun) (h : Nat), s.dev.clocked = true → SMap.find s.dev.arrays (s.dev.logical a) = some r → r.held = some h →
     s.dev.weightsReady r.tile true = true →
     exec (.mxaWeightsAvailable a) s = .next (s.withDev (
       let l := s.dev.logical a
       let t := s.dev.bump F.CTX_ACCT_HOLD_HOLD (s.dev.ctxOfQueue r.tile.q) (s.dev.time - h)
       let t := (t.members l).foldl (fun t m => t.setFld F.MXA_STATUS_STATE m 2) t
       { t with arrays := SMap.set t.arrays l { r with held := none } }))) ∧
  (∀ (s : State) (a : ArrayIx) (r : MxRun) (h : Nat), s.dev.clocked = true → SMap.find s.dev.arrays (s.dev.logical a) = some r → r.held = some h → r.heldLogged = false →
     s.dev.fld F.MXA_HOLD_LIMIT_LIMIT (s.dev.logical a) ≠ 0 →
     exec (.mxaHoldLimitExpire a) s = .next (s.withDev (
       let l := s.dev.logical a
       let t := s.dev.setFlag F.MXA_EVENT_HOLD_EXPIRED l true
       ({ t with arrays := SMap.set t.arrays l { r with heldLogged := true } } : Dev).eventOf r.tile.q ⟨4, l, 0⟩ (((t.desc r.tile.q r.tile.pos).map (·.op)).getD 0))))

/-- Self-tests of arrays and their power (R148, R149, R150, R505, R540, R541). The model's own choices that it may rest on: log entry 42. -/
def Obligations.ArrayTestsAndPowerTakeEffect : Prop :=
  (∀ (s : State) (who : Who) (c : ClusterIx) (w v : Word), s.dev.clocked = true → s.dev.accepts who ⟨.CL_SELFTEST_CTRL, c⟩ w v = true →
     exec (.mxaSelftestRequest who c w) s = .next (s.withDev ((s.dev.storeReg ⟨.CL_SELFTEST_CTRL, c⟩ v).emit (.ctrl who .ok none)))) ∧
  (∀ (s : State) (a : ArrayIx), s.dev.clocked = true → s.dev.fld F.MXA_STATUS_STATE a ≠ 5 →
     exec (.selftestDue a) s = .next (s.withDev (
       if s.dev.fld F.MXA_STATUS_STATE a = 0 then
         (if s.dev.dueTests.contains a.val then s.dev else { s.dev with dueTests := s.dev.dueTests ++ [a.val] })
       else s.dev.setArrayBit F.CL_SELFTEST_CTRL_START a true))) ∧
  (∀ (s : State) (a : ArrayIx), s.dev.clocked = true → s.dev.testWaits a = true →
     (match SMap.find s.dev.arrays (s.dev.logical a) with | some r => r.run | none => false) = false →
     (s.dev.fld F.MXA_STATUS_STATE a == 0 || s.dev.fld F.MXA_STATUS_STATE a == 1 || s.dev.fld F.MXA_STATUS_STATE a == 5) = true →
     exec (.mxaSelftestBegin a) s = .next (s.withDev (
       if s.dev.fld F.MXA_STATUS_STATE a = 0 then s.dev.powerUp (s.dev.logical a) else s.dev.enterTest a))) ∧
  (∀ (s : State) (a : ArrayIx), s.dev.clocked = true → s.dev.fld F.MXA_STATUS_STATE a = 4 →
     exec (.mxaSelftestEnd a true) s = .next (s.withDev (
       let t := s.dev.setArrayBit F.CL_SELFTEST_STATUS_BUSY a false
       let t := { t with lastTests := SMap.set t.lastTests a t.time }
       ((t.setArrayBit F.CL_SELFTEST_STATUS_LAST_PASS a true).setArrayBit F.CL_SELFTEST_STATUS_FAULTED a false).setFld F.MXA_STATUS_STATE a 1))) ∧
  (∀ (s : State) (a : ArrayIx), s.dev.clocked = true → s.dev.fld F.MXA_STATUS_STATE a = 4 →
     exec (.mxaSelftestEnd a false) s = .next (s.withDev (
       let t := s.dev.setArrayBit F.CL_SELFTEST_STATUS_BUSY a false
       let t := { t with lastTests := SMap.set t.lastTests a t.time }
       let t := (t.setArrayBit F.CL_SELFTEST_STATUS_LAST_PASS a false).setArrayBit F.CL_SELFTEST_STATUS_FAULTED a true
       let t := ((t.setFld F.MXA_STATUS_STATE a 5).setFlag F.MXA_EVENT_SELFTEST_FAIL a true).count F.SAFE_STATUS_FAILED 0 1
       (t.report ⟨6, a / 64, t.partOfRegion (a / 16), 5, 4, none, 0, a⟩).dissolve a))) ∧
  (∀ (s : State) (a : ArrayIx), s.dev.clocked = true → s.dev.fld F.PWR_IDLE_ARRAY_IDLE (s.dev.logical a / 64) ≠ 0 → SMap.find s.dev.arrays (s.dev.logical a) = none →
     (s.dev.members (s.dev.logical a)).all (fun m => s.dev.fld F.MXA_STATUS_STATE m == 1) = true →
     exec (.mxaPowerGate a) s = .next (s.withDev ((s.dev.members (s.dev.logical a)).foldl (fun t m => t.setFld F.MXA_STATUS_STATE m 0) s.dev))) ∧
  (∀ (s : State) (a : ArrayIx), s.dev.clocked = true → s.dev.powering.contains (s.dev.logical a) = true → s.dev.powerFirst (s.dev.logical a) = true →
     exec (.mxaPowerUpDone a) s = .next (s.withDev (
       let l := s.dev.logical a
       let t := { s.dev with powering := s.dev.powering.filter (· != l) }
       let t := (t.members l).foldl (fun t m => if t.fld F.MXA_STATUS_STATE m = 0 then t.setFld F.MXA_STATUS_STATE m 1 else t) t
       let due := (t.members l).filter (fun m => t.dueTests.contains m || t.testWaits m)
       if due.isEmpty then t.tileStart l else due.foldl Dev.enterTest t)))

/-- Tiles taken and stolen, the staging split, a pad read, and the failures of a tile (R148, R152, R210, R250, R286, R287, R288, R539). The model's own choices that it may rest on: log entries 19, 41, 43. -/
def Obligations.EnginesAndPadsTakeEffect : Prop :=
  (∀ (s : State) (e : Fin 896) (unstaged : List Tile) (t : Tile) (rest : List Tile), s.dev.clocked = true → s.dev.engineIdle e = true →
     takeFirst (s.dev.canRun e unstaged) (s.dev.deque (clusterOfEngine e)) = some (t, rest) →
     exec (.engineTileTake ⟨e, unstaged⟩) s = .next (s.withDev ((s.dev.setDeque (clusterOfEngine e) rest).assign e t))) ∧
  (∀ (s : State) (e : Fin 896) (unstaged : List Tile) (v : Nat) (t : Tile) (rest : List Tile), s.dev.clocked = true → s.dev.engineIdle e = true →
     (s.dev.deque (clusterOfEngine e)).any (s.dev.canRun e unstaged) = false → s.dev.flag F.CL_STEAL_CFG_STEAL (clusterOfEngine e) = true → s.dev.stealFrom e unstaged = some v →
     takeFirst (s.dev.canRun e unstaged) (s.dev.deque v).reverse = some (t, rest) →
     exec (.tileSteal ⟨e, unstaged⟩) s = .next (s.withDev (
       (((s.dev.setDeque v rest.reverse).count F.CL_STEALS_OUT v 1).count F.CL_STEALS_IN (clusterOfEngine e) 1).assign e t))) ∧
  (∀ (s : State) (u : Fin 64) (x : Nat) (t : Tile) (rest : List Tile) (p : Nat), s.dev.clocked = true → s.dev.engineIdle (896 + u) = true →
     s.dev.partOfRegion (regionOfEngine (896 + u)) = some p →
     (regionOfEngine (896 + u) :: (s.dev.regionsOf p).filter (· != regionOfEngine (896 + u))).find? (fun x => (s.dev.tableQ x).any (s.dev.canRun (896 + u) [])) = some x →
     takeFirst (s.dev.canRun (896 + u) []) (s.dev.tableQ x) = some (t, rest) →
     exec (.tableQueueTake u) s = .next (s.withDev ((s.dev.setTableQ x rest).assign (896 + u) t))) ∧
  (∀ (s : State) (who : Who) (c : ClusterIx) (w v : Word), s.dev.clocked = true → s.dev.accepts who ⟨.MVE_STAGE, c⟩ w v = true →
     exec (.mveStageWrite who c w) s = .next (s.withDev ((s.dev.storeReg ⟨.MVE_STAGE, c⟩ v).emit (.ctrl who .ok none)))) ∧
  (∀ (s : State) (c : ClusterIx), s.dev.clocked = true → s.dev.tileInFlight c = false → s.dev.fld F.MVE_STAGE_ACTIVE_BASE c < s.dev.stageSplit c → s.dev.padUsed.contains c.val = false →
     exec (.stageSplitEffect c) s = .next (s.withDev (s.dev.setFld F.MVE_STAGE_ACTIVE_BASE c (s.dev.stageSplit c)))) ∧
  (∀ (s : State) (c : ClusterIx) (off : Fin 4194304) (arr : Option (Fin 4)), s.dev.clocked = true → off.val < s.dev.padSize c →
     exec (.padRead c off arr) s = .next (s.withDev (
       let r := s.dev.padRead c off fullMask
       let t := r.2.2.emit (.resp (.mve c) off r.1 (some r.2.1))
       match arr with
       | none => t
       | some i => match SMap.find t.arrays (t.logical (4 * c + i)) with
         | some x => if r.1 == .dataErr && x.run then t.tileEnds (t.logical (4 * c + i)) (t.logical (4 * c + i)) x.tile .dataErr 0 else t
         | none => t))) ∧
  (∀ (s : State) (e : Fin 960) (code : Resp) (addr : Word) (r : MxRun) (d : Desc), s.dev.clocked = true → e.val < 512 →
     SMap.find s.dev.arrays (s.dev.logical e) = some r → s.dev.desc r.tile.q r.tile.pos = some d → d.op ≠ 0x40 → d.op ≠ 0x41 → d.op ≠ 0x52 → code ≠ .ok →
     exec (.engineResponseError e code addr) s = .next (s.withDev (s.dev.tileError (s.dev.logical e) r.tile code addr.toNat))) ∧
  (∀ (s : State) (e : Fin 960) (code : Resp) (addr : Word) (t : Tile) (d : Desc), s.dev.clocked = true → 512 ≤ e.val → SMap.find s.dev.engs e = some t →
     s.dev.desc t.q t.pos = some d → d.op ≠ 0x40 → d.op ≠ 0x41 → d.op ≠ 0x52 → code ≠ .ok →
     exec (.engineResponseError e code addr) s = .next (s.withDev (s.dev.tileError e t code addr.toNat))) ∧
  (∀ (s : State) (g : RegionIx) (t : Tile), s.dev.clocked = true → SMap.find s.dev.engs (896 + g) = some t →
     exec (.tbeLockstepMismatch g) s = .next (s.withDev (s.dev.tileError (896 + g) t .dataErr 0)))

/-- Accesses of the channels, age, the scrub, map-out, temperature, hot counts, lost training, epochs (R311, R315, R317, R319, R323, R325, R326, R342, R343). The model's own choices that it may rest on: log entries 12, 63, 108, 109, 120. -/
def Obligations.MemoryChannelCommandsTakeEffect : Prop :=
  (∀ (s : State) (ch : ChanIx) (arrive : List ChReq) (upset : List (Nat × Nat × Byte)) (q : ChReq), s.dev.clocked = true → arrive.all chReqShape = true → s.dev.ctlUp ch = true →
     (arrive.foldl (fun c q => c.arrive s.dev.time q) (s.dev.chan ch)).mode.pick ((s.dev.setChan ch (arrive.foldl (fun c q => c.arrive s.dev.time q) (s.dev.chan ch)).mode).inFallback ch) = some q →
     exec (.t1ChannelAccess ch arrive upset) s = .next (s.withDev (
       let t := s.dev.setChan ch (arrive.foldl (fun c q => c.arrive s.dev.time q) (s.dev.chan ch)).mode
       let w0 := t.burstWord ch q.blk
       let t := upset.foldl (fun t u => t.upset (w0 + u.1 % 32) u.2.1 u.2.2) t
       let r := (t.serveQueue ch).2.countHot ch q
       r.flushNotices r.notices.length))) ∧
  (∀ (s : State) (m : DimmIx) (arrive : List ChReq) (upset : List (Nat × Nat × Byte)) (q : ChReq), s.dev.clocked = true → arrive.all chReqShape = true → s.dev.ctlUp (256 + m) = true →
     (arrive.foldl (fun c q => c.arrive s.dev.time q) (s.dev.chan (256 + m))).mode.pick ((s.dev.setChan (256 + m) (arrive.foldl (fun c q => c.arrive s.dev.time q) (s.dev.chan (256 + m))).mode).inFallback (256 + m)) = some q →
     exec (.t2ChannelAccess m arrive upset) s = .next (s.withDev (
       let t := s.dev.setChan (256 + m) (arrive.foldl (fun c q => c.arrive s.dev.time q) (s.dev.chan (256 + m))).mode
       let w0 := t.burstWord (256 + m) q.blk
       let t := upset.foldl (fun t u => t.upset (w0 + u.1 % 32) u.2.1 u.2.2) t
       let r := (t.serveQueue (256 + m)).2.countHot (256 + m) q
       r.flushNotices r.notices.length))) ∧
  (∀ (s : State) (ctl : CtlIx), s.dev.clocked = true → s.dev.ctlUp ctl = true → s.dev.inFallback ctl = false → ((s.dev.chan ctl).rdq ++ (s.dev.chan ctl).wrq).isEmpty = false →
     exec (.ageFallback ctl) s = .next (s.withDev (
       if ctl.val < 256 then (s.dev.setFallback ctl true).count F.CH_COUNTS_FALLBACKS ctl 1
       else (s.dev.setFallback ctl true).count F.T2_COUNTS_FALLBACKS (ctl.val - 256) 1))) ∧
  (∀ (s : State) (ctl : CtlIx) (upset : List (Nat × Byte)), s.dev.clocked = true → s.dev.ctlUp ctl = true → s.dev.ctlFailed ctl = false → s.dev.scrubPeriod ctl ≠ 0 →
     s.dev.scrubWords ctl ≠ 0 → (decide (256 ≤ ctl.val) && !s.dev.flag F.T2_STATUS_USED (ctl - 256)) = false →
     exec (.patrolScrub ctl upset) s = .next (s.withDev (
       let w := s.dev.ctlWord ctl (8 * (s.dev.chan ctl).scrub)
       let x := (upset.foldl (fun t u => t.upset w u.1 u.2) s.dev).seen ctl w
       let t := x.2.2.putSymbols w (scrubSymbols w (x.2.2.genOf w) (x.2.2.symbolsOf w))
       (t.limit ctl (s.dev.ueOf ctl)).scrubNext ctl))) ∧
  (∀ (s : State) (who : Who) (ch : ChanIx) (v : Word), s.dev.clocked = true → s.dev.accepts who ⟨.CH_CTRL, ch⟩ (s.dev.reg .CH_CTRL ch ||| 1) v = true →
     F.CH_CTRL_MAPOUT.get v = 1 →
     exec (.channelMapout who ch) s = .next (s.withDev (
       ((((s.dev.storeReg ⟨.CH_CTRL, ch⟩ v).setFlag F.CH_CTRL_MAPOUT ch false).mapOut ch 4).emit (.ctrl who .ok none))))) ∧
  (∀ (s : State) (m : DimmIx) (temp : Int), s.dev.clocked = true → s.dev.flag F.T2_STATUS_POPULATED m = true → s.dev.ctlUp (256 + m) = true →
     exec (.dimmTempRead m temp) s = .next (s.withDev (s.dev.setChan (256 + m) { s.dev.chan (256 + m) with temp := temp, refresh := Config.refreshRate temp }))) ∧
  (∀ (s : State) (m : DimmIx), s.dev.clocked = true → s.dev.fld F.T2_CTRL_HOT_DECAY m ≠ 0 →
     exec (.hotDecay m) s = .next (s.withDev { s.dev with hots := SMap.set s.dev.hots m { SMap.get s.dev.hots .init m with
       table := (SMap.get s.dev.hots .init m).table.map (fun e => (e.1, { e.2 with
         count := e.2.count / 2, notified := e.2.notified && !decide (e.2.count / 2 < (s.dev.hotThresholdOf e.2.page + 1) / 2) })) } })) ∧
  (∀ (s : State) (ctl : CtlIx), s.dev.clocked = true →
     exec (.channelTrainingLost ctl false) s = .next (s.withDev (if ctl.val < 256 then s.dev.mapOut ctl 2 else s.dev.dimmFail (ctl.val - 256)))) ∧
  (∀ (s : State) (who : Who) (p : PartIx) (epoch : BitVec 16) (v : Word), s.dev.clocked = true →
     s.dev.accepts who ⟨.TIER_POOL_CFG, p⟩ (F.TIER_POOL_CFG_EPOCH.put (s.dev.reg .TIER_POOL_CFG p) epoch.toNat) v = true →
     exec (.epochWrite who p epoch) s = .next (s.withDev ((s.dev.storeReg ⟨.TIER_POOL_CFG, p⟩ v).emit (.ctrl who .ok none))))

/-- Requests, fills, prefetches, preloads and ways of the system cache (R331, R334, R335, R336, R337, R506). The model's own choices that it may rest on: log entry 12. -/
def Obligations.SystemCacheCommandsTakeEffect : Prop :=
  (∀ (s : State) (g : RegionIx) (chan : Fin 8) (blk : Nat) (r : ScReq) (fault : ScFault), s.dev.clocked = true → scReqShape r = true → s.dev.scUp g = true →
     exec (.scRequest g chan blk r fault) s = .next (s.withDev ((s.dev.scMeets g chan blk r.sector fault).scQueue g chan blk r false))) ∧
  (∀ (s : State) (g : RegionIx) (chan : Fin 8) (blk : Nat) (m : MissReg) (ms : List MissReg) (d : ChDone) (left : List ChDone), s.dev.clocked = true →
     s.dev.scUp g = true → takeFirst (fun (m : MissReg) => m.chan == chan.val && m.blk == blk) (s.dev.sc g).miss = some (m, ms) →
     takeFirst (fun (d : ChDone) => d.req.src == .scFill && d.req.blk == blk) (s.dev.chan (8 * g + chan)).done = some (d, left) →
     exec (.scFill g chan blk) s = .next (s.withDev (
       let t := s.dev.setChan (8 * g + chan) { s.dev.chan (8 * g + chan) with done := left }
       let t := t.setSc g { t.sc g with miss := ms }
       let ws := if d.words.isEmpty then (List.range 32).map (fun _ => (true, (0 : Word))) else d.words
       let t := t.scServeFill g chan blk ws m.reqs
       (t.sc g).waiting.foldl (fun t x => t.scQueue g x.1 x.2.1 x.2.2 true) (t.setSc g { t.sc g with waiting := [] })))) ∧
  (∀ (s : State) (g : RegionIx) (chan : Fin 8) (blk : Nat) (d : ChDone) (left : List ChDone), s.dev.clocked = true →
     takeFirst (fun (d : ChDone) => d.req.src == .scPrefetch && d.req.blk == blk) (s.dev.chan (8 * g + chan)).done = some (d, left) →
     ((s.dev.setChan (8 * g + chan) { s.dev.chan (8 * g + chan) with done := left }).sc g).pfOut.contains (chan.val, blk) = true →
     ((s.dev.setChan (8 * g + chan) { s.dev.chan (8 * g + chan) with done := left }).sc g).pfDead.contains (chan.val, blk) = false →
     d.words.length = 32 → d.words.any (·.1) = false →
     exec (.scPrefetchFill g chan blk) s = .next (s.withDev (
       let t := s.dev.setChan (8 * g + chan) { s.dev.chan (8 * g + chan) with done := left }
       let c : ScSt := { t.sc g with pfOut := (t.sc g).pfOut.erase (chan.val, blk), pfDead := (t.sc g).pfDead.erase (chan.val, blk) }
       let b := c.buffer ++ [(chan.val, blk, fillSectors d.words)]
       t.setSc g { c with buffer := b.drop (b.length - 64) }))) ∧
  (∀ (s : State) (who : Who) (g : RegionIx) (v : Word), s.dev.clocked = true →
     s.dev.accepts who ⟨.SC_PRELOAD_CTRL, g⟩ (F.SC_PRELOAD_CTRL_GO.put (s.dev.reg .SC_PRELOAD_CTRL g) 1) v = true →
     F.SC_PRELOAD_CTRL_GO.get v = 1 → F.SC_PRELOAD_CTRL_UNLOCK.get v = 0 → s.dev.flag F.SC_PRELOAD_CTRL_GO g = false →
     exec (.scPreloadGo who g) s = .next (s.withDev (
       ((s.dev.setFld F.SC_PRELOAD_CTRL_LINES g (F.SC_PRELOAD_CTRL_LINES.get v)).scPreloadStart g).emit (.ctrl who .ok none)))) ∧
  (∀ (s : State) (g : RegionIx), s.dev.clocked = true → s.dev.flag F.SC_PRELOAD_CTRL_GO g = true →
     exec (.scPreloadDone g) s = .next (s.withDev (
       let t := s.dev.scPreloadRange g (s.dev.fld F.SC_PRELOAD_ADDR_ADDR g * 256) ((s.dev.sc g).preload.headD 0)
       (t.setSc g { t.sc g with preload := [] }).setFlag F.SC_PRELOAD_CTRL_GO g false))) ∧
  (∀ (s : State) (who : Who) (g : RegionIx) (v : Word), s.dev.clocked = true →
     s.dev.accepts who ⟨.SC_PRELOAD_CTRL, g⟩ (F.SC_PRELOAD_CTRL_UNLOCK.put (F.SC_PRELOAD_CTRL_GO.put (s.dev.reg .SC_PRELOAD_CTRL g) 0) 1) v = true →
     F.SC_PRELOAD_CTRL_GO.get v = 0 → F.SC_PRELOAD_CTRL_UNLOCK.get v = 1 →
     exec (.scUnlock who g) s = .next (s.withDev (
       ((s.dev.setFld F.SC_PRELOAD_CTRL_LINES g (F.SC_PRELOAD_CTRL_LINES.get v)).setFld F.SC_WAYS_LOCK g 0).emit (.ctrl who .ok none)))) ∧
  (∀ (s : State) (g : RegionIx), s.dev.clocked = true → s.dev.fld F.PWR_IDLE_WAY_WINDOW (g / 4) ≠ 0 → s.dev.flag F.SC_STATUS_LOST g = false → s.dev.scUp g = true →
     exec (.scWayWindow g) s = .next (s.withDev (
       let c := s.dev.sc g
       let t := s.dev.setSc g { c with hits := [], misses := 0 }
       let on := s.dev.fld F.SC_STATUS_WAYS_ON g
       let down := t.scWayDown g on (s.dev.fld F.SC_WAYS_LOCK g) ((List.range 16).filter (bitOf on)).length c.hits
       match (List.range 16).find? (fun w => !bitOf on w) with
       | some w => if c.misses ≥ s.dev.fld F.PWR_IDLE_WAY_UP_MISSES (g / 4) * 256 then t.setFld F.SC_STATUS_WAYS_ON g (on + 2 ^ w) else down
       | none => down))) ∧
  (∀ (s : State) (g : RegionIx) (way : Fin 16), s.dev.clocked = true → (s.dev.sc g).downing.contains way.val = true →
     exec (.scWayPowerDownDone g way) s = .next (s.withDev (
       if bitOf (s.dev.fld F.SC_WAYS_LOCK g) way
           || ((List.range 16).filter (bitOf (s.dev.fld F.SC_STATUS_WAYS_ON g))).length ≤ s.dev.fld F.SC_WAYS_MIN_ON g then
         s.dev.setSc g { s.dev.sc g with downing := (s.dev.sc g).downing.erase way.val }
       else
         let t := ((s.dev.sc g).lines.filter (fun l => l.way == way.val)).foldl (fun t l => (t.scWriteBack g l 3).scDrop g l.chan l.blk) s.dev
         let t := t.setSc g { t.sc g with downing := (t.sc g).downing.erase way.val }
         t.setFld F.SC_STATUS_WAYS_ON g (t.fld F.SC_STATUS_WAYS_ON g &&& (0xFFFF - 2 ^ way.val)))))

/-- A home takes a request in flight, is asked, and answers it (R60, R310, R346, R347, R352). The model's own choices that it may rest on: log entries 12, 16, 88, 110, 114. -/
def Obligations.HomesTakeRequests : Prop :=
  (∀ (s : State) (n : CoreIx) (line : Nat) (flit : Fin 3) (i : Instr) (k : ReqKind) (r : Req) (d e : Dev) (h : Nat), s.dev.clocked = true →
     (i, k) ∈ [(Instr.rdShared n ⟨line, flit⟩, ReqKind.rdShared), (.rdUnique n ⟨line, flit⟩, .rdUnique), (.upgrade n ⟨line, flit⟩, .upgrade), (.makeUnique n ⟨line, flit⟩, .makeUnique)] →
     s.dev.takeMsg (fun m => match m with | .req r => r.kind == k && r.src == .core n && r.line == line | _ => false) = some (.req r, d) →
     d.fromDead r = false → d.ownCode r = .ok → d.ctxCheck r = (some .ok, e) →
     homeOfPlace (r.line * 64) (e.place (r.line * 64)) = some h →
     exec i s = .next (s.withDev (if flit = 0 then e.arriveReq h r else if flit = 1 then d.send (.comp r.src r.line r.tag .dataErr) else d))) ∧
  (∀ (s : State) (src : Agent) (tag line : Nat) (part ctx : Option Nat) (hint : Hint) (data : Line) (mask : BitVec 64) (op : AtomOp) (flit : Fin 3) (i : Instr) (r : Req) (e : Dev) (h : Nat),
     s.dev.clocked = true →
     (i, r) ∈ [(Instr.rdOnce src tag ⟨line, flit⟩ part ctx hint mask, (⟨.rdOnce, line, src, tag, part, ctx, hint, 0, mask⟩ : Req)),
       (.wrLine src tag ⟨line, flit⟩ part ctx hint data, ⟨.wrLine, line, src, tag, part, ctx, hint, data, fullMask⟩),
       (.wrPart src tag ⟨line, flit⟩ part ctx hint data mask, ⟨.wrPart, line, src, tag, part, ctx, hint, data, mask⟩),
       (.atomic src tag ⟨line, flit⟩ part ctx ⟨op, hint⟩ data mask, ⟨.atomic op, line, src, tag, part, ctx, hint, data, mask⟩)] →
     s.dev.takeMsg (fun x => decide (x = .req r)) = none → s.dev.laneBefore (.req r) = false → s.dev.fromDead r = false →
     s.dev.ownCode r = .ok → s.dev.ctxCheck r = (some .ok, e) → homeOfPlace (line * 64) (e.place (line * 64)) = some h →
     exec i s = .next (s.withDev (if flit = 0 then e.arriveReq h r else if flit = 1 then s.dev.send (.comp src line tag .dataErr) else s.dev)))

/-- Writebacks, evictions, loss notes, snoops, their answers, grants, completions, data, and the reclaim order (R310, R352, R355, R356, R360, R361, R364). The model's own choices that it may rest on: log entries 88, 110. -/
def Obligations.CoherenceMessagesTakeEffect : Prop :=
  (∀ (s : State) (n : CoreIx) (line h : Nat) (x : Line) (d : Dev), s.dev.clocked = true → s.dev.homeOf line = some h →
     s.dev.takeMsg (fun m => match m with | .wbDirty c l _ => c == n.val && l == line | _ => false) = some (.wbDirty n line x, d) →
     (s.dev.l2 n).dead = false → s.dev.lineBusy h line = false →
     exec (.wbDirty n line) s = .next (s.withDev (
       if d.ownerIs h line n then
         let w := d.memWrite (d.l2Req .wrLine n line) x fullMask
         ((w.2.freeDir h line).stamp line).send (.comp (.core n) line 1 w.1)
       else (d.count F.HOME_COUNTS_CROSSINGS h 1).send (.comp (.core n) line 1 .ok)))) ∧
  (∀ (s : State) (n : CoreIx) (line h : Nat) (d : Dev), s.dev.clocked = true → s.dev.homeOf line = some h →
     s.dev.takeMsg (fun m => decide (m = .evictClean n line)) = some (.evictClean n line, d) → (s.dev.l2 n).dead = false → s.dev.lineBusy h line = false →
     exec (.evictClean n line) s = .next (s.withDev (d.cleanTaken h n line))) ∧
  (∀ (s : State) (n : CoreIx) (line h : Nat) (d : Dev) (e : FiltEntry), s.dev.clocked = true → s.dev.homeOf line = some h →
     s.dev.takeMsg (fun m => decide (m = .lostNote n line)) = some (.lostNote n line, d) → s.dev.lineBusy h line = false → d.dir h line = some e → e.holders.contains n.val = true →
     exec (.lostNote n line) s = .next (s.withDev ((d.freeDir h line).lose h line 2 n))) ∧
  (∀ (s : State) (n : CoreIx) (line : Nat) (d : Dev) (l : L2Line), s.dev.clocked = true → (s.dev.l2 n).dead = false → s.dev.granting n line = false →
     s.dev.takeMsg (fun m => decide (m = .snpShare n line)) = some (.snpShare n line, d) → (d.l2 n).find line = some l →
     exec (.snpShare n ⟨line, false⟩) s = .next (s.withDev ((d.l2Put n { l with st := .s }).send (if l.st == .m then .snpData n line l.data else .snpAck n line)))) ∧
  (∀ (s : State) (n : CoreIx) (line : Nat) (d : Dev) (l : L2Line), s.dev.clocked = true → (s.dev.l2 n).dead = false → s.dev.granting n line = false →
     s.dev.takeMsg (fun m => decide (m = .snpShare n line)) = some (.snpShare n line, d) → (d.l2 n).find line = some l →
     exec (.snpShare n ⟨line, true⟩) s = .next (s.withDev (
       let x := ((d.l2Drop n line).send (if l.st == .m then .lostNote n line else .evictClean n line)).l2Snoop n line false
       if let some y := x.1 then x.2.send (.snpData n line y) else x.2.send (.snpAck n line)))) ∧
  (∀ (s : State) (n : CoreIx) (line : Nat) (d : Dev) (l : L2Line), s.dev.clocked = true → (s.dev.l2 n).dead = false → s.dev.granting n line = false →
     s.dev.takeMsg (fun m => decide (m = .snpInv n line)) = some (.snpInv n line, d) → (d.l2 n).find line = some l →
     exec (.snpInv n ⟨line, false⟩) s = .next (s.withDev ((d.l2Drop n line).send (if l.st == .m then .snpData n line l.data else .snpAck n line)))) ∧
  (∀ (s : State) (n : CoreIx) (line : Nat) (d : Dev) (l : L2Line), s.dev.clocked = true → (s.dev.l2 n).dead = false → s.dev.granting n line = false →
     s.dev.takeMsg (fun m => decide (m = .snpInv n line)) = some (.snpInv n line, d) → (d.l2 n).find line = some l →
     exec (.snpInv n ⟨line, true⟩) s = .next (s.withDev (
       let x := ((d.l2Drop n line).send (if l.st == .m then .lostNote n line else .evictClean n line)).l2Snoop n line true
       if let some y := x.1 then x.2.send (.snpData n line y) else x.2.send (.snpAck n line)))) ∧
  (∀ (s : State) (n : CoreIx) (line h : Nat) (d : Dev), s.dev.clocked = true → s.dev.homeOf line = some h →
     s.dev.takeMsg (fun m => match m with | .snpAck c l => !false && c == n.val && l == line | .snpData c l _ => false && c == n.val && l == line | _ => false) = some (.snpAck n line, d) →
     exec (.snpAck n line) s = .next (s.withDev ((d.takeAnswer h n line none).pump h))) ∧
  (∀ (s : State) (n : CoreIx) (line h : Nat) (x : Line) (d : Dev), s.dev.clocked = true → s.dev.homeOf line = some h →
     s.dev.takeMsg (fun m => match m with | .snpAck c l => !true && c == n.val && l == line | .snpData c l _ => true && c == n.val && l == line | _ => false) = some (.snpData n line x, d) →
     exec (.snpData n line) s = .next (s.withDev ((d.takeAnswer h n line (some x)).pump h))) ∧
  (∀ (s : State) (n : CoreIx) (line : Nat) (evict : List (Nat × Bool)) (d : Dev), s.dev.clocked = true →
     s.dev.takeMsg (fun m => decide (m = .grant n line)) = some (.grant n line, d) → d.l2Waits n line = true →
     exec (.grant n line evict) s = .next (s.withDev (d.l2Fill n (match (d.l2 n).find line with | some l => { l with st := .m } | none => ⟨line, .m, 0⟩) evict))) ∧
  (∀ (s : State) (n : CoreIx) (line tag : Nat) (flit : Fin 3) (code : Resp) (d : Dev), s.dev.clocked = true →
     s.dev.takeMsg (fun m => match m with | .comp a l t _ => a == .core n && l == line && t == tag | _ => false) = some (.comp (.core n) line tag code, d) →
     exec (.comp (.core n) ⟨line, flit⟩ tag) s = .next (s.withDev (if flit = 0 then d.coreComp n tag line code else if flit = 1 then d.coreComp n tag line .dataErr else d))) ∧
  (∀ (s : State) (n : ClusterIx) (line tag : Nat) (flit : Fin 3) (code : Resp) (d : Dev), s.dev.clocked = true →
     s.dev.takeMsg (fun m => match m with | .comp a l t _ => a == .mve n && l == line && t == tag | _ => false) = some (.comp (.mve n) line tag code, d) →
     exec (.comp (.mve n) ⟨line, flit⟩ tag) s = .next (s.withDev (if flit = 0 then d.emit (.resp (.mve n) tag code none) else if flit = 1 then d.emit (.resp (.mve n) tag .dataErr none) else d))) ∧
  (∀ (s : State) (n : CoreIx) (line tag : Nat) (evict : List (Nat × Bool)) (flit : Fin 3) (st : Option DirSt) (x : Line) (d : Dev), s.dev.clocked = true →
     s.dev.takeMsg (fun m => match m with | .data a l t _ _ => a == .core n && l == line && t == tag | _ => false) = some (.data (.core n) line tag st x, d) →
     exec (.data (.core n) ⟨line, flit⟩ tag evict) s = .next (s.withDev (if flit = 0 then d.coreData n tag line st x evict else if flit = 1 then d.coreComp n tag line .dataErr else d))) ∧
  (∀ (s : State) (h : HomeIx), s.dev.clocked = true →
     exec (.reclaimOrder h) s = .next (s.withDev (
       let t := (s.dev.home h).filter.foldl (fun t e => t.reclaimLine h e) s.dev
       let t := t.setHome h { t.home h with queue := (t.home h).queue.filter (fun r => !t.fromDead r) }
       ((t.setFlag F.HOME_STATUS_RECLAIM h false).setFlag F.HOME_EVENT_RECLAIM_DONE h true).pump h)))

/-- Loads, stores, fences, AMOs, LR and SC of a core (R369, R371, R372, R373, R374, R375, R376, R377, R378). The model's own choices that it may rest on: log entries 16, 35, 85, 94, 97. -/
def Obligations.CoreAccessesTakeEffect : Prop :=
  (∀ (s : State) (n : CoreIx) (lvl : Level) (pa : BitVec 56) (size : Fin 9) (pbmt : Fin 4) (l : L2Line), s.dev.clocked = true → loadShape size = true → s.dev.coreUp n = true →
     s.dev.strictly pa.toNat pbmt = false → memType pa.toNat pbmt = .cacheable → pa.toNat % 8 + size.val ≤ 8 → s.dev.wcTouches n [pa.toNat / 64] = false →
     (s.dev.hart n).sb.all (fun e => e.line != pa.toNat / 64) = true → (s.dev.l2 n).find (pa.toNat / 64) = some l →
     exec (.coreLoad ⟨n, lvl⟩ pa size pbmt false) s = .next (s.withBurn (
       s.dev.finish n (.load, s.dev.answerAddr pa.toNat, size.val) (.value (fieldAt (lineBytes l.data) (pa.toNat % 64) size.val))))) ∧
  (∀ (s : State) (n : CoreIx) (lvl : Level) (pa : BitVec 56) (size : Fin 9) (pbmt : Fin 4) (bad : Bool) (t : Dev), s.dev.clocked = true → loadShape size = true → s.dev.coreUp n = true →
     s.dev.strictly pa.toNat pbmt = false → memType pa.toNat pbmt = .cacheable → pa.toNat % 8 + size.val ≤ 8 → (if bad then s.dev.l2Bad n (pa.toNat / 64) else s.dev) = t →
     t.wcTouches n [pa.toNat / 64] = false → (t.hart n).sb.all (fun e => e.line != pa.toNat / 64) = true → (t.l2 n).find (pa.toNat / 64) = none →
     exec (.coreLoad ⟨n, lvl⟩ pa size pbmt bad) s = .next (s.withBurn ((t.l2Ask n (pa.toNat / 64) .rdShared).stall n (.load, t.answerAddr pa.toNat, size.val)))) ∧
  (∀ (s : State) (n : CoreIx) (lvl : Level) (pa : BitVec 56) (size : Fin 9) (pbmt : Fin 4) (l : Nat), s.dev.clocked = true → loadShape size = true → s.dev.coreUp n = true →
     s.dev.strictly pa.toNat pbmt = false → memType pa.toNat pbmt = .nonCaching → linesOf (s.dev.answerAddr pa.toNat) size.val = [l] → s.dev.wcTouches n [l] = false →
     (s.dev.hart n).waits.contains (.load, s.dev.answerAddr pa.toNat, size.val) = false →
     exec (.coreLoad ⟨n, lvl⟩ pa size pbmt false) s = .next (s.withBurn (
       let lo := faultByte (s.dev.answerAddr pa.toNat) l
       let len := min (s.dev.answerAddr pa.toNat + size.val) (l * 64 + 64) - lo
       (s.dev.stall n (.load, s.dev.answerAddr pa.toNat, size.val)).askOnce n .rdOnce lo len 0 (byteMask lo len)))) ∧
  (∀ (s : State) (n : CoreIx) (lvl : Level) (pa : BitVec 56) (size : Fin 9) (pbmt : Fin 4) (bad : Bool), s.dev.clocked = true → loadShape size = true → s.dev.strictly pa.toNat pbmt = true →
     exec (.coreLoad ⟨n, lvl⟩ pa size pbmt bad) s = .next (s.withBurn (s.dev.strictAccess n lvl pa.toNat size.val none))) ∧
  (∀ (s : State) (n : CoreIx) (lvl : Level) (pa : BitVec 56) (data : List Byte) (pbmt : Fin 4) (merge : Bool), s.dev.clocked = true → storeShape data = true → s.dev.coreUp n = true →
     s.dev.strictly pa.toNat pbmt = false → memType pa.toNat pbmt = .cacheable → (linesOf pa.toNat data.length).all (s.dev.l2Owns n) = true →
     (s.dev.hart n).sb.length + (storePieces (s.dev.answerAddr pa.toNat) data).length ≤ 64 →
     exec (.coreStore ⟨n, lvl⟩ pa data pbmt merge) s = .next (s.withBurn (
       (s.dev.setHart n ((storePieces (s.dev.answerAddr pa.toNat) data).foldl (fun h p => h.push (storeEntry p.1 p.2 h.epoch) merge) (s.dev.hart n))).finish
         n (.store, s.dev.answerAddr pa.toNat, data.length) .done))) ∧
  (∀ (s : State) (n : CoreIx) (lvl : Level) (pa : BitVec 56) (data : List Byte) (pbmt : Fin 4) (merge : Bool), s.dev.clocked = true → storeShape data = true → s.dev.coreUp n = true →
     s.dev.strictly pa.toNat pbmt = false → memType pa.toNat pbmt = .cacheable → (linesOf pa.toNat data.length).all (s.dev.l2Owns n) = false →
     exec (.coreStore ⟨n, lvl⟩ pa data pbmt merge) s = .next (s.withBurn (
       ((linesOf pa.toNat data.length).foldl (fun t l => t.askOwn n l (zeroLine pa.toNat data)) s.dev).stall n (.store, s.dev.answerAddr pa.toNat, data.length)))) ∧
  (∀ (s : State) (n : CoreIx) (lvl : Level) (pa : BitVec 56) (data : List Byte) (pbmt : Fin 4) (merge : Bool) (t : Dev), s.dev.clocked = true → storeShape data = true → s.dev.coreUp n = true →
     s.dev.strictly pa.toNat pbmt = false → memType pa.toNat pbmt = .nonCaching →
     (storePieces (s.dev.answerAddr pa.toNat) data).foldl (fun (acc : Option Dev) p => acc.bind (fun s => s.wcStore n (storeEntry p.1 p.2 (s.hart n).epoch))) (some s.dev) = some t →
     exec (.coreStore ⟨n, lvl⟩ pa data pbmt merge) s = .next (s.withBurn (t.finish n (.store, s.dev.answerAddr pa.toNat, data.length) .done))) ∧
  (∀ (s : State) (n : CoreIx) (lvl : Level) (pa : BitVec 56) (data : List Byte) (pbmt : Fin 4) (merge : Bool), s.dev.clocked = true → storeShape data = true →
     s.dev.strictly pa.toNat pbmt = true → data.length ≤ 8 →
     exec (.coreStore ⟨n, lvl⟩ pa data pbmt merge) s = .next (s.withBurn (s.dev.strictAccess n lvl pa.toNat data.length (some (BitVec.ofNat 64 (leNat data)))))) ∧
  (∀ (s : State) (n : CoreIx) (i : Fin 64) (e : BufEntry) (l : L2Line), s.dev.clocked = true → (s.dev.hart n).sb[i.val]? = some e → (s.dev.hart n).inReset = false →
     ((s.dev.hart n).sb.take i.val).any (fun x => x.line == e.line || decide (x.ep < e.ep)) = false → (s.dev.l2 n).find e.line = some l → l.st ≠ .s →
     exec (.storePerform n ⟨i, false⟩) s = .next (s.withDev (
       (s.dev.setHart n { s.dev.hart n with sb := (s.dev.hart n).sb.eraseIdx i.val }).l2Put n { l with st := .m, data := mergeLine e.mask l.data e.data }))) ∧
  (∀ (s : State) (n : CoreIx) (i : Fin 64) (bad : Bool) (e : BufEntry) (t : Dev), s.dev.clocked = true → (s.dev.hart n).sb[i.val]? = some e →
     (if bad then s.dev.l2Bad n e.line else s.dev) = t → (t.hart n).inReset = false →
     ((t.hart n).sb.take i.val).any (fun x => x.line == e.line || decide (x.ep < e.ep)) = false → (t.l2 n).find e.line = none →
     exec (.storePerform n ⟨i, bad⟩) s = .next (s.withDev (t.askOwn n e.line false))) ∧
  (∀ (s : State) (n : CoreIx) (i : Fin 8) (e : BufEntry), s.dev.clocked = true → (s.dev.hart n).wc[i.val]? = some e → (s.dev.hart n).mayDrain e = true →
     exec (.wcDrain n i) s = .next (s.withDev (s.dev.drainEntry n e))) ∧
  (∀ (s : State) (n : CoreIx) (pr pi po sr sw si so : Bool), s.dev.clocked = true → s.dev.coreUp n = true → (s.dev.hart n).predWaits pr false pi po = false →
     exec (.coreFence n ⟨pr, false, pi, po⟩ sr sw si so) s = .next (s.withDev ((s.dev.setHart n { s.dev.hart n with sealed := true }).result n .done))) ∧
  (∀ (s : State) (n : CoreIx) (pr pi po sr sw si so : Bool), s.dev.clocked = true → s.dev.coreUp n = true → (s.dev.hart n).predWaits pr true pi po = false →
     exec (.coreFence n ⟨pr, true, pi, po⟩ sr sw si so) s = .next (s.withDev (
       let t := ((s.dev.hart n).wc.filter (fun e => (s.dev.hart n).mayDrain e)).foldl (fun t e => t.drainEntry n e) s.dev
       let h := t.hart n
       if h.wc.isEmpty && h.wcOut.isEmpty && (!(sr || si || so) || h.sb.isEmpty) then
         (t.setHart n { h with sealed := true, epoch := if sw && !h.sb.isEmpty then h.epoch + 1 else h.epoch }).result n .done
       else t.result n .stalled))) ∧
  (∀ (s : State) (n : CoreIx) (pr pw pi po sr sw si so : Bool), s.dev.clocked = true → s.dev.coreUp n = true → (s.dev.hart n).predWaits pr pw pi po = true →
     exec (.coreFence n ⟨pr, pw, pi, po⟩ sr sw si so) s = .next (s.withDev (s.dev.result n .stalled))) ∧
  (∀ (s : State) (n : CoreIx) (pa : BitVec 56) (size : Fin 9) (fn : AmoFn) (x : Word) (pbmt : Fin 4) (rl : Bool) (l : L2Line), s.dev.clocked = true → s.dev.coreUp n = true →
     size.val ≠ 0 → pa.toNat % size.val = 0 → memType pa.toNat pbmt = .cacheable → s.dev.wcTouches n [pa.toNat / 64] = false → s.dev.olderWait n (pa.toNat / 64) rl = false →
     (s.dev.l2 n).find (pa.toNat / 64) = some l → l.st ≠ .s →
     exec (.coreAmo n pa size fn x pbmt ⟨rl, false⟩) s = .next (s.withDev (
       let old := fieldAt (lineBytes l.data) (pa.toNat % 64) size.val
       let t := s.dev.l2Put n { l with st := .m, data := setBytes l.data (pa.toNat % 64) (leBytes size.val (amoValue fn size.val old x.toNat)) }
       (t.setHart n { t.hart n with sealed := true }).finish n (.amo, s.dev.answerAddr pa.toNat, size.val) (.value old)))) ∧
  (∀ (s : State) (n : CoreIx) (pa : BitVec 56) (size : Fin 9) (fn : AmoFn) (x : Word) (pbmt : Fin 4) (rl bad : Bool) (t : Dev), s.dev.clocked = true → s.dev.coreUp n = true →
     (if bad then s.dev.l2Bad n (pa.toNat / 64) else s.dev) = t → size.val ≠ 0 → pa.toNat % size.val = 0 → memType pa.toNat pbmt = .cacheable →
     t.wcTouches n [pa.toNat / 64] = false → t.olderWait n (pa.toNat / 64) rl = false → (t.l2 n).find (pa.toNat / 64) = none →
     exec (.coreAmo n pa size fn x pbmt ⟨rl, bad⟩) s = .next (s.withDev ((t.askOwn n (pa.toNat / 64) false).stall n (.amo, t.answerAddr pa.toNat, size.val)))) ∧
  (∀ (s : State) (n : CoreIx) (pa : BitVec 56) (size : Fin 9) (pbmt : Fin 4) (rl : Bool) (l : L2Line), s.dev.clocked = true → s.dev.coreUp n = true →
     size.val ≠ 0 → pa.toNat % size.val = 0 → memType pa.toNat pbmt = .cacheable → s.dev.wcTouches n [pa.toNat / 64] = false → s.dev.olderWait n (pa.toNat / 64) rl = false →
     (s.dev.l2 n).find (pa.toNat / 64) = some l →
     exec (.coreLr n pa size pbmt ⟨rl, false⟩) s = .next (s.withDev (
       (s.dev.setHart n { s.dev.hart n with resv := some (pa.toNat / 64), sealed := true }).finish n (.load, pa.toNat, size.val)
         (.value (fieldAt (lineBytes l.data) (pa.toNat % 64) size.val))))) ∧
  (∀ (s : State) (n : CoreIx) (pa : BitVec 56) (size : Fin 9) (pbmt : Fin 4) (rl bad : Bool) (t : Dev), s.dev.clocked = true → s.dev.coreUp n = true →
     (if bad then s.dev.l2Bad n (pa.toNat / 64) else s.dev) = t → size.val ≠ 0 → pa.toNat % size.val = 0 → memType pa.toNat pbmt = .cacheable →
     t.wcTouches n [pa.toNat / 64] = false → t.olderWait n (pa.toNat / 64) rl = false → (t.l2 n).find (pa.toNat / 64) = none →
     exec (.coreLr n pa size pbmt ⟨rl, bad⟩) s = .next (s.withDev ((t.l2Ask n (pa.toNat / 64) .rdShared).stall n (.load, pa.toNat, size.val)))) ∧
  (∀ (s : State) (n : CoreIx) (pa : BitVec 56) (data : List Byte) (pbmt : Fin 4) (rl : Bool) (l : L2Line), s.dev.clocked = true → s.dev.coreUp n = true →
     data.length ≠ 0 → pa.toNat % data.length = 0 → memType pa.toNat pbmt = .cacheable → (s.dev.hart n).resv = some (pa.toNat / 64) →
     s.dev.wcTouches n [pa.toNat / 64] = false → s.dev.olderWait n (pa.toNat / 64) rl = false → (s.dev.l2 n).find (pa.toNat / 64) = some l → l.st ≠ .s →
     exec (.coreSc n pa data pbmt ⟨rl, false⟩) s = .next (s.withDev (
       let t := s.dev.l2Put n { l with st := .m, data := setBytes l.data (pa.toNat % 64) data }
       (t.setHart n { t.hart n with resv := none, sealed := true }).finish n (.amo, pa.toNat, data.length) (.value 0)))) ∧
  (∀ (s : State) (n : CoreIx) (pa : BitVec 56) (data : List Byte) (pbmt : Fin 4) (rl bad : Bool) (t : Dev), s.dev.clocked = true → s.dev.coreUp n = true →
     (if bad then s.dev.l2Bad n (pa.toNat / 64) else s.dev) = t → data.length ≠ 0 → pa.toNat % data.length = 0 → memType pa.toNat pbmt = .cacheable →
     (t.hart n).resv ≠ some (pa.toNat / 64) →
     exec (.coreSc n pa data pbmt ⟨rl, bad⟩) s = .next (s.withDev (
       (t.setHart n { t.hart n with resv := none, sealed := true }).finish n (.amo, pa.toNat, data.length) (.value 1)))) ∧
  (∀ (s : State) (n : CoreIx) (lvl : Level) (pa : BitVec 56) (size : Fin 9) (store : Option (BitVec 64)) (a : Nat), s.dev.clocked = true → s.dev.coreUp n = true →
     [1, 2, 4, 8].contains size.val = true → pa.toNat % size.val = 0 → ((s.dev.setHart n { s.dev.hart n with sealed := true }).hart n).strictWaits = false → (s.dev.setHart n { s.dev.hart n with sealed := true }).localForm pa.toNat = some a → ctrlBase ≤ a → a ≤ ctrlLimit →
     exec (.strictDeviceAccess n lvl pa size store) s = .next (s.withBurn (
       let t := s.dev.setHart n { s.dev.hart n with sealed := true }
       let kind := if store.isSome then WaitKind.strictStore else WaitKind.strictLoad
       let w : WaitKind × Nat × Nat := (kind, t.answerAddr pa.toNat, size.val)
       let r := t.ctrlAccess (.core n lvl) (a - ctrlBase) size.val store
       if r.1 = .ok then r.2.2.finish n w (if store.isSome then .done else .value (r.2.1.toNat % 2 ^ (8 * size.val)))
       else r.2.2.finish n w (kind.fault pa.toNat)))) ∧
  (∀ (s : State) (n : CoreIx) (lvl : Level) (pa : BitVec 56) (size : Fin 9) (store : Option (BitVec 64)) (a : Nat), s.dev.clocked = true → s.dev.coreUp n = true →
     [1, 2, 4, 8].contains size.val = true → pa.toNat % size.val = 0 → ((s.dev.setHart n { s.dev.hart n with sealed := true }).hart n).strictWaits = false → (s.dev.setHart n { s.dev.hart n with sealed := true }).localForm pa.toNat = some a → a < ctrlBase →
     exec (.strictDeviceAccess n lvl pa size store) s = .next (s.withBurn (
       let t := s.dev.setHart n { s.dev.hart n with sealed := true }
       let kind := if store.isSome then WaitKind.strictStore else WaitKind.strictLoad
       t.strictAsk n (kind, t.answerAddr pa.toNat, size.val) pa.toNat size.val store))) ∧
  (∀ (s : State) (n : CoreIx) (lvl : Level) (pa : BitVec 56) (size : Fin 9) (store : Option (BitVec 64)), s.dev.clocked = true → s.dev.coreUp n = true →
     [1, 2, 4, 8].contains size.val = true → pa.toNat % size.val = 0 → ((s.dev.setHart n { s.dev.hart n with sealed := true }).hart n).strictWaits = true →
     exec (.strictDeviceAccess n lvl pa size store) s = .next (s.withBurn ((s.dev.setHart n { s.dev.hart n with sealed := true }).result n .stalled))) ∧
  (∀ (s : State) (n : CoreIx) (lvl : Level) (pa : BitVec 56) (size : Fin 9) (store : Option (BitVec 64)), s.dev.clocked = true → s.dev.coreUp n = true →
     [1, 2, 4, 8].contains size.val = false →
     exec (.strictDeviceAccess n lvl pa size store) s = .next (s.withBurn (
       let t := s.dev.setHart n { s.dev.hart n with sealed := true }
       let kind := if store.isSome then WaitKind.strictStore else WaitKind.strictLoad
       t.finish n (kind, t.answerAddr pa.toNat, size.val) (kind.fault pa.toNat))))

/-- Traps, interrupts, gating of cores, cluster caches, a register write (R14, R385, R387, R389, R390, R392, R505). The model's own choices that it may rest on: log entries 32, 33. -/
def Obligations.CoreEventsTakeEffect : Prop :=
  (∀ (s : State) (n : CoreIx), s.dev.clocked = true →
     exec (.coreTrap n) s = .next (s.withDev (s.dev.setHart n { s.dev.hart n with waits := [], sealed := true }))) ∧
  (∀ (s : State) (i : Nat) (m : Msi) (n page : Nat), s.dev.clocked = true → s.dev.msis[i]? = some m → imsicFile m.addr = some (n, page) →
     1 ≤ m.id → m.id ≤ 2047 → (SMap.get s.dev.files [] (n * 16 + page)).contains m.id = false → ({ s.dev with msis := s.dev.msis.eraseIdx i } : Dev).dieState 8 = 0 →
     exec (.imsicMsi i) s = .next (s.withDev (
       let f := SMap.set s.dev.files (n * 16 + page) (SMap.get s.dev.files [] (n * 16 + page) ++ [m.id])
       { s.dev with msis := s.dev.msis.eraseIdx i, files := f }))) ∧
  (∀ (s : State) (n : CoreIx), s.dev.clocked = true → (s.dev.hart n).gated = true → s.dev.corePending n = true →
     exec (.coreWake n) s = .next (s.withDev (s.dev.setHart n { s.dev.hart n with gated := false }))) ∧
  (∀ (s : State) (n : CoreIx), s.dev.clocked = true → s.dev.coreUp n = true → s.dev.fld F.PWR_IDLE_CORE_IDLE 8 ≠ 0 → s.dev.corePending n = false →
     (s.dev.hart n).waits.isEmpty = true → (s.dev.l2Flush n).1 = true →
     exec (.corePowerGate n) s = .next (s.withDev ((s.dev.l2Flush n).2.setHart n { (s.dev.l2Flush n).2.hart n with gated := true, resv := none }))) ∧
  (∀ (s : State) (who : Who) (c : ClusterIx) (v : Word), s.dev.clocked = true → s.dev.accepts who ⟨.CC_CTRL, c⟩ (F.CC_CTRL_DROP.put (s.dev.reg .CC_CTRL c) 1) v = true →
     F.CC_CTRL_DROP.get v = 1 →
     exec (.ccDrop who c) s = .next (s.withDev ((((s.dev.storeReg ⟨.CC_CTRL, c⟩ v).setFlag F.CC_CTRL_DROP c false).ccDrop c).emit (.ctrl who .ok none)))) ∧
  (∀ (s : State) (who : Who) (c : ClusterIx) (enable : Bool) (v : Word), s.dev.clocked = true →
     s.dev.accepts who ⟨.CC_CTRL, c⟩ (F.CC_CTRL_ENABLE.put (s.dev.reg .CC_CTRL c) (if enable then 1 else 0)) v = true → F.CC_CTRL_DROP.get v = 0 →
     exec (.ccEnableWrite who c enable) s = .next (s.withDev (
       let t := (s.dev.storeReg ⟨.CC_CTRL, c⟩ v).setFlag F.CC_CTRL_DROP c false
       (if F.CC_CTRL_ENABLE.get v = 0 then t.ccDrop c else t).emit (.ctrl who .ok none)))) ∧
  (∀ (s : State) (who : Who) (off : BitVec 32) (w v : Word) (b : Block) (u o : Nat) (r : RegId), s.dev.clocked = true → ctrlPlace off.toNat = .block b u o → off.toNat % 8 = 0 →
     s.dev.blockAnswers who b u = true → regAt b u o = some r → s.dev.ctrlOpen who b u ((some r).or (bandOf b u o)) = true → s.dev.takes who b u r w = some v →
     exec (.registerWrite who off w) s = .next (s.withBurn ((s.dev.regWork who r v).emit (.ctrl who .ok none))))

/-- Misses, walks and their ends, page requests and their answers, invalidations, the check's flush (R399, R400, R403, R408, R410, R411, R413, R414, R415, R416). The model's own choices that it may rest on: log entries 45, 112, 116. -/
def Obligations.TranslationCommandsTakeEffect : Prop :=
  (∀ (s : State) (c : ClusterIx) (ctx : CtxIx) (va : Word) (tag : Nat) (need : Right), s.dev.clocked = true → s.dev.xmode ctx = 9 → s.dev.dieState (c.val / 16) = 0 →
     (s.dev.atc c).any (fun e => e.covers ctx va.toNat && e.gives need) = false → s.dev.dieState 8 = 0 → (s.dev.walks.filter (fun w => w.cluster == c.val)).length < 32 →
     exec (.atcMiss c ctx va tag need) s = .next (s.withDev (
       let t := s.dev.count F.ATC_MISSES_COUNT c 1
       let q : XReq := ⟨c, tag, need, va.toNat⟩
       if s.dev.walks.any (fun w => w.cluster == c.val && w.ctx == ctx.val && w.vpage == va.toNat / 4096) then
         { t with walks := s.dev.walks.map (fun w => if w.cluster = c.val ∧ w.ctx = ctx.val ∧ w.vpage = va.toNat / 4096 then { w with reqs := w.reqs ++ [q] } else w) }
       else t.setWalks c (s.dev.walks ++ [⟨c, ctx, va.toNat / 4096, [q], false, none⟩])))) ∧
  (∀ (s : State) (c : ClusterIx) (ctx : CtxIx) (vpage : Nat) (w : Walk) (q : XReq) (qs : List XReq) (e : WalkEnd) (d : Dev), s.dev.clocked = true → (s.dev.walks.filter (fun w => w.walked)).length < 256 →
     s.dev.walks.find? (fun w => w.cluster == c.val && w.ctx == ctx.val && w.vpage == vpage && !w.walked) = some w → w.reqs = q :: qs →
     s.dev.walkFrom ctx q.va = (e, d) → e ≠ .wait →
     exec (.htuWalk c ctx vpage) s = .next (s.withDev (
       let l := match e with | .notValid l a => some (l, 0, a) | .leaf l pte a => some (l, pte, a) | _ => none
       { d with walks := d.walks.map (fun y => if y = w then { w with walked := true, leaf := l } else y) }))) ∧
  (∀ (s : State) (c : ClusterIx) (ctx : CtxIx) (vpage p : Nat) (w : Walk) (rest : List Walk), s.dev.clocked = true →
     takeFirst (fun (w : Walk) => w.cluster == c.val && w.ctx == ctx.val && w.vpage == vpage && w.walked) s.dev.walks = some (w, rest) →
     (s.dev.setWalks c rest).partOfCtx ctx = some p →
     exec (.walkDone c ctx vpage) s = .next (s.withDev (
       let e : WalkEnd := match w.leaf with | none => .bad | some (l, pte, a) => if pte = 0 then .notValid l a else .leaf l pte a
       w.reqs.foldl (fun t q => t.judgeReq p ctx e q) (s.dev.setWalks c rest)))) ∧
  (∀ (s : State) (who : Who) (p : PartIx) (head : BitVec 32) (v : Word), s.dev.clocked = true → s.dev.accepts who ⟨.XP_PR_HEAD, p⟩ (head.setWidth 64) v = true →
     exec (.prHeadWrite who p head) s = .next (s.withDev (((s.dev.storeReg ⟨.XP_PR_HEAD, p⟩ v).prFlush p 65).emit (.ctrl who .ok none)))) ∧
  (∀ (s : State) (who : Who) (p : PartIx) (id : BitVec 8) (v : Word) (e : PrEntry), s.dev.clocked = true → s.dev.accepts who ⟨.XP_PR_RESP, p⟩ (prRespWord id 0) v = true →
     F.XP_PR_RESP_CODE.get v = 0 → s.dev.prEntry p (F.XP_PR_RESP_PR_ID.get v) = some e →
     exec (.prRespRetry who p id) s = .next (s.withDev ((s.dev.prRetry p e).emit (.ctrl who .ok none)))) ∧
  (∀ (s : State) (who : Who) (p : PartIx) (id : BitVec 8) (v : Word) (e : PrEntry), s.dev.clocked = true → s.dev.accepts who ⟨.XP_PR_RESP, p⟩ (prRespWord id 1) v = true →
     F.XP_PR_RESP_CODE.get v = 1 → s.dev.prEntry p (F.XP_PR_RESP_PR_ID.get v) = some e →
     exec (.prRespFail who p id) s = .next (s.withDev ((s.dev.prFail p e).emit (.ctrl who .ok none)))) ∧
  (∀ (s : State) (p : PartIx) (ix : Fin 64) (e : PrEntry), s.dev.clocked = true → s.dev.fld F.XP_PR_LIMIT_LIMIT p ≠ 0 →
     (s.dev.pr p).entries.find? (fun e => e.ix == ix.val && e.written.isSome) = some e →
     exec (.prLimitExpire p ix) s = .next (s.withDev (s.dev.prFail p e))) ∧
  (∀ (s : State) (who : Who) (p : PartIx) (ctrl v : Word) (t : Dev), s.dev.clocked = true → s.dev.accepts who ⟨.XP_INV_CTRL, p⟩ (F.XP_INV_CTRL_GO.put ctrl 1) v = true →
     F.XP_INV_CTRL_GO.get v = 1 → s.dev.flag F.XP_INV_STATUS_BUSY p = false → (s.dev.storeReg ⟨.XP_INV_CTRL, p⟩ v).setFlag F.XP_INV_CTRL_GO p false = t →
     ((!t.flag F.XP_INV_CTRL_ALL_VA p && (decide (t.fld F.XP_INV_CTRL_LOG2 p < 12 ∨ 57 < t.fld F.XP_INV_CTRL_LOG2 p) || t.fld F.XP_INV_ADDR_VA p * 4096 % 2 ^ t.fld F.XP_INV_CTRL_LOG2 p != 0)) ||
       (!t.flag F.XP_INV_CTRL_ALL p && t.partOfCtx (t.fld F.XP_INV_CTRL_CONTEXT p) != some p.val)) = false →
     exec (.invalidationGo who p ctrl) s = .next (s.withDev (
       let x : InvSt := ⟨t.atcsOf p, t.fld F.XP_INV_ADDR_VA p * 4096, if t.flag F.XP_INV_CTRL_ALL_VA p then none else some (2 ^ t.fld F.XP_INV_CTRL_LOG2 p),
         if t.flag F.XP_INV_CTRL_ALL p then none else some (t.fld F.XP_INV_CTRL_CONTEXT p)⟩
       let mine := fun c => if let some k := x.ctx then c == k else t.partOfCtx c == some p.val
       let t := { t with
         walks := t.walks.map (fun (y : Walk) => if mine y.ctx then { y with walked := false, leaf := none } else y)
         wcache := t.wcache.filter (fun (y : WalkEntry) => !mine y.ctx) }
       let t := x.waitAtc.foldl (fun t c => (t.invDrop p c x).setFlag F.ATC_STATUS_INVALIDATING c true) t
       let t := { t with invs := SMap.set t.invs p x }
       (if x.waitAtc.isEmpty then { t.setFlag F.XP_INV_STATUS_DONE p true with invs := SMap.del t.invs p }
         else (t.setFlag F.XP_INV_STATUS_BUSY p true).setFlag F.XP_INV_CTRL_GO p true).emit (.ctrl who .ok none)))) ∧
  (∀ (s : State) (who : Who) (p : PartIx) (ctrl v : Word) (t : Dev), s.dev.clocked = true → s.dev.accepts who ⟨.XP_INV_CTRL, p⟩ (F.XP_INV_CTRL_GO.put ctrl 1) v = true →
     F.XP_INV_CTRL_GO.get v = 1 → s.dev.flag F.XP_INV_STATUS_BUSY p = false → (s.dev.storeReg ⟨.XP_INV_CTRL, p⟩ v).setFlag F.XP_INV_CTRL_GO p false = t →
     ((!t.flag F.XP_INV_CTRL_ALL_VA p && (decide (t.fld F.XP_INV_CTRL_LOG2 p < 12 ∨ 57 < t.fld F.XP_INV_CTRL_LOG2 p) || t.fld F.XP_INV_ADDR_VA p * 4096 % 2 ^ t.fld F.XP_INV_CTRL_LOG2 p != 0)) ||
       (!t.flag F.XP_INV_CTRL_ALL p && t.partOfCtx (t.fld F.XP_INV_CTRL_CONTEXT p) != some p.val)) = true →
     exec (.invalidationGo who p ctrl) s = .next (s.withDev (((t.setFlag F.XP_INV_STATUS_DONE p true).setFlag F.XP_INV_STATUS_ERROR p true).emit (.ctrl who .ok none)))) ∧
  (∀ (s : State) (p : PartIx) (c : ClusterIx) (v : InvSt), s.dev.clocked = true → SMap.find s.dev.invs p = some v → v.waitAtc.contains c.val = true →
     s.dev.remSent.any (fun r => (s.dev.tagsOf c).contains r.tag) = false →
     exec (.atcInvAck p c) s = .next (s.withDev (
       let t := ((s.dev.invDrop p c v).ccDrop c).setFlag F.ATC_STATUS_INVALIDATING c false
       let rest := v.waitAtc.filter (fun x => x != c.val)
       if rest.isEmpty then
         let t := { t with invs := SMap.del t.invs p }
         ((t.setFlag F.XP_INV_STATUS_DONE p true).setFlag F.XP_INV_STATUS_BUSY p false).setFlag F.XP_INV_CTRL_GO p false
       else { t with invs := SMap.set t.invs p { v with waitAtc := rest } }))) ∧
  (∀ (s : State) (who : Who) (p : PartIx) (v : Word), s.dev.clocked = true → s.dev.accepts who ⟨.XP_CHECK_CTRL, p⟩ (F.XP_CHECK_CTRL_FLUSH.put (s.dev.reg .XP_CHECK_CTRL p) 1) v = true →
     F.XP_CHECK_CTRL_FLUSH.get v = 1 →
     exec (.checkFlush who p) s = .next (s.withDev (
       let t := (s.dev.storeReg ⟨.XP_CHECK_CTRL, p⟩ v).setFlag F.XP_CHECK_CTRL_FLUSH p false
       ({ t with homes := t.homes.map (fun e => (e.1, { e.2 with checks := SMap.delWhere e.2.checks (fun k => k / 2 ^ 24 == p.val) })) } : Dev).emit (.ctrl who .ok none))))

/-- Training of an optical port: start, ECHO, CAP, KX, end, RETRAIN (R422, R427, R428, R429, R431, R432). The model's own choices that it may rest on: log entries 76, 77, 78, 111, 119. -/
def Obligations.PortTrainingTakesEffect : Prop :=
  (∀ (s : State) (f : FPort), s.dev.clocked = true → s.dev.portState f = 0 → s.dev.pllUp (portDie f) = true → s.dev.flag F.BOOT_STATUS_LOCKED 0 = true →
     exec (.portTrainingStart f) s = .next (s.withDev (s.dev.portTrain f true))) ∧
  (∀ (s : State) (f : FPort) (rtt : Nat), s.dev.clocked = true → s.dev.portState f = 1 → (s.dev.port f).echoes.length < 16 →
     exec (.echo f rtt) s = .next (s.withDev (s.dev.setPort f { s.dev.port f with echoes := (s.dev.port f).echoes ++ [rtt] }))) ∧
  (∀ (s : State) (f : FPort) (g : List Byte), s.dev.clocked = true → capShape g = true → s.dev.portState f = 1 →
     (allZero (bytesAt g 0x12 14) && bitsOf (fieldAt g 0xF 1) 5 3 == 0 && bitsOf (fieldAt g 0x10 2) 10 5 == 0) = true →
     exec (.cap f g) s = .next (s.withDev (
       let t := s.dev.setPort f { s.dev.port f with cap := bytesAt g 0 32, peer := fieldAt g 0 8 }
       let t := (t.setFld F.PORT_STATUS_PEER_PORT f (fieldAt g 0xC 1)).setFld F.PORT_STATUS_PEER_DEVICE f (bitsOf (fieldAt g 0x10 2) 0 10)
       let t := t.setFlag F.PORT_STATUS_PEER_ASSIGNED f (bitOf (fieldAt g 0x10 2) 15)
       if fieldAt g 8 4 ≠ t.fabParam 1 ∨ fieldAt g 0xD 1 ≠ t.portRole f ∨ fieldAt g 0xE 1 ≠ 1 ∨ t.portRole f = 0 then t.portFail f 3
       else t.kxOffer f))) ∧
  (∀ (s : State) (f : FPort) (g : List Byte), s.dev.clocked = true → capShape g = true → s.dev.portState f = 1 →
     (allZero (bytesAt g 0x12 14) && bitsOf (fieldAt g 0xF 1) 5 3 == 0 && bitsOf (fieldAt g 0x10 2) 10 5 == 0) = false →
     exec (.cap f g) s = .next (s.withDev (s.dev.violation f F.PORT_VIOL_PACKET))) ∧
  (∀ (s : State) (f : FPort) (p : List Byte) (x : PortSt), s.dev.clocked = true → s.dev.portState f = 1 → (s.dev.port f).full = true →
     (s.dev.port f).cap.isEmpty = false → ((fieldAt (granule p 0) 0 1 == 1 || fieldAt (granule p 0) 0 1 == 2) && allZero (bytesAt (granule p 0) 3 29)) = true →
     (s.dev.att.certified || s.dev.attSpent) = true → (if fieldAt (granule p 0) 1 1 = 0 then { s.dev.port f with parts := [], frag := 0 } else s.dev.port f) = x →
     fieldAt (granule p 0) 1 1 = x.frag →
     exec (.kx f p) s = .next (s.withDev (
       let g := granule p 0
       let parts := x.parts ++ bytesAt p 64 (32 * (pktLen p - 1))
       let t := s.dev.setPort f { x with parts := parts, frag := fieldAt g 1 1 + 1 }
       if fieldAt g 1 1 + 1 = fieldAt g 2 1 then t.kxMessage f (fieldAt g 0 1) parts else t))) ∧
  (∀ (s : State) (f : FPort) (p : List Byte), s.dev.clocked = true → s.dev.portState f = 1 → (s.dev.port f).full = true →
     (s.dev.port f).cap.isEmpty = false → ((fieldAt (granule p 0) 0 1 == 1 || fieldAt (granule p 0) 0 1 == 2) && allZero (bytesAt (granule p 0) 3 29)) = false →
     exec (.kx f p) s = .next (s.withDev (s.dev.violation f F.PORT_VIOL_PACKET))) ∧
  (∀ (s : State) (f : FPort) (good : Fin 32), s.dev.clocked = true → s.dev.portState f = 1 → (s.dev.port f).keyed = true →
     (s.dev.port f).cap.isEmpty = false → 16 ≤ (s.dev.port f).echoes.length →
     (lanesOf (s.dev.fld F.PORT_LANES_GOOD f &&& good.val &&& fieldAt (s.dev.port f).cap 0xF 1)).length ≠ 0 →
     (s.dev.port f).echoes.foldl max 0 ≤ 14000 →
     exec (.portTrainingDone f good false) s = .next (s.withDev (
       let x := s.dev.port f
       let own := s.dev.fld F.PORT_LANES_GOOD f &&& good.val
       let t := (if own = s.dev.fld F.PORT_LANES_GOOD f then s.dev else s.dev.setFlag F.PORT_EVENT_LANE_FAILED f true).setFld F.PORT_LANES_GOOD f own
       let m := own &&& fieldAt x.cap 0xF 1
       let g := (lanesOf m).length
       let rtt := x.echoes.foldl max 0
       let t := (t.setFld F.PORT_STATUS_RTT f (min rtt 16383)).setFld F.PORT_STATUS_FIBER_M f (min ((rtt - 900) * 100 / 2548) 1023)
       let st := if g ≥ 4 then 2 else if g ≥ 2 then 3 else 4
       let use := (lanesOf m).take (if g ≥ 4 then 4 else if g ≥ 2 then 2 else 1)
       let t := (t.setFld F.PORT_STATUS_STATE f st).setFld F.PORT_LANES_IN_USE f (use.foldl (fun n i => n + 2 ^ i) 0)
       let t := if st > 2 then t.setFlag F.PORT_EVENT_WIDTH_DROP f true else t
       let c := creditSizes rtt
       let t := ((t.setFld F.PORT_CREDIT_SHARED f c.1).setFld F.PORT_CREDIT_DEDICATED f c.2.1).setFld F.PORT_CREDIT_CONTROL f c.2.2.1
       let t := t.setFld F.PORT_CREDIT_REPLAY f c.2.2.2
       let t := if x.full then t else t.count F.PORT_COUNTS_RETRAINS f 1
       let t := t.setPort f { t.port f with naking := false, nakRun := 0 }
       let t := if x.replay.isEmpty then t else x.replay.foldl (fun t fr => t.emitFrame f fr) (t.count F.PORT_COUNTS_REPLAYS f 1)
       if st > t.fabParam 4 then ((t.setFld F.PORT_STATUS_CAUSE f 6).portLeave f).sendLsa
       else
         let t := t.setFlag F.PORT_STATUS_IN_SERVICE f true
         (t.pumpPort f (t.port f).queue.length).sendLsa))) ∧
  (∀ (s : State) (who : Who) (f : FPort), s.dev.clocked = true → s.dev.portState f = 5 → s.dev.accepts who ⟨.PORT_CTRL, f⟩ 1 1 = true →
     exec (.portRetrain who f) s = .next (s.withDev (((s.dev.setFld F.PORT_LANES_GOOD f (s.dev.wavesFused f)).portTrain f true).emit (.ctrl who .ok none)))) ∧
  (∀ (s : State) (who : Who) (f : FPort), s.dev.clocked = true → s.dev.portState f ≠ 5 → s.dev.portUp f = true → s.dev.accepts who ⟨.PORT_CTRL, f⟩ 1 1 = true →
     exec (.portRetrain who f) s = .next (s.withDev (((s.dev.setFld F.PORT_LANES_GOOD f (s.dev.wavesFused f)).portTrain f false).emit (.ctrl who .ok none))))

/-- A port in service receives frames and loses light (R430, R433, R446, R448). The model's own choices that it may rest on: log entries 78, 80, 81, 101. -/
def Obligations.FramesAndLightTakeEffect : Prop :=
  (∀ (s : State) (f : FPort) (head body : List Byte) (errs : List (Fin 68 × Fin 80)) (gs : List (WordClass × List Byte)) (fr : List Byte), s.dev.clocked = true → frameShape head body = true → s.dev.portUp f = true →
     frameArrives (head ++ body) (errs.map (fun e => (e.1.val, e.2.val))) = gs → gs.any (fun g => g.1.bad) = false → gs.flatMap (·.2) = fr →
     bitsOf (fieldAt fr 0 8) 33 2 < 2 → fieldAt fr 8 8 < 2 ^ 32 →
     exec (.frameReceive f head body errs []) s = .next (s.withDev (
       let t := s.dev.count F.PORT_COUNTS_CORRECTED_WORDS f (gs.filter (fun g => g.1.corrected)).length
       let t := t.setPort f { t.port f with rsErrs := (t.port f).rsErrs }
       let seq := bitsOf (fieldAt fr 0 8) 0 16
       let t := match openFrame (t.port f).rx fr with
         | none => (t.violation f F.PORT_VIOL_AUTH).nakFrame f (some seq)
         | some (plain, k) =>
           let t := (t.setPort f { t.port f with rx := k }).frameAck f (fieldAt fr 0 8) (fieldAt fr 8 8)
           if bitsOf (fieldAt fr 0 8) 33 2 = 1 || !t.portUp f then t
           else
             let x := t.port f
             let ahead := (seq + 65536 - x.lastAcc) % 65536
             if ahead = 1 then
               let r := parsePkts 17 (x.cont ++ plain)
               let t := t.setPort f { x with lastAcc := seq, naking := false, nakRun := 0, cont := r.2 }
               r.1.foldl (fun t p => t.takePkt f p) t
             else if ahead = 0 ∨ ahead ≥ 32768 then t
             else t.nakFrame f (some seq)
       t.idleFrame f))) ∧
  (∀ (s : State) (f : FPort) (head body : List Byte) (errs : List (Fin 68 × Fin 80)) (rs : List (Fin 5)) (gs : List (WordClass × List Byte)), s.dev.clocked = true → frameShape head body = true → s.dev.portUp f = true →
     frameArrives (head ++ body) (errs.map (fun e => (e.1.val, e.2.val))) = gs → (gs.any (fun g => g.1.bad) || !(rs.map (·.val)).isEmpty) = true →
     exec (.frameReceive f head body errs rs) s = .next (s.withDev (
       let t := s.dev.count F.PORT_COUNTS_CORRECTED_WORDS f (gs.filter (fun g => g.1.corrected)).length
       let t := t.setPort f { t.port f with rsErrs := (rs.map (·.val)).foldl (fun m w => SMap.set m w (SMap.get m 0 w + 1)) (t.port f).rsErrs }
       (t.nakFrame f (if (gs.take 1).any (fun g => g.1.bad) then none else some (bitsOf (fieldAt (gs.flatMap (·.2)) 0 8) 0 16))).idleFrame f))) ∧
  (∀ (s : State) (f : FPort), s.dev.clocked = true → s.dev.portUp f = true →
     exec (.frameSilence f) s = .next (s.withDev (s.dev.portTrain f false))) ∧
  (∀ (s : State) (f : FPort), s.dev.clocked = true → 268435456 ≤ (s.dev.port f).tx.ctr →
     exec (.rekey f) s = .next (s.withDev ((s.dev.setPort f { s.dev.port f with tx := (s.dev.port f).tx.rekey }).count F.PORT_COUNTS_REKEYS f 1))) ∧
  (∀ (s : State) (f : FPort) (w : Fin 5), s.dev.clocked = true → s.dev.portUp f = true →
     exec (.wavelengthLoss f w) s = .next (s.withDev (
       let m := s.dev.fld F.PORT_LANES_GOOD f
       ((s.dev.setFld F.PORT_LANES_GOOD f (m - (m &&& 2 ^ w.val))).setFlag F.PORT_EVENT_LANE_FAILED f true).portTrain f false))) ∧
  (∀ (s : State) (f : FPort), s.dev.clocked = true →
     exec (.rsErrorWindowEnd f) s = .next (s.withDev (
       let x := s.dev.port f
       (s.dev.setPort f { x with rsErrs := [] }).failWave f ((x.rsErrs.filter (fun e => decide (e.2 > 16))).foldl (fun n e => n + 2 ^ e.1) 0))))

/-- The link-state map, device IDs and routes (R434, R436, R437, R438, R439, R440, R442). The model's own choices that it may rest on: log entries 82, 83. -/
def Obligations.FabricMapTakesEffect : Prop :=
  (∀ (s : State) (f : FPort) (e : List Byte × Nat × Nat) (rest : List (List Byte × Nat × Nat)), s.dev.clocked = true →
     takeFirst (fun (e : List Byte × Nat × Nat) => pktType e.1 == 0x23) (s.dev.port f).inbox = some (e, rest) →
     exec (.lsa f) s = .next (s.withDev (
       ((s.dev.setPort f ({ s.dev.port f with inbox := rest }.give (min (pktVc e.1) 12) e.2.1 e.2.2)).lsaTake f e.1).idleFrame f))) ∧
  (∀ (s : State) (f : FPort) (e : List Byte × Nat × Nat) (rest : List (List Byte × Nat × Nat)), s.dev.clocked = true →
     takeFirst (fun (e : List Byte × Nat × Nat) => pktType e.1 == 0x22) (s.dev.port f).inbox = some (e, rest) →
     exec (.disc f) s = .next (s.withDev (
       ((s.dev.setPort f ({ s.dev.port f with inbox := rest }.give (min (pktVc e.1) 12) e.2.1 e.2.2)).discTake f e.1).idleFrame f))) ∧
  (∀ (s : State), s.dev.clocked = true → (s.dev.phase = 7 ∨ (List.range 48).any s.dev.portServes = true) → exec .lsaPeriodic s = .next (s.withDev s.dev.sendLsa)) ∧
  (∀ (s : State) (origin : Word), s.dev.clocked = true → origin.toNat ≠ s.dev.disc → (s.dev.lsaOf origin.toNat).isNone = false →
     exec (.lsaAgeOut origin) s = .next (s.withDev (
       let t := { s.dev with fab := { s.dev.fab with map := s.dev.fab.map.filter (fun l => l.disc != origin.toNat), stale := true } }
       (t.setFlag F.FAB_SELF_CONVERGED 0 false).judgeLost))) ∧
  (∀ (s : State), s.dev.clocked = true → s.dev.starter = some s.dev.disc →
     exec .starterElect s = .next (s.withDev (
       let t := s.dev.setFlag F.FAB_SELF_STARTER 0 true
       let t := { t with fab := { t.fab with bound := t.assignIds } }
       let due := t.fab.map.filter (fun l => !l.frags.isEmpty && (!l.assigned || some l.devId != t.idOf l.disc))
       let t := due.foldl (fun (t : Dev) l => match t.idOf l.disc with
         | some n => if l.disc = t.disc then t.takeId n else t.sendDisc l.disc n 1
         | none => t) t
       (if (t.idOf t.disc).isNone then t.setFlag F.FAB_SELF_UNASSIGNED 0 true else t).showDevs))) ∧
  (∀ (s : State), s.dev.clocked = true → s.dev.starter ≠ some s.dev.disc →
     exec .starterElect s = .next (s.withDev (
       (s.dev.setFlag F.FAB_SELF_STARTER 0 false).setFlag F.FAB_SELF_UNASSIGNED 0
         (s.dev.starter.isSome && !s.dev.flag F.FAB_SELF_ASSIGNED 0 && !s.dev.assignIds.any (fun b => b.1 == s.dev.disc))))) ∧
  (∀ (s : State) (who : Who), s.dev.clocked = true → s.dev.accepts who ⟨.FAB_CTRL, 0⟩ 1 1 = true →
     exec (.rediscover who) s = .next (s.withDev (((s.dev.sendDisc 0 0 2).forgetIds).emit (.ctrl who .ok none)))) ∧
  (∀ (s : State), s.dev.clocked = true → s.dev.fab.bound.all (fun b => (s.dev.lsaOf b.1).isSome) = true →
     exec .mapConverge s = .next (s.withDev (s.dev.setFlag F.FAB_SELF_CONVERGED 0 true))) ∧
  (∀ (s : State) (me : Nat), s.dev.clocked = true → s.dev.ownId = some me →
     exec .routeRecompute s = .next (s.withDev (
       let links := s.dev.mapLinks.filterMap (fun l => match s.dev.idOf l.src, s.dev.idOf l.dst with
         | some a, some b => some (⟨a, l.port, b, l.role⟩ : IdLink)
         | _, _ => none)
       let ids := s.dev.fab.bound.map (·.2)
       let seed := s.dev.fabParam 7
       let tab := ids.foldl (fun (m : SMap (List (List Nat))) d =>
         if d = me then m
         else
           let rank := fun x => (mix (BitVec.ofNat 64 (seed ^^^ (me <<< 32) ^^^ (d <<< 16) ^^^ x))).toNat
           SMap.set m d ((⟨links, ids, rank⟩ : RouteEnv).routes me d)) []
       ({ s.dev with fab := { s.dev.fab with routes := tab, stale := false } } : Dev).showDevs))) ∧
  (∀ (s : State) (f : FPort), s.dev.clocked = true → (s.dev.port f).heldAt.isNone = false →
     exec (.holdLsaTimeout f) s = .next (s.withDev (
       (s.dev.setPort f { s.dev.port f with held := [], heldAt := none }).count F.FAB_COUNTS_DROPPED 0 (s.dev.port f).held.length)))

/-- Remote requests are sent, forwarded, served and answered, and the abort of a job is raised and passed on (R441, R443, R444, R445, R450, R451). The model's own choices that it may rest on: log entries 13, 82, 84, 85, 98. -/
def Obligations.RemoteOperationsTakeEffect : Prop :=
  (∀ (s : State) (r : RemReq) (rest : List RemReq), s.dev.clocked = true → s.dev.remQ = r :: rest →
     s.dev.localForm r.addr = none → s.dev.sourceCode r (bitsOf r.addr 45 10) = none →
     exec .fabricPacketSend s = .next (s.withDev (
       let t : Dev := { s.dev with remQ := rest }
       let n := bitsOf r.addr 45 10
       let j := (t.sourceJob r n).getD 0
       let route := t.chooseRoute r n
       let txn := t.fab.txn
       let p := t.reqPkt r n j txn route
       let t : Dev := { t with remSent := t.remSent ++ [r], fab := { t.fab with txn := (txn + 1) % 2 ^ 32, opens := t.fab.opens ++ [⟨txn, n, route, r⟩] } }
       t.sendOn (route.headD 0 % 64) p))) ∧
  (∀ (s : State) (f : FPort) (p : List Byte) (t : Dev), s.dev.clocked = true → s.dev.takeInbox f transits = some (p, t) →
     t.joined (dieOfPort f) (dieOfPort (pktRoute p (pktHop p + 1))) = true →
     exec (.fabricPacketForward f) s = .next (s.withDev (
       let q := bytesAt p 0 2 ++ leBytes 1 (fieldAt p 2 1 + 1) ++ p.drop 3
       (t.sendOn (pktRoute p (pktHop p + 1)) q).idleFrame f))) ∧
  (∀ (s : State) (f : FPort) (p : List Byte) (t : Dev), s.dev.clocked = true → s.dev.takeInbox f transits = some (p, t) →
     t.joined (dieOfPort f) (dieOfPort (pktRoute p (pktHop p + 1))) = false →
     exec (.fabricPacketForward f) s = .next s) ∧
  (∀ (s : State) (f : FPort) (c : Instr) (type : Nat) (p : List Byte) (t : Dev) (q ctx : Nat), s.dev.clocked = true →
     ((c, type) = (.fabricRd f, 1) ∨ (c, type) = (.fabricWr f, 2) ∨ (c, type) = (.fabricWrPart f, 3) ∨ (c, type) = (.fabricAtomic f, 4)) →
     s.dev.takeInbox f (fun p => pktType p == type && !transits p) = some (p, t) →
     s.dev.ownId = some (pktDst p) → s.dev.admittedFor p = some (q, ctx) →
     ((t.idleFrame f).serveLines (dieOfPort f) p q ctx (List.range (pktLines p))).1.isSome = true →
     exec c s = .next (s.withDev (
       let x := (t.idleFrame f).serveLines (dieOfPort f) p q ctx (List.range (pktLines p))
       x.2.answerPkt (dieOfPort f) p (x.1.getD [])))) ∧
  (∀ (s : State) (f : FPort) (c : Instr) (type : Nat) (p : List Byte) (t : Dev), s.dev.clocked = true →
     ((c, type) = (.fabricRd f, 1) ∨ (c, type) = (.fabricWr f, 2) ∨ (c, type) = (.fabricWrPart f, 3) ∨ (c, type) = (.fabricAtomic f, 4)) →
     s.dev.takeInbox f (fun p => pktType p == type && !transits p) = some (p, t) →
     s.dev.ownId = some (pktDst p) → s.dev.admittedFor p = none →
     exec c s = .next (s.withDev (
       ((t.idleFrame f).count F.FAB_COUNTS_INBOUND_PERM 0 1).answerPkt (dieOfPort f) p ((List.range (pktLines p)).map (fun _ => (Resp.perm, (0 : Line))))))) ∧
  (∀ (s : State) (f : FPort) (c : Instr) (type : Nat) (p : List Byte) (t : Dev) (o : OpenTxn), s.dev.clocked = true →
     ((c, type) = (.fabricComp f, 0x10) ∨ (c, type) = (.fabricData f, 0x11)) →
     s.dev.takeInbox f (fun p => pktType p == type && !transits p) = some (p, t) →
     (t.idleFrame f).fab.opens.find? (fun o => o.txn == pktTxn p && o.dst == pktSrc p) = some o →
     exec c s = .next (s.withDev (
       let t := t.idleFrame f
       let t : Dev := { t with fab := { t.fab with opens := t.fab.opens.filter (fun x => x.txn != o.txn) } }
       t.remoteAnswer o.req (Resp.ofNum (bitsOf (fieldAt p 0x16 2) 0 4)) (if type = 0x11 then some (bytesAt p 32 64) else none)))) ∧
  (∀ (s : State) (who : Who) (job : BitVec 16) (v : Word) (j : Nat), s.dev.clocked = true → s.dev.accepts who ⟨.FAB_DNF_RAISE, 0⟩ (job.setWidth 64) v = true →
     (List.range 64).find? (fun j => s.dev.flag F.JOB_CFG_VALID j && s.dev.fld F.JOB_CFG_JOB j == F.FAB_DNF_RAISE_JOB.get v) = some j →
     exec (.fabDnfRaise who job) s = .next (s.withDev (
       (s.dev.dnfTake ⟨s.dev.fld F.JOB_CFG_JOB j, s.dev.fld F.FAB_SELF_DEVICE_ID 0, s.dev.fld F.JOB_CFG_EPOCH j, 1, 8, 0⟩ none).emit
         (.ctrl who .ok none)))) ∧
  (∀ (s : State) (f : FPort) (e : List Byte × Nat × Nat) (rest : List (List Byte × Nat × Nat)), s.dev.clocked = true →
     takeFirst (fun (e : List Byte × Nat × Nat) => pktType e.1 == 0x24) (s.dev.port f).inbox = some (e, rest) → allZero (bytesAt (granule e.1 0) 12 20) = true →
     exec (.dnf f) s = .next (s.withDev (
       ((s.dev.setPort f ({ s.dev.port f with inbox := rest }.give (min (pktVc e.1) 12) e.2.1 e.2.2)).dnfTake (dnfOf (granule e.1 0)) (some f)).idleFrame f)))

/-- Configuration requests after release are served and completed (R112, R467, R475, R477). The model's own choices that it may rest on: log entries 68, 69, 70. -/
def Obligations.ConfigurationRequestsAreServed : Prop :=
  (∀ (s : State) (f : FuncIx) (tag : BitVec 14) (off : BitVec 12) (v : BitVec 32), s.dev.mgmtRuns = true → s.dev.pciUp = true → s.dev.phase = 7 →
     s.dev.fnExists f = true → (s.dev.fn f).flr.isSome = false →
     exec (.configRequest f tag off none) s = .next (s.withDev
       ((s.dev.configRead f off.toNat).2.emit (.completion f tag.toNat 0 (leBytes 4 (s.dev.configRead f off.toNat).1)))) ∧
     exec (.configRequest f tag off (some v)) s = .next (s.withDev
       ((s.dev.configWrite f off.toNat v.toNat).emit (.completion f tag.toNat 0 [])))) ∧
  (∀ (s : State) (f : FuncIx) (tag : BitVec 14) (off : BitVec 12) (write : Option (BitVec 32)), s.dev.mgmtRuns = true → s.dev.pciUp = true →
     s.dev.phase ≠ 7 → s.dev.phase ≠ 8 →
     exec (.configRequest f tag off write) s = .next (s.withDev (s.dev.emit (.completion f tag.toNat 2 [])))) ∧
  (∀ (s : State) (f : FuncIx) (tag : BitVec 14), s.dev.mgmtRuns = true → s.dev.pciUp = true → s.dev.phase = 7 → s.dev.fnExists f = true →
     (s.dev.fn f).flr.isSome = false → f.val ≠ 0 →
     exec (.flr f tag) s = .next (s.withDev (
       ((s.dev.setFn f { s.dev.fn f with bme := false, open_ := [], pend := [] }).fnStop f).emit (.completion f tag.toNat 0 [])))) ∧
  (∀ (s : State) (tag : BitVec 14), s.dev.mgmtRuns = true → s.dev.pciUp = true → s.dev.phase = 7 → s.dev.fnExists 0 = true →
     (s.dev.fn 0).flr.isSome = false →
     exec (.flr 0 tag) s = .next (s.withDev (((s.dev.vfDisable.fnClear 0).fnStop 0).emit (.completion 0 tag.toNat 0 [])))) ∧
  (∀ (s : State) (tag : BitVec 14) (numVfs : Fin 33), s.dev.mgmtRuns = true → s.dev.pciUp = true → s.dev.phase = 7 → s.dev.fnExists 0 = true →
     (s.dev.fn 0).flr.isSome = false → s.dev.flag F.PCI_STATUS_VF_ENABLE 0 = false →
     exec (.vfEnableWrite tag true numVfs true) s = .next (s.withDev (
       ((s.dev.setFlag F.PCI_STATUS_VF_ENABLE 0 true).setFld F.PCI_STATUS_NUM_VFS 0 numVfs).emit (.completion 0 tag.toNat 0 [])))) ∧
  (∀ (s : State) (tag : BitVec 14) (numVfs : Fin 33) (ari : Bool), s.dev.mgmtRuns = true → s.dev.pciUp = true → s.dev.phase = 7 →
     s.dev.fnExists 0 = true → (s.dev.fn 0).flr.isSome = false →
     exec (.vfEnableWrite tag false numVfs ari) s = .next (s.withDev (
       (s.dev.vfs.foldl (fun t f => (t.fnClear f).fnStop f) (s.dev.setFlag F.PCI_STATUS_VF_ENABLE 0 false)).emit (.completion 0 tag.toNat 0 [])))) ∧
  (∀ (s : State) (f : FuncIx) (tag : BitVec 14), s.dev.mgmtRuns = true → s.dev.pciUp = true → s.dev.phase = 7 → s.dev.fnExists f = true →
     (s.dev.fn f).flr.isSome = false → f.val ≠ 0 → (s.dev.fn f).bme = true →
     exec (.busMasterClear f tag) s = .next (s.withDev (
       ((s.dev.setFn f { s.dev.fn f with bme := false }).fnStop f).emit (.completion f tag.toNat 0 [])))) ∧
  (∀ (s : State) (tag : BitVec 14) (p : PartIx), s.dev.mgmtRuns = true → s.dev.pciUp = true → s.dev.phase = 7 → s.dev.fnExists 0 = true →
     (s.dev.fn 0).flr.isSome = false →
     exec (.dvsecPartitionReset tag p 0xA5) s = .next (s.withDev (
       (({ s.dev with pci := { s.dev.pci with action := 0 } } : Dev).askReset p.val 1 1 0).emit (.completion 0 tag.toNat 0 []))) ∧
     exec (.dvsecPackageReset tag 0xA5) s = .next (s.withDev (
       ({ s.dev with pci := { s.dev.pci with action := 0 } } : Dev).packageAsk.emit (.completion 0 tag.toNat 0 [])))) ∧
  (∀ (s : State) (tag : BitVec 14), s.dev.mgmtRuns = true → s.dev.pciUp = true → s.dev.phase = 7 → s.dev.fnExists 0 = true →
     (s.dev.fn 0).flr.isSome = false →
     exec (.crashDataRead tag) s = .next (s.withDev (
       ({ s.dev with pci := { s.dev.pci with sel := (s.dev.pci.sel + 1) % 2 ^ 32 } } : Dev).emit
         (.completion 0 tag.toNat 0 (leBytes 4 (s.dev.crashDword s.dev.pci.sel)))))) ∧
  (∀ (s : State) (f : FuncIx), s.dev.mgmtRuns = true →
     exec (.flrComplete f) s = .next (s.withDev (s.dev.setFn f { s.dev.fn f with flr := none })))

/-- Requests through the BARs and apertures (R469, R470, R471, R472, R480, R113). The model's own choices that it may rest on: log entries 68, 71, 72. -/
def Obligations.MemoryRequestsOfThePortTakeEffect : Prop :=
  (∀ (s : State) (f : FuncIx) (off : BitVec 36) (data : List (Option Byte)) (ro : Bool), s.dev.clocked = true → s.dev.pciUp = true → f.val ≠ 0 →
     s.dev.barsUp f = true → (s.dev.fn f).flr.isSome = false → s.dev.aperOn (aperOf f off.toNat) = true →
     exec (.apertureWrite f off data ro 0) s = .next (s.withDev (
       let a := aperOf f off.toNat
       let addr := s.dev.fld F.APER_BASE a * 2 ^ 30 + off.toNat % 2 ^ 32
       let q : PciReq := ⟨f, true, pciPieces addr data, [], addr % 64, data.length, s.dev.fld F.APER_CONTEXT a, hintOf (s.dev.fld F.APER_HINT a),
         s.dev.fld F.APER_PARTITION a, 0, none, if ro then 1 else 0⟩
       ({ s.dev with pci := { s.dev.pci with reqs := s.dev.pci.reqs ++ [q] } } : Dev).pciRun))) ∧
  (∀ (s : State) (f : FuncIx) (tag : BitVec 14) (off : BitVec 36) (len : Fin 4097), s.dev.clocked = true → s.dev.pciUp = true → f.val = 1 → s.dev.barsUp f = true →
     (s.dev.fn f).flr.isSome = false → s.dev.aperOn (aperOf f off.toNat) = true →
     exec (.apertureRead f tag off len 0 false) s = .next (s.withDev (
       let a := aperOf f off.toNat
       let addr := s.dev.fld F.APER_BASE a * 2 ^ 30 + off.toNat % 2 ^ 32
       let q : PciReq := ⟨1, false, pciPieces addr (List.replicate len.val (some 0)), [], addr % 64, len.val, s.dev.fld F.APER_CONTEXT a,
         hintOf (s.dev.fld F.APER_HINT a), s.dev.fld F.APER_PARTITION a, tag.toNat, none, 0⟩
       ({ s.dev with pci := { s.dev.pci with reqs := s.dev.pci.reqs ++ [q] } } : Dev).pciRun))) ∧
  (∀ (s : State) (f : FuncIx) (tag : BitVec 14) (off : BitVec 36) (len : Fin 4097), s.dev.clocked = true → s.dev.pciUp = true → 2 ≤ f.val → s.dev.barsUp f = true →
     (s.dev.fn f).flr.isSome = false → s.dev.aperOn (aperOf f off.toNat) = true →
     exec (.apertureRead f tag off len 0 false) s = .next (s.withDev (
       let addr := s.dev.fld F.APER_BASE (aperOf f off.toNat) * 2 ^ 30 + off.toNat % 2 ^ 32
       ((s.dev.pciLog f .perm false (addr / 64 * 64)).readEnds f tag.toNat 4 []).pciRun))) ∧
  (∀ (s : State) (f : FuncIx) (tag : BitVec 14) (off : BitVec 36) (len : Fin 4097), s.dev.clocked = true → s.dev.pciUp = true → f.val ≠ 0 → s.dev.barsUp f = true →
     (s.dev.fn f).flr.isSome = false → s.dev.aperOn (aperOf f off.toNat) = false →
     exec (.apertureRead f tag off len 0 false) s = .next (s.withDev ((s.dev.readEnds f tag.toNat 4 []).unsupported.pciRun))) ∧
  (∀ (s : State) (tag : BitVec 14) (off : BitVec 32) (size : Fin 9) (w : Word), s.dev.clocked = true → s.dev.pciUp = true → s.dev.barsUp 0 = true →
     (s.dev.fn 0).flr.isSome = false →
     (s.dev.ctrlAccess .pf0 off.toNat size (some w)).1 = .ok → (s.dev.ctrlAccess .pf0 off.toNat size none).1 = .ok →
     exec (.bar0CtrlAccess tag off size (some w)) s = .next (s.withBurn ((s.dev.ctrlAccess .pf0 off.toNat size (some w)).2.2.pciRun)) ∧
     exec (.bar0CtrlAccess tag off size none) s = .next (s.withBurn (
       ((s.dev.ctrlAccess .pf0 off.toNat size none).2.2.readEnds 0 tag.toNat 0
         (leBytes size (s.dev.ctrlAccess .pf0 off.toNat size none).2.1.toNat)).pciRun))) ∧
  (∀ (s : State) (tag : BitVec 14) (off : BitVec 29) (bs : List (Option Byte)) (len : Fin 4097), s.dev.clocked = true → s.dev.pciUp = true →
     s.dev.barsUp 0 = true → (s.dev.fn 0).flr.isSome = false → s.dev.phase = 8 → off.toNat + bs.length ≤ s.dev.stageRoom →
     exec (.stagingBarAccess tag off (some bs) len) s = .next (s.withDev ((s.dev.stageWrite off.toNat bs).pciRun))) ∧
  (∀ (s : State) (tag : BitVec 14) (off : BitVec 29) (len : Fin 4097), s.dev.clocked = true → s.dev.pciUp = true →
     s.dev.barsUp 0 = true → (s.dev.fn 0).flr.isSome = false → s.dev.phase = 8 → (s.dev.stageRead off.toNat len).1.isSome = true →
     exec (.stagingBarAccess tag off none len) s = .next (s.withDev (
       ((s.dev.stageRead off.toNat len).2.readEnds 0 tag.toNat 0 ((s.dev.stageRead off.toNat len).1.getD [])).pciRun))) ∧
  (∀ (s : State) (who : Who) (a : Fin 144) (w v : Word), s.dev.clocked = true → s.dev.accepts who ⟨.APER, a⟩ w v = true → F.APER_ENABLE.get v ≠ 1 →
     exec (.aperRegisterWrite who a w) s = .next (s.withDev (
       (if a.val < 16 then s.dev.storeReg ⟨.APER, a⟩ v
         else (s.dev.storeReg ⟨.APER, a⟩ v).setFld F.APER_PARTITION a (s.dev.fld F.APER_PARTITION a)).emit (.ctrl who .ok none))))

/-- The link, its resets, its violations, MSI-X, timeouts (R473, R474, R475, R476, R522). The model's own choices that it may rest on: log entries 70, 71, 72. -/
def Obligations.PortEventsTakeEffect : Prop :=
  (∀ (s : State) (rate : Fin 7) (width : Fin 3) (flit : Bool), s.dev.clocked = true → s.dev.pciUp = false → 2 ≤ s.dev.phase → s.dev.pins.perstLow = false →
     exec (.pcieLinkUp rate width flit) s = .next (s.withDev (
       let t := (s.dev.setFlag F.PCI_STATUS_LINK_UP 0 true).setFld F.PCI_STATUS_RATE 0 (if flit then rate.val + 1 else min (rate.val + 1) 5)
       (t.setFld F.PCI_STATUS_WIDTH 0 (2 ^ width.val)).setFlag F.PCI_STATUS_FLIT 0 flit))) ∧
  (∀ (s : State), s.dev.mgmtRuns = true → s.dev.pciUp = true →
     exec .hotReset s = .next (s.withDev (
       let t : Dev := { s.dev with pci := { s.dev.pci with reqs := s.dev.pci.reqs.filter (fun q => q.write) } }
       (((t.flr 0).flr 1).setFlag F.PCI_STATUS_LINK_UP 0 false).setFld F.PCI_STATUS_NUM_VFS 0 0))) ∧
  (∀ (s : State), s.dev.clocked = true → s.dev.pciUp = true →
     exec .poisonedWrite s = .next (s.withDev (s.dev.count F.PCI_VIOL_POISONED 0 1)) ∧
     exec .unexpectedCompletion s = .next (s.withDev (s.dev.count F.PCI_VIOL_UNEXPECTED_CPL 0 1)) ∧
     exec .malformedTlp s = .next (s.withDev (s.dev.count F.PCI_VIOL_MALFORMED 0 1))) ∧
  (∀ (s : State) (who : Who) (func vec : BitVec 6) (v : Word), s.dev.clocked = true →
     s.dev.accepts who ⟨.PCI_NOTIFY, 0⟩ (BitVec.ofNat 64 (func.toNat + vec.toNat * 64)) v = true →
     F.PCI_NOTIFY_VECTOR.get v < fnVectors (F.PCI_NOTIFY_FUNC.get v) → (F.PCI_NOTIFY_FUNC.get v = 0 → 2 ≤ F.PCI_NOTIFY_VECTOR.get v) →
     (2 ≤ F.PCI_NOTIFY_FUNC.get v → F.PCI_NOTIFY_VECTOR.get v ≠ 0) →
     exec (.pciNotify who func vec) s = .next (s.withDev (
       (s.dev.msixRaise (F.PCI_NOTIFY_FUNC.get v) (F.PCI_NOTIFY_VECTOR.get v)).emit (.ctrl who .ok none)))) ∧
  (∀ (s : State) (f : FuncIx) (v : Fin 64), s.dev.clocked = true → s.dev.pciUp = true → s.dev.fnExists f = true → v.val < fnVectors f →
     (s.dev.fn f).open_.contains v.val = false →
     exec (.msixUnmask f v) s = .next (s.withDev (
       let x := s.dev.fn f
       let go := x.bme && x.pend.contains v.val
       let t := s.dev.setFn f { x with open_ := x.open_ ++ [v.val], pend := if go then x.pend.filter (fun k => k != v.val) else x.pend }
       if go then t.emit (.msix f v) else t))) ∧
  (∀ (s : State) (n : CoreIx) (line : Nat), s.dev.clocked = true → s.dev.l2Waits n line = true →
     exec (.requestTimeout (.l2 n line)) s = .next (s.withDev ((s.dev.count F.DIE_ERR_COUNTS_TIMEOUTS 8 1).coreComp n 0 line .timeout))) ∧
  (∀ (s : State) (n : CoreIx) (addr : Nat), s.dev.clocked = true → ((s.dev.hart n).waitOn (addr / 64)).isSome = true →
     exec (.requestTimeout (.core n addr)) s = .next (s.withDev ((s.dev.count F.DIE_ERR_COUNTS_TIMEOUTS 8 1).coreComp n 2 (addr / 64) .timeout))) ∧
  (∀ (s : State) (e : Fin 960) (addr : Nat) (t : Tile), s.dev.clocked = true →
     s.dev.tileOn (if e.val < 512 then s.dev.logical e else e.val) = some t →
     exec (.requestTimeout (.engine e addr)) s = .next (s.withDev (
       let k := if e.val < 512 then s.dev.logical e else e.val
       let d := s.dev.count F.DIE_ERR_COUNTS_TIMEOUTS (Requester.engine e addr).die 1
       ({ d with remSent := d.remSent.filter (fun q => q.tag != k) } : Dev).tileError k t .timeout addr)))

/-- A sealed vault's GO starts a release, an export or an import, and the operation goes on by chunks (R489, R490, R491, R493, R495, R498, R499, R500). The model's own choices that it may rest on: log entries 34, 78, 86, 87, 113. -/
def Obligations.GxOperationsTakeEffect : Prop :=
  (∀ (s : State) (who : Who) (p : VaultIx) (agree : Fin 3), s.dev.clocked = true → s.dev.accepts who ⟨.GX_CTRL, p⟩ (BitVec.ofNat 64 (1 + 2 * 0)) 1 = true →
     s.dev.fld F.GX_STATUS_STATE p = 1 → (s.dev.setFld F.GX_CTRL_KIND p 0).gxRefusal p 0 = none →
     exec (.gxRelease who p agree) s = .next (s.withDev (
       let t := s.dev.setFld F.GX_CTRL_KIND p 0
       let src := t.fld F.GX_SRC_ADDR p * 64
       let t := (t.setGxState p 2).setFlag F.GX_CTRL_GO p true
       let t := t.setOp p (some ⟨0, 0, src, s.dev.fld F.GX_AUX_ADDR p * 64, t.fld F.GX_LEN_BYTES p, [], 0, [], [], [], 0, none⟩)
       let t : Dev := { t with gxGuard := SMap.set t.gxGuard p ((t.localForm src).getD 0, 64, 0, 0) }
       (t.gxRun p agree).emit (.ctrl who .ok none)))) ∧
  (∀ (s : State) (who : Who) (p : VaultIx) (agree : Fin 3), s.dev.clocked = true → s.dev.accepts who ⟨.GX_CTRL, p⟩ (BitVec.ofNat 64 (1 + 2 * 1)) 3 = true →
     s.dev.fld F.GX_STATUS_STATE p = 1 → (s.dev.setFld F.GX_CTRL_KIND p 1).gxRefusal p 1 = none →
     exec (.gxExport who p agree) s = .next (s.withDev (
       let t := s.dev.setFld F.GX_CTRL_KIND p 1
       let src := t.fld F.GX_SRC_ADDR p * 64
       let aux := t.fld F.GX_AUX_ADDR p * 64
       let t := (t.setGxState p 2).setFlag F.GX_CTRL_GO p true
       let t := t.setOp p (some ⟨1, 0, src, aux, t.fld F.GX_LEN_BYTES p, [], 0, [], [], [], 0, none⟩)
       (t.gxRun p agree).emit (.ctrl who .ok none)))) ∧
  (∀ (s : State) (who : Who) (p : VaultIx), s.dev.clocked = true → s.dev.accepts who ⟨.GX_CTRL, p⟩ (BitVec.ofNat 64 (1 + 2 * 2)) 5 = true →
     s.dev.fld F.GX_STATUS_STATE p = 1 → (s.dev.setFld F.GX_CTRL_KIND p 2).gxRefusal p 2 = none →
     exec (.gxImport who p) s = .next (s.withDev (
       let t := s.dev.setFld F.GX_CTRL_KIND p 2
       let src := t.fld F.GX_SRC_ADDR p * 64
       let aux := t.fld F.GX_AUX_ADDR p * 64
       let t := (t.setGxState p 2).setFlag F.GX_CTRL_GO p true
       let t := t.setOp p (some ⟨2, 0, src, aux, t.fld F.GX_LEN_BYTES p, [], 0, [], [], [], 0, none⟩)
       (t.gxRun p 0).emit (.ctrl who .ok none)))) ∧
  (∀ (s : State) (who : Who) (p : VaultIx) (agree : Fin 3) (r : Nat), s.dev.clocked = true → s.dev.accepts who ⟨.GX_CTRL, p⟩ (BitVec.ofNat 64 (1 + 2 * 0)) 1 = true →
     s.dev.fld F.GX_STATUS_STATE p ≠ 2 → s.dev.fld F.GX_STATUS_STATE p ≠ 0 → (s.dev.setFld F.GX_CTRL_KIND p 0).gxRefusal p 0 = some r →
     exec (.gxRelease who p agree) s = .next (s.withDev (
       ((((s.dev.setFld F.GX_CTRL_KIND p 0).setFld F.GX_STATUS_RESULT p r).count F.GX_COUNTS_REFUSED p 1).emit (.ctrl who .ok none))))) ∧
  (∀ (s : State) (who : Who) (p : VaultIx) (agree : Fin 3) (r : Nat), s.dev.clocked = true → s.dev.accepts who ⟨.GX_CTRL, p⟩ (BitVec.ofNat 64 (1 + 2 * 1)) 3 = true →
     s.dev.fld F.GX_STATUS_STATE p ≠ 2 → s.dev.fld F.GX_STATUS_STATE p ≠ 0 → (s.dev.setFld F.GX_CTRL_KIND p 1).gxRefusal p 1 = some r →
     exec (.gxExport who p agree) s = .next (s.withDev (
       ((((s.dev.setFld F.GX_CTRL_KIND p 1).setFld F.GX_STATUS_RESULT p r).count F.GX_COUNTS_REFUSED p 1).emit (.ctrl who .ok none))))) ∧
  (∀ (s : State) (who : Who) (p : VaultIx) (r : Nat), s.dev.clocked = true → s.dev.accepts who ⟨.GX_CTRL, p⟩ (BitVec.ofNat 64 (1 + 2 * 2)) 5 = true →
     s.dev.fld F.GX_STATUS_STATE p ≠ 2 → s.dev.fld F.GX_STATUS_STATE p ≠ 0 → (s.dev.setFld F.GX_CTRL_KIND p 2).gxRefusal p 2 = some r →
     exec (.gxImport who p) s = .next (s.withDev (
       ((((s.dev.setFld F.GX_CTRL_KIND p 2).setFld F.GX_STATUS_RESULT p r).count F.GX_COUNTS_REFUSED p 1).emit (.ctrl who .ok none))))) ∧
  (∀ (s : State) (p : VaultIx) (agree : Fin 3) (o : GxOp), s.dev.clocked = true → (s.dev.vault p).op = some o → o.fin = none →
     o.stream.length < o.written + 64 → o.kind = 0 → o.stream.isEmpty = false →
     exec (.gxChunk p agree) s = .next (s.withDev (s.dev.releaseChunk p o (agree.val == 0)))) ∧
  (∀ (s : State) (p : VaultIx) (agree : Fin 3) (o : GxOp), s.dev.clocked = true → (s.dev.vault p).op = some o → o.fin = none →
     o.stream.length < o.written + 64 → o.kind = 1 → o.stream.isEmpty = false →
     exec (.gxChunk p agree) s = .next (s.withDev (s.dev.exportChunk p o (agree.val == 0)))) ∧
  (∀ (s : State) (who : Who) (p : VaultIx) (head : BitVec 32) (v : Word), s.dev.clocked = true →
     s.dev.accepts who ⟨.GX_DEST_CFG, p⟩ (F.GX_DEST_CFG_HEAD.put (s.dev.reg .GX_DEST_CFG p) head.toNat) v = true →
     exec (.gxDestHeadWrite who p head) s = .next (s.withDev (((s.dev.storeReg ⟨.GX_DEST_CFG, p⟩ v).gxPump p).emit (.ctrl who .ok none)))) ∧
  (∀ (s : State) (d : Fin 2) (which : Fin 3), s.dev.clocked = true → s.dev.dieState (9 + d) = 0 →
     exec (.nseHealthFail d which) s = .next (s.withDev (
       let f := if which.val = 0 then F.NSE_STATUS_REPETITION_FAIL else if which.val = 1 then F.NSE_STATUS_PROPORTION_FAIL else F.NSE_STATUS_KAT_FAIL
       ((s.dev.setFlag f d true).setFlag F.NSE_STATUS_HEALTHY d false).report ⟨6, 9 + d, none, 20, 3, none, 0, 9 + d⟩))) ∧
  (∀ (s : State) (who : Who) (w v : Word), s.dev.clocked = true → s.dev.accepts who ⟨.ATT_CTRL, 0⟩ w v = true → s.dev.flag F.ATT_STATUS_BUSY 0 = false →
     F.ATT_CTRL_GO.get v ≠ 0 →
     exec (.attestRequest who w) s = .next (s.withDev (
       let t := (s.dev.setFld F.ATT_CTRL_PARTITION 0 (F.ATT_CTRL_PARTITION.get v)).setFld F.ATT_CTRL_PACKAGE 0 (F.ATT_CTRL_PACKAGE.get v)
       let party := match who with | .core n _ => t.partOfCore n | _ => none
       let r : AttReq := ⟨party, if t.flag F.ATT_CTRL_PACKAGE 0 then none else some (t.fld F.ATT_CTRL_PARTITION 0),
         t.fld F.ATT_DATA_ADDR_ADDR 0 * 64, t.fld F.ATT_OUT_ADDR_ADDR 0 * 64, none⟩
       let t := (t.setFlag F.ATT_STATUS_BUSY 0 true).setFlag F.ATT_CTRL_GO 0 true
       let t : Dev := { t with att := { t.att with waiting := t.att.waiting ++ [r] } }
       (t.attServe t.att.waiting.length).emit (.ctrl who .ok none))))

/-- The rail limiter, the region limiter and CAPC take their steps (R508, R511, R512). The model's own choices that it may rest on: log entries 46, 47, 48. -/
def Obligations.LimitersTakeEffect : Prop :=
  (∀ (s : State) (d : Fin 9) (amps : Nat), s.dev.clocked = true → s.dev.dieRuns d = true → s.dev.flag F.BOOT_STATUS_LOCKED 0 = true →
     exec (.railLimiterTick d amps) s = .next (s.withDev (
       let x := SMap.get s.dev.pwr.lims .init d
       let hist := (amps :: x.hist).take 10000
       let r := limiterStep (s.dev.fld F.PWR_STATUS_RAIL_LEVEL d) x.calm amps hist.sum (s.dev.fld F.PWR_LIMIT_PEAK_TRIP d)
         (s.dev.fld F.PWR_LIMIT_SUST_TRIP d)
       let t := s.dev.setPwr { s.dev.pwr with lims := SMap.set s.dev.pwr.lims d ⟨hist, r.2⟩ }
       let t := ((t.setFld F.PWR_STATUS_RAIL_LEVEL d r.1).setFld F.PWR_STATUS_I_TICK d (min amps 1023)).setFld F.PWR_STATUS_A1000 d
         (min (hist.sum / 10000) 1023)
       let t := if hist.sum > t.fld F.PWR_LIMIT_SUST_TRIP d * 10000 then t.setFlag F.PWR_EVENT_SUSTAINED d true else t
       if r.1 ≥ 1 then t.count F.PWR_COUNTS_LIMIT_TICKS d 1 else t))) ∧
  (∀ (s : State) (g : RegionIx) (watts : Nat), s.dev.clocked = true → s.dev.dieRuns (g / 4) = true → (s.dev.partOfRegion g).isNone = false →
     s.dev.flag F.BOOT_STATUS_LOCKED 0 = true →
     exec (.regionLimiterCompare g watts) s = .next (s.withDev (
       let b := s.dev.fld F.CAPC_REGION_BUDGET_W g
       let l := s.dev.regionLevel g
       let c := SMap.get s.dev.pwr.calm 0 g
       let r : Nat × Nat := if watts > b then (min (l + 1) 4, 0)
         else if 10 * watts ≤ 9 * b then (if c + 1 = 10 then (l - 1, 0) else (l, c + 1)) else (l, 0)
       let raised := if (decide (r.1 > 0) || decide (l > 0)) && !s.dev.pwr.raised.contains g then s.dev.pwr.raised ++ [g.val] else s.dev.pwr.raised
       (s.dev.setPwr { s.dev.pwr with calm := SMap.set s.dev.pwr.calm g r.2, raised := raised }).setRegionLevel g r.1))) ∧
  (∀ (s : State) (watts : List Nat), s.dev.clocked = true → wattsShape watts = true → s.dev.phase = 7 →
     exec (.capcEpoch watts) s = .next (s.withDev (s.dev.capcEpoch watts)))

/-- A VR_ALERT_N input that falls forces its dies until the hold after its rise has passed (R510, R561). The model's own choices that it may rest on: log entry 49. -/
def Obligations.AlertsTakeEffect : Prop :=
  (∀ (s : State) (j : DieIx), s.dev.pins.refclk = true → s.dev.pins.pwrgood = true → s.dev.pwr.alerts.contains j.val = false →
     exec (.vrAlertAssert j) s = .next (s.withDev (
       let t := s.dev.setPwr { s.dev.pwr with alerts := s.dev.pwr.alerts ++ [j.val] }
       let t := t.setPwr { t.pwr with rising := SMap.del t.pwr.rising j }
       ((diesOfGroup j).foldl (fun t d =>
         let t := t.setFlag F.PWR_EVENT_ALERT d true
         if t.dieState d = 0 then t.count F.PWR_COUNTS_ALERTS d 1 else t) t).showAlerts))) ∧
  (∀ (s : State) (j : DieIx), s.dev.pins.refclk = true → s.dev.pins.pwrgood = true → s.dev.pwr.alerts.contains j.val = true →
     exec (.vrAlertDeassert j) s = .next (s.withDev (s.dev.setPwr { s.dev.pwr with
       alerts := s.dev.pwr.alerts.filter (fun k => k != j.val), rising := SMap.set s.dev.pwr.rising j s.dev.time }))) ∧
  (∀ (s : State) (j : DieIx) (t0 : Nat), s.dev.mgmtRuns = true → SMap.find s.dev.pwr.rising j = some t0 →
     exec (.vrAlertHoldExpire j) s = .next (s.withDev (
       (s.dev.setPwr { s.dev.pwr with rising := SMap.del s.dev.pwr.rising j }).showAlerts)))

/-- Sensors are read, thermal levels move and a trip stops the clocks (R513, R529). The model's own choices that it may rest on: log entries 47, 50. -/
def Obligations.ThermalControlTakesEffect : Prop :=
  (∀ (s : State) (d : DieIx) (readings : List Int), s.dev.clocked = true → readingsShape d readings = true → s.dev.dieRuns d = true →
     exec (.thermalSample d readings) s = .next (s.withDev (
       let rs := readings.take (sensorsOf d)
       let t := rs.zipIdx.foldl (fun (t : Dev) r =>
         let x := t.zone (zoneOf d r.2)
         t.setPwr { t.pwr with zones := SMap.set t.pwr.zones (zoneOf d r.2) { x with reads := SMap.set x.reads r.2 r.1 } }) s.dev
       let hot := rs.zipIdx.foldl (fun (m : Int × Nat) r => if r.1 > m.1 then r else m) (rs.headD 0, 0)
       (t.setFld F.THERM_STATUS_TMAX d (min hot.1.toNat 255)).setFld F.THERM_STATUS_HOTTEST d hot.2))) ∧
  (∀ (s : State) (z : Fin 33), s.dev.clocked = true → s.dev.dieRuns (dieOfZone z) = true → s.dev.flag F.BOOT_STATUS_LOCKED 0 = true →
     (s.dev.zone z).reads.any (fun r => decide (r.2 ≥ (s.dev.fld F.THERM_CFG_THROTTLE (dieOfZone z) : Int))) = true → (s.dev.zone z).level < 4 →
     exec (.thermalLevelRise z) s = .next (s.withDev (
       ((s.dev.setThermal z ((s.dev.zone z).level + 1)).count F.PWR_COUNTS_THROTTLES (dieOfZone z) 1).setFlag F.PWR_EVENT_THROTTLE (dieOfZone z) true))) ∧
  (∀ (s : State) (z : Fin 33), s.dev.clocked = true → s.dev.dieRuns (dieOfZone z) = true →
     (s.dev.zone z).reads.all (fun r => decide (r.2 + 3 ≤ (s.dev.fld F.THERM_CFG_THROTTLE (dieOfZone z) : Int))) = true → (s.dev.zone z).level ≠ 0 →
     exec (.thermalLevelFall z) s = .next (s.withDev (s.dev.setThermal z ((s.dev.zone z).level - 1)))) ∧
  (∀ (s : State) (d : DieIx), s.dev.pins.tripped = false → s.dev.pins.pwrgood = true →
     exec (.thermtrip d) s = .next (s.withDev (
       let t := if s.dev.pins.refclk then s.dev.crash 9 (some d) none none 0 (fun _ => false) else s.dev
       { t with pins := { t.pins with tripped := true, stopped := true } })))

/-- A rail is sampled, and a regulator is polled (R514, R528, R554). The model's own choices that it may rest on: log entries 49, 50, 60. -/
def Obligations.RailsTakeEffect : Prop :=
  (∀ (s : State) (n : RailIx) (mv : Nat), s.dev.mgmtRuns = true → 2 ≤ s.dev.phase → (s.dev.railWindow n).1 ≤ mv → mv ≤ (s.dev.railWindow n).2 →
     exec (.railSample n mv) s = .next (s.withDev (
       let t := (s.dev.setFld F.RAIL_STATUS_ADC_MV n (min mv 4095)).setFlag F.RAIL_STATUS_OUT n false
       let k := SMap.get t.pwr.inWin 0 n + 1
       let t := (t.setFld F.RAIL_STATUS_RUN n 0).setPwr { t.pwr with inWin := SMap.set t.pwr.inWin n (min k 10) }
       if k ≥ 10 then t.setPwr { t.pwr with railHold := t.pwr.railHold.filter (fun m => m != n.val) } else t))) ∧
  (∀ (s : State) (n : RailIx) (mv : Nat), s.dev.mgmtRuns = true → 2 ≤ s.dev.phase →
     (mv < (s.dev.railWindow n).1 ∨ (s.dev.railWindow n).2 < mv) →
     exec (.railSample n mv) s = .next (s.withDev (
       let t := (s.dev.setFld F.RAIL_STATUS_ADC_MV n (min mv 4095)).setFlag F.RAIL_STATUS_OUT n true
       let run := t.fld F.RAIL_STATUS_RUN n
       let t := t.setPwr { t.pwr with inWin := SMap.set t.pwr.inWin n 0 }
       let t := (diesOfRail n).foldl (fun t d => t.setFlag F.PWR_EVENT_RAIL_OUT d true) t
       let t := t.setFld F.RAIL_STATUS_RUN n (min 3 (run + 1))
       if run = 2 && !t.pwr.railHold.contains n.val then t.railReact n else t))) ∧
  (∀ (s : State) (n : RailIx), s.dev.mgmtRuns = true → 2 ≤ s.dev.phase →
     exec (.pmbusPoll n none) s = .next (s.withDev (s.dev.setFlag F.RAIL_STATUS_VR_SILENT n true))) ∧
  (∀ (s : State) (n : RailIx) (v i p : Nat), s.dev.mgmtRuns = true → 2 ≤ s.dev.phase →
     exec (.pmbusPoll n (some (v, i, p))) s = .next (s.withDev (
       let t := ((s.dev.setFlag F.RAIL_STATUS_VR_SILENT n false).setFld F.RAIL_STATUS_VR_VOUT n (min v 65535)).setFld F.RAIL_STATUS_VR_IOUT n
         (min i 65535)
       let t := t.setFld F.RAIL_STATUS_VR_POUT n (min p 65535)
       let q := SMap.get t.pwr.polls (0, 0) n
       t.setPwr { t.pwr with polls := SMap.set t.pwr.polls n (q.1 + p, q.2 + 1) })))

/-- Reports reach the log, heartbeats reach MGMT, SAFETY is acknowledged (R516, R517, R519, R521, R523). The model's own choices that it may rest on: log entries 43, 51. -/
def Obligations.ErrorsReachTheLog : Prop :=
  (∀ (s : State) (e : ErrRep) (rest : List ErrRep), s.dev.mgmtRuns = true → s.dev.reports = e :: rest →
     exec .errorReport s = .next (s.withDev (({ s.dev with reports := rest } : Dev).logEntry e))) ∧
  (∀ (s : State) (who : Who), s.dev.mgmtRuns = true → s.dev.accepts who ⟨.ELOG_STATUS, 0⟩ (BitVec.ofNat 64 (2 ^ 33)) (BitVec.ofNat 64 (2 ^ 33)) = true →
     exec (.elogSafetyClear who) s = .next (s.withDev ((s.dev.storeReg ⟨.ELOG_STATUS, 0⟩ (BitVec.ofNat 64 (2 ^ 33))).emit (.ctrl who .ok none)))) ∧
  (∀ (s : State) (d : DieIx), s.dev.clocked = true → s.dev.dieAnswers d = true →
     exec (.heartbeat d) s = .next (s.withDev (s.dev.setDie d { s.dev.die d with lastHb := s.dev.time, snapshot := s.dev.dieSnapshot d }))) ∧
  (∀ (s : State) (d : DieIx), s.dev.mgmtRuns = true → 2 ≤ s.dev.phase →
     exec (.heartbeatLimitExpire d) s = .next (s.withDev (s.dev.dieReset d 2 0)))

/-- A die is held in reset when asked for, and is released or dead at its end (R525, R527, R532). The model's own choices that it may rest on: log entries 53, 54, 55. -/
def Obligations.DieResetsTakeEffect : Prop :=
  (∀ (s : State) (who : Who) (d : DieIx), s.dev.mgmtRuns = true → s.dev.accepts who ⟨.DIE_CTRL, d⟩ 1 1 = true →
     exec (.dieReset who d) s = .next (s.withDev ((s.dev.dieReset d 4 0).emit (.ctrl who .ok none)))) ∧
  (∀ (s : State) (who : Who) (mask : BitVec 11), s.dev.mgmtRuns = true →
     s.dev.accepts who ⟨.RESET_CTRL, 0⟩ (BitVec.ofNat 64 (mask.toNat + 0xA5 * 2 ^ 24)) (BitVec.ofNat 64 (mask.toNat + 0xA5 * 2 ^ 24)) = true →
     exec (.resetCtrlDie who mask 0xA5) s = .next (s.withDev (
       ((List.range 11).foldl (fun t d => if bitOf mask.toNat d then t.dieReset d 4 0 else t) s.dev).emit (.ctrl who .ok none)))) ∧
  (∀ (s : State) (p : PartIx), s.dev.mgmtRuns = true → s.dev.partState p = 3 → (s.dev.partSt p).resetAt.isSome = true →
     exec (.forcedResetExpire p) s = .next (s.withDev ((s.dev.diesOf p).foldl (fun t d => t.dieReset d 4 0) s.dev))) ∧
  (∀ (s : State) (d : DieIx) (bad : List (Fin 4)), s.dev.clocked = true → s.dev.dieState d = 1 → s.dev.flag F.CLK_STATUS_PLL_LOCK d = true →
     s.dev.pwr.railHold.any (fun n => (diesOfRail n).contains d.val) = false → s.dev.dieTrained d = true →
     exec (.dieRelease d true bad) s = .next (s.withDev (
       let t := ((s.dev.dieImage d).setDieState d 0).loseSlices d (if d.val < 8 then bad.map Fin.val else [])
       let t := if d.val = 8 && (s.dev.die d).dark then (List.range 16).foldl (fun t i => t.setFlag F.HOME_STATUS_UNTRACKED (32 + i) true) t else t
       t.showAlerts.eventAll ⟨0x41, d, 0⟩))) ∧
  (∀ (s : State) (d : DieIx) (bad : List (Fin 4)), s.dev.clocked = true → s.dev.dieState d = 1 → (s.dev.die d).trigger = 1 →
     exec (.dieRelease d false bad) s = .next (s.withDev (
       if (s.dev.die d).tries + 1 ≥ max 1 (s.dev.fld F.WD_CFG_RELOCK_TRIES 0) then
         (List.range 32).foldl (fun t p => if (t.diesOf p).contains d.val then t.setPartState p 5 else t) (s.dev.setDieState d 2)
       else s.dev.setDie d { s.dev.die d with tries := (s.dev.die d).tries + 1 })))

/-- The package quiesce-and-reset is asked for and ends in the package reset (R533, R524, R529). The model's own choices that it may rest on: log entries 51, 52, 56. -/
def Obligations.PackageResetTakesEffect : Prop :=
  (∀ (s : State) (who : Who), s.dev.mgmtRuns = true → s.dev.drain = none →
     s.dev.accepts who ⟨.RESET_CTRL, 0⟩ (BitVec.ofNat 64 (2 ^ 16 + 0xA5 * 2 ^ 24)) (BitVec.ofNat 64 (2 ^ 16 + 0xA5 * 2 ^ 24)) = true →
     exec (.resetCtrlPackage who 0xA5) s = .next (s.withDev (({ s.dev with drain := some (s.dev.time, 5, 0xFF) } : Dev).emit (.ctrl who .ok none)))) ∧
  (∀ (s : State) (t0 trigger rail : Nat), s.dev.mgmtRuns = true → s.dev.drain = some (t0, trigger, rail) →
     exec .packageDrainDone s = .next (s.withDev (
       ((if s.dev.dieState 8 = 0 then s.dev.drainDimms false else s.dev).dropChans 8).packageFault trigger 0)))

/-- MGMT answers over I3C (R112, R504, R531). The model's own choices that it may rest on: log entries 73, 74. -/
def Obligations.SerialCommandsAnswer : Prop :=
  (∀ (s : State) (addr : BitVec 7), s.dev.mgmtRuns = true → s.dev.pins.i3cAddr.isSome = false → 2 ≤ s.dev.phase →
     exec (.i3cAddressAssign none addr) s = .next (s.withDev { s.dev with pins := { s.dev.pins with i3cAddr := some addr.toNat } })) ∧
  (∀ (s : State), s.dev.mgmtRuns = true → s.dev.pins.i3cAddr.isSome = true → 2 ≤ s.dev.phase →
     exec .i3cStatus s = .next (s.withDev (s.dev.emit (.serial ([3, 4, 5, 6, 7].flatMap (fun i => leBytes 4 (s.dev.dvsec (4 * i)))))))) ∧
  (∀ (s : State) (first : BitVec 16) (count : BitVec 8), s.dev.mgmtRuns = true → s.dev.pins.i3cAddr.isSome = true → 2 ≤ s.dev.phase →
     1 ≤ count.toNat → count.toNat ≤ 64 →
     exec (.i3cCrashRead first count) s = .next (s.withDev (s.dev.emit (.serial
       ((List.range count.toNat).flatMap (fun i => leBytes 4 (s.dev.crashDword (first.toNat + i)))))))) ∧
  (∀ (s : State) (first : BitVec 16) (count : BitVec 8), s.dev.mgmtRuns = true → s.dev.pins.i3cAddr.isSome = true → 2 ≤ s.dev.phase →
     1 ≤ count.toNat → count.toNat ≤ 8 →
     exec (.i3cElogRead first count) s = .next (s.withDev (s.dev.emit (.serial ((List.range count.toNat).flatMap (fun i =>
       (List.range 4).flatMap (fun w => leBytes 8 (s.dev.reg .ELOG ((first.toNat + i) % 1024 * 4 + w)).toNat))))))) ∧
  (∀ (s : State) (p : BitVec 8), s.dev.mgmtRuns = true → s.dev.pins.i3cAddr.isSome = true → 2 ≤ s.dev.phase → p.toNat < 32 →
     s.dev.partRuns p.toNat = true →
     exec (.i3cPartitionReset 0xA5 p) s = .next (s.withDev ((s.dev.emit (.serial [0])).askReset p.toNat 1 1 0))) ∧
  (∀ (s : State), s.dev.mgmtRuns = true → s.dev.pins.i3cAddr.isSome = true → 2 ≤ s.dev.phase → s.dev.drain = none →
     exec (.i3cPackageReset 0xA5) s = .next (s.withDev ({ (s.dev.emit (.serial [0])) with drain := some (s.dev.time, 5, 0xFF) }))) ∧
  (∀ (s : State) (d : BitVec 8), s.dev.mgmtRuns = true → s.dev.pins.i3cAddr.isSome = true → 2 ≤ s.dev.phase → d.toNat < 11 →
     exec (.i3cDieReset 0xA5 d) s = .next (s.withDev ((s.dev.emit (.serial [0])).dieReset d.toNat 4 0))) ∧
  (∀ (s : State) (key p d : BitVec 8), s.dev.mgmtRuns = true → s.dev.pins.i3cAddr.isSome = true → 2 ≤ s.dev.phase → (key == 0xA5) = false →
     exec (.i3cPartitionReset key p) s = .next (s.withDev (s.dev.emit (.serial [1]))) ∧
     exec (.i3cPackageReset key) s = .next (s.withDev (s.dev.emit (.serial [1]))) ∧
     exec (.i3cDieReset key d) s = .next (s.withDev (s.dev.emit (.serial [1])))) ∧
  (∀ (s : State) (p : PartIx) (package : Bool) (data : List Byte), s.dev.mgmtRuns = true → dataShape data = true →
     s.dev.pins.i3cAddr.isSome = true → 2 ≤ s.dev.phase →
     exec (.i3cAttest p package data) s = .next (s.withDev (s.dev.i3cAttest (if package then none else some p.val) data))) ∧
  (∀ (s : State) (eid : Byte), s.dev.mgmtRuns = true → s.dev.pins.i3cAddr.isSome = true → 2 ≤ s.dev.phase → eid ≠ 0 → eid ≠ 0xFF →
     exec (.mctpControl (.setEndpointId eid)) s = .next (s.withDev
       (({ s.dev with pins := { s.dev.pins with eid := eid.toNat } } : Dev).emit (.serial [0, 0, eid, 0]))) ∧
     exec (.mctpControl .getEndpointId) s = .next (s.withDev (s.dev.emit (.serial [0, BitVec.ofNat 8 s.dev.pins.eid, 0, 0]))) ∧
     exec (.mctpControl .getMessageTypes) s = .next (s.withDev (s.dev.emit (.serial [0, 3, 0, 1, 0x7E])))) ∧
  (∀ (s : State) (x : Sensor), s.dev.mgmtRuns = true → s.dev.pins.i3cAddr.isSome = true → 2 ≤ s.dev.phase →
     exec (.pldmRequest x) s = .next (s.withDev (s.dev.emit (.serial (leBytes 4 (match x with
       | .tmax d => s.dev.fld F.THERM_STATUS_TMAX d
       | .railVoltage n => s.dev.fld F.RAIL_STATUS_VR_VOUT n
       | .railCurrent n => s.dev.fld F.RAIL_STATUS_VR_IOUT n
       | .packagePower => ((List.range 40).map (fun n => s.dev.fld F.RAIL_STATUS_VR_POUT n)).sum))))))

/-- The TAP's instructions (R560, R561). The model's own choices that it may rest on: log entry 75. -/
def Obligations.TapInstructionsTakeEffect : Prop :=
  (∀ (s : State), exec .bypass s = .next (s.withDev { s.dev with pins := { s.dev.pins with tapIr := 0 } })) ∧
  (∀ (s : State), exec .idcode s = .next (s.withDev (({ s.dev with pins := { s.dev.pins with tapIr := 1 } } : Dev).emit (.scan 0x10900B67)))) ∧
  (∀ (s : State) (v : Word), exec (.samplePreload v) s = .next (s.withDev (
       ({ s.dev with draws := s.dev.draws + 1, pins := { s.dev.pins with tapIr := 2, bsr := v.toNat } } : Dev).emit
         (.scan (Config.freeValue s.dev.draws % 2 ^ 64))))) ∧
  (∀ (s : State) (v : Word), (s.dev.phase = 8 ∨ s.dev.phase = 9) →
     exec (.extest v) s = .next (s.withDev (
       ({ s.dev with draws := s.dev.draws + 1, pins := { s.dev.pins with tapIr := 3, bsr := v.toNat } } : Dev).emit
         (.scan (Config.freeValue s.dev.draws % 2 ^ 64))))) ∧
  (∀ (s : State) (v : Word), s.dev.phase ≠ 8 → s.dev.phase ≠ 9 →
     exec (.extest v) s = .next (s.withDev { s.dev with pins := { s.dev.pins with tapIr := 3 } })) ∧
  (∀ (s : State), exec .clamp s = .next (s.withDev { s.dev with pins := { s.dev.pins with tapIr := 4 } })) ∧
  (∀ (s : State), exec .highz s = .next (s.withDev { s.dev with pins := { s.dev.pins with tapIr := 5 } }))

/-- A step runs the command at the front of the queue, and an idle step is one REFCLK cycle (R18, R62). The model's own choices that it may rest on: log entry 1. -/
def Obligations.StepRunsTheFrontCommand : Prop :=
  (∀ (c : Instr) (rest : List Instr) (s : State), s.pending = c :: rest → step s = exec c { s with pending := rest }) ∧
  (∀ (s : State), s.pending = [] → step s = .next (s.withDev s.dev.tick))

/-- What power-on reset leaves (R20, R86, R313). The model's own choices that it may rest on: log entries 5, 6, 96. -/
def Obligations.ResetLeavesTheDevice : Prop :=
  State.reset.pending = [] ∧ (∀ (r : RegName) (i : Nat), State.reset.dev.reg r i = BitVec.ofNat 64 r.resetValue) ∧
  State.reset.dev.mem.cells = [] ∧ State.reset.dev.mem.wf = true ∧ State.reset.dev.net = [] ∧ State.reset.dev.out = [] ∧
  State.reset.dev.pins.pwrgood = false ∧ State.reset.dev.clocked = false ∧
  State.reset.fuses.rollback = 0 ∧ State.reset.fuses.revoked = 0 ∧ State.reset.fuses.attNext = 0 ∧ FusesGrown .made State.reset.fuses

/-- Every well-formed command completes, and an ill-formed one stops by name (R18, R72, R321). The model's own choices that it may rest on: log entry 9. -/
def Obligations.ShapesDecideCompletion : Prop :=
  (∀ (c : Instr) (s : State), c.wf = true → ∃ t, exec c s = .next t) ∧
  (∀ (c : Instr) (s : State), c.wf = false → exec c s = .fault .illFormed)

/-- No command touches the queue of waiting commands, and a step takes one (R18). The model's own choices that it may rest on: log entry 1. -/
def Obligations.CommandsKeepTheQueue : Prop :=
  (∀ (c : Instr) (s t : State), exec c s = .next t → t.pending = s.pending) ∧
  (∀ (s t : State), step s = .next t → t.pending = s.pending.tail)

/-- With its clocks stopped the device does nothing but at its pins and in MGMT (R28, R62, R108, R524). The model's own choices that it may rest on: log entry 3. -/
def Obligations.StoppedClocksFreezeTheDevice : Prop :=
  (∀ (c : Instr) (s : State), c.wf = true → c.atPins = false → c.byMgmt = false → s.dev.clocked = false → exec c s = .next s) ∧
  (∀ (c : Instr) (s : State), c.wf = true → c.byMgmt = true → s.dev.mgmtRuns = false → exec c s = .next s) ∧
  (∀ (s : State), s.pending = [] → s.dev.mgmtRuns = false → step s = .next s)

/-- The fuses of a part only grow (R86, R95, R111). The model's own choices that it may rest on: log entry 5. -/
def Obligations.FusesOnlyGrow : Prop :=
  ∀ (f : Fuses) (s t : State), FusesGrown f s.fuses → step s = .next t → FusesGrown f t.fuses

/-- Only the commands the spec lets burn fuses change them (R86, R95, R111). -/
def Obligations.OnlyBurningCommandsMoveFuses : Prop :=
  ∀ (c : Instr) (s t : State), c.burns = false → exec c s = .next t → t.fuses = s.fuses

/-- A register write that the check of its block refuses changes nothing (R56, R57, R81). The model's own choices that it may rest on: log entries 10, 97. -/
def Obligations.RefusedWritesChangeNothing : Prop :=
  ∀ (c : Instr) (s : State) (who : Who) (r : RegId), c.writes = some (who, r) → s.dev.clocked = true → s.dev.refusesPerm who r = true →
    ∃ t, exec c s = .next t ∧ t.dev = s.dev.emit (.ctrl who .perm none) ∧ t.pending = s.pending

/-- A plain register write does to each field what its access code says (R14, R10, R17, R107). The model's own choices that it may rest on: log entry 4. -/
def Obligations.RegisterFieldsTakeWrites : Prop :=
  (∀ (s : Dev) (r : RegId) (w : Word) (f : FieldRow), f ∈ r.name.fields →
     let fl : Fld := ⟨r.name, f.lo, f.width⟩
     (s.storeReg r w).fld fl r.ix = (match f.acc with
       | .rw => if f.least ≤ fl.get w ∧ fl.get w ≤ f.most then fl.get w else s.fld fl r.ix
       | .w1c => s.fld fl r.ix &&& (2 ^ f.width - 1 - fl.get w)
       | .w1s => s.fld fl r.ix ||| fl.get w
       | _ => s.fld fl r.ix)) ∧
  (∀ (s : Dev) (r : RegId) (f : FieldRow), f ∈ r.name.fields →
     let fl : Fld := ⟨r.name, f.lo, f.width⟩
     fl.get (s.readReg r) = if f.acc = .wo then 0 else s.fld fl r.ix) ∧
  (∀ (s : Dev) (r : RegId) (w : Word) (k : Nat), k < 64 → (∀ f ∈ r.name.fields, k < f.lo ∨ f.lo + f.width ≤ k) →
     ((s.storeReg r w).reg r.name r.ix).getLsbD k = (s.reg r.name r.ix).getLsbD k) ∧
  (∀ (s : Dev) (r q : RegId) (w : Word), q.key ≠ r.key → (s.storeReg r w).reg q.name q.ix = s.reg q.name q.ix ∧ (s.storeReg r w).mem = s.mem)

/-- The check symbols of a code word (R306). -/
def Obligations.CheckSymbolsOfAWord : Prop :=
  (∀ (d : Word) (F : BitVec 16),
     let P := (List.range 8).foldl (fun acc i => acc ^^^ wordByte d i) (F.setWidth 8)
     let Q := (List.range 8).foldl (fun acc i => acc ^^^ gfShift i (wordByte d i)) ((F >>> 8).setWidth 8)
     ∃ c8 c9 : Byte, encodeSymbols d F = (List.range 8).map (wordByte d) ++ [c8, c9] ∧
       gfMul c8 (gfShift 8 1 ^^^ gfShift 9 1) = Q ^^^ gfShift 9 P ∧ c9 = P ^^^ c8 ∧
       (encodeSymbols d F).foldl (· ^^^ ·) (F.setWidth 8) = 0 ∧
       (List.range 10).foldl (fun acc i => acc ^^^ gfShift i (((encodeSymbols d F)[i]?).getD 0)) ((F >>> 8).setWidth 8) = 0) ∧
  ((∀ a : Byte, (gfDouble a).toNat = if 2 * a.toNat < 256 then 2 * a.toNat else (2 * a.toNat) ^^^ 0x11D) ∧
   (∀ a b c : Byte, gfMul (a ^^^ b) c = gfMul a c ^^^ gfMul b c ∧ gfMul (gfDouble a) b = gfDouble (gfMul a b) ∧ gfMul a b = gfMul b a ∧ gfMul 1 a = a) ∧
   (∀ a : Byte, a ≠ 0 → gfMul a (gfInv a) = 1))

/-- The fold of a stored word (R307). -/
def Obligations.FoldOfAWord : Prop :=
  (∀ (s : Dev) (ch off : Nat), ch < 256 → off < 2 ^ 33 →
     s.foldOf (ch * 2 ^ 30 + off / 8) = (
       let h := mix (BitVec.ofNat 64 ((ch <<< 40) ||| (off >>> 3)))
       (h.setWidth 8).setWidth 16 ||| ((((h >>> 8).setWidth 8 ^^^ BitVec.ofNat 8 (s.fld F.CH_GEN_WGEN ch)).setWidth 16) <<< 8))) ∧
  (∀ (s : Dev) (off : Nat), off < 2 ^ 43 →
     s.foldOf (2 ^ 38 + off / 8) = (
       let h := mix (BitVec.ofNat 64 ((1 <<< 48) ||| (off >>> 3)))
       (h.setWidth 8).setWidth 16 ||| ((((h >>> 8).setWidth 8 ^^^ BitVec.ofNat 8 (s.ugenOf (off / 2 ^ 30))).setWidth 16) <<< 8))) ∧
  (∀ (s : Dev) (w : Nat), 2 ^ 41 ≤ w → s.foldOf w = 0)

/-- The class of a word read (R308). -/
def Obligations.ReadsAreClassified : Prop :=
  ∀ (sy : List Byte) (F : BitVec 16) (S0 S1 : Byte), sy.length = 10 →
    S0 = sy.foldl (· ^^^ ·) (F.setWidth 8) →
    S1 = (List.range 10).foldl (fun acc i => acc ^^^ gfShift i ((sy[i]?).getD 0)) ((F >>> 8).setWidth 8) →
    (S0 = 0 ∧ S1 = 0 ∧ classify sy F = (.clean, sy)) ∨
    (S0 = 0 ∧ S1 ≠ 0 ∧ classify sy F = (.stale, sy)) ∨
    (S0 ≠ 0 ∧ S1 = 0 ∧ classify sy F = (.uncorrectable, sy)) ∨
    (S0 ≠ 0 ∧ ∃ L < 255, gfShift L S0 = S1 ∧ (∀ M < 255, gfShift M S0 = S1 → M = L) ∧
      (9 < L → classify sy F = (.uncorrectable, sy)) ∧
      (L ≤ 9 → (∃ k < 8, S0 = 1#8 <<< k) → classify sy F = (.correctedBit L, sy.set L (((sy[L]?).getD 0) ^^^ S0))) ∧
      (L ≤ 9 → ¬ (∃ k < 8, S0 = 1#8 <<< k) → classify sy F = (.correctedSymbol L, sy.set L (((sy[L]?).getD 0) ^^^ S0))))

/-- Every error within one symbol of a stored word is corrected exactly, and damage to two is never taken for a clean word (R305, R306, R308, R309). -/
def Obligations.SingleSymbolErrorsAreCorrected : Prop :=
  (∀ (d : Word) (F : BitVec 16), classify (encodeSymbols d F) F = (.clean, encodeSymbols d F) ∧ dataOf (encodeSymbols d F) = d) ∧
  (∀ (d : Word) (F : BitVec 16) (i : Nat) (x : Byte), i < 10 → x ≠ 0 →
     ((classify ((encodeSymbols d F).set i (((encodeSymbols d F)[i]?).getD 0 ^^^ x)) F).1 = .correctedBit i ∨
      (classify ((encodeSymbols d F).set i (((encodeSymbols d F)[i]?).getD 0 ^^^ x)) F).1 = .correctedSymbol i) ∧
     dataOf (classify ((encodeSymbols d F).set i (((encodeSymbols d F)[i]?).getD 0 ^^^ x)) F).2 = d) ∧
  (∀ (d : Word) (w g h : Nat), w < 2 ^ 41 → g < 256 → h < 256 → g ≠ h → (classify (encodeSymbols d (foldGen w g)) (foldGen w h)).1 = .stale) ∧
  (∀ (d : Word) (F : BitVec 16) (i j : Nat) (x y : Byte), i < 10 → j < 10 → i ≠ j → x ≠ 0 → y ≠ 0 →
     (classify (((encodeSymbols d F).set i (((encodeSymbols d F)[i]?).getD 0 ^^^ x)).set j (((encodeSymbols d F)[j]?).getD 0 ^^^ y)) F).1 ≠ .clean)

/-- A stored word reads as it was written, and other words as before (R305, R306, R312). The model's own choices that it may rest on: log entry 96. -/
def Obligations.WordsReadAsWritten : Prop :=
  (∀ (s : Dev) (w : Nat) (v : Word), (s.writeWord w v).readWord w = (.clean, v)) ∧
  (∀ (s : Dev) (w u : Nat) (v : Word), u ≠ w → (s.writeWord w v).readWord u = s.readWord u) ∧
  (∀ (s : Dev) (w : Nat) (v : Word), s.mem.wf = true → (s.writeWord w v).mem.wf = true ∧ { s.writeWord w v with mem := s.mem } = s)

/-- Every code of every element format of one part is the code of its value (R154, R155, R156). -/
def Obligations.FormatCodesRoundTrip : Prop :=
  ∀ (f : Fmt) (c : Nat), f ≠ .pair16 → c < 2 ^ f.bits → f.decode c ≠ .nan → f.codeOf (f.decode c) = c

end
end

