-- ==== Sys2Proof/Laws/Exec.lean ====
section
/-! SUPPORT. The meaning that each command has: one equation for each constructor, so that no proof unfolds the dispatch. -/

namespace Sys2Proof.Machine

open Sys2Proof

@[simp] theorem exec_pwrgoodRise (bootSrc i3cSa : Fin 4) (s : State) :
    exec (.pwrgoodRise bootSrc i3cSa) s = execPwrgoodRise bootSrc i3cSa s := rfl
@[simp] theorem exec_pwrgoodFall (s : State) :
    exec .pwrgoodFall s = execPwrgoodFall s := rfl
@[simp] theorem exec_sysRstNLow (s : State) :
    exec .sysRstNLow s = execSysRstNLow s := rfl
@[simp] theorem exec_perstNLow (s : State) :
    exec .perstNLow s = execPerstNLow s := rfl
@[simp] theorem exec_perstNDeassert (s : State) :
    exec .perstNDeassert s = execPerstNDeassert s := rfl
@[simp] theorem exec_fusesLoaded (s : State) :
    exec .fusesLoaded s = execFusesLoaded s := rfl
@[simp] theorem exec_pllLock (d : DieIx) (s : State) :
    exec (.pllLock d) s = execPllLock d s := rfl
@[simp] theorem exec_lockLost (d : DieIx) (s : State) :
    exec (.lockLost d) s = execLockLost d s := rfl
@[simp] theorem exec_dividerStep (d : DieIx) (clk : Fin 3) (s : State) :
    exec (.dividerStep d clk) s = execDividerStep d clk s := rfl
@[simp] theorem exec_imageReadDone (image : Option (Nat × List Byte)) (s : State) :
    exec (.imageReadDone image) s = execImageReadDone image s := rfl
@[simp] theorem exec_bootGo (who : Who) (s : State) :
    exec (.bootGo who) s = execBootGo who s := rfl
@[simp] theorem exec_recordsApplied (differ : List VaultIx) (s : State) :
    exec (.recordsApplied differ) s = execRecordsApplied differ s := rfl
@[simp] theorem exec_stackTrainingDone (d : Fin 8) (absent : List (Fin 2)) (failed : List (Fin 32)) (badSlices : List (Fin 4)) (s : State) :
    exec (.stackTrainingDone d absent failed badSlices) s = execStackTrainingDone d absent failed badSlices s := rfl
@[simp] theorem exec_dimmTrainingDone (spd : List (List DimmSpd)) (s : State) :
    exec (.dimmTrainingDone spd) s = execDimmTrainingDone spd s := rfl
@[simp] theorem exec_firmwareCopyDone (s : State) :
    exec .firmwareCopyDone s = execFirmwareCopyDone s := rfl
@[simp] theorem exec_attestLeafReserve (readbacks : List Bool) (s : State) :
    exec (.attestLeafReserve readbacks) s = execAttestLeafReserve readbacks s := rfl
@[simp] theorem exec_release (s : State) :
    exec .release s = execRelease s := rfl
@[simp] theorem exec_level1Certified (s : State) :
    exec .level1Certified s = execLevel1Certified s := rfl
@[simp] theorem exec_reloadGo (who : Who) (s : State) :
    exec (.reloadGo who) s = execReloadGo who s := rfl
@[simp] theorem exec_reloadVerifyDone (s : State) :
    exec .reloadVerifyDone s = execReloadVerifyDone s := rfl
@[simp] theorem exec_reloadLoadingDone (differ : Bool) (s : State) :
    exec (.reloadLoadingDone differ) s = execReloadLoadingDone differ s := rfl
@[simp] theorem exec_linkTrainingStart (e : LinkEnd) (s : State) :
    exec (.linkTrainingStart e) s = execLinkTrainingStart e s := rfl
@[simp] theorem exec_linkTrainingEnd (e : LinkEnd) (good : BitVec 34) (rtt : Nat) (late : Bool) (rails : List Nat) (s : State) :
    exec (.linkTrainingEnd e good rtt late rails) s = execLinkTrainingEnd e good rtt late rails s := rfl
@[simp] theorem exec_laneLockLoss (e : LinkEnd) (lane : Fin 34) (s : State) :
    exec (.laneLockLoss e lane) s = execLaneLockLoss e lane s := rfl
@[simp] theorem exec_laneErrWindowEnd (e : LinkEnd) (s : State) :
    exec (.laneErrWindowEnd e) s = execLaneErrWindowEnd e s := rfl
@[simp] theorem exec_flitReceive (e : LinkEnd) (f : Flit) (s : State) :
    exec (.flitReceive e f) s = execFlitReceive e f s := rfl
@[simp] theorem exec_linkRetrain (who : Who) (e : LinkEnd) (s : State) :
    exec (.linkRetrain who e) s = execLinkRetrain who e s := rfl
@[simp] theorem exec_registerWrite (who : Who) (off : BitVec 32) (w : Word) (s : State) :
    exec (.registerWrite who off w) s = execRegisterWrite who off w s := rfl
@[simp] theorem exec_nop (q : QueueIx) (s : State) :
    exec (.nop q) s = execNop q s := rfl
@[simp] theorem exec_setSeed (q : QueueIx) (s : State) :
    exec (.setSeed q) s = execSetSeed q s := rfl
@[simp] theorem exec_matmul (a : ArrayIx) (s : State) :
    exec (.matmul a) s = execMatmul a s := rfl
@[simp] theorem exec_conv (a : ArrayIx) (s : State) :
    exec (.conv a) s = execConv a s := rfl
@[simp] theorem exec_vxEw (c : ClusterIx) (s : State) :
    exec (.vxEw c) s = execVxEw c s := rfl
@[simp] theorem exec_vxAct (c : ClusterIx) (s : State) :
    exec (.vxAct c) s = execVxAct c s := rfl
@[simp] theorem exec_vxReduce (c : ClusterIx) (s : State) :
    exec (.vxReduce c) s = execVxReduce c s := rfl
@[simp] theorem exec_vxSoftmax (c : ClusterIx) (s : State) :
    exec (.vxSoftmax c) s = execVxSoftmax c s := rfl
@[simp] theorem exec_vxNorm (c : ClusterIx) (s : State) :
    exec (.vxNorm c) s = execVxNorm c s := rfl
@[simp] theorem exec_vxOptim (c : ClusterIx) (s : State) :
    exec (.vxOptim c) s = execVxOptim c s := rfl
@[simp] theorem exec_spGather (c : ClusterIx) (s : State) :
    exec (.spGather c) s = execSpGather c s := rfl
@[simp] theorem exec_spScatter (c : ClusterIx) (s : State) :
    exec (.spScatter c) s = execSpScatter c s := rfl
@[simp] theorem exec_spEmbed (c : ClusterIx) (s : State) :
    exec (.spEmbed c) s = execSpEmbed c s := rfl
@[simp] theorem exec_spSpmv (c : ClusterIx) (s : State) :
    exec (.spSpmv c) s = execSpSpmv c s := rfl
@[simp] theorem exec_tbPartition (g : RegionIx) (s : State) :
    exec (.tbPartition g) s = execTbPartition g s := rfl
@[simp] theorem exec_tbAggregate (g : RegionIx) (s : State) :
    exec (.tbAggregate g) s = execTbAggregate g s := rfl
@[simp] theorem exec_cdCompress (g : RegionIx) (s : State) :
    exec (.cdCompress g) s = execCdCompress g s := rfl
@[simp] theorem exec_cdDecompress (g : RegionIx) (s : State) :
    exec (.cdDecompress g) s = execCdDecompress g s := rfl
@[simp] theorem exec_mvCopy (c : ClusterIx) (s : State) :
    exec (.mvCopy c) s = execMvCopy c s := rfl
@[simp] theorem exec_mvFill (c : ClusterIx) (s : State) :
    exec (.mvFill c) s = execMvFill c s := rfl
@[simp] theorem exec_mvPages (c : ClusterIx) (s : State) :
    exec (.mvPages c) s = execMvPages c s := rfl
@[simp] theorem exec_mxaTileStart (a : ArrayIx) (s : State) :
    exec (.mxaTileStart a) s = execMxaTileStart a s := rfl
@[simp] theorem exec_mxaPassEnd (a : ArrayIx) (staged : Bool) (s : State) :
    exec (.mxaPassEnd a staged) s = execMxaPassEnd a staged s := rfl
@[simp] theorem exec_mxaWeightsAvailable (a : ArrayIx) (s : State) :
    exec (.mxaWeightsAvailable a) s = execMxaWeightsAvailable a s := rfl
@[simp] theorem exec_mxaHoldLimitExpire (a : ArrayIx) (s : State) :
    exec (.mxaHoldLimitExpire a) s = execMxaHoldLimitExpire a s := rfl
@[simp] theorem exec_mxaSelftestRequest (who : Who) (c : ClusterIx) (w : Word) (s : State) :
    exec (.mxaSelftestRequest who c w) s = execMxaSelftestRequest who c w s := rfl
@[simp] theorem exec_mxaSelftestBegin (a : ArrayIx) (s : State) :
    exec (.mxaSelftestBegin a) s = execMxaSelftestBegin a s := rfl
@[simp] theorem exec_mxaSelftestEnd (a : ArrayIx) (good : Bool) (s : State) :
    exec (.mxaSelftestEnd a good) s = execMxaSelftestEnd a good s := rfl
@[simp] theorem exec_mxaPowerGate (a : ArrayIx) (s : State) :
    exec (.mxaPowerGate a) s = execMxaPowerGate a s := rfl
@[simp] theorem exec_mxaPowerUpDone (a : ArrayIx) (s : State) :
    exec (.mxaPowerUpDone a) s = execMxaPowerUpDone a s := rfl
@[simp] theorem exec_selftestDue (a : ArrayIx) (s : State) :
    exec (.selftestDue a) s = execSelftestDue a s := rfl
@[simp] theorem exec_padRead (c : ClusterIx) (off : Fin 4194304) (arr : Option (Fin 4)) (s : State) :
    exec (.padRead c off arr) s = execPadRead c off arr s := rfl
@[simp] theorem exec_engineTileTake (t : TileSeek) (s : State) :
    exec (.engineTileTake t) s = execEngineTileTake t s := rfl
@[simp] theorem exec_tileSteal (t : TileSeek) (s : State) :
    exec (.tileSteal t) s = execTileSteal t s := rfl
@[simp] theorem exec_tableQueueTake (u : Fin 64) (s : State) :
    exec (.tableQueueTake u) s = execTableQueueTake u s := rfl
@[simp] theorem exec_mveStageWrite (who : Who) (c : ClusterIx) (w : Word) (s : State) :
    exec (.mveStageWrite who c w) s = execMveStageWrite who c w s := rfl
@[simp] theorem exec_stageSplitEffect (c : ClusterIx) (s : State) :
    exec (.stageSplitEffect c) s = execStageSplitEffect c s := rfl
@[simp] theorem exec_engineResponseError (e : Fin 960) (code : Resp) (addr : Word) (s : State) :
    exec (.engineResponseError e code addr) s = execEngineResponseError e code addr s := rfl
@[simp] theorem exec_tbeLockstepMismatch (g : RegionIx) (s : State) :
    exec (.tbeLockstepMismatch g) s = execTbeLockstepMismatch g s := rfl
@[simp] theorem exec_doorbell (who : Who) (q : QueueIx) (v : Word) (s : State) :
    exec (.doorbell who q v) s = execDoorbell who q v s := rfl
@[simp] theorem exec_descriptorFetch (q : QueueIx) (s : State) :
    exec (.descriptorFetch q) s = execDescriptorFetch q s := rfl
@[simp] theorem exec_descriptorAccept (q : QueueIx) (s : State) :
    exec (.descriptorAccept q) s = execDescriptorAccept q s := rfl
@[simp] theorem exec_falseStartReread (q : QueueIx) (s : State) :
    exec (.falseStartReread q) s = execFalseStartReread q s := rfl
@[simp] theorem exec_falseStartStop (q : QueueIx) (s : State) :
    exec (.falseStartStop q) s = execFalseStartStop q s := rfl
@[simp] theorem exec_queueResume (who : Who) (q : QueueIx) (s : State) :
    exec (.queueResume who q) s = execQueueResume who q s := rfl
@[simp] theorem exec_queueSkip (who : Who) (q : QueueIx) (resume : Bool) (s : State) :
    exec (.queueSkip who q resume) s = execQueueSkip who q resume s := rfl
@[simp] theorem exec_queueEnable (who : Who) (q : QueueIx) (cfg : Word) (s : State) :
    exec (.queueEnable who q cfg) s = execQueueEnable who q cfg s := rfl
@[simp] theorem exec_queueDisable (who : Who) (q : QueueIx) (cfg : Word) (s : State) :
    exec (.queueDisable who q cfg) s = execQueueDisable who q cfg s := rfl
@[simp] theorem exec_tileIssue (q : QueueIx) (s : State) :
    exec (.tileIssue q) s = execTileIssue q s := rfl
@[simp] theorem exec_hurdleArrive (q : QueueIx) (s : State) :
    exec (.hurdleArrive q) s = execHurdleArrive q s := rfl
@[simp] theorem exec_hurdlePoll (q : QueueIx) (s : State) :
    exec (.hurdlePoll q) s = execHurdlePoll q s := rfl
@[simp] theorem exec_hurdleExpire (q : QueueIx) (s : State) :
    exec (.hurdleExpire q) s = execHurdleExpire q s := rfl
@[simp] theorem exec_tokenWrite (who : Who) (g : RegionIx) (t : Fin 4096) (v : Word) (s : State) :
    exec (.tokenWrite who g t v) s = execTokenWrite who g t v s := rfl
@[simp] theorem exec_descriptorComplete (q : QueueIx) (s : State) :
    exec (.descriptorComplete q) s = execDescriptorComplete q s := rfl
@[simp] theorem exec_completionRecordWrite (q : QueueIx) (s : State) :
    exec (.completionRecordWrite q) s = execCompletionRecordWrite q s := rfl
@[simp] theorem exec_msiHoldoffExpire (q : QueueIx) (s : State) :
    exec (.msiHoldoffExpire q) s = execMsiHoldoffExpire q s := rfl
@[simp] theorem exec_cqHeadWrite (who : Who) (q : QueueIx) (v : Word) (s : State) :
    exec (.cqHeadWrite who q v) s = execCqHeadWrite who q v s := rfl
@[simp] theorem exec_partResetRequest (who : Who) (p : PartIx) (s : State) :
    exec (.partResetRequest who p) s = execPartResetRequest who p s := rfl
@[simp] theorem exec_quiesceDone (p : PartIx) (s : State) :
    exec (.quiesceDone p) s = execQuiesceDone p s := rfl
@[simp] theorem exec_quiesceLimitExpire (p : PartIx) (hung : List CoreIx) (s : State) :
    exec (.quiesceLimitExpire p hung) s = execQuiesceLimitExpire p hung s := rfl
@[simp] theorem exec_partResetDone (p : PartIx) (s : State) :
    exec (.partResetDone p) s = execPartResetDone p s := rfl
@[simp] theorem exec_runSlotGrant (p : PartIx) (s : State) :
    exec (.runSlotGrant p) s = execRunSlotGrant p s := rfl
@[simp] theorem exec_lapEnd (c : CtxIx) (s : State) :
    exec (.lapEnd c) s = execLapEnd c s := rfl
@[simp] theorem exec_preemptGraceExpire (c : CtxIx) (s : State) :
    exec (.preemptGraceExpire c) s = execPreemptGraceExpire c s := rfl
@[simp] theorem exec_saveAreaWriteDone (c : CtxIx) (s : State) :
    exec (.saveAreaWriteDone c) s = execSaveAreaWriteDone c s := rfl
@[simp] theorem exec_restoreReadDone (c : CtxIx) (s : State) :
    exec (.restoreReadDone c) s = execRestoreReadDone c s := rfl
@[simp] theorem exec_ctxHold (who : Who) (c : CtxIx) (w : Word) (s : State) :
    exec (.ctxHold who c w) s = execCtxHold who c w s := rfl
@[simp] theorem exec_ctxRelease (who : Who) (c : CtxIx) (w : Word) (s : State) :
    exec (.ctxRelease who c w) s = execCtxRelease who c w s := rfl
@[simp] theorem exec_ctxClear (who : Who) (c : CtxIx) (w : Word) (s : State) :
    exec (.ctxClear who c w) s = execCtxClear who c w s := rfl
@[simp] theorem exec_ctxDisable (who : Who) (c : CtxIx) (w : Word) (s : State) :
    exec (.ctxDisable who c w) s = execCtxDisable who c w s := rfl
@[simp] theorem exec_contextDrained (c : CtxIx) (s : State) :
    exec (.contextDrained c) s = execContextDrained c s := rfl
@[simp] theorem exec_drainLimitExpire (c : CtxIx) (s : State) :
    exec (.drainLimitExpire c) s = execDrainLimitExpire c s := rfl
@[simp] theorem exec_pacerArm (who : Who) (c : CtxIx) (w : Word) (s : State) :
    exec (.pacerArm who c w) s = execPacerArm who c w s := rfl
@[simp] theorem exec_pacerPoll (c : CtxIx) (s : State) :
    exec (.pacerPoll c) s = execPacerPoll c s := rfl
@[simp] theorem exec_t1ChannelAccess (ch : ChanIx) (arrive : List ChReq) (upset : List (Nat × Nat × Byte)) (s : State) :
    exec (.t1ChannelAccess ch arrive upset) s = execT1ChannelAccess ch arrive upset s := rfl
@[simp] theorem exec_t2ChannelAccess (m : DimmIx) (arrive : List ChReq) (upset : List (Nat × Nat × Byte)) (s : State) :
    exec (.t2ChannelAccess m arrive upset) s = execT2ChannelAccess m arrive upset s := rfl
@[simp] theorem exec_ageFallback (ctl : CtlIx) (s : State) :
    exec (.ageFallback ctl) s = execAgeFallback ctl s := rfl
@[simp] theorem exec_patrolScrub (ctl : CtlIx) (upset : List (Nat × Byte)) (s : State) :
    exec (.patrolScrub ctl upset) s = execPatrolScrub ctl upset s := rfl
@[simp] theorem exec_channelMapout (who : Who) (ch : ChanIx) (s : State) :
    exec (.channelMapout who ch) s = execChannelMapout who ch s := rfl
@[simp] theorem exec_mapoutComplete (p : PartIx) (s : State) :
    exec (.mapoutComplete p) s = execMapoutComplete p s := rfl
@[simp] theorem exec_dimmTempRead (m : DimmIx) (temp : Int) (s : State) :
    exec (.dimmTempRead m temp) s = execDimmTempRead m temp s := rfl
@[simp] theorem exec_hotDecay (m : DimmIx) (s : State) :
    exec (.hotDecay m) s = execHotDecay m s := rfl
@[simp] theorem exec_scRequest (g : RegionIx) (chan : Fin 8) (blk : Nat) (r : ScReq) (fault : Fin 4) (s : State) :
    exec (.scRequest g chan blk r fault) s = execScRequest g chan blk r fault s := rfl
@[simp] theorem exec_scFill (g : RegionIx) (chan : Fin 8) (blk : Nat) (s : State) :
    exec (.scFill g chan blk) s = execScFill g chan blk s := rfl
@[simp] theorem exec_scPrefetchFill (g : RegionIx) (chan : Fin 8) (blk : Nat) (s : State) :
    exec (.scPrefetchFill g chan blk) s = execScPrefetchFill g chan blk s := rfl
@[simp] theorem exec_scPreloadGo (who : Who) (g : RegionIx) (s : State) :
    exec (.scPreloadGo who g) s = execScPreloadGo who g s := rfl
@[simp] theorem exec_scPreloadDone (g : RegionIx) (s : State) :
    exec (.scPreloadDone g) s = execScPreloadDone g s := rfl
@[simp] theorem exec_scUnlock (who : Who) (g : RegionIx) (s : State) :
    exec (.scUnlock who g) s = execScUnlock who g s := rfl
@[simp] theorem exec_scWayWindow (g : RegionIx) (s : State) :
    exec (.scWayWindow g) s = execScWayWindow g s := rfl
@[simp] theorem exec_scWayPowerDownDone (g : RegionIx) (way : Fin 16) (s : State) :
    exec (.scWayPowerDownDone g way) s = execScWayPowerDownDone g way s := rfl
@[simp] theorem exec_epochWrite (who : Who) (p : PartIx) (epoch : BitVec 16) (s : State) :
    exec (.epochWrite who p epoch) s = execEpochWrite who p epoch s := rfl
@[simp] theorem exec_rdShared (core : CoreIx) (line : NetLine) (s : State) :
    exec (.rdShared core line) s = execRdShared core line s := rfl
@[simp] theorem exec_rdUnique (core : CoreIx) (line : NetLine) (s : State) :
    exec (.rdUnique core line) s = execRdUnique core line s := rfl
@[simp] theorem exec_upgrade (core : CoreIx) (line : NetLine) (s : State) :
    exec (.upgrade core line) s = execUpgrade core line s := rfl
@[simp] theorem exec_makeUnique (core : CoreIx) (line : NetLine) (s : State) :
    exec (.makeUnique core line) s = execMakeUnique core line s := rfl
@[simp] theorem exec_rdOnce (src : Agent) (tag : Nat) (line : NetLine) (part ctx : Option Nat) (hint : Hint) (mask : BitVec 64) (s : State) :
    exec (.rdOnce src tag line part ctx hint mask) s = execRdOnce src tag line part ctx hint mask s := rfl
@[simp] theorem exec_wrLine (src : Agent) (tag : Nat) (line : NetLine) (part ctx : Option Nat) (hint : Hint) (data : Line) (s : State) :
    exec (.wrLine src tag line part ctx hint data) s = execWrLine src tag line part ctx hint data s := rfl
@[simp] theorem exec_wrPart (src : Agent) (tag : Nat) (line : NetLine) (part ctx : Option Nat) (hint : Hint) (data : Line) (mask : BitVec 64) (s : State) :
    exec (.wrPart src tag line part ctx hint data mask) s = execWrPart src tag line part ctx hint data mask s := rfl
@[simp] theorem exec_atomic (src : Agent) (tag : Nat) (line : NetLine) (part ctx : Option Nat) (op : HintedOp) (data : Line) (mask : BitVec 64) (s : State) :
    exec (.atomic src tag line part ctx op data mask) s = execAtomic src tag line part ctx op data mask s := rfl
@[simp] theorem exec_wbDirty (core : CoreIx) (line : Nat) (s : State) :
    exec (.wbDirty core line) s = execWbDirty core line s := rfl
@[simp] theorem exec_evictClean (core : CoreIx) (line : Nat) (s : State) :
    exec (.evictClean core line) s = execEvictClean core line s := rfl
@[simp] theorem exec_lostNote (core : CoreIx) (line : Nat) (s : State) :
    exec (.lostNote core line) s = execLostNote core line s := rfl
@[simp] theorem exec_snpShare (core : CoreIx) (line : SnpLine) (s : State) :
    exec (.snpShare core line) s = execSnpShare core line s := rfl
@[simp] theorem exec_snpInv (core : CoreIx) (line : SnpLine) (s : State) :
    exec (.snpInv core line) s = execSnpInv core line s := rfl
@[simp] theorem exec_snpAck (core : CoreIx) (line : Nat) (s : State) :
    exec (.snpAck core line) s = execSnpAck core line s := rfl
@[simp] theorem exec_snpData (core : CoreIx) (line : Nat) (s : State) :
    exec (.snpData core line) s = execSnpData core line s := rfl
@[simp] theorem exec_grant (core : CoreIx) (line : Nat) (evict : List (Nat × Bool)) (s : State) :
    exec (.grant core line evict) s = execGrant core line evict s := rfl
@[simp] theorem exec_comp (dst : Agent) (line : NetLine) (tag : Nat) (s : State) :
    exec (.comp dst line tag) s = execComp dst line tag s := rfl
@[simp] theorem exec_data (dst : Agent) (line : NetLine) (tag : Nat) (evict : List (Nat × Bool)) (s : State) :
    exec (.data dst line tag evict) s = execData dst line tag evict s := rfl
@[simp] theorem exec_snoopTimeout (h : HomeIx) (line : Nat) (core : CoreIx) (s : State) :
    exec (.snoopTimeout h line core) s = execSnoopTimeout h line core s := rfl
@[simp] theorem exec_reclaimOrder (h : HomeIx) (s : State) :
    exec (.reclaimOrder h) s = execReclaimOrder h s := rfl
@[simp] theorem exec_l2FlushLimitExpire (core : CoreIx) (s : State) :
    exec (.l2FlushLimitExpire core) s = execL2FlushLimitExpire core s := rfl
@[simp] theorem exec_coreLoad (n : CoreAt) (pa : BitVec 56) (size : Fin 9) (pbmt : Fin 4) (bad : Bool) (s : State) :
    exec (.coreLoad n pa size pbmt bad) s = execCoreLoad n pa size pbmt bad s := rfl
@[simp] theorem exec_coreStore (n : CoreAt) (pa : BitVec 56) (data : List Byte) (pbmt : Fin 4) (merge : Bool) (s : State) :
    exec (.coreStore n pa data pbmt merge) s = execCoreStore n pa data pbmt merge s := rfl
@[simp] theorem exec_storePerform (n : CoreIx) (ix : SbPick) (s : State) :
    exec (.storePerform n ix) s = execStorePerform n ix s := rfl
@[simp] theorem exec_wcDrain (n : CoreIx) (ix : Fin 8) (s : State) :
    exec (.wcDrain n ix) s = execWcDrain n ix s := rfl
@[simp] theorem exec_coreFence (n : CoreIx) (pre : FencePre) (sr sw si so : Bool) (s : State) :
    exec (.coreFence n pre sr sw si so) s = execCoreFence n pre sr sw si so s := rfl
@[simp] theorem exec_coreAmo (n : CoreIx) (pa : BitVec 56) (size : Fin 9) (fn : AmoFn) (x : Word) (pbmt : Fin 4) (mark : AmoMark) (s : State) :
    exec (.coreAmo n pa size fn x pbmt mark) s = execCoreAmo n pa size fn x pbmt mark s := rfl
@[simp] theorem exec_coreLr (n : CoreIx) (pa : BitVec 56) (size : Fin 9) (pbmt : Fin 4) (mark : AmoMark) (s : State) :
    exec (.coreLr n pa size pbmt mark) s = execCoreLr n pa size pbmt mark s := rfl
@[simp] theorem exec_coreSc (n : CoreIx) (pa : BitVec 56) (data : List Byte) (pbmt : Fin 4) (mark : AmoMark) (s : State) :
    exec (.coreSc n pa data pbmt mark) s = execCoreSc n pa data pbmt mark s := rfl
@[simp] theorem exec_strictDeviceAccess (n : CoreIx) (lvl : Level) (pa : BitVec 56) (size : Fin 9) (store : Option (BitVec 64)) (s : State) :
    exec (.strictDeviceAccess n lvl pa size store) s = execStrictDeviceAccess n lvl pa size store s := rfl
@[simp] theorem exec_coreTrap (n : CoreIx) (s : State) :
    exec (.coreTrap n) s = execCoreTrap n s := rfl
@[simp] theorem exec_imsicMsi (ix : Nat) (s : State) :
    exec (.imsicMsi ix) s = execImsicMsi ix s := rfl
@[simp] theorem exec_coreWake (n : CoreIx) (s : State) :
    exec (.coreWake n) s = execCoreWake n s := rfl
@[simp] theorem exec_corePowerGate (n : CoreIx) (s : State) :
    exec (.corePowerGate n) s = execCorePowerGate n s := rfl
@[simp] theorem exec_ccDrop (who : Who) (c : ClusterIx) (s : State) :
    exec (.ccDrop who c) s = execCcDrop who c s := rfl
@[simp] theorem exec_ccEnableWrite (who : Who) (c : ClusterIx) (enable : Bool) (s : State) :
    exec (.ccEnableWrite who c enable) s = execCcEnableWrite who c enable s := rfl
@[simp] theorem exec_atcMiss (c : ClusterIx) (ctx : CtxIx) (va : Word) (tag : Nat) (need : Right) (s : State) :
    exec (.atcMiss c ctx va tag need) s = execAtcMiss c ctx va tag need s := rfl
@[simp] theorem exec_htuWalk (c : ClusterIx) (ctx : CtxIx) (vpage : Nat) (s : State) :
    exec (.htuWalk c ctx vpage) s = execHtuWalk c ctx vpage s := rfl
@[simp] theorem exec_walkDone (c : ClusterIx) (ctx : CtxIx) (vpage : Nat) (s : State) :
    exec (.walkDone c ctx vpage) s = execWalkDone c ctx vpage s := rfl
@[simp] theorem exec_prHeadWrite (who : Who) (p : PartIx) (head : BitVec 32) (s : State) :
    exec (.prHeadWrite who p head) s = execPrHeadWrite who p head s := rfl
@[simp] theorem exec_prRespRetry (who : Who) (p : PartIx) (id : BitVec 8) (s : State) :
    exec (.prRespRetry who p id) s = execPrRespRetry who p id s := rfl
@[simp] theorem exec_prRespFail (who : Who) (p : PartIx) (id : BitVec 8) (s : State) :
    exec (.prRespFail who p id) s = execPrRespFail who p id s := rfl
@[simp] theorem exec_prLimitExpire (p : PartIx) (ix : Fin 64) (s : State) :
    exec (.prLimitExpire p ix) s = execPrLimitExpire p ix s := rfl
@[simp] theorem exec_invalidationGo (who : Who) (p : PartIx) (ctrl : Word) (s : State) :
    exec (.invalidationGo who p ctrl) s = execInvalidationGo who p ctrl s := rfl
@[simp] theorem exec_atcInvAck (p : PartIx) (c : ClusterIx) (s : State) :
    exec (.atcInvAck p c) s = execAtcInvAck p c s := rfl
@[simp] theorem exec_invalidationLate (p : PartIx) (s : State) :
    exec (.invalidationLate p) s = execInvalidationLate p s := rfl
@[simp] theorem exec_checkFlush (who : Who) (p : PartIx) (s : State) :
    exec (.checkFlush who p) s = execCheckFlush who p s := rfl
@[simp] theorem exec_portTrainingStart (f : FPort) (s : State) :
    exec (.portTrainingStart f) s = execPortTrainingStart f s := rfl
@[simp] theorem exec_echo (f : FPort) (rtt : Nat) (s : State) :
    exec (.echo f rtt) s = execEcho f rtt s := rfl
@[simp] theorem exec_cap (f : FPort) (g : List Byte) (s : State) :
    exec (.cap f g) s = execCap f g s := rfl
@[simp] theorem exec_kx (f : FPort) (p : List Byte) (s : State) :
    exec (.kx f p) s = execKx f p s := rfl
@[simp] theorem exec_portTrainingDone (f : FPort) (good : Fin 32) (late : Bool) (s : State) :
    exec (.portTrainingDone f good late) s = execPortTrainingDone f good late s := rfl
@[simp] theorem exec_frameReceive (f : FPort) (head body : List Byte) (errs : List (Fin 68 × Fin 80)) (rs : List (Fin 5)) (s : State) :
    exec (.frameReceive f head body errs rs) s = execFrameReceive f head body errs rs s := rfl
@[simp] theorem exec_frameSilence (f : FPort) (s : State) :
    exec (.frameSilence f) s = execFrameSilence f s := rfl
@[simp] theorem exec_rekey (f : FPort) (s : State) :
    exec (.rekey f) s = execRekey f s := rfl
@[simp] theorem exec_wavelengthLoss (f : FPort) (w : Fin 5) (s : State) :
    exec (.wavelengthLoss f w) s = execWavelengthLoss f w s := rfl
@[simp] theorem exec_rsErrorWindowEnd (f : FPort) (s : State) :
    exec (.rsErrorWindowEnd f) s = execRsErrorWindowEnd f s := rfl
@[simp] theorem exec_portRetrain (who : Who) (f : FPort) (s : State) :
    exec (.portRetrain who f) s = execPortRetrain who f s := rfl
@[simp] theorem exec_holdLsaTimeout (f : FPort) (s : State) :
    exec (.holdLsaTimeout f) s = execHoldLsaTimeout f s := rfl
@[simp] theorem exec_lsa (f : FPort) (s : State) :
    exec (.lsa f) s = execLsa f s := rfl
@[simp] theorem exec_lsaPeriodic (s : State) :
    exec .lsaPeriodic s = execLsaPeriodic s := rfl
@[simp] theorem exec_lsaAgeOut (origin : Word) (s : State) :
    exec (.lsaAgeOut origin) s = execLsaAgeOut origin s := rfl
@[simp] theorem exec_starterElect (s : State) :
    exec .starterElect s = execStarterElect s := rfl
@[simp] theorem exec_disc (f : FPort) (s : State) :
    exec (.disc f) s = execDisc f s := rfl
@[simp] theorem exec_rediscover (who : Who) (s : State) :
    exec (.rediscover who) s = execRediscover who s := rfl
@[simp] theorem exec_mapConverge (s : State) :
    exec .mapConverge s = execMapConverge s := rfl
@[simp] theorem exec_routeRecompute (s : State) :
    exec .routeRecompute s = execRouteRecompute s := rfl
@[simp] theorem exec_fabricPacketSend (s : State) :
    exec .fabricPacketSend s = execFabricPacketSend s := rfl
@[simp] theorem exec_fabricPacketForward (f : FPort) (s : State) :
    exec (.fabricPacketForward f) s = execFabricPacketForward f s := rfl
@[simp] theorem exec_fabricRd (f : FPort) (s : State) :
    exec (.fabricRd f) s = execFabricRd f s := rfl
@[simp] theorem exec_fabricWr (f : FPort) (s : State) :
    exec (.fabricWr f) s = execFabricWr f s := rfl
@[simp] theorem exec_fabricWrPart (f : FPort) (s : State) :
    exec (.fabricWrPart f) s = execFabricWrPart f s := rfl
@[simp] theorem exec_fabricAtomic (f : FPort) (s : State) :
    exec (.fabricAtomic f) s = execFabricAtomic f s := rfl
@[simp] theorem exec_fabricComp (f : FPort) (s : State) :
    exec (.fabricComp f) s = execFabricComp f s := rfl
@[simp] theorem exec_fabricData (f : FPort) (s : State) :
    exec (.fabricData f) s = execFabricData f s := rfl
@[simp] theorem exec_fabDnfRaise (who : Who) (job : BitVec 16) (s : State) :
    exec (.fabDnfRaise who job) s = execFabDnfRaise who job s := rfl
@[simp] theorem exec_dnf (f : FPort) (s : State) :
    exec (.dnf f) s = execDnf f s := rfl
@[simp] theorem exec_configRequest (f : FuncIx) (tag : BitVec 14) (off : BitVec 12) (write : Option (BitVec 32)) (s : State) :
    exec (.configRequest f tag off write) s = execConfigRequest f tag off write s := rfl
@[simp] theorem exec_apertureWrite (f : FuncIx) (off : BitVec 36) (data : List (Option Byte)) (ro : Bool) (tc : Fin 8) (s : State) :
    exec (.apertureWrite f off data ro tc) s = execApertureWrite f off data ro tc s := rfl
@[simp] theorem exec_apertureRead (f : FuncIx) (tag : BitVec 14) (off : BitVec 36) (len : Fin 4097) (tc : Fin 8) (atomicOp : Bool) (s : State) :
    exec (.apertureRead f tag off len tc atomicOp) s = execApertureRead f tag off len tc atomicOp s := rfl
@[simp] theorem exec_bar0CtrlAccess (tag : BitVec 14) (off : BitVec 32) (size : Fin 9) (write : Option Word) (s : State) :
    exec (.bar0CtrlAccess tag off size write) s = execBar0CtrlAccess tag off size write s := rfl
@[simp] theorem exec_stagingBarAccess (tag : BitVec 14) (off : BitVec 29) (write : Option (List (Option Byte))) (len : Fin 4097) (s : State) :
    exec (.stagingBarAccess tag off write len) s = execStagingBarAccess tag off write len s := rfl
@[simp] theorem exec_aperRegisterWrite (who : Who) (a : Fin 144) (w : Word) (s : State) :
    exec (.aperRegisterWrite who a w) s = execAperRegisterWrite who a w s := rfl
@[simp] theorem exec_flr (f : FuncIx) (tag : BitVec 14) (s : State) :
    exec (.flr f tag) s = execFlr f tag s := rfl
@[simp] theorem exec_vfEnableWrite (tag : BitVec 14) (enable : Bool) (numVfs : Fin 33) (ari : Bool) (s : State) :
    exec (.vfEnableWrite tag enable numVfs ari) s = execVfEnableWrite tag enable numVfs ari s := rfl
@[simp] theorem exec_busMasterClear (f : FuncIx) (tag : BitVec 14) (s : State) :
    exec (.busMasterClear f tag) s = execBusMasterClear f tag s := rfl
@[simp] theorem exec_hotReset (s : State) :
    exec .hotReset s = execHotReset s := rfl
@[simp] theorem exec_poisonedWrite (s : State) :
    exec .poisonedWrite s = execPoisonedWrite s := rfl
@[simp] theorem exec_unexpectedCompletion (s : State) :
    exec .unexpectedCompletion s = execUnexpectedCompletion s := rfl
@[simp] theorem exec_malformedTlp (s : State) :
    exec .malformedTlp s = execMalformedTlp s := rfl
@[simp] theorem exec_pciNotify (who : Who) (func vec : BitVec 6) (s : State) :
    exec (.pciNotify who func vec) s = execPciNotify who func vec s := rfl
@[simp] theorem exec_msixUnmask (f : FuncIx) (v : Fin 64) (s : State) :
    exec (.msixUnmask f v) s = execMsixUnmask f v s := rfl
@[simp] theorem exec_dvsecPartitionReset (tag : BitVec 14) (p : PartIx) (key : BitVec 8) (s : State) :
    exec (.dvsecPartitionReset tag p key) s = execDvsecPartitionReset tag p key s := rfl
@[simp] theorem exec_dvsecPackageReset (tag : BitVec 14) (key : BitVec 8) (s : State) :
    exec (.dvsecPackageReset tag key) s = execDvsecPackageReset tag key s := rfl
@[simp] theorem exec_crashDataRead (tag : BitVec 14) (s : State) :
    exec (.crashDataRead tag) s = execCrashDataRead tag s := rfl
@[simp] theorem exec_gxRelease (who : Who) (p : VaultIx) (agree : Fin 3) (s : State) :
    exec (.gxRelease who p agree) s = execGxRelease who p agree s := rfl
@[simp] theorem exec_gxExport (who : Who) (p : VaultIx) (agree : Fin 3) (s : State) :
    exec (.gxExport who p agree) s = execGxExport who p agree s := rfl
@[simp] theorem exec_gxImport (who : Who) (p : VaultIx) (s : State) :
    exec (.gxImport who p) s = execGxImport who p s := rfl
@[simp] theorem exec_gxChunk (p : VaultIx) (agree : Fin 3) (s : State) :
    exec (.gxChunk p agree) s = execGxChunk p agree s := rfl
@[simp] theorem exec_gxDestHeadWrite (who : Who) (p : VaultIx) (head : BitVec 32) (s : State) :
    exec (.gxDestHeadWrite who p head) s = execGxDestHeadWrite who p head s := rfl
@[simp] theorem exec_attestRequest (who : Who) (w : Word) (s : State) :
    exec (.attestRequest who w) s = execAttestRequest who w s := rfl
@[simp] theorem exec_nseHealthFail (d : Fin 2) (which : Fin 3) (s : State) :
    exec (.nseHealthFail d which) s = execNseHealthFail d which s := rfl
@[simp] theorem exec_railLimiterTick (d : Fin 9) (amps : Nat) (s : State) :
    exec (.railLimiterTick d amps) s = execRailLimiterTick d amps s := rfl
@[simp] theorem exec_regionLimiterCompare (g : RegionIx) (watts : Nat) (s : State) :
    exec (.regionLimiterCompare g watts) s = execRegionLimiterCompare g watts s := rfl
@[simp] theorem exec_capcEpoch (watts : List Nat) (s : State) :
    exec (.capcEpoch watts) s = execCapcEpoch watts s := rfl
@[simp] theorem exec_vrAlertAssert (j : DieIx) (s : State) :
    exec (.vrAlertAssert j) s = execVrAlertAssert j s := rfl
@[simp] theorem exec_vrAlertHoldExpire (j : DieIx) (s : State) :
    exec (.vrAlertHoldExpire j) s = execVrAlertHoldExpire j s := rfl
@[simp] theorem exec_thermalSample (d : DieIx) (readings : List Int) (s : State) :
    exec (.thermalSample d readings) s = execThermalSample d readings s := rfl
@[simp] theorem exec_thermalLevelRise (z : Fin 33) (s : State) :
    exec (.thermalLevelRise z) s = execThermalLevelRise z s := rfl
@[simp] theorem exec_thermalLevelFall (z : Fin 33) (s : State) :
    exec (.thermalLevelFall z) s = execThermalLevelFall z s := rfl
@[simp] theorem exec_thermtrip (d : DieIx) (s : State) :
    exec (.thermtrip d) s = execThermtrip d s := rfl
@[simp] theorem exec_railSample (n : RailIx) (mv : Nat) (s : State) :
    exec (.railSample n mv) s = execRailSample n mv s := rfl
@[simp] theorem exec_pmbusPoll (n : RailIx) (r : Option (Nat × Nat × Nat)) (s : State) :
    exec (.pmbusPoll n r) s = execPmbusPoll n r s := rfl
@[simp] theorem exec_errorReport (s : State) :
    exec .errorReport s = execErrorReport s := rfl
@[simp] theorem exec_elogSafetyClear (who : Who) (s : State) :
    exec (.elogSafetyClear who) s = execElogSafetyClear who s := rfl
@[simp] theorem exec_heartbeat (d : DieIx) (s : State) :
    exec (.heartbeat d) s = execHeartbeat d s := rfl
@[simp] theorem exec_heartbeatLimitExpire (d : DieIx) (s : State) :
    exec (.heartbeatLimitExpire d) s = execHeartbeatLimitExpire d s := rfl
@[simp] theorem exec_engineHangExpire (e : Fin 960) (s : State) :
    exec (.engineHangExpire e) s = execEngineHangExpire e s := rfl
@[simp] theorem exec_requestTimeout (r : Requester) (s : State) :
    exec (.requestTimeout r) s = execRequestTimeout r s := rfl
@[simp] theorem exec_forcedResetExpire (p : PartIx) (s : State) :
    exec (.forcedResetExpire p) s = execForcedResetExpire p s := rfl
@[simp] theorem exec_dieReset (who : Who) (d : DieIx) (s : State) :
    exec (.dieReset who d) s = execDieReset who d s := rfl
@[simp] theorem exec_resetCtrlDie (who : Who) (mask : BitVec 11) (key : BitVec 8) (s : State) :
    exec (.resetCtrlDie who mask key) s = execResetCtrlDie who mask key s := rfl
@[simp] theorem exec_resetCtrlPackage (who : Who) (key : BitVec 8) (s : State) :
    exec (.resetCtrlPackage who key) s = execResetCtrlPackage who key s := rfl
@[simp] theorem exec_packageDrainDone (s : State) :
    exec .packageDrainDone s = execPackageDrainDone s := rfl
@[simp] theorem exec_dieRelease (d : DieIx) (relocked : Bool) (bad : List (Fin 4)) (s : State) :
    exec (.dieRelease d relocked bad) s = execDieRelease d relocked bad s := rfl
@[simp] theorem exec_i3cAddressAssign (static : Option (BitVec 7)) (addr : BitVec 7) (s : State) :
    exec (.i3cAddressAssign static addr) s = execI3cAddressAssign static addr s := rfl
@[simp] theorem exec_i3cStatus (s : State) :
    exec .i3cStatus s = execI3cStatus s := rfl
@[simp] theorem exec_i3cCrashRead (first : BitVec 16) (count : BitVec 8) (s : State) :
    exec (.i3cCrashRead first count) s = execI3cCrashRead first count s := rfl
@[simp] theorem exec_i3cElogRead (first : BitVec 16) (count : BitVec 8) (s : State) :
    exec (.i3cElogRead first count) s = execI3cElogRead first count s := rfl
@[simp] theorem exec_i3cPartitionReset (key p : BitVec 8) (s : State) :
    exec (.i3cPartitionReset key p) s = execI3cPartitionReset key p s := rfl
@[simp] theorem exec_i3cPackageReset (key : BitVec 8) (s : State) :
    exec (.i3cPackageReset key) s = execI3cPackageReset key s := rfl
@[simp] theorem exec_i3cDieReset (key d : BitVec 8) (s : State) :
    exec (.i3cDieReset key d) s = execI3cDieReset key d s := rfl
@[simp] theorem exec_i3cAttest (p : PartIx) (package : Bool) (data : List Byte) (s : State) :
    exec (.i3cAttest p package data) s = execI3cAttest p package data s := rfl
@[simp] theorem exec_mctpControl (m : MctpCtl) (s : State) :
    exec (.mctpControl m) s = execMctpControl m s := rfl
@[simp] theorem exec_pldmRequest (x : Sensor) (s : State) :
    exec (.pldmRequest x) s = execPldmRequest x s := rfl
@[simp] theorem exec_bypass (s : State) :
    exec .bypass s = execBypass s := rfl
@[simp] theorem exec_idcode (s : State) :
    exec .idcode s = execIdcode s := rfl
@[simp] theorem exec_samplePreload (v : Word) (s : State) :
    exec (.samplePreload v) s = execSamplePreload v s := rfl
@[simp] theorem exec_extest (v : Word) (s : State) :
    exec (.extest v) s = execExtest v s := rfl
@[simp] theorem exec_clamp (s : State) :
    exec .clamp s = execClamp s := rfl
@[simp] theorem exec_highz (s : State) :
    exec .highz s = execHighz s := rfl
@[simp] theorem exec_sysRstNDeassert (s : State) :
    exec .sysRstNDeassert s = execSysRstNDeassert s := rfl
@[simp] theorem exec_vrAlertDeassert (j : DieIx) (s : State) :
    exec (.vrAlertDeassert j) s = execVrAlertDeassert j s := rfl
@[simp] theorem exec_channelTrainingLost (ctl : CtlIx) (retrained : Bool) (s : State) :
    exec (.channelTrainingLost ctl retrained) s = execChannelTrainingLost ctl retrained s := rfl
@[simp] theorem exec_refclkStop (s : State) :
    exec .refclkStop s = execRefclkStop s := rfl
@[simp] theorem exec_vddIoFall (s : State) :
    exec .vddIoFall s = execVddIoFall s := rfl
@[simp] theorem exec_flrComplete (f : FuncIx) (s : State) :
    exec (.flrComplete f) s = execFlrComplete f s := rfl
@[simp] theorem exec_pcieLinkUp (rate : Fin 7) (width : Fin 3) (flit : Bool) (s : State) :
    exec (.pcieLinkUp rate width flit) s = execPcieLinkUp rate width flit s := rfl

end Sys2Proof.Machine
end

