-- ==== Sys2Proof/Laws/Maps.lean ====
section
/-! SUPPORT. Laws of the sorted stores: read after write, other keys unchanged, the keys stay rising. -/

namespace Sys2Proof.Machine

variable {α : Type}

@[simp] theorem SMap.find_nil (k : Nat) : SMap.find ([] : SMap α) k = none := rfl

@[simp] theorem SMap.find_set_same (m : SMap α) (k : Nat) (v : α) : SMap.find (SMap.set m k v) k = some v := by
  induction m with
  | nil => simp [SMap.set, SMap.find]
  | cons e m ih =>
    obtain ⟨k', v'⟩ := e
    simp only [SMap.set]
    split
    · simp [SMap.find]
    · split
      · simp [SMap.find]
      · rename_i h _
        simp [SMap.find, h, ih]

@[simp] theorem SMap.find_set_other (m : SMap α) {k j : Nat} (v : α) (h : j ≠ k) : SMap.find (SMap.set m k v) j = SMap.find m j := by
  induction m with
  | nil => simp [SMap.set, SMap.find, h]
  | cons e m ih =>
    obtain ⟨k', v'⟩ := e
    simp only [SMap.set]
    split
    · rename_i hk
      subst hk
      simp [SMap.find, h]
    · split
      · simp [SMap.find, h]
      · simp only [SMap.find, ih]

@[simp] theorem SMap.get_set_same (m : SMap α) (d v : α) (k : Nat) : SMap.get (SMap.set m k v) d k = v := by
  simp [SMap.get]

@[simp] theorem SMap.get_set_other (m : SMap α) (d v : α) {k j : Nat} (h : j ≠ k) :
    SMap.get (SMap.set m k v) d j = SMap.get m d j := by
  simp [SMap.get, h]

/-- A store with rising keys has its first key below every later one. -/
theorem SMap.rising_lt {k : Nat} {v : α} {m : SMap α} (h : SMap.rising ((k, v) :: m) = true) : ∀ e ∈ m, k < e.1 := by
  induction m generalizing k v with
  | nil => simp
  | cons e m ih =>
    obtain ⟨k', v'⟩ := e
    simp only [SMap.rising, Bool.and_eq_true, decide_eq_true_eq] at h
    intro x hx
    rcases List.mem_cons.1 hx with rfl | hx
    · exact h.1
    · exact lt_trans h.1 (ih h.2 x hx)

theorem SMap.rising_tail {e : Nat × α} {m : SMap α} (h : SMap.rising (e :: m) = true) : SMap.rising m = true := by
  cases m with
  | nil => rfl
  | cons f m =>
    obtain ⟨k', v'⟩ := f
    obtain ⟨k, v⟩ := e
    simp only [SMap.rising, Bool.and_eq_true] at h
    exact h.2

theorem SMap.rising_cons {k : Nat} {v : α} {m : SMap α} (h : ∀ e ∈ m, k < e.1) (hm : SMap.rising m = true) :
    SMap.rising ((k, v) :: m) = true := by
  cases m with
  | nil => rfl
  | cons f m =>
    obtain ⟨k', v'⟩ := f
    simp only [SMap.rising, Bool.and_eq_true, decide_eq_true_eq]
    exact ⟨h (k', v') (List.mem_cons_self ..), hm⟩

/-- The entries of a store with one entry set. -/
theorem SMap.mem_set {m : SMap α} {k : Nat} {v : α} {e : Nat × α} (h : e ∈ SMap.set m k v) : e = (k, v) ∨ e ∈ m := by
  induction m with
  | nil => simpa [SMap.set] using h
  | cons f m ih =>
    obtain ⟨k', v'⟩ := f
    simp only [SMap.set] at h
    split at h
    · rcases List.mem_cons.1 h with h | h
      · exact .inl h
      · exact .inr (List.mem_cons_of_mem _ h)
    · split at h
      · rcases List.mem_cons.1 h with h | h
        · exact .inl h
        · exact .inr h
      · rcases List.mem_cons.1 h with h | h
        · exact .inr (h ▸ List.mem_cons_self ..)
        · exact (ih h).imp id (List.mem_cons_of_mem _)

theorem SMap.rising_set {m : SMap α} (k : Nat) (v : α) (h : SMap.rising m = true) : SMap.rising (SMap.set m k v) = true := by
  induction m with
  | nil => rfl
  | cons f m ih =>
    obtain ⟨k', v'⟩ := f
    simp only [SMap.set]
    split
    · rename_i hk
      subst hk
      exact rising_cons (rising_lt h) (rising_tail h)
    · split
      · rename_i hlt
        refine rising_cons (fun e he => ?_) h
        rcases List.mem_cons.1 he with rfl | he
        · exact hlt
        · exact lt_trans hlt (rising_lt h e he)
      · rename_i hne hlt
        refine rising_cons (fun e he => ?_) (ih (rising_tail h))
        rcases mem_set he with rfl | he
        · simp only
          omega
        · exact rising_lt h e he

theorem SMap.rising_filter {m : SMap α} (p : Nat × α → Bool) (h : SMap.rising m = true) : SMap.rising (m.filter p) = true := by
  induction m with
  | nil => rfl
  | cons f m ih =>
    obtain ⟨k, v⟩ := f
    rw [List.filter_cons]
    split
    · exact rising_cons (fun e he => rising_lt h e (List.mem_filter.1 he).1) (ih (rising_tail h))
    · exact ih (rising_tail h)

theorem SMap.rising_del {m : SMap α} (k : Nat) (h : SMap.rising m = true) : SMap.rising (SMap.del m k) = true :=
  rising_filter _ h

end Sys2Proof.Machine
end

