-- ==== Sys2Proof/Laws/Memory.lean ====
section
/-! SUPPORT. Laws of the memory: every operation keeps the canonical form; a cell reads as it was written, other cells as before. -/

namespace Sys2Proof.Machine

open Sys2Proof

theorem Mem.dflt_cells (m : Mem) (c : List Host.Cell) (a : Nat) : Mem.dflt { m with cells := c } a = m.dflt a := rfl

theorem Mem.wf_iff (m : Mem) : m.wf = true ↔ SMap.rising m.cells = true ∧ ∀ e ∈ m.cells, m.dflt e.1 ≠ some e.2 := by
  simp [Mem.wf]

/-- A cell written: the canonical form is kept. -/
theorem Mem.wf_put {m : Mem} (h : m.wf = true) (a : Nat) (b : Byte) : (m.put a b).wf = true := by
  rw [Mem.wf_iff] at h ⊢
  unfold Mem.put
  split
  · refine ⟨SMap.rising_del a h.1, fun e he => ?_⟩
    exact h.2 e (List.mem_filter.1 he).1
  · rename_i hd
    refine ⟨SMap.rising_set a b h.1, fun e he => ?_⟩
    rcases SMap.mem_set he with rfl | he
    · exact hd
    · exact h.2 e he

theorem Mem.wf_foldl {β : Type} {f : Mem → β → Mem} (hf : ∀ m x, m.wf = true → (f m x).wf = true) {m : Mem} (h : m.wf = true)
    (l : List β) : (l.foldl f m).wf = true := by
  induction l generalizing m with
  | nil => exact h
  | cons x l ih => exact ih (hf m x h)

/-- A word written: the canonical form is kept. -/
theorem Mem.wf_putSymbols {m : Mem} (h : m.wf = true) (w : Nat) (sy : List Byte) : (m.putSymbols w sy).wf = true :=
  Mem.wf_foldl (fun _ _ hm => Mem.wf_put hm _ _) h _

/-- Cells taken out of the list: the canonical form is kept. -/
theorem Mem.wf_filter {m : Mem} (h : m.wf = true) (p : Host.Cell → Bool) : Mem.wf { m with cells := m.cells.filter p } = true := by
  rw [Mem.wf_iff] at h ⊢
  exact ⟨SMap.rising_filter p h.1, fun e he => h.2 e (List.mem_filter.1 he).1⟩

/-- A channel filled anew: the canonical form is kept, under the new fill. -/
theorem Mem.wf_refill {m : Mem} (h : m.wf = true) (chan gen : Nat) (ws : List (Nat × List Byte)) :
    (m.refill chan gen ws).wf = true := by
  have hf : ∀ c : List Host.Cell, ∀ a : Nat, a / 16 / 2 ^ 30 ≠ chan →
      Mem.dflt { m with cells := c, fill := SMap.set m.fill chan gen } a = m.dflt a := by
    intro c a ha
    unfold Mem.dflt
    dsimp only
    rw [SMap.get_set_other _ _ _ ha]
  unfold Mem.refill
  refine Mem.wf_foldl (fun _ _ hm => Mem.wf_putSymbols hm _ _) ?_ ws
  rw [Mem.wf_iff] at h ⊢
  refine ⟨SMap.rising_filter _ h.1, fun e he => ?_⟩
  obtain ⟨he, hc⟩ := List.mem_filter.1 he
  have hne : e.1 / 16 / 2 ^ 30 ≠ chan := by
    simpa only [Bool.not_eq_true', decide_eq_false_iff_not] using hc
  rw [hf _ _ hne]
  exact h.2 e he

/-- What a cell reads as where one is listed or the spec gives it. -/
theorem Mem.find_put_other (m : Mem) {a c : Nat} (b : Byte) (h : c ≠ a) : SMap.find (m.put a b).cells c = SMap.find m.cells c := by
  unfold Mem.put
  split
  · have : ∀ l : SMap Byte, SMap.find (SMap.del l a) c = SMap.find l c := by
      intro l
      induction l with
      | nil => rfl
      | cons e l ih =>
        obtain ⟨k, v⟩ := e
        unfold SMap.del at ih ⊢
        rw [List.filter_cons]
        split
        · simp only [SMap.find, ih]
        · rename_i hk
          have hk : k = a := by simpa using hk
          subst hk
          simp only [SMap.find, h, if_false, ih]
    exact this _
  · exact SMap.find_set_other _ _ h

end Sys2Proof.Machine
end

