-- ==== Sys2Proof/Laws/State.lean ====
section
/-! SUPPORT. Laws of the state's updates: what each leaves of every field. -/

namespace Sys2Proof.Machine

open Sys2Proof

/-! setReg -/

@[simp] theorem Dev.setReg_time (s : Dev) (r : RegName) (i : Nat) (w : Word) : (s.setReg r i w).time = s.time := rfl
@[simp] theorem Dev.setReg_draws (s : Dev) (r : RegName) (i : Nat) (w : Word) : (s.setReg r i w).draws = s.draws := rfl
@[simp] theorem Dev.setReg_powerOns (s : Dev) (r : RegName) (i : Nat) (w : Word) : (s.setReg r i w).powerOns = s.powerOns := rfl
@[simp] theorem Dev.setReg_mem (s : Dev) (r : RegName) (i : Nat) (w : Word) : (s.setReg r i w).mem = s.mem := rfl
@[simp] theorem Dev.setReg_t2Units (s : Dev) (r : RegName) (i : Nat) (w : Word) : (s.setReg r i w).t2Units = s.t2Units := rfl
@[simp] theorem Dev.setReg_ugenAll (s : Dev) (r : RegName) (i : Nat) (w : Word) : (s.setReg r i w).ugenAll = s.ugenAll := rfl
@[simp] theorem Dev.setReg_ugen (s : Dev) (r : RegName) (i : Nat) (w : Word) : (s.setReg r i w).ugen = s.ugen := rfl
@[simp] theorem Dev.setReg_ugenBase (s : Dev) (r : RegName) (i : Nat) (w : Word) : (s.setReg r i w).ugenBase = s.ugenBase := rfl
@[simp] theorem Dev.setReg_t2Map (s : Dev) (r : RegName) (i : Nat) (w : Word) : (s.setReg r i w).t2Map = s.t2Map := rfl
@[simp] theorem Dev.setReg_chans (s : Dev) (r : RegName) (i : Nat) (w : Word) : (s.setReg r i w).chans = s.chans := rfl
@[simp] theorem Dev.setReg_hots (s : Dev) (r : RegName) (i : Nat) (w : Word) : (s.setReg r i w).hots = s.hots := rfl
@[simp] theorem Dev.setReg_stampsDue (s : Dev) (r : RegName) (i : Nat) (w : Word) : (s.setReg r i w).stampsDue = s.stampsDue := rfl
@[simp] theorem Dev.setReg_notices (s : Dev) (r : RegName) (i : Nat) (w : Word) : (s.setReg r i w).notices = s.notices := rfl
@[simp] theorem Dev.setReg_mapouts (s : Dev) (r : RegName) (i : Nat) (w : Word) : (s.setReg r i w).mapouts = s.mapouts := rfl
@[simp] theorem Dev.setReg_scs (s : Dev) (r : RegName) (i : Nat) (w : Word) : (s.setReg r i w).scs = s.scs := rfl
@[simp] theorem Dev.setReg_scOut (s : Dev) (r : RegName) (i : Nat) (w : Word) : (s.setReg r i w).scOut = s.scOut := rfl
@[simp] theorem Dev.setReg_padMarked (s : Dev) (r : RegName) (i : Nat) (w : Word) : (s.setReg r i w).padMarked = s.padMarked := rfl
@[simp] theorem Dev.setReg_padCorr (s : Dev) (r : RegName) (i : Nat) (w : Word) : (s.setReg r i w).padCorr = s.padCorr := rfl
@[simp] theorem Dev.setReg_padTaken (s : Dev) (r : RegName) (i : Nat) (w : Word) : (s.setReg r i w).padTaken = s.padTaken := rfl
@[simp] theorem Dev.setReg_padAside (s : Dev) (r : RegName) (i : Nat) (w : Word) : (s.setReg r i w).padAside = s.padAside := rfl
@[simp] theorem Dev.setReg_padSeat (s : Dev) (r : RegName) (i : Nat) (w : Word) : (s.setReg r i w).padSeat = s.padSeat := rfl
@[simp] theorem Dev.setReg_applied (s : Dev) (r : RegName) (i : Nat) (w : Word) : (s.setReg r i w).applied = s.applied := rfl
@[simp] theorem Dev.setReg_homes (s : Dev) (r : RegName) (i : Nat) (w : Word) : (s.setReg r i w).homes = s.homes := rfl
@[simp] theorem Dev.setReg_gxGuard (s : Dev) (r : RegName) (i : Nat) (w : Word) : (s.setReg r i w).gxGuard = s.gxGuard := rfl
@[simp] theorem Dev.setReg_l2s (s : Dev) (r : RegName) (i : Nat) (w : Word) : (s.setReg r i w).l2s = s.l2s := rfl
@[simp] theorem Dev.setReg_ccs (s : Dev) (r : RegName) (i : Nat) (w : Word) : (s.setReg r i w).ccs = s.ccs := rfl
@[simp] theorem Dev.setReg_harts (s : Dev) (r : RegName) (i : Nat) (w : Word) : (s.setReg r i w).harts = s.harts := rfl
@[simp] theorem Dev.setReg_msis (s : Dev) (r : RegName) (i : Nat) (w : Word) : (s.setReg r i w).msis = s.msis := rfl
@[simp] theorem Dev.setReg_msiRefused (s : Dev) (r : RegName) (i : Nat) (w : Word) : (s.setReg r i w).msiRefused = s.msiRefused := rfl
@[simp] theorem Dev.setReg_doorbells (s : Dev) (r : RegName) (i : Nat) (w : Word) : (s.setReg r i w).doorbells = s.doorbells := rfl
@[simp] theorem Dev.setReg_atcs (s : Dev) (r : RegName) (i : Nat) (w : Word) : (s.setReg r i w).atcs = s.atcs := rfl
@[simp] theorem Dev.setReg_walks (s : Dev) (r : RegName) (i : Nat) (w : Word) : (s.setReg r i w).walks = s.walks := rfl
@[simp] theorem Dev.setReg_wcache (s : Dev) (r : RegName) (i : Nat) (w : Word) : (s.setReg r i w).wcache = s.wcache := rfl
@[simp] theorem Dev.setReg_prs (s : Dev) (r : RegName) (i : Nat) (w : Word) : (s.setReg r i w).prs = s.prs := rfl
@[simp] theorem Dev.setReg_invs (s : Dev) (r : RegName) (i : Nat) (w : Word) : (s.setReg r i w).invs = s.invs := rfl
@[simp] theorem Dev.setReg_engs (s : Dev) (r : RegName) (i : Nat) (w : Word) : (s.setReg r i w).engs = s.engs := rfl
@[simp] theorem Dev.setReg_xfail (s : Dev) (r : RegName) (i : Nat) (w : Word) : (s.setReg r i w).xfail = s.xfail := rfl
@[simp] theorem Dev.setReg_remQ (s : Dev) (r : RegName) (i : Nat) (w : Word) : (s.setReg r i w).remQ = s.remQ := rfl
@[simp] theorem Dev.setReg_remSent (s : Dev) (r : RegName) (i : Nat) (w : Word) : (s.setReg r i w).remSent = s.remSent := rfl
@[simp] theorem Dev.setReg_remDone (s : Dev) (r : RegName) (i : Nat) (w : Word) : (s.setReg r i w).remDone = s.remDone := rfl
@[simp] theorem Dev.setReg_late (s : Dev) (r : RegName) (i : Nat) (w : Word) : (s.setReg r i w).late = s.late := rfl
@[simp] theorem Dev.setReg_net (s : Dev) (r : RegName) (i : Nat) (w : Word) : (s.setReg r i w).net = s.net := rfl
@[simp] theorem Dev.setReg_recs (s : Dev) (r : RegName) (i : Nat) (w : Word) : (s.setReg r i w).recs = s.recs := rfl
@[simp] theorem Dev.setReg_reports (s : Dev) (r : RegName) (i : Nat) (w : Word) : (s.setReg r i w).reports = s.reports := rfl
@[simp] theorem Dev.setReg_corr (s : Dev) (r : RegName) (i : Nat) (w : Word) : (s.setReg r i w).corr = s.corr := rfl
@[simp] theorem Dev.setReg_files (s : Dev) (r : RegName) (i : Nat) (w : Word) : (s.setReg r i w).files = s.files := rfl
@[simp] theorem Dev.setReg_parts (s : Dev) (r : RegName) (i : Nat) (w : Word) : (s.setReg r i w).parts = s.parts := rfl
@[simp] theorem Dev.setReg_queues (s : Dev) (r : RegName) (i : Nat) (w : Word) : (s.setReg r i w).queues = s.queues := rfl
@[simp] theorem Dev.setReg_ctxs (s : Dev) (r : RegName) (i : Nat) (w : Word) : (s.setReg r i w).ctxs = s.ctxs := rfl
@[simp] theorem Dev.setReg_deques (s : Dev) (r : RegName) (i : Nat) (w : Word) : (s.setReg r i w).deques = s.deques := rfl
@[simp] theorem Dev.setReg_tableQs (s : Dev) (r : RegName) (i : Nat) (w : Word) : (s.setReg r i w).tableQs = s.tableQs := rfl
@[simp] theorem Dev.setReg_arrays (s : Dev) (r : RegName) (i : Nat) (w : Word) : (s.setReg r i w).arrays = s.arrays := rfl
@[simp] theorem Dev.setReg_cells (s : Dev) (r : RegName) (i : Nat) (w : Word) : (s.setReg r i w).cells = s.cells := rfl
@[simp] theorem Dev.setReg_powering (s : Dev) (r : RegName) (i : Nat) (w : Word) : (s.setReg r i w).powering = s.powering := rfl
@[simp] theorem Dev.setReg_dueTests (s : Dev) (r : RegName) (i : Nat) (w : Word) : (s.setReg r i w).dueTests = s.dueTests := rfl
@[simp] theorem Dev.setReg_lastTests (s : Dev) (r : RegName) (i : Nat) (w : Word) : (s.setReg r i w).lastTests = s.lastTests := rfl
@[simp] theorem Dev.setReg_padUsed (s : Dev) (r : RegName) (i : Nat) (w : Word) : (s.setReg r i w).padUsed = s.padUsed := rfl
@[simp] theorem Dev.setReg_nseUsed (s : Dev) (r : RegName) (i : Nat) (w : Word) : (s.setReg r i w).nseUsed = s.nseUsed := rfl
@[simp] theorem Dev.setReg_memKeys (s : Dev) (r : RegName) (i : Nat) (w : Word) : (s.setReg r i w).memKeys = s.memKeys := rfl
@[simp] theorem Dev.setReg_vaults (s : Dev) (r : RegName) (i : Nat) (w : Word) : (s.setReg r i w).vaults = s.vaults := rfl
@[simp] theorem Dev.setReg_boot (s : Dev) (r : RegName) (i : Nat) (w : Word) : (s.setReg r i w).boot = s.boot := rfl
@[simp] theorem Dev.setReg_fused (s : Dev) (r : RegName) (i : Nat) (w : Word) : (s.setReg r i w).fused = s.fused := rfl
@[simp] theorem Dev.setReg_dies (s : Dev) (r : RegName) (i : Nat) (w : Word) : (s.setReg r i w).dies = s.dies := rfl
@[simp] theorem Dev.setReg_links (s : Dev) (r : RegName) (i : Nat) (w : Word) : (s.setReg r i w).links = s.links := rfl
@[simp] theorem Dev.setReg_ports (s : Dev) (r : RegName) (i : Nat) (w : Word) : (s.setReg r i w).ports = s.ports := rfl
@[simp] theorem Dev.setReg_fab (s : Dev) (r : RegName) (i : Nat) (w : Word) : (s.setReg r i w).fab = s.fab := rfl
@[simp] theorem Dev.setReg_pci (s : Dev) (r : RegName) (i : Nat) (w : Word) : (s.setReg r i w).pci = s.pci := rfl
@[simp] theorem Dev.setReg_att (s : Dev) (r : RegName) (i : Nat) (w : Word) : (s.setReg r i w).att = s.att := rfl
@[simp] theorem Dev.setReg_pwr (s : Dev) (r : RegName) (i : Nat) (w : Word) : (s.setReg r i w).pwr = s.pwr := rfl
@[simp] theorem Dev.setReg_pins (s : Dev) (r : RegName) (i : Nat) (w : Word) : (s.setReg r i w).pins = s.pins := rfl
@[simp] theorem Dev.setReg_crashes (s : Dev) (r : RegName) (i : Nat) (w : Word) : (s.setReg r i w).crashes = s.crashes := rfl
@[simp] theorem Dev.setReg_drain (s : Dev) (r : RegName) (i : Nat) (w : Word) : (s.setReg r i w).drain = s.drain := rfl
@[simp] theorem Dev.setReg_out (s : Dev) (r : RegName) (i : Nat) (w : Word) : (s.setReg r i w).out = s.out := rfl

/-! setFld -/

@[simp] theorem Dev.setFld_time (s : Dev) (f : Fld) (i v : Nat) : (s.setFld f i v).time = s.time := rfl
@[simp] theorem Dev.setFld_draws (s : Dev) (f : Fld) (i v : Nat) : (s.setFld f i v).draws = s.draws := rfl
@[simp] theorem Dev.setFld_powerOns (s : Dev) (f : Fld) (i v : Nat) : (s.setFld f i v).powerOns = s.powerOns := rfl
@[simp] theorem Dev.setFld_mem (s : Dev) (f : Fld) (i v : Nat) : (s.setFld f i v).mem = s.mem := rfl
@[simp] theorem Dev.setFld_t2Units (s : Dev) (f : Fld) (i v : Nat) : (s.setFld f i v).t2Units = s.t2Units := rfl
@[simp] theorem Dev.setFld_ugenAll (s : Dev) (f : Fld) (i v : Nat) : (s.setFld f i v).ugenAll = s.ugenAll := rfl
@[simp] theorem Dev.setFld_ugen (s : Dev) (f : Fld) (i v : Nat) : (s.setFld f i v).ugen = s.ugen := rfl
@[simp] theorem Dev.setFld_ugenBase (s : Dev) (f : Fld) (i v : Nat) : (s.setFld f i v).ugenBase = s.ugenBase := rfl
@[simp] theorem Dev.setFld_t2Map (s : Dev) (f : Fld) (i v : Nat) : (s.setFld f i v).t2Map = s.t2Map := rfl
@[simp] theorem Dev.setFld_chans (s : Dev) (f : Fld) (i v : Nat) : (s.setFld f i v).chans = s.chans := rfl
@[simp] theorem Dev.setFld_hots (s : Dev) (f : Fld) (i v : Nat) : (s.setFld f i v).hots = s.hots := rfl
@[simp] theorem Dev.setFld_stampsDue (s : Dev) (f : Fld) (i v : Nat) : (s.setFld f i v).stampsDue = s.stampsDue := rfl
@[simp] theorem Dev.setFld_notices (s : Dev) (f : Fld) (i v : Nat) : (s.setFld f i v).notices = s.notices := rfl
@[simp] theorem Dev.setFld_mapouts (s : Dev) (f : Fld) (i v : Nat) : (s.setFld f i v).mapouts = s.mapouts := rfl
@[simp] theorem Dev.setFld_scs (s : Dev) (f : Fld) (i v : Nat) : (s.setFld f i v).scs = s.scs := rfl
@[simp] theorem Dev.setFld_scOut (s : Dev) (f : Fld) (i v : Nat) : (s.setFld f i v).scOut = s.scOut := rfl
@[simp] theorem Dev.setFld_padMarked (s : Dev) (f : Fld) (i v : Nat) : (s.setFld f i v).padMarked = s.padMarked := rfl
@[simp] theorem Dev.setFld_padCorr (s : Dev) (f : Fld) (i v : Nat) : (s.setFld f i v).padCorr = s.padCorr := rfl
@[simp] theorem Dev.setFld_padTaken (s : Dev) (f : Fld) (i v : Nat) : (s.setFld f i v).padTaken = s.padTaken := rfl
@[simp] theorem Dev.setFld_padAside (s : Dev) (f : Fld) (i v : Nat) : (s.setFld f i v).padAside = s.padAside := rfl
@[simp] theorem Dev.setFld_padSeat (s : Dev) (f : Fld) (i v : Nat) : (s.setFld f i v).padSeat = s.padSeat := rfl
@[simp] theorem Dev.setFld_applied (s : Dev) (f : Fld) (i v : Nat) : (s.setFld f i v).applied = s.applied := rfl
@[simp] theorem Dev.setFld_homes (s : Dev) (f : Fld) (i v : Nat) : (s.setFld f i v).homes = s.homes := rfl
@[simp] theorem Dev.setFld_gxGuard (s : Dev) (f : Fld) (i v : Nat) : (s.setFld f i v).gxGuard = s.gxGuard := rfl
@[simp] theorem Dev.setFld_l2s (s : Dev) (f : Fld) (i v : Nat) : (s.setFld f i v).l2s = s.l2s := rfl
@[simp] theorem Dev.setFld_ccs (s : Dev) (f : Fld) (i v : Nat) : (s.setFld f i v).ccs = s.ccs := rfl
@[simp] theorem Dev.setFld_harts (s : Dev) (f : Fld) (i v : Nat) : (s.setFld f i v).harts = s.harts := rfl
@[simp] theorem Dev.setFld_msis (s : Dev) (f : Fld) (i v : Nat) : (s.setFld f i v).msis = s.msis := rfl
@[simp] theorem Dev.setFld_msiRefused (s : Dev) (f : Fld) (i v : Nat) : (s.setFld f i v).msiRefused = s.msiRefused := rfl
@[simp] theorem Dev.setFld_doorbells (s : Dev) (f : Fld) (i v : Nat) : (s.setFld f i v).doorbells = s.doorbells := rfl
@[simp] theorem Dev.setFld_atcs (s : Dev) (f : Fld) (i v : Nat) : (s.setFld f i v).atcs = s.atcs := rfl
@[simp] theorem Dev.setFld_walks (s : Dev) (f : Fld) (i v : Nat) : (s.setFld f i v).walks = s.walks := rfl
@[simp] theorem Dev.setFld_wcache (s : Dev) (f : Fld) (i v : Nat) : (s.setFld f i v).wcache = s.wcache := rfl
@[simp] theorem Dev.setFld_prs (s : Dev) (f : Fld) (i v : Nat) : (s.setFld f i v).prs = s.prs := rfl
@[simp] theorem Dev.setFld_invs (s : Dev) (f : Fld) (i v : Nat) : (s.setFld f i v).invs = s.invs := rfl
@[simp] theorem Dev.setFld_engs (s : Dev) (f : Fld) (i v : Nat) : (s.setFld f i v).engs = s.engs := rfl
@[simp] theorem Dev.setFld_xfail (s : Dev) (f : Fld) (i v : Nat) : (s.setFld f i v).xfail = s.xfail := rfl
@[simp] theorem Dev.setFld_remQ (s : Dev) (f : Fld) (i v : Nat) : (s.setFld f i v).remQ = s.remQ := rfl
@[simp] theorem Dev.setFld_remSent (s : Dev) (f : Fld) (i v : Nat) : (s.setFld f i v).remSent = s.remSent := rfl
@[simp] theorem Dev.setFld_remDone (s : Dev) (f : Fld) (i v : Nat) : (s.setFld f i v).remDone = s.remDone := rfl
@[simp] theorem Dev.setFld_late (s : Dev) (f : Fld) (i v : Nat) : (s.setFld f i v).late = s.late := rfl
@[simp] theorem Dev.setFld_net (s : Dev) (f : Fld) (i v : Nat) : (s.setFld f i v).net = s.net := rfl
@[simp] theorem Dev.setFld_recs (s : Dev) (f : Fld) (i v : Nat) : (s.setFld f i v).recs = s.recs := rfl
@[simp] theorem Dev.setFld_reports (s : Dev) (f : Fld) (i v : Nat) : (s.setFld f i v).reports = s.reports := rfl
@[simp] theorem Dev.setFld_corr (s : Dev) (f : Fld) (i v : Nat) : (s.setFld f i v).corr = s.corr := rfl
@[simp] theorem Dev.setFld_files (s : Dev) (f : Fld) (i v : Nat) : (s.setFld f i v).files = s.files := rfl
@[simp] theorem Dev.setFld_parts (s : Dev) (f : Fld) (i v : Nat) : (s.setFld f i v).parts = s.parts := rfl
@[simp] theorem Dev.setFld_queues (s : Dev) (f : Fld) (i v : Nat) : (s.setFld f i v).queues = s.queues := rfl
@[simp] theorem Dev.setFld_ctxs (s : Dev) (f : Fld) (i v : Nat) : (s.setFld f i v).ctxs = s.ctxs := rfl
@[simp] theorem Dev.setFld_deques (s : Dev) (f : Fld) (i v : Nat) : (s.setFld f i v).deques = s.deques := rfl
@[simp] theorem Dev.setFld_tableQs (s : Dev) (f : Fld) (i v : Nat) : (s.setFld f i v).tableQs = s.tableQs := rfl
@[simp] theorem Dev.setFld_arrays (s : Dev) (f : Fld) (i v : Nat) : (s.setFld f i v).arrays = s.arrays := rfl
@[simp] theorem Dev.setFld_cells (s : Dev) (f : Fld) (i v : Nat) : (s.setFld f i v).cells = s.cells := rfl
@[simp] theorem Dev.setFld_powering (s : Dev) (f : Fld) (i v : Nat) : (s.setFld f i v).powering = s.powering := rfl
@[simp] theorem Dev.setFld_dueTests (s : Dev) (f : Fld) (i v : Nat) : (s.setFld f i v).dueTests = s.dueTests := rfl
@[simp] theorem Dev.setFld_lastTests (s : Dev) (f : Fld) (i v : Nat) : (s.setFld f i v).lastTests = s.lastTests := rfl
@[simp] theorem Dev.setFld_padUsed (s : Dev) (f : Fld) (i v : Nat) : (s.setFld f i v).padUsed = s.padUsed := rfl
@[simp] theorem Dev.setFld_nseUsed (s : Dev) (f : Fld) (i v : Nat) : (s.setFld f i v).nseUsed = s.nseUsed := rfl
@[simp] theorem Dev.setFld_memKeys (s : Dev) (f : Fld) (i v : Nat) : (s.setFld f i v).memKeys = s.memKeys := rfl
@[simp] theorem Dev.setFld_vaults (s : Dev) (f : Fld) (i v : Nat) : (s.setFld f i v).vaults = s.vaults := rfl
@[simp] theorem Dev.setFld_boot (s : Dev) (f : Fld) (i v : Nat) : (s.setFld f i v).boot = s.boot := rfl
@[simp] theorem Dev.setFld_fused (s : Dev) (f : Fld) (i v : Nat) : (s.setFld f i v).fused = s.fused := rfl
@[simp] theorem Dev.setFld_dies (s : Dev) (f : Fld) (i v : Nat) : (s.setFld f i v).dies = s.dies := rfl
@[simp] theorem Dev.setFld_links (s : Dev) (f : Fld) (i v : Nat) : (s.setFld f i v).links = s.links := rfl
@[simp] theorem Dev.setFld_ports (s : Dev) (f : Fld) (i v : Nat) : (s.setFld f i v).ports = s.ports := rfl
@[simp] theorem Dev.setFld_fab (s : Dev) (f : Fld) (i v : Nat) : (s.setFld f i v).fab = s.fab := rfl
@[simp] theorem Dev.setFld_pci (s : Dev) (f : Fld) (i v : Nat) : (s.setFld f i v).pci = s.pci := rfl
@[simp] theorem Dev.setFld_att (s : Dev) (f : Fld) (i v : Nat) : (s.setFld f i v).att = s.att := rfl
@[simp] theorem Dev.setFld_pwr (s : Dev) (f : Fld) (i v : Nat) : (s.setFld f i v).pwr = s.pwr := rfl
@[simp] theorem Dev.setFld_pins (s : Dev) (f : Fld) (i v : Nat) : (s.setFld f i v).pins = s.pins := rfl
@[simp] theorem Dev.setFld_crashes (s : Dev) (f : Fld) (i v : Nat) : (s.setFld f i v).crashes = s.crashes := rfl
@[simp] theorem Dev.setFld_drain (s : Dev) (f : Fld) (i v : Nat) : (s.setFld f i v).drain = s.drain := rfl
@[simp] theorem Dev.setFld_out (s : Dev) (f : Fld) (i v : Nat) : (s.setFld f i v).out = s.out := rfl

/-! setFlag -/

@[simp] theorem Dev.setFlag_time (s : Dev) (f : Fld) (i : Nat) (b : Bool) : (s.setFlag f i b).time = s.time := rfl
@[simp] theorem Dev.setFlag_draws (s : Dev) (f : Fld) (i : Nat) (b : Bool) : (s.setFlag f i b).draws = s.draws := rfl
@[simp] theorem Dev.setFlag_powerOns (s : Dev) (f : Fld) (i : Nat) (b : Bool) : (s.setFlag f i b).powerOns = s.powerOns := rfl
@[simp] theorem Dev.setFlag_mem (s : Dev) (f : Fld) (i : Nat) (b : Bool) : (s.setFlag f i b).mem = s.mem := rfl
@[simp] theorem Dev.setFlag_t2Units (s : Dev) (f : Fld) (i : Nat) (b : Bool) : (s.setFlag f i b).t2Units = s.t2Units := rfl
@[simp] theorem Dev.setFlag_ugenAll (s : Dev) (f : Fld) (i : Nat) (b : Bool) : (s.setFlag f i b).ugenAll = s.ugenAll := rfl
@[simp] theorem Dev.setFlag_ugen (s : Dev) (f : Fld) (i : Nat) (b : Bool) : (s.setFlag f i b).ugen = s.ugen := rfl
@[simp] theorem Dev.setFlag_ugenBase (s : Dev) (f : Fld) (i : Nat) (b : Bool) : (s.setFlag f i b).ugenBase = s.ugenBase := rfl
@[simp] theorem Dev.setFlag_t2Map (s : Dev) (f : Fld) (i : Nat) (b : Bool) : (s.setFlag f i b).t2Map = s.t2Map := rfl
@[simp] theorem Dev.setFlag_chans (s : Dev) (f : Fld) (i : Nat) (b : Bool) : (s.setFlag f i b).chans = s.chans := rfl
@[simp] theorem Dev.setFlag_hots (s : Dev) (f : Fld) (i : Nat) (b : Bool) : (s.setFlag f i b).hots = s.hots := rfl
@[simp] theorem Dev.setFlag_stampsDue (s : Dev) (f : Fld) (i : Nat) (b : Bool) : (s.setFlag f i b).stampsDue = s.stampsDue := rfl
@[simp] theorem Dev.setFlag_notices (s : Dev) (f : Fld) (i : Nat) (b : Bool) : (s.setFlag f i b).notices = s.notices := rfl
@[simp] theorem Dev.setFlag_mapouts (s : Dev) (f : Fld) (i : Nat) (b : Bool) : (s.setFlag f i b).mapouts = s.mapouts := rfl
@[simp] theorem Dev.setFlag_scs (s : Dev) (f : Fld) (i : Nat) (b : Bool) : (s.setFlag f i b).scs = s.scs := rfl
@[simp] theorem Dev.setFlag_scOut (s : Dev) (f : Fld) (i : Nat) (b : Bool) : (s.setFlag f i b).scOut = s.scOut := rfl
@[simp] theorem Dev.setFlag_padMarked (s : Dev) (f : Fld) (i : Nat) (b : Bool) : (s.setFlag f i b).padMarked = s.padMarked := rfl
@[simp] theorem Dev.setFlag_padCorr (s : Dev) (f : Fld) (i : Nat) (b : Bool) : (s.setFlag f i b).padCorr = s.padCorr := rfl
@[simp] theorem Dev.setFlag_padTaken (s : Dev) (f : Fld) (i : Nat) (b : Bool) : (s.setFlag f i b).padTaken = s.padTaken := rfl
@[simp] theorem Dev.setFlag_padAside (s : Dev) (f : Fld) (i : Nat) (b : Bool) : (s.setFlag f i b).padAside = s.padAside := rfl
@[simp] theorem Dev.setFlag_padSeat (s : Dev) (f : Fld) (i : Nat) (b : Bool) : (s.setFlag f i b).padSeat = s.padSeat := rfl
@[simp] theorem Dev.setFlag_applied (s : Dev) (f : Fld) (i : Nat) (b : Bool) : (s.setFlag f i b).applied = s.applied := rfl
@[simp] theorem Dev.setFlag_homes (s : Dev) (f : Fld) (i : Nat) (b : Bool) : (s.setFlag f i b).homes = s.homes := rfl
@[simp] theorem Dev.setFlag_gxGuard (s : Dev) (f : Fld) (i : Nat) (b : Bool) : (s.setFlag f i b).gxGuard = s.gxGuard := rfl
@[simp] theorem Dev.setFlag_l2s (s : Dev) (f : Fld) (i : Nat) (b : Bool) : (s.setFlag f i b).l2s = s.l2s := rfl
@[simp] theorem Dev.setFlag_ccs (s : Dev) (f : Fld) (i : Nat) (b : Bool) : (s.setFlag f i b).ccs = s.ccs := rfl
@[simp] theorem Dev.setFlag_harts (s : Dev) (f : Fld) (i : Nat) (b : Bool) : (s.setFlag f i b).harts = s.harts := rfl
@[simp] theorem Dev.setFlag_msis (s : Dev) (f : Fld) (i : Nat) (b : Bool) : (s.setFlag f i b).msis = s.msis := rfl
@[simp] theorem Dev.setFlag_msiRefused (s : Dev) (f : Fld) (i : Nat) (b : Bool) : (s.setFlag f i b).msiRefused = s.msiRefused := rfl
@[simp] theorem Dev.setFlag_doorbells (s : Dev) (f : Fld) (i : Nat) (b : Bool) : (s.setFlag f i b).doorbells = s.doorbells := rfl
@[simp] theorem Dev.setFlag_atcs (s : Dev) (f : Fld) (i : Nat) (b : Bool) : (s.setFlag f i b).atcs = s.atcs := rfl
@[simp] theorem Dev.setFlag_walks (s : Dev) (f : Fld) (i : Nat) (b : Bool) : (s.setFlag f i b).walks = s.walks := rfl
@[simp] theorem Dev.setFlag_wcache (s : Dev) (f : Fld) (i : Nat) (b : Bool) : (s.setFlag f i b).wcache = s.wcache := rfl
@[simp] theorem Dev.setFlag_prs (s : Dev) (f : Fld) (i : Nat) (b : Bool) : (s.setFlag f i b).prs = s.prs := rfl
@[simp] theorem Dev.setFlag_invs (s : Dev) (f : Fld) (i : Nat) (b : Bool) : (s.setFlag f i b).invs = s.invs := rfl
@[simp] theorem Dev.setFlag_engs (s : Dev) (f : Fld) (i : Nat) (b : Bool) : (s.setFlag f i b).engs = s.engs := rfl
@[simp] theorem Dev.setFlag_xfail (s : Dev) (f : Fld) (i : Nat) (b : Bool) : (s.setFlag f i b).xfail = s.xfail := rfl
@[simp] theorem Dev.setFlag_remQ (s : Dev) (f : Fld) (i : Nat) (b : Bool) : (s.setFlag f i b).remQ = s.remQ := rfl
@[simp] theorem Dev.setFlag_remSent (s : Dev) (f : Fld) (i : Nat) (b : Bool) : (s.setFlag f i b).remSent = s.remSent := rfl
@[simp] theorem Dev.setFlag_remDone (s : Dev) (f : Fld) (i : Nat) (b : Bool) : (s.setFlag f i b).remDone = s.remDone := rfl
@[simp] theorem Dev.setFlag_late (s : Dev) (f : Fld) (i : Nat) (b : Bool) : (s.setFlag f i b).late = s.late := rfl
@[simp] theorem Dev.setFlag_net (s : Dev) (f : Fld) (i : Nat) (b : Bool) : (s.setFlag f i b).net = s.net := rfl
@[simp] theorem Dev.setFlag_recs (s : Dev) (f : Fld) (i : Nat) (b : Bool) : (s.setFlag f i b).recs = s.recs := rfl
@[simp] theorem Dev.setFlag_reports (s : Dev) (f : Fld) (i : Nat) (b : Bool) : (s.setFlag f i b).reports = s.reports := rfl
@[simp] theorem Dev.setFlag_corr (s : Dev) (f : Fld) (i : Nat) (b : Bool) : (s.setFlag f i b).corr = s.corr := rfl
@[simp] theorem Dev.setFlag_files (s : Dev) (f : Fld) (i : Nat) (b : Bool) : (s.setFlag f i b).files = s.files := rfl
@[simp] theorem Dev.setFlag_parts (s : Dev) (f : Fld) (i : Nat) (b : Bool) : (s.setFlag f i b).parts = s.parts := rfl
@[simp] theorem Dev.setFlag_queues (s : Dev) (f : Fld) (i : Nat) (b : Bool) : (s.setFlag f i b).queues = s.queues := rfl
@[simp] theorem Dev.setFlag_ctxs (s : Dev) (f : Fld) (i : Nat) (b : Bool) : (s.setFlag f i b).ctxs = s.ctxs := rfl
@[simp] theorem Dev.setFlag_deques (s : Dev) (f : Fld) (i : Nat) (b : Bool) : (s.setFlag f i b).deques = s.deques := rfl
@[simp] theorem Dev.setFlag_tableQs (s : Dev) (f : Fld) (i : Nat) (b : Bool) : (s.setFlag f i b).tableQs = s.tableQs := rfl
@[simp] theorem Dev.setFlag_arrays (s : Dev) (f : Fld) (i : Nat) (b : Bool) : (s.setFlag f i b).arrays = s.arrays := rfl
@[simp] theorem Dev.setFlag_cells (s : Dev) (f : Fld) (i : Nat) (b : Bool) : (s.setFlag f i b).cells = s.cells := rfl
@[simp] theorem Dev.setFlag_powering (s : Dev) (f : Fld) (i : Nat) (b : Bool) : (s.setFlag f i b).powering = s.powering := rfl
@[simp] theorem Dev.setFlag_dueTests (s : Dev) (f : Fld) (i : Nat) (b : Bool) : (s.setFlag f i b).dueTests = s.dueTests := rfl
@[simp] theorem Dev.setFlag_lastTests (s : Dev) (f : Fld) (i : Nat) (b : Bool) : (s.setFlag f i b).lastTests = s.lastTests := rfl
@[simp] theorem Dev.setFlag_padUsed (s : Dev) (f : Fld) (i : Nat) (b : Bool) : (s.setFlag f i b).padUsed = s.padUsed := rfl
@[simp] theorem Dev.setFlag_nseUsed (s : Dev) (f : Fld) (i : Nat) (b : Bool) : (s.setFlag f i b).nseUsed = s.nseUsed := rfl
@[simp] theorem Dev.setFlag_memKeys (s : Dev) (f : Fld) (i : Nat) (b : Bool) : (s.setFlag f i b).memKeys = s.memKeys := rfl
@[simp] theorem Dev.setFlag_vaults (s : Dev) (f : Fld) (i : Nat) (b : Bool) : (s.setFlag f i b).vaults = s.vaults := rfl
@[simp] theorem Dev.setFlag_boot (s : Dev) (f : Fld) (i : Nat) (b : Bool) : (s.setFlag f i b).boot = s.boot := rfl
@[simp] theorem Dev.setFlag_fused (s : Dev) (f : Fld) (i : Nat) (b : Bool) : (s.setFlag f i b).fused = s.fused := rfl
@[simp] theorem Dev.setFlag_dies (s : Dev) (f : Fld) (i : Nat) (b : Bool) : (s.setFlag f i b).dies = s.dies := rfl
@[simp] theorem Dev.setFlag_links (s : Dev) (f : Fld) (i : Nat) (b : Bool) : (s.setFlag f i b).links = s.links := rfl
@[simp] theorem Dev.setFlag_ports (s : Dev) (f : Fld) (i : Nat) (b : Bool) : (s.setFlag f i b).ports = s.ports := rfl
@[simp] theorem Dev.setFlag_fab (s : Dev) (f : Fld) (i : Nat) (b : Bool) : (s.setFlag f i b).fab = s.fab := rfl
@[simp] theorem Dev.setFlag_pci (s : Dev) (f : Fld) (i : Nat) (b : Bool) : (s.setFlag f i b).pci = s.pci := rfl
@[simp] theorem Dev.setFlag_att (s : Dev) (f : Fld) (i : Nat) (b : Bool) : (s.setFlag f i b).att = s.att := rfl
@[simp] theorem Dev.setFlag_pwr (s : Dev) (f : Fld) (i : Nat) (b : Bool) : (s.setFlag f i b).pwr = s.pwr := rfl
@[simp] theorem Dev.setFlag_pins (s : Dev) (f : Fld) (i : Nat) (b : Bool) : (s.setFlag f i b).pins = s.pins := rfl
@[simp] theorem Dev.setFlag_crashes (s : Dev) (f : Fld) (i : Nat) (b : Bool) : (s.setFlag f i b).crashes = s.crashes := rfl
@[simp] theorem Dev.setFlag_drain (s : Dev) (f : Fld) (i : Nat) (b : Bool) : (s.setFlag f i b).drain = s.drain := rfl
@[simp] theorem Dev.setFlag_out (s : Dev) (f : Fld) (i : Nat) (b : Bool) : (s.setFlag f i b).out = s.out := rfl

/-! count -/

@[simp] theorem Dev.count_time (s : Dev) (f : Fld) (i n : Nat) : (s.count f i n).time = s.time := rfl
@[simp] theorem Dev.count_draws (s : Dev) (f : Fld) (i n : Nat) : (s.count f i n).draws = s.draws := rfl
@[simp] theorem Dev.count_powerOns (s : Dev) (f : Fld) (i n : Nat) : (s.count f i n).powerOns = s.powerOns := rfl
@[simp] theorem Dev.count_mem (s : Dev) (f : Fld) (i n : Nat) : (s.count f i n).mem = s.mem := rfl
@[simp] theorem Dev.count_t2Units (s : Dev) (f : Fld) (i n : Nat) : (s.count f i n).t2Units = s.t2Units := rfl
@[simp] theorem Dev.count_ugenAll (s : Dev) (f : Fld) (i n : Nat) : (s.count f i n).ugenAll = s.ugenAll := rfl
@[simp] theorem Dev.count_ugen (s : Dev) (f : Fld) (i n : Nat) : (s.count f i n).ugen = s.ugen := rfl
@[simp] theorem Dev.count_ugenBase (s : Dev) (f : Fld) (i n : Nat) : (s.count f i n).ugenBase = s.ugenBase := rfl
@[simp] theorem Dev.count_t2Map (s : Dev) (f : Fld) (i n : Nat) : (s.count f i n).t2Map = s.t2Map := rfl
@[simp] theorem Dev.count_chans (s : Dev) (f : Fld) (i n : Nat) : (s.count f i n).chans = s.chans := rfl
@[simp] theorem Dev.count_hots (s : Dev) (f : Fld) (i n : Nat) : (s.count f i n).hots = s.hots := rfl
@[simp] theorem Dev.count_stampsDue (s : Dev) (f : Fld) (i n : Nat) : (s.count f i n).stampsDue = s.stampsDue := rfl
@[simp] theorem Dev.count_notices (s : Dev) (f : Fld) (i n : Nat) : (s.count f i n).notices = s.notices := rfl
@[simp] theorem Dev.count_mapouts (s : Dev) (f : Fld) (i n : Nat) : (s.count f i n).mapouts = s.mapouts := rfl
@[simp] theorem Dev.count_scs (s : Dev) (f : Fld) (i n : Nat) : (s.count f i n).scs = s.scs := rfl
@[simp] theorem Dev.count_scOut (s : Dev) (f : Fld) (i n : Nat) : (s.count f i n).scOut = s.scOut := rfl
@[simp] theorem Dev.count_padMarked (s : Dev) (f : Fld) (i n : Nat) : (s.count f i n).padMarked = s.padMarked := rfl
@[simp] theorem Dev.count_padCorr (s : Dev) (f : Fld) (i n : Nat) : (s.count f i n).padCorr = s.padCorr := rfl
@[simp] theorem Dev.count_padTaken (s : Dev) (f : Fld) (i n : Nat) : (s.count f i n).padTaken = s.padTaken := rfl
@[simp] theorem Dev.count_padAside (s : Dev) (f : Fld) (i n : Nat) : (s.count f i n).padAside = s.padAside := rfl
@[simp] theorem Dev.count_padSeat (s : Dev) (f : Fld) (i n : Nat) : (s.count f i n).padSeat = s.padSeat := rfl
@[simp] theorem Dev.count_applied (s : Dev) (f : Fld) (i n : Nat) : (s.count f i n).applied = s.applied := rfl
@[simp] theorem Dev.count_homes (s : Dev) (f : Fld) (i n : Nat) : (s.count f i n).homes = s.homes := rfl
@[simp] theorem Dev.count_gxGuard (s : Dev) (f : Fld) (i n : Nat) : (s.count f i n).gxGuard = s.gxGuard := rfl
@[simp] theorem Dev.count_l2s (s : Dev) (f : Fld) (i n : Nat) : (s.count f i n).l2s = s.l2s := rfl
@[simp] theorem Dev.count_ccs (s : Dev) (f : Fld) (i n : Nat) : (s.count f i n).ccs = s.ccs := rfl
@[simp] theorem Dev.count_harts (s : Dev) (f : Fld) (i n : Nat) : (s.count f i n).harts = s.harts := rfl
@[simp] theorem Dev.count_msis (s : Dev) (f : Fld) (i n : Nat) : (s.count f i n).msis = s.msis := rfl
@[simp] theorem Dev.count_msiRefused (s : Dev) (f : Fld) (i n : Nat) : (s.count f i n).msiRefused = s.msiRefused := rfl
@[simp] theorem Dev.count_doorbells (s : Dev) (f : Fld) (i n : Nat) : (s.count f i n).doorbells = s.doorbells := rfl
@[simp] theorem Dev.count_atcs (s : Dev) (f : Fld) (i n : Nat) : (s.count f i n).atcs = s.atcs := rfl
@[simp] theorem Dev.count_walks (s : Dev) (f : Fld) (i n : Nat) : (s.count f i n).walks = s.walks := rfl
@[simp] theorem Dev.count_wcache (s : Dev) (f : Fld) (i n : Nat) : (s.count f i n).wcache = s.wcache := rfl
@[simp] theorem Dev.count_prs (s : Dev) (f : Fld) (i n : Nat) : (s.count f i n).prs = s.prs := rfl
@[simp] theorem Dev.count_invs (s : Dev) (f : Fld) (i n : Nat) : (s.count f i n).invs = s.invs := rfl
@[simp] theorem Dev.count_engs (s : Dev) (f : Fld) (i n : Nat) : (s.count f i n).engs = s.engs := rfl
@[simp] theorem Dev.count_xfail (s : Dev) (f : Fld) (i n : Nat) : (s.count f i n).xfail = s.xfail := rfl
@[simp] theorem Dev.count_remQ (s : Dev) (f : Fld) (i n : Nat) : (s.count f i n).remQ = s.remQ := rfl
@[simp] theorem Dev.count_remSent (s : Dev) (f : Fld) (i n : Nat) : (s.count f i n).remSent = s.remSent := rfl
@[simp] theorem Dev.count_remDone (s : Dev) (f : Fld) (i n : Nat) : (s.count f i n).remDone = s.remDone := rfl
@[simp] theorem Dev.count_late (s : Dev) (f : Fld) (i n : Nat) : (s.count f i n).late = s.late := rfl
@[simp] theorem Dev.count_net (s : Dev) (f : Fld) (i n : Nat) : (s.count f i n).net = s.net := rfl
@[simp] theorem Dev.count_recs (s : Dev) (f : Fld) (i n : Nat) : (s.count f i n).recs = s.recs := rfl
@[simp] theorem Dev.count_reports (s : Dev) (f : Fld) (i n : Nat) : (s.count f i n).reports = s.reports := rfl
@[simp] theorem Dev.count_corr (s : Dev) (f : Fld) (i n : Nat) : (s.count f i n).corr = s.corr := rfl
@[simp] theorem Dev.count_files (s : Dev) (f : Fld) (i n : Nat) : (s.count f i n).files = s.files := rfl
@[simp] theorem Dev.count_parts (s : Dev) (f : Fld) (i n : Nat) : (s.count f i n).parts = s.parts := rfl
@[simp] theorem Dev.count_queues (s : Dev) (f : Fld) (i n : Nat) : (s.count f i n).queues = s.queues := rfl
@[simp] theorem Dev.count_ctxs (s : Dev) (f : Fld) (i n : Nat) : (s.count f i n).ctxs = s.ctxs := rfl
@[simp] theorem Dev.count_deques (s : Dev) (f : Fld) (i n : Nat) : (s.count f i n).deques = s.deques := rfl
@[simp] theorem Dev.count_tableQs (s : Dev) (f : Fld) (i n : Nat) : (s.count f i n).tableQs = s.tableQs := rfl
@[simp] theorem Dev.count_arrays (s : Dev) (f : Fld) (i n : Nat) : (s.count f i n).arrays = s.arrays := rfl
@[simp] theorem Dev.count_cells (s : Dev) (f : Fld) (i n : Nat) : (s.count f i n).cells = s.cells := rfl
@[simp] theorem Dev.count_powering (s : Dev) (f : Fld) (i n : Nat) : (s.count f i n).powering = s.powering := rfl
@[simp] theorem Dev.count_dueTests (s : Dev) (f : Fld) (i n : Nat) : (s.count f i n).dueTests = s.dueTests := rfl
@[simp] theorem Dev.count_lastTests (s : Dev) (f : Fld) (i n : Nat) : (s.count f i n).lastTests = s.lastTests := rfl
@[simp] theorem Dev.count_padUsed (s : Dev) (f : Fld) (i n : Nat) : (s.count f i n).padUsed = s.padUsed := rfl
@[simp] theorem Dev.count_nseUsed (s : Dev) (f : Fld) (i n : Nat) : (s.count f i n).nseUsed = s.nseUsed := rfl
@[simp] theorem Dev.count_memKeys (s : Dev) (f : Fld) (i n : Nat) : (s.count f i n).memKeys = s.memKeys := rfl
@[simp] theorem Dev.count_vaults (s : Dev) (f : Fld) (i n : Nat) : (s.count f i n).vaults = s.vaults := rfl
@[simp] theorem Dev.count_boot (s : Dev) (f : Fld) (i n : Nat) : (s.count f i n).boot = s.boot := rfl
@[simp] theorem Dev.count_fused (s : Dev) (f : Fld) (i n : Nat) : (s.count f i n).fused = s.fused := rfl
@[simp] theorem Dev.count_dies (s : Dev) (f : Fld) (i n : Nat) : (s.count f i n).dies = s.dies := rfl
@[simp] theorem Dev.count_links (s : Dev) (f : Fld) (i n : Nat) : (s.count f i n).links = s.links := rfl
@[simp] theorem Dev.count_ports (s : Dev) (f : Fld) (i n : Nat) : (s.count f i n).ports = s.ports := rfl
@[simp] theorem Dev.count_fab (s : Dev) (f : Fld) (i n : Nat) : (s.count f i n).fab = s.fab := rfl
@[simp] theorem Dev.count_pci (s : Dev) (f : Fld) (i n : Nat) : (s.count f i n).pci = s.pci := rfl
@[simp] theorem Dev.count_att (s : Dev) (f : Fld) (i n : Nat) : (s.count f i n).att = s.att := rfl
@[simp] theorem Dev.count_pwr (s : Dev) (f : Fld) (i n : Nat) : (s.count f i n).pwr = s.pwr := rfl
@[simp] theorem Dev.count_pins (s : Dev) (f : Fld) (i n : Nat) : (s.count f i n).pins = s.pins := rfl
@[simp] theorem Dev.count_crashes (s : Dev) (f : Fld) (i n : Nat) : (s.count f i n).crashes = s.crashes := rfl
@[simp] theorem Dev.count_drain (s : Dev) (f : Fld) (i n : Nat) : (s.count f i n).drain = s.drain := rfl
@[simp] theorem Dev.count_out (s : Dev) (f : Fld) (i n : Nat) : (s.count f i n).out = s.out := rfl

/-! bump -/

@[simp] theorem Dev.bump_time (s : Dev) (f : Fld) (i n : Nat) : (s.bump f i n).time = s.time := rfl
@[simp] theorem Dev.bump_draws (s : Dev) (f : Fld) (i n : Nat) : (s.bump f i n).draws = s.draws := rfl
@[simp] theorem Dev.bump_powerOns (s : Dev) (f : Fld) (i n : Nat) : (s.bump f i n).powerOns = s.powerOns := rfl
@[simp] theorem Dev.bump_mem (s : Dev) (f : Fld) (i n : Nat) : (s.bump f i n).mem = s.mem := rfl
@[simp] theorem Dev.bump_t2Units (s : Dev) (f : Fld) (i n : Nat) : (s.bump f i n).t2Units = s.t2Units := rfl
@[simp] theorem Dev.bump_ugenAll (s : Dev) (f : Fld) (i n : Nat) : (s.bump f i n).ugenAll = s.ugenAll := rfl
@[simp] theorem Dev.bump_ugen (s : Dev) (f : Fld) (i n : Nat) : (s.bump f i n).ugen = s.ugen := rfl
@[simp] theorem Dev.bump_ugenBase (s : Dev) (f : Fld) (i n : Nat) : (s.bump f i n).ugenBase = s.ugenBase := rfl
@[simp] theorem Dev.bump_t2Map (s : Dev) (f : Fld) (i n : Nat) : (s.bump f i n).t2Map = s.t2Map := rfl
@[simp] theorem Dev.bump_chans (s : Dev) (f : Fld) (i n : Nat) : (s.bump f i n).chans = s.chans := rfl
@[simp] theorem Dev.bump_hots (s : Dev) (f : Fld) (i n : Nat) : (s.bump f i n).hots = s.hots := rfl
@[simp] theorem Dev.bump_stampsDue (s : Dev) (f : Fld) (i n : Nat) : (s.bump f i n).stampsDue = s.stampsDue := rfl
@[simp] theorem Dev.bump_notices (s : Dev) (f : Fld) (i n : Nat) : (s.bump f i n).notices = s.notices := rfl
@[simp] theorem Dev.bump_mapouts (s : Dev) (f : Fld) (i n : Nat) : (s.bump f i n).mapouts = s.mapouts := rfl
@[simp] theorem Dev.bump_scs (s : Dev) (f : Fld) (i n : Nat) : (s.bump f i n).scs = s.scs := rfl
@[simp] theorem Dev.bump_scOut (s : Dev) (f : Fld) (i n : Nat) : (s.bump f i n).scOut = s.scOut := rfl
@[simp] theorem Dev.bump_padMarked (s : Dev) (f : Fld) (i n : Nat) : (s.bump f i n).padMarked = s.padMarked := rfl
@[simp] theorem Dev.bump_padCorr (s : Dev) (f : Fld) (i n : Nat) : (s.bump f i n).padCorr = s.padCorr := rfl
@[simp] theorem Dev.bump_padTaken (s : Dev) (f : Fld) (i n : Nat) : (s.bump f i n).padTaken = s.padTaken := rfl
@[simp] theorem Dev.bump_padAside (s : Dev) (f : Fld) (i n : Nat) : (s.bump f i n).padAside = s.padAside := rfl
@[simp] theorem Dev.bump_padSeat (s : Dev) (f : Fld) (i n : Nat) : (s.bump f i n).padSeat = s.padSeat := rfl
@[simp] theorem Dev.bump_applied (s : Dev) (f : Fld) (i n : Nat) : (s.bump f i n).applied = s.applied := rfl
@[simp] theorem Dev.bump_homes (s : Dev) (f : Fld) (i n : Nat) : (s.bump f i n).homes = s.homes := rfl
@[simp] theorem Dev.bump_gxGuard (s : Dev) (f : Fld) (i n : Nat) : (s.bump f i n).gxGuard = s.gxGuard := rfl
@[simp] theorem Dev.bump_l2s (s : Dev) (f : Fld) (i n : Nat) : (s.bump f i n).l2s = s.l2s := rfl
@[simp] theorem Dev.bump_ccs (s : Dev) (f : Fld) (i n : Nat) : (s.bump f i n).ccs = s.ccs := rfl
@[simp] theorem Dev.bump_harts (s : Dev) (f : Fld) (i n : Nat) : (s.bump f i n).harts = s.harts := rfl
@[simp] theorem Dev.bump_msis (s : Dev) (f : Fld) (i n : Nat) : (s.bump f i n).msis = s.msis := rfl
@[simp] theorem Dev.bump_msiRefused (s : Dev) (f : Fld) (i n : Nat) : (s.bump f i n).msiRefused = s.msiRefused := rfl
@[simp] theorem Dev.bump_doorbells (s : Dev) (f : Fld) (i n : Nat) : (s.bump f i n).doorbells = s.doorbells := rfl
@[simp] theorem Dev.bump_atcs (s : Dev) (f : Fld) (i n : Nat) : (s.bump f i n).atcs = s.atcs := rfl
@[simp] theorem Dev.bump_walks (s : Dev) (f : Fld) (i n : Nat) : (s.bump f i n).walks = s.walks := rfl
@[simp] theorem Dev.bump_wcache (s : Dev) (f : Fld) (i n : Nat) : (s.bump f i n).wcache = s.wcache := rfl
@[simp] theorem Dev.bump_prs (s : Dev) (f : Fld) (i n : Nat) : (s.bump f i n).prs = s.prs := rfl
@[simp] theorem Dev.bump_invs (s : Dev) (f : Fld) (i n : Nat) : (s.bump f i n).invs = s.invs := rfl
@[simp] theorem Dev.bump_engs (s : Dev) (f : Fld) (i n : Nat) : (s.bump f i n).engs = s.engs := rfl
@[simp] theorem Dev.bump_xfail (s : Dev) (f : Fld) (i n : Nat) : (s.bump f i n).xfail = s.xfail := rfl
@[simp] theorem Dev.bump_remQ (s : Dev) (f : Fld) (i n : Nat) : (s.bump f i n).remQ = s.remQ := rfl
@[simp] theorem Dev.bump_remSent (s : Dev) (f : Fld) (i n : Nat) : (s.bump f i n).remSent = s.remSent := rfl
@[simp] theorem Dev.bump_remDone (s : Dev) (f : Fld) (i n : Nat) : (s.bump f i n).remDone = s.remDone := rfl
@[simp] theorem Dev.bump_late (s : Dev) (f : Fld) (i n : Nat) : (s.bump f i n).late = s.late := rfl
@[simp] theorem Dev.bump_net (s : Dev) (f : Fld) (i n : Nat) : (s.bump f i n).net = s.net := rfl
@[simp] theorem Dev.bump_recs (s : Dev) (f : Fld) (i n : Nat) : (s.bump f i n).recs = s.recs := rfl
@[simp] theorem Dev.bump_reports (s : Dev) (f : Fld) (i n : Nat) : (s.bump f i n).reports = s.reports := rfl
@[simp] theorem Dev.bump_corr (s : Dev) (f : Fld) (i n : Nat) : (s.bump f i n).corr = s.corr := rfl
@[simp] theorem Dev.bump_files (s : Dev) (f : Fld) (i n : Nat) : (s.bump f i n).files = s.files := rfl
@[simp] theorem Dev.bump_parts (s : Dev) (f : Fld) (i n : Nat) : (s.bump f i n).parts = s.parts := rfl
@[simp] theorem Dev.bump_queues (s : Dev) (f : Fld) (i n : Nat) : (s.bump f i n).queues = s.queues := rfl
@[simp] theorem Dev.bump_ctxs (s : Dev) (f : Fld) (i n : Nat) : (s.bump f i n).ctxs = s.ctxs := rfl
@[simp] theorem Dev.bump_deques (s : Dev) (f : Fld) (i n : Nat) : (s.bump f i n).deques = s.deques := rfl
@[simp] theorem Dev.bump_tableQs (s : Dev) (f : Fld) (i n : Nat) : (s.bump f i n).tableQs = s.tableQs := rfl
@[simp] theorem Dev.bump_arrays (s : Dev) (f : Fld) (i n : Nat) : (s.bump f i n).arrays = s.arrays := rfl
@[simp] theorem Dev.bump_cells (s : Dev) (f : Fld) (i n : Nat) : (s.bump f i n).cells = s.cells := rfl
@[simp] theorem Dev.bump_powering (s : Dev) (f : Fld) (i n : Nat) : (s.bump f i n).powering = s.powering := rfl
@[simp] theorem Dev.bump_dueTests (s : Dev) (f : Fld) (i n : Nat) : (s.bump f i n).dueTests = s.dueTests := rfl
@[simp] theorem Dev.bump_lastTests (s : Dev) (f : Fld) (i n : Nat) : (s.bump f i n).lastTests = s.lastTests := rfl
@[simp] theorem Dev.bump_padUsed (s : Dev) (f : Fld) (i n : Nat) : (s.bump f i n).padUsed = s.padUsed := rfl
@[simp] theorem Dev.bump_nseUsed (s : Dev) (f : Fld) (i n : Nat) : (s.bump f i n).nseUsed = s.nseUsed := rfl
@[simp] theorem Dev.bump_memKeys (s : Dev) (f : Fld) (i n : Nat) : (s.bump f i n).memKeys = s.memKeys := rfl
@[simp] theorem Dev.bump_vaults (s : Dev) (f : Fld) (i n : Nat) : (s.bump f i n).vaults = s.vaults := rfl
@[simp] theorem Dev.bump_boot (s : Dev) (f : Fld) (i n : Nat) : (s.bump f i n).boot = s.boot := rfl
@[simp] theorem Dev.bump_fused (s : Dev) (f : Fld) (i n : Nat) : (s.bump f i n).fused = s.fused := rfl
@[simp] theorem Dev.bump_dies (s : Dev) (f : Fld) (i n : Nat) : (s.bump f i n).dies = s.dies := rfl
@[simp] theorem Dev.bump_links (s : Dev) (f : Fld) (i n : Nat) : (s.bump f i n).links = s.links := rfl
@[simp] theorem Dev.bump_ports (s : Dev) (f : Fld) (i n : Nat) : (s.bump f i n).ports = s.ports := rfl
@[simp] theorem Dev.bump_fab (s : Dev) (f : Fld) (i n : Nat) : (s.bump f i n).fab = s.fab := rfl
@[simp] theorem Dev.bump_pci (s : Dev) (f : Fld) (i n : Nat) : (s.bump f i n).pci = s.pci := rfl
@[simp] theorem Dev.bump_att (s : Dev) (f : Fld) (i n : Nat) : (s.bump f i n).att = s.att := rfl
@[simp] theorem Dev.bump_pwr (s : Dev) (f : Fld) (i n : Nat) : (s.bump f i n).pwr = s.pwr := rfl
@[simp] theorem Dev.bump_pins (s : Dev) (f : Fld) (i n : Nat) : (s.bump f i n).pins = s.pins := rfl
@[simp] theorem Dev.bump_crashes (s : Dev) (f : Fld) (i n : Nat) : (s.bump f i n).crashes = s.crashes := rfl
@[simp] theorem Dev.bump_drain (s : Dev) (f : Fld) (i n : Nat) : (s.bump f i n).drain = s.drain := rfl
@[simp] theorem Dev.bump_out (s : Dev) (f : Fld) (i n : Nat) : (s.bump f i n).out = s.out := rfl

/-! clearReg -/

@[simp] theorem Dev.clearReg_time (s : Dev) (r : RegName) (i : Nat) : (s.clearReg r i).time = s.time := rfl
@[simp] theorem Dev.clearReg_draws (s : Dev) (r : RegName) (i : Nat) : (s.clearReg r i).draws = s.draws := rfl
@[simp] theorem Dev.clearReg_powerOns (s : Dev) (r : RegName) (i : Nat) : (s.clearReg r i).powerOns = s.powerOns := rfl
@[simp] theorem Dev.clearReg_mem (s : Dev) (r : RegName) (i : Nat) : (s.clearReg r i).mem = s.mem := rfl
@[simp] theorem Dev.clearReg_t2Units (s : Dev) (r : RegName) (i : Nat) : (s.clearReg r i).t2Units = s.t2Units := rfl
@[simp] theorem Dev.clearReg_ugenAll (s : Dev) (r : RegName) (i : Nat) : (s.clearReg r i).ugenAll = s.ugenAll := rfl
@[simp] theorem Dev.clearReg_ugen (s : Dev) (r : RegName) (i : Nat) : (s.clearReg r i).ugen = s.ugen := rfl
@[simp] theorem Dev.clearReg_ugenBase (s : Dev) (r : RegName) (i : Nat) : (s.clearReg r i).ugenBase = s.ugenBase := rfl
@[simp] theorem Dev.clearReg_t2Map (s : Dev) (r : RegName) (i : Nat) : (s.clearReg r i).t2Map = s.t2Map := rfl
@[simp] theorem Dev.clearReg_chans (s : Dev) (r : RegName) (i : Nat) : (s.clearReg r i).chans = s.chans := rfl
@[simp] theorem Dev.clearReg_hots (s : Dev) (r : RegName) (i : Nat) : (s.clearReg r i).hots = s.hots := rfl
@[simp] theorem Dev.clearReg_stampsDue (s : Dev) (r : RegName) (i : Nat) : (s.clearReg r i).stampsDue = s.stampsDue := rfl
@[simp] theorem Dev.clearReg_notices (s : Dev) (r : RegName) (i : Nat) : (s.clearReg r i).notices = s.notices := rfl
@[simp] theorem Dev.clearReg_mapouts (s : Dev) (r : RegName) (i : Nat) : (s.clearReg r i).mapouts = s.mapouts := rfl
@[simp] theorem Dev.clearReg_scs (s : Dev) (r : RegName) (i : Nat) : (s.clearReg r i).scs = s.scs := rfl
@[simp] theorem Dev.clearReg_scOut (s : Dev) (r : RegName) (i : Nat) : (s.clearReg r i).scOut = s.scOut := rfl
@[simp] theorem Dev.clearReg_padMarked (s : Dev) (r : RegName) (i : Nat) : (s.clearReg r i).padMarked = s.padMarked := rfl
@[simp] theorem Dev.clearReg_padCorr (s : Dev) (r : RegName) (i : Nat) : (s.clearReg r i).padCorr = s.padCorr := rfl
@[simp] theorem Dev.clearReg_padTaken (s : Dev) (r : RegName) (i : Nat) : (s.clearReg r i).padTaken = s.padTaken := rfl
@[simp] theorem Dev.clearReg_padAside (s : Dev) (r : RegName) (i : Nat) : (s.clearReg r i).padAside = s.padAside := rfl
@[simp] theorem Dev.clearReg_padSeat (s : Dev) (r : RegName) (i : Nat) : (s.clearReg r i).padSeat = s.padSeat := rfl
@[simp] theorem Dev.clearReg_applied (s : Dev) (r : RegName) (i : Nat) : (s.clearReg r i).applied = s.applied := rfl
@[simp] theorem Dev.clearReg_homes (s : Dev) (r : RegName) (i : Nat) : (s.clearReg r i).homes = s.homes := rfl
@[simp] theorem Dev.clearReg_gxGuard (s : Dev) (r : RegName) (i : Nat) : (s.clearReg r i).gxGuard = s.gxGuard := rfl
@[simp] theorem Dev.clearReg_l2s (s : Dev) (r : RegName) (i : Nat) : (s.clearReg r i).l2s = s.l2s := rfl
@[simp] theorem Dev.clearReg_ccs (s : Dev) (r : RegName) (i : Nat) : (s.clearReg r i).ccs = s.ccs := rfl
@[simp] theorem Dev.clearReg_harts (s : Dev) (r : RegName) (i : Nat) : (s.clearReg r i).harts = s.harts := rfl
@[simp] theorem Dev.clearReg_msis (s : Dev) (r : RegName) (i : Nat) : (s.clearReg r i).msis = s.msis := rfl
@[simp] theorem Dev.clearReg_msiRefused (s : Dev) (r : RegName) (i : Nat) : (s.clearReg r i).msiRefused = s.msiRefused := rfl
@[simp] theorem Dev.clearReg_doorbells (s : Dev) (r : RegName) (i : Nat) : (s.clearReg r i).doorbells = s.doorbells := rfl
@[simp] theorem Dev.clearReg_atcs (s : Dev) (r : RegName) (i : Nat) : (s.clearReg r i).atcs = s.atcs := rfl
@[simp] theorem Dev.clearReg_walks (s : Dev) (r : RegName) (i : Nat) : (s.clearReg r i).walks = s.walks := rfl
@[simp] theorem Dev.clearReg_wcache (s : Dev) (r : RegName) (i : Nat) : (s.clearReg r i).wcache = s.wcache := rfl
@[simp] theorem Dev.clearReg_prs (s : Dev) (r : RegName) (i : Nat) : (s.clearReg r i).prs = s.prs := rfl
@[simp] theorem Dev.clearReg_invs (s : Dev) (r : RegName) (i : Nat) : (s.clearReg r i).invs = s.invs := rfl
@[simp] theorem Dev.clearReg_engs (s : Dev) (r : RegName) (i : Nat) : (s.clearReg r i).engs = s.engs := rfl
@[simp] theorem Dev.clearReg_xfail (s : Dev) (r : RegName) (i : Nat) : (s.clearReg r i).xfail = s.xfail := rfl
@[simp] theorem Dev.clearReg_remQ (s : Dev) (r : RegName) (i : Nat) : (s.clearReg r i).remQ = s.remQ := rfl
@[simp] theorem Dev.clearReg_remSent (s : Dev) (r : RegName) (i : Nat) : (s.clearReg r i).remSent = s.remSent := rfl
@[simp] theorem Dev.clearReg_remDone (s : Dev) (r : RegName) (i : Nat) : (s.clearReg r i).remDone = s.remDone := rfl
@[simp] theorem Dev.clearReg_late (s : Dev) (r : RegName) (i : Nat) : (s.clearReg r i).late = s.late := rfl
@[simp] theorem Dev.clearReg_net (s : Dev) (r : RegName) (i : Nat) : (s.clearReg r i).net = s.net := rfl
@[simp] theorem Dev.clearReg_recs (s : Dev) (r : RegName) (i : Nat) : (s.clearReg r i).recs = s.recs := rfl
@[simp] theorem Dev.clearReg_reports (s : Dev) (r : RegName) (i : Nat) : (s.clearReg r i).reports = s.reports := rfl
@[simp] theorem Dev.clearReg_corr (s : Dev) (r : RegName) (i : Nat) : (s.clearReg r i).corr = s.corr := rfl
@[simp] theorem Dev.clearReg_files (s : Dev) (r : RegName) (i : Nat) : (s.clearReg r i).files = s.files := rfl
@[simp] theorem Dev.clearReg_parts (s : Dev) (r : RegName) (i : Nat) : (s.clearReg r i).parts = s.parts := rfl
@[simp] theorem Dev.clearReg_queues (s : Dev) (r : RegName) (i : Nat) : (s.clearReg r i).queues = s.queues := rfl
@[simp] theorem Dev.clearReg_ctxs (s : Dev) (r : RegName) (i : Nat) : (s.clearReg r i).ctxs = s.ctxs := rfl
@[simp] theorem Dev.clearReg_deques (s : Dev) (r : RegName) (i : Nat) : (s.clearReg r i).deques = s.deques := rfl
@[simp] theorem Dev.clearReg_tableQs (s : Dev) (r : RegName) (i : Nat) : (s.clearReg r i).tableQs = s.tableQs := rfl
@[simp] theorem Dev.clearReg_arrays (s : Dev) (r : RegName) (i : Nat) : (s.clearReg r i).arrays = s.arrays := rfl
@[simp] theorem Dev.clearReg_cells (s : Dev) (r : RegName) (i : Nat) : (s.clearReg r i).cells = s.cells := rfl
@[simp] theorem Dev.clearReg_powering (s : Dev) (r : RegName) (i : Nat) : (s.clearReg r i).powering = s.powering := rfl
@[simp] theorem Dev.clearReg_dueTests (s : Dev) (r : RegName) (i : Nat) : (s.clearReg r i).dueTests = s.dueTests := rfl
@[simp] theorem Dev.clearReg_lastTests (s : Dev) (r : RegName) (i : Nat) : (s.clearReg r i).lastTests = s.lastTests := rfl
@[simp] theorem Dev.clearReg_padUsed (s : Dev) (r : RegName) (i : Nat) : (s.clearReg r i).padUsed = s.padUsed := rfl
@[simp] theorem Dev.clearReg_nseUsed (s : Dev) (r : RegName) (i : Nat) : (s.clearReg r i).nseUsed = s.nseUsed := rfl
@[simp] theorem Dev.clearReg_memKeys (s : Dev) (r : RegName) (i : Nat) : (s.clearReg r i).memKeys = s.memKeys := rfl
@[simp] theorem Dev.clearReg_vaults (s : Dev) (r : RegName) (i : Nat) : (s.clearReg r i).vaults = s.vaults := rfl
@[simp] theorem Dev.clearReg_boot (s : Dev) (r : RegName) (i : Nat) : (s.clearReg r i).boot = s.boot := rfl
@[simp] theorem Dev.clearReg_fused (s : Dev) (r : RegName) (i : Nat) : (s.clearReg r i).fused = s.fused := rfl
@[simp] theorem Dev.clearReg_dies (s : Dev) (r : RegName) (i : Nat) : (s.clearReg r i).dies = s.dies := rfl
@[simp] theorem Dev.clearReg_links (s : Dev) (r : RegName) (i : Nat) : (s.clearReg r i).links = s.links := rfl
@[simp] theorem Dev.clearReg_ports (s : Dev) (r : RegName) (i : Nat) : (s.clearReg r i).ports = s.ports := rfl
@[simp] theorem Dev.clearReg_fab (s : Dev) (r : RegName) (i : Nat) : (s.clearReg r i).fab = s.fab := rfl
@[simp] theorem Dev.clearReg_pci (s : Dev) (r : RegName) (i : Nat) : (s.clearReg r i).pci = s.pci := rfl
@[simp] theorem Dev.clearReg_att (s : Dev) (r : RegName) (i : Nat) : (s.clearReg r i).att = s.att := rfl
@[simp] theorem Dev.clearReg_pwr (s : Dev) (r : RegName) (i : Nat) : (s.clearReg r i).pwr = s.pwr := rfl
@[simp] theorem Dev.clearReg_pins (s : Dev) (r : RegName) (i : Nat) : (s.clearReg r i).pins = s.pins := rfl
@[simp] theorem Dev.clearReg_crashes (s : Dev) (r : RegName) (i : Nat) : (s.clearReg r i).crashes = s.crashes := rfl
@[simp] theorem Dev.clearReg_drain (s : Dev) (r : RegName) (i : Nat) : (s.clearReg r i).drain = s.drain := rfl
@[simp] theorem Dev.clearReg_out (s : Dev) (r : RegName) (i : Nat) : (s.clearReg r i).out = s.out := rfl

/-! emit -/

@[simp] theorem Dev.emit_time (s : Dev) (o : Out) : (s.emit o).time = s.time := rfl
@[simp] theorem Dev.emit_draws (s : Dev) (o : Out) : (s.emit o).draws = s.draws := rfl
@[simp] theorem Dev.emit_powerOns (s : Dev) (o : Out) : (s.emit o).powerOns = s.powerOns := rfl
@[simp] theorem Dev.emit_regs (s : Dev) (o : Out) : (s.emit o).regs = s.regs := rfl
@[simp] theorem Dev.emit_mem (s : Dev) (o : Out) : (s.emit o).mem = s.mem := rfl
@[simp] theorem Dev.emit_t2Units (s : Dev) (o : Out) : (s.emit o).t2Units = s.t2Units := rfl
@[simp] theorem Dev.emit_ugenAll (s : Dev) (o : Out) : (s.emit o).ugenAll = s.ugenAll := rfl
@[simp] theorem Dev.emit_ugen (s : Dev) (o : Out) : (s.emit o).ugen = s.ugen := rfl
@[simp] theorem Dev.emit_ugenBase (s : Dev) (o : Out) : (s.emit o).ugenBase = s.ugenBase := rfl
@[simp] theorem Dev.emit_t2Map (s : Dev) (o : Out) : (s.emit o).t2Map = s.t2Map := rfl
@[simp] theorem Dev.emit_chans (s : Dev) (o : Out) : (s.emit o).chans = s.chans := rfl
@[simp] theorem Dev.emit_hots (s : Dev) (o : Out) : (s.emit o).hots = s.hots := rfl
@[simp] theorem Dev.emit_stampsDue (s : Dev) (o : Out) : (s.emit o).stampsDue = s.stampsDue := rfl
@[simp] theorem Dev.emit_notices (s : Dev) (o : Out) : (s.emit o).notices = s.notices := rfl
@[simp] theorem Dev.emit_mapouts (s : Dev) (o : Out) : (s.emit o).mapouts = s.mapouts := rfl
@[simp] theorem Dev.emit_scs (s : Dev) (o : Out) : (s.emit o).scs = s.scs := rfl
@[simp] theorem Dev.emit_scOut (s : Dev) (o : Out) : (s.emit o).scOut = s.scOut := rfl
@[simp] theorem Dev.emit_padMarked (s : Dev) (o : Out) : (s.emit o).padMarked = s.padMarked := rfl
@[simp] theorem Dev.emit_padCorr (s : Dev) (o : Out) : (s.emit o).padCorr = s.padCorr := rfl
@[simp] theorem Dev.emit_padTaken (s : Dev) (o : Out) : (s.emit o).padTaken = s.padTaken := rfl
@[simp] theorem Dev.emit_padAside (s : Dev) (o : Out) : (s.emit o).padAside = s.padAside := rfl
@[simp] theorem Dev.emit_padSeat (s : Dev) (o : Out) : (s.emit o).padSeat = s.padSeat := rfl
@[simp] theorem Dev.emit_applied (s : Dev) (o : Out) : (s.emit o).applied = s.applied := rfl
@[simp] theorem Dev.emit_homes (s : Dev) (o : Out) : (s.emit o).homes = s.homes := rfl
@[simp] theorem Dev.emit_gxGuard (s : Dev) (o : Out) : (s.emit o).gxGuard = s.gxGuard := rfl
@[simp] theorem Dev.emit_l2s (s : Dev) (o : Out) : (s.emit o).l2s = s.l2s := rfl
@[simp] theorem Dev.emit_ccs (s : Dev) (o : Out) : (s.emit o).ccs = s.ccs := rfl
@[simp] theorem Dev.emit_harts (s : Dev) (o : Out) : (s.emit o).harts = s.harts := rfl
@[simp] theorem Dev.emit_msis (s : Dev) (o : Out) : (s.emit o).msis = s.msis := rfl
@[simp] theorem Dev.emit_msiRefused (s : Dev) (o : Out) : (s.emit o).msiRefused = s.msiRefused := rfl
@[simp] theorem Dev.emit_doorbells (s : Dev) (o : Out) : (s.emit o).doorbells = s.doorbells := rfl
@[simp] theorem Dev.emit_atcs (s : Dev) (o : Out) : (s.emit o).atcs = s.atcs := rfl
@[simp] theorem Dev.emit_walks (s : Dev) (o : Out) : (s.emit o).walks = s.walks := rfl
@[simp] theorem Dev.emit_wcache (s : Dev) (o : Out) : (s.emit o).wcache = s.wcache := rfl
@[simp] theorem Dev.emit_prs (s : Dev) (o : Out) : (s.emit o).prs = s.prs := rfl
@[simp] theorem Dev.emit_invs (s : Dev) (o : Out) : (s.emit o).invs = s.invs := rfl
@[simp] theorem Dev.emit_engs (s : Dev) (o : Out) : (s.emit o).engs = s.engs := rfl
@[simp] theorem Dev.emit_xfail (s : Dev) (o : Out) : (s.emit o).xfail = s.xfail := rfl
@[simp] theorem Dev.emit_remQ (s : Dev) (o : Out) : (s.emit o).remQ = s.remQ := rfl
@[simp] theorem Dev.emit_remSent (s : Dev) (o : Out) : (s.emit o).remSent = s.remSent := rfl
@[simp] theorem Dev.emit_remDone (s : Dev) (o : Out) : (s.emit o).remDone = s.remDone := rfl
@[simp] theorem Dev.emit_late (s : Dev) (o : Out) : (s.emit o).late = s.late := rfl
@[simp] theorem Dev.emit_net (s : Dev) (o : Out) : (s.emit o).net = s.net := rfl
@[simp] theorem Dev.emit_recs (s : Dev) (o : Out) : (s.emit o).recs = s.recs := rfl
@[simp] theorem Dev.emit_reports (s : Dev) (o : Out) : (s.emit o).reports = s.reports := rfl
@[simp] theorem Dev.emit_corr (s : Dev) (o : Out) : (s.emit o).corr = s.corr := rfl
@[simp] theorem Dev.emit_files (s : Dev) (o : Out) : (s.emit o).files = s.files := rfl
@[simp] theorem Dev.emit_parts (s : Dev) (o : Out) : (s.emit o).parts = s.parts := rfl
@[simp] theorem Dev.emit_queues (s : Dev) (o : Out) : (s.emit o).queues = s.queues := rfl
@[simp] theorem Dev.emit_ctxs (s : Dev) (o : Out) : (s.emit o).ctxs = s.ctxs := rfl
@[simp] theorem Dev.emit_deques (s : Dev) (o : Out) : (s.emit o).deques = s.deques := rfl
@[simp] theorem Dev.emit_tableQs (s : Dev) (o : Out) : (s.emit o).tableQs = s.tableQs := rfl
@[simp] theorem Dev.emit_arrays (s : Dev) (o : Out) : (s.emit o).arrays = s.arrays := rfl
@[simp] theorem Dev.emit_cells (s : Dev) (o : Out) : (s.emit o).cells = s.cells := rfl
@[simp] theorem Dev.emit_powering (s : Dev) (o : Out) : (s.emit o).powering = s.powering := rfl
@[simp] theorem Dev.emit_dueTests (s : Dev) (o : Out) : (s.emit o).dueTests = s.dueTests := rfl
@[simp] theorem Dev.emit_lastTests (s : Dev) (o : Out) : (s.emit o).lastTests = s.lastTests := rfl
@[simp] theorem Dev.emit_padUsed (s : Dev) (o : Out) : (s.emit o).padUsed = s.padUsed := rfl
@[simp] theorem Dev.emit_nseUsed (s : Dev) (o : Out) : (s.emit o).nseUsed = s.nseUsed := rfl
@[simp] theorem Dev.emit_memKeys (s : Dev) (o : Out) : (s.emit o).memKeys = s.memKeys := rfl
@[simp] theorem Dev.emit_vaults (s : Dev) (o : Out) : (s.emit o).vaults = s.vaults := rfl
@[simp] theorem Dev.emit_boot (s : Dev) (o : Out) : (s.emit o).boot = s.boot := rfl
@[simp] theorem Dev.emit_fused (s : Dev) (o : Out) : (s.emit o).fused = s.fused := rfl
@[simp] theorem Dev.emit_dies (s : Dev) (o : Out) : (s.emit o).dies = s.dies := rfl
@[simp] theorem Dev.emit_links (s : Dev) (o : Out) : (s.emit o).links = s.links := rfl
@[simp] theorem Dev.emit_ports (s : Dev) (o : Out) : (s.emit o).ports = s.ports := rfl
@[simp] theorem Dev.emit_fab (s : Dev) (o : Out) : (s.emit o).fab = s.fab := rfl
@[simp] theorem Dev.emit_pci (s : Dev) (o : Out) : (s.emit o).pci = s.pci := rfl
@[simp] theorem Dev.emit_att (s : Dev) (o : Out) : (s.emit o).att = s.att := rfl
@[simp] theorem Dev.emit_pwr (s : Dev) (o : Out) : (s.emit o).pwr = s.pwr := rfl
@[simp] theorem Dev.emit_pins (s : Dev) (o : Out) : (s.emit o).pins = s.pins := rfl
@[simp] theorem Dev.emit_crashes (s : Dev) (o : Out) : (s.emit o).crashes = s.crashes := rfl
@[simp] theorem Dev.emit_drain (s : Dev) (o : Out) : (s.emit o).drain = s.drain := rfl

/-! send -/

@[simp] theorem Dev.send_time (s : Dev) (m : NetMsg) : (s.send m).time = s.time := rfl
@[simp] theorem Dev.send_draws (s : Dev) (m : NetMsg) : (s.send m).draws = s.draws := rfl
@[simp] theorem Dev.send_powerOns (s : Dev) (m : NetMsg) : (s.send m).powerOns = s.powerOns := rfl
@[simp] theorem Dev.send_regs (s : Dev) (m : NetMsg) : (s.send m).regs = s.regs := rfl
@[simp] theorem Dev.send_mem (s : Dev) (m : NetMsg) : (s.send m).mem = s.mem := rfl
@[simp] theorem Dev.send_t2Units (s : Dev) (m : NetMsg) : (s.send m).t2Units = s.t2Units := rfl
@[simp] theorem Dev.send_ugenAll (s : Dev) (m : NetMsg) : (s.send m).ugenAll = s.ugenAll := rfl
@[simp] theorem Dev.send_ugen (s : Dev) (m : NetMsg) : (s.send m).ugen = s.ugen := rfl
@[simp] theorem Dev.send_ugenBase (s : Dev) (m : NetMsg) : (s.send m).ugenBase = s.ugenBase := rfl
@[simp] theorem Dev.send_t2Map (s : Dev) (m : NetMsg) : (s.send m).t2Map = s.t2Map := rfl
@[simp] theorem Dev.send_chans (s : Dev) (m : NetMsg) : (s.send m).chans = s.chans := rfl
@[simp] theorem Dev.send_hots (s : Dev) (m : NetMsg) : (s.send m).hots = s.hots := rfl
@[simp] theorem Dev.send_stampsDue (s : Dev) (m : NetMsg) : (s.send m).stampsDue = s.stampsDue := rfl
@[simp] theorem Dev.send_notices (s : Dev) (m : NetMsg) : (s.send m).notices = s.notices := rfl
@[simp] theorem Dev.send_mapouts (s : Dev) (m : NetMsg) : (s.send m).mapouts = s.mapouts := rfl
@[simp] theorem Dev.send_scs (s : Dev) (m : NetMsg) : (s.send m).scs = s.scs := rfl
@[simp] theorem Dev.send_scOut (s : Dev) (m : NetMsg) : (s.send m).scOut = s.scOut := rfl
@[simp] theorem Dev.send_padMarked (s : Dev) (m : NetMsg) : (s.send m).padMarked = s.padMarked := rfl
@[simp] theorem Dev.send_padCorr (s : Dev) (m : NetMsg) : (s.send m).padCorr = s.padCorr := rfl
@[simp] theorem Dev.send_padTaken (s : Dev) (m : NetMsg) : (s.send m).padTaken = s.padTaken := rfl
@[simp] theorem Dev.send_padAside (s : Dev) (m : NetMsg) : (s.send m).padAside = s.padAside := rfl
@[simp] theorem Dev.send_padSeat (s : Dev) (m : NetMsg) : (s.send m).padSeat = s.padSeat := rfl
@[simp] theorem Dev.send_applied (s : Dev) (m : NetMsg) : (s.send m).applied = s.applied := rfl
@[simp] theorem Dev.send_homes (s : Dev) (m : NetMsg) : (s.send m).homes = s.homes := rfl
@[simp] theorem Dev.send_gxGuard (s : Dev) (m : NetMsg) : (s.send m).gxGuard = s.gxGuard := rfl
@[simp] theorem Dev.send_l2s (s : Dev) (m : NetMsg) : (s.send m).l2s = s.l2s := rfl
@[simp] theorem Dev.send_ccs (s : Dev) (m : NetMsg) : (s.send m).ccs = s.ccs := rfl
@[simp] theorem Dev.send_harts (s : Dev) (m : NetMsg) : (s.send m).harts = s.harts := rfl
@[simp] theorem Dev.send_msis (s : Dev) (m : NetMsg) : (s.send m).msis = s.msis := rfl
@[simp] theorem Dev.send_msiRefused (s : Dev) (m : NetMsg) : (s.send m).msiRefused = s.msiRefused := rfl
@[simp] theorem Dev.send_doorbells (s : Dev) (m : NetMsg) : (s.send m).doorbells = s.doorbells := rfl
@[simp] theorem Dev.send_atcs (s : Dev) (m : NetMsg) : (s.send m).atcs = s.atcs := rfl
@[simp] theorem Dev.send_walks (s : Dev) (m : NetMsg) : (s.send m).walks = s.walks := rfl
@[simp] theorem Dev.send_wcache (s : Dev) (m : NetMsg) : (s.send m).wcache = s.wcache := rfl
@[simp] theorem Dev.send_prs (s : Dev) (m : NetMsg) : (s.send m).prs = s.prs := rfl
@[simp] theorem Dev.send_invs (s : Dev) (m : NetMsg) : (s.send m).invs = s.invs := rfl
@[simp] theorem Dev.send_engs (s : Dev) (m : NetMsg) : (s.send m).engs = s.engs := rfl
@[simp] theorem Dev.send_xfail (s : Dev) (m : NetMsg) : (s.send m).xfail = s.xfail := rfl
@[simp] theorem Dev.send_remQ (s : Dev) (m : NetMsg) : (s.send m).remQ = s.remQ := rfl
@[simp] theorem Dev.send_remSent (s : Dev) (m : NetMsg) : (s.send m).remSent = s.remSent := rfl
@[simp] theorem Dev.send_remDone (s : Dev) (m : NetMsg) : (s.send m).remDone = s.remDone := rfl
@[simp] theorem Dev.send_late (s : Dev) (m : NetMsg) : (s.send m).late = s.late := rfl
@[simp] theorem Dev.send_recs (s : Dev) (m : NetMsg) : (s.send m).recs = s.recs := rfl
@[simp] theorem Dev.send_reports (s : Dev) (m : NetMsg) : (s.send m).reports = s.reports := rfl
@[simp] theorem Dev.send_corr (s : Dev) (m : NetMsg) : (s.send m).corr = s.corr := rfl
@[simp] theorem Dev.send_files (s : Dev) (m : NetMsg) : (s.send m).files = s.files := rfl
@[simp] theorem Dev.send_parts (s : Dev) (m : NetMsg) : (s.send m).parts = s.parts := rfl
@[simp] theorem Dev.send_queues (s : Dev) (m : NetMsg) : (s.send m).queues = s.queues := rfl
@[simp] theorem Dev.send_ctxs (s : Dev) (m : NetMsg) : (s.send m).ctxs = s.ctxs := rfl
@[simp] theorem Dev.send_deques (s : Dev) (m : NetMsg) : (s.send m).deques = s.deques := rfl
@[simp] theorem Dev.send_tableQs (s : Dev) (m : NetMsg) : (s.send m).tableQs = s.tableQs := rfl
@[simp] theorem Dev.send_arrays (s : Dev) (m : NetMsg) : (s.send m).arrays = s.arrays := rfl
@[simp] theorem Dev.send_cells (s : Dev) (m : NetMsg) : (s.send m).cells = s.cells := rfl
@[simp] theorem Dev.send_powering (s : Dev) (m : NetMsg) : (s.send m).powering = s.powering := rfl
@[simp] theorem Dev.send_dueTests (s : Dev) (m : NetMsg) : (s.send m).dueTests = s.dueTests := rfl
@[simp] theorem Dev.send_lastTests (s : Dev) (m : NetMsg) : (s.send m).lastTests = s.lastTests := rfl
@[simp] theorem Dev.send_padUsed (s : Dev) (m : NetMsg) : (s.send m).padUsed = s.padUsed := rfl
@[simp] theorem Dev.send_nseUsed (s : Dev) (m : NetMsg) : (s.send m).nseUsed = s.nseUsed := rfl
@[simp] theorem Dev.send_memKeys (s : Dev) (m : NetMsg) : (s.send m).memKeys = s.memKeys := rfl
@[simp] theorem Dev.send_vaults (s : Dev) (m : NetMsg) : (s.send m).vaults = s.vaults := rfl
@[simp] theorem Dev.send_boot (s : Dev) (m : NetMsg) : (s.send m).boot = s.boot := rfl
@[simp] theorem Dev.send_fused (s : Dev) (m : NetMsg) : (s.send m).fused = s.fused := rfl
@[simp] theorem Dev.send_dies (s : Dev) (m : NetMsg) : (s.send m).dies = s.dies := rfl
@[simp] theorem Dev.send_links (s : Dev) (m : NetMsg) : (s.send m).links = s.links := rfl
@[simp] theorem Dev.send_ports (s : Dev) (m : NetMsg) : (s.send m).ports = s.ports := rfl
@[simp] theorem Dev.send_fab (s : Dev) (m : NetMsg) : (s.send m).fab = s.fab := rfl
@[simp] theorem Dev.send_pci (s : Dev) (m : NetMsg) : (s.send m).pci = s.pci := rfl
@[simp] theorem Dev.send_att (s : Dev) (m : NetMsg) : (s.send m).att = s.att := rfl
@[simp] theorem Dev.send_pwr (s : Dev) (m : NetMsg) : (s.send m).pwr = s.pwr := rfl
@[simp] theorem Dev.send_pins (s : Dev) (m : NetMsg) : (s.send m).pins = s.pins := rfl
@[simp] theorem Dev.send_crashes (s : Dev) (m : NetMsg) : (s.send m).crashes = s.crashes := rfl
@[simp] theorem Dev.send_drain (s : Dev) (m : NetMsg) : (s.send m).drain = s.drain := rfl
@[simp] theorem Dev.send_out (s : Dev) (m : NetMsg) : (s.send m).out = s.out := rfl

/-! setHart -/

@[simp] theorem Dev.setHart_time (s : Dev) (n : Nat) (x : Hart) : (s.setHart n x).time = s.time := rfl
@[simp] theorem Dev.setHart_draws (s : Dev) (n : Nat) (x : Hart) : (s.setHart n x).draws = s.draws := rfl
@[simp] theorem Dev.setHart_powerOns (s : Dev) (n : Nat) (x : Hart) : (s.setHart n x).powerOns = s.powerOns := rfl
@[simp] theorem Dev.setHart_regs (s : Dev) (n : Nat) (x : Hart) : (s.setHart n x).regs = s.regs := rfl
@[simp] theorem Dev.setHart_mem (s : Dev) (n : Nat) (x : Hart) : (s.setHart n x).mem = s.mem := rfl
@[simp] theorem Dev.setHart_t2Units (s : Dev) (n : Nat) (x : Hart) : (s.setHart n x).t2Units = s.t2Units := rfl
@[simp] theorem Dev.setHart_ugenAll (s : Dev) (n : Nat) (x : Hart) : (s.setHart n x).ugenAll = s.ugenAll := rfl
@[simp] theorem Dev.setHart_ugen (s : Dev) (n : Nat) (x : Hart) : (s.setHart n x).ugen = s.ugen := rfl
@[simp] theorem Dev.setHart_ugenBase (s : Dev) (n : Nat) (x : Hart) : (s.setHart n x).ugenBase = s.ugenBase := rfl
@[simp] theorem Dev.setHart_t2Map (s : Dev) (n : Nat) (x : Hart) : (s.setHart n x).t2Map = s.t2Map := rfl
@[simp] theorem Dev.setHart_chans (s : Dev) (n : Nat) (x : Hart) : (s.setHart n x).chans = s.chans := rfl
@[simp] theorem Dev.setHart_hots (s : Dev) (n : Nat) (x : Hart) : (s.setHart n x).hots = s.hots := rfl
@[simp] theorem Dev.setHart_stampsDue (s : Dev) (n : Nat) (x : Hart) : (s.setHart n x).stampsDue = s.stampsDue := rfl
@[simp] theorem Dev.setHart_notices (s : Dev) (n : Nat) (x : Hart) : (s.setHart n x).notices = s.notices := rfl
@[simp] theorem Dev.setHart_mapouts (s : Dev) (n : Nat) (x : Hart) : (s.setHart n x).mapouts = s.mapouts := rfl
@[simp] theorem Dev.setHart_scs (s : Dev) (n : Nat) (x : Hart) : (s.setHart n x).scs = s.scs := rfl
@[simp] theorem Dev.setHart_scOut (s : Dev) (n : Nat) (x : Hart) : (s.setHart n x).scOut = s.scOut := rfl
@[simp] theorem Dev.setHart_padMarked (s : Dev) (n : Nat) (x : Hart) : (s.setHart n x).padMarked = s.padMarked := rfl
@[simp] theorem Dev.setHart_padCorr (s : Dev) (n : Nat) (x : Hart) : (s.setHart n x).padCorr = s.padCorr := rfl
@[simp] theorem Dev.setHart_padTaken (s : Dev) (n : Nat) (x : Hart) : (s.setHart n x).padTaken = s.padTaken := rfl
@[simp] theorem Dev.setHart_padAside (s : Dev) (n : Nat) (x : Hart) : (s.setHart n x).padAside = s.padAside := rfl
@[simp] theorem Dev.setHart_padSeat (s : Dev) (n : Nat) (x : Hart) : (s.setHart n x).padSeat = s.padSeat := rfl
@[simp] theorem Dev.setHart_applied (s : Dev) (n : Nat) (x : Hart) : (s.setHart n x).applied = s.applied := rfl
@[simp] theorem Dev.setHart_homes (s : Dev) (n : Nat) (x : Hart) : (s.setHart n x).homes = s.homes := rfl
@[simp] theorem Dev.setHart_gxGuard (s : Dev) (n : Nat) (x : Hart) : (s.setHart n x).gxGuard = s.gxGuard := rfl
@[simp] theorem Dev.setHart_l2s (s : Dev) (n : Nat) (x : Hart) : (s.setHart n x).l2s = s.l2s := rfl
@[simp] theorem Dev.setHart_ccs (s : Dev) (n : Nat) (x : Hart) : (s.setHart n x).ccs = s.ccs := rfl
@[simp] theorem Dev.setHart_msis (s : Dev) (n : Nat) (x : Hart) : (s.setHart n x).msis = s.msis := rfl
@[simp] theorem Dev.setHart_msiRefused (s : Dev) (n : Nat) (x : Hart) : (s.setHart n x).msiRefused = s.msiRefused := rfl
@[simp] theorem Dev.setHart_doorbells (s : Dev) (n : Nat) (x : Hart) : (s.setHart n x).doorbells = s.doorbells := rfl
@[simp] theorem Dev.setHart_atcs (s : Dev) (n : Nat) (x : Hart) : (s.setHart n x).atcs = s.atcs := rfl
@[simp] theorem Dev.setHart_walks (s : Dev) (n : Nat) (x : Hart) : (s.setHart n x).walks = s.walks := rfl
@[simp] theorem Dev.setHart_wcache (s : Dev) (n : Nat) (x : Hart) : (s.setHart n x).wcache = s.wcache := rfl
@[simp] theorem Dev.setHart_prs (s : Dev) (n : Nat) (x : Hart) : (s.setHart n x).prs = s.prs := rfl
@[simp] theorem Dev.setHart_invs (s : Dev) (n : Nat) (x : Hart) : (s.setHart n x).invs = s.invs := rfl
@[simp] theorem Dev.setHart_engs (s : Dev) (n : Nat) (x : Hart) : (s.setHart n x).engs = s.engs := rfl
@[simp] theorem Dev.setHart_xfail (s : Dev) (n : Nat) (x : Hart) : (s.setHart n x).xfail = s.xfail := rfl
@[simp] theorem Dev.setHart_remQ (s : Dev) (n : Nat) (x : Hart) : (s.setHart n x).remQ = s.remQ := rfl
@[simp] theorem Dev.setHart_remSent (s : Dev) (n : Nat) (x : Hart) : (s.setHart n x).remSent = s.remSent := rfl
@[simp] theorem Dev.setHart_remDone (s : Dev) (n : Nat) (x : Hart) : (s.setHart n x).remDone = s.remDone := rfl
@[simp] theorem Dev.setHart_late (s : Dev) (n : Nat) (x : Hart) : (s.setHart n x).late = s.late := rfl
@[simp] theorem Dev.setHart_net (s : Dev) (n : Nat) (x : Hart) : (s.setHart n x).net = s.net := rfl
@[simp] theorem Dev.setHart_recs (s : Dev) (n : Nat) (x : Hart) : (s.setHart n x).recs = s.recs := rfl
@[simp] theorem Dev.setHart_reports (s : Dev) (n : Nat) (x : Hart) : (s.setHart n x).reports = s.reports := rfl
@[simp] theorem Dev.setHart_corr (s : Dev) (n : Nat) (x : Hart) : (s.setHart n x).corr = s.corr := rfl
@[simp] theorem Dev.setHart_files (s : Dev) (n : Nat) (x : Hart) : (s.setHart n x).files = s.files := rfl
@[simp] theorem Dev.setHart_parts (s : Dev) (n : Nat) (x : Hart) : (s.setHart n x).parts = s.parts := rfl
@[simp] theorem Dev.setHart_queues (s : Dev) (n : Nat) (x : Hart) : (s.setHart n x).queues = s.queues := rfl
@[simp] theorem Dev.setHart_ctxs (s : Dev) (n : Nat) (x : Hart) : (s.setHart n x).ctxs = s.ctxs := rfl
@[simp] theorem Dev.setHart_deques (s : Dev) (n : Nat) (x : Hart) : (s.setHart n x).deques = s.deques := rfl
@[simp] theorem Dev.setHart_tableQs (s : Dev) (n : Nat) (x : Hart) : (s.setHart n x).tableQs = s.tableQs := rfl
@[simp] theorem Dev.setHart_arrays (s : Dev) (n : Nat) (x : Hart) : (s.setHart n x).arrays = s.arrays := rfl
@[simp] theorem Dev.setHart_cells (s : Dev) (n : Nat) (x : Hart) : (s.setHart n x).cells = s.cells := rfl
@[simp] theorem Dev.setHart_powering (s : Dev) (n : Nat) (x : Hart) : (s.setHart n x).powering = s.powering := rfl
@[simp] theorem Dev.setHart_dueTests (s : Dev) (n : Nat) (x : Hart) : (s.setHart n x).dueTests = s.dueTests := rfl
@[simp] theorem Dev.setHart_lastTests (s : Dev) (n : Nat) (x : Hart) : (s.setHart n x).lastTests = s.lastTests := rfl
@[simp] theorem Dev.setHart_padUsed (s : Dev) (n : Nat) (x : Hart) : (s.setHart n x).padUsed = s.padUsed := rfl
@[simp] theorem Dev.setHart_nseUsed (s : Dev) (n : Nat) (x : Hart) : (s.setHart n x).nseUsed = s.nseUsed := rfl
@[simp] theorem Dev.setHart_memKeys (s : Dev) (n : Nat) (x : Hart) : (s.setHart n x).memKeys = s.memKeys := rfl
@[simp] theorem Dev.setHart_vaults (s : Dev) (n : Nat) (x : Hart) : (s.setHart n x).vaults = s.vaults := rfl
@[simp] theorem Dev.setHart_boot (s : Dev) (n : Nat) (x : Hart) : (s.setHart n x).boot = s.boot := rfl
@[simp] theorem Dev.setHart_fused (s : Dev) (n : Nat) (x : Hart) : (s.setHart n x).fused = s.fused := rfl
@[simp] theorem Dev.setHart_dies (s : Dev) (n : Nat) (x : Hart) : (s.setHart n x).dies = s.dies := rfl
@[simp] theorem Dev.setHart_links (s : Dev) (n : Nat) (x : Hart) : (s.setHart n x).links = s.links := rfl
@[simp] theorem Dev.setHart_ports (s : Dev) (n : Nat) (x : Hart) : (s.setHart n x).ports = s.ports := rfl
@[simp] theorem Dev.setHart_fab (s : Dev) (n : Nat) (x : Hart) : (s.setHart n x).fab = s.fab := rfl
@[simp] theorem Dev.setHart_pci (s : Dev) (n : Nat) (x : Hart) : (s.setHart n x).pci = s.pci := rfl
@[simp] theorem Dev.setHart_att (s : Dev) (n : Nat) (x : Hart) : (s.setHart n x).att = s.att := rfl
@[simp] theorem Dev.setHart_pwr (s : Dev) (n : Nat) (x : Hart) : (s.setHart n x).pwr = s.pwr := rfl
@[simp] theorem Dev.setHart_pins (s : Dev) (n : Nat) (x : Hart) : (s.setHart n x).pins = s.pins := rfl
@[simp] theorem Dev.setHart_crashes (s : Dev) (n : Nat) (x : Hart) : (s.setHart n x).crashes = s.crashes := rfl
@[simp] theorem Dev.setHart_drain (s : Dev) (n : Nat) (x : Hart) : (s.setHart n x).drain = s.drain := rfl
@[simp] theorem Dev.setHart_out (s : Dev) (n : Nat) (x : Hart) : (s.setHart n x).out = s.out := rfl

/-! setQueue -/

@[simp] theorem Dev.setQueue_time (s : Dev) (q : Nat) (x : QueueSt) : (s.setQueue q x).time = s.time := rfl
@[simp] theorem Dev.setQueue_draws (s : Dev) (q : Nat) (x : QueueSt) : (s.setQueue q x).draws = s.draws := rfl
@[simp] theorem Dev.setQueue_powerOns (s : Dev) (q : Nat) (x : QueueSt) : (s.setQueue q x).powerOns = s.powerOns := rfl
@[simp] theorem Dev.setQueue_regs (s : Dev) (q : Nat) (x : QueueSt) : (s.setQueue q x).regs = s.regs := rfl
@[simp] theorem Dev.setQueue_mem (s : Dev) (q : Nat) (x : QueueSt) : (s.setQueue q x).mem = s.mem := rfl
@[simp] theorem Dev.setQueue_t2Units (s : Dev) (q : Nat) (x : QueueSt) : (s.setQueue q x).t2Units = s.t2Units := rfl
@[simp] theorem Dev.setQueue_ugenAll (s : Dev) (q : Nat) (x : QueueSt) : (s.setQueue q x).ugenAll = s.ugenAll := rfl
@[simp] theorem Dev.setQueue_ugen (s : Dev) (q : Nat) (x : QueueSt) : (s.setQueue q x).ugen = s.ugen := rfl
@[simp] theorem Dev.setQueue_ugenBase (s : Dev) (q : Nat) (x : QueueSt) : (s.setQueue q x).ugenBase = s.ugenBase := rfl
@[simp] theorem Dev.setQueue_t2Map (s : Dev) (q : Nat) (x : QueueSt) : (s.setQueue q x).t2Map = s.t2Map := rfl
@[simp] theorem Dev.setQueue_chans (s : Dev) (q : Nat) (x : QueueSt) : (s.setQueue q x).chans = s.chans := rfl
@[simp] theorem Dev.setQueue_hots (s : Dev) (q : Nat) (x : QueueSt) : (s.setQueue q x).hots = s.hots := rfl
@[simp] theorem Dev.setQueue_stampsDue (s : Dev) (q : Nat) (x : QueueSt) : (s.setQueue q x).stampsDue = s.stampsDue := rfl
@[simp] theorem Dev.setQueue_notices (s : Dev) (q : Nat) (x : QueueSt) : (s.setQueue q x).notices = s.notices := rfl
@[simp] theorem Dev.setQueue_mapouts (s : Dev) (q : Nat) (x : QueueSt) : (s.setQueue q x).mapouts = s.mapouts := rfl
@[simp] theorem Dev.setQueue_scs (s : Dev) (q : Nat) (x : QueueSt) : (s.setQueue q x).scs = s.scs := rfl
@[simp] theorem Dev.setQueue_scOut (s : Dev) (q : Nat) (x : QueueSt) : (s.setQueue q x).scOut = s.scOut := rfl
@[simp] theorem Dev.setQueue_padMarked (s : Dev) (q : Nat) (x : QueueSt) : (s.setQueue q x).padMarked = s.padMarked := rfl
@[simp] theorem Dev.setQueue_padCorr (s : Dev) (q : Nat) (x : QueueSt) : (s.setQueue q x).padCorr = s.padCorr := rfl
@[simp] theorem Dev.setQueue_padTaken (s : Dev) (q : Nat) (x : QueueSt) : (s.setQueue q x).padTaken = s.padTaken := rfl
@[simp] theorem Dev.setQueue_padAside (s : Dev) (q : Nat) (x : QueueSt) : (s.setQueue q x).padAside = s.padAside := rfl
@[simp] theorem Dev.setQueue_padSeat (s : Dev) (q : Nat) (x : QueueSt) : (s.setQueue q x).padSeat = s.padSeat := rfl
@[simp] theorem Dev.setQueue_applied (s : Dev) (q : Nat) (x : QueueSt) : (s.setQueue q x).applied = s.applied := rfl
@[simp] theorem Dev.setQueue_homes (s : Dev) (q : Nat) (x : QueueSt) : (s.setQueue q x).homes = s.homes := rfl
@[simp] theorem Dev.setQueue_gxGuard (s : Dev) (q : Nat) (x : QueueSt) : (s.setQueue q x).gxGuard = s.gxGuard := rfl
@[simp] theorem Dev.setQueue_l2s (s : Dev) (q : Nat) (x : QueueSt) : (s.setQueue q x).l2s = s.l2s := rfl
@[simp] theorem Dev.setQueue_ccs (s : Dev) (q : Nat) (x : QueueSt) : (s.setQueue q x).ccs = s.ccs := rfl
@[simp] theorem Dev.setQueue_harts (s : Dev) (q : Nat) (x : QueueSt) : (s.setQueue q x).harts = s.harts := rfl
@[simp] theorem Dev.setQueue_msis (s : Dev) (q : Nat) (x : QueueSt) : (s.setQueue q x).msis = s.msis := rfl
@[simp] theorem Dev.setQueue_msiRefused (s : Dev) (q : Nat) (x : QueueSt) : (s.setQueue q x).msiRefused = s.msiRefused := rfl
@[simp] theorem Dev.setQueue_doorbells (s : Dev) (q : Nat) (x : QueueSt) : (s.setQueue q x).doorbells = s.doorbells := rfl
@[simp] theorem Dev.setQueue_atcs (s : Dev) (q : Nat) (x : QueueSt) : (s.setQueue q x).atcs = s.atcs := rfl
@[simp] theorem Dev.setQueue_walks (s : Dev) (q : Nat) (x : QueueSt) : (s.setQueue q x).walks = s.walks := rfl
@[simp] theorem Dev.setQueue_wcache (s : Dev) (q : Nat) (x : QueueSt) : (s.setQueue q x).wcache = s.wcache := rfl
@[simp] theorem Dev.setQueue_prs (s : Dev) (q : Nat) (x : QueueSt) : (s.setQueue q x).prs = s.prs := rfl
@[simp] theorem Dev.setQueue_invs (s : Dev) (q : Nat) (x : QueueSt) : (s.setQueue q x).invs = s.invs := rfl
@[simp] theorem Dev.setQueue_engs (s : Dev) (q : Nat) (x : QueueSt) : (s.setQueue q x).engs = s.engs := rfl
@[simp] theorem Dev.setQueue_xfail (s : Dev) (q : Nat) (x : QueueSt) : (s.setQueue q x).xfail = s.xfail := rfl
@[simp] theorem Dev.setQueue_remQ (s : Dev) (q : Nat) (x : QueueSt) : (s.setQueue q x).remQ = s.remQ := rfl
@[simp] theorem Dev.setQueue_remSent (s : Dev) (q : Nat) (x : QueueSt) : (s.setQueue q x).remSent = s.remSent := rfl
@[simp] theorem Dev.setQueue_remDone (s : Dev) (q : Nat) (x : QueueSt) : (s.setQueue q x).remDone = s.remDone := rfl
@[simp] theorem Dev.setQueue_late (s : Dev) (q : Nat) (x : QueueSt) : (s.setQueue q x).late = s.late := rfl
@[simp] theorem Dev.setQueue_net (s : Dev) (q : Nat) (x : QueueSt) : (s.setQueue q x).net = s.net := rfl
@[simp] theorem Dev.setQueue_recs (s : Dev) (q : Nat) (x : QueueSt) : (s.setQueue q x).recs = s.recs := rfl
@[simp] theorem Dev.setQueue_reports (s : Dev) (q : Nat) (x : QueueSt) : (s.setQueue q x).reports = s.reports := rfl
@[simp] theorem Dev.setQueue_corr (s : Dev) (q : Nat) (x : QueueSt) : (s.setQueue q x).corr = s.corr := rfl
@[simp] theorem Dev.setQueue_files (s : Dev) (q : Nat) (x : QueueSt) : (s.setQueue q x).files = s.files := rfl
@[simp] theorem Dev.setQueue_parts (s : Dev) (q : Nat) (x : QueueSt) : (s.setQueue q x).parts = s.parts := rfl
@[simp] theorem Dev.setQueue_ctxs (s : Dev) (q : Nat) (x : QueueSt) : (s.setQueue q x).ctxs = s.ctxs := rfl
@[simp] theorem Dev.setQueue_deques (s : Dev) (q : Nat) (x : QueueSt) : (s.setQueue q x).deques = s.deques := rfl
@[simp] theorem Dev.setQueue_tableQs (s : Dev) (q : Nat) (x : QueueSt) : (s.setQueue q x).tableQs = s.tableQs := rfl
@[simp] theorem Dev.setQueue_arrays (s : Dev) (q : Nat) (x : QueueSt) : (s.setQueue q x).arrays = s.arrays := rfl
@[simp] theorem Dev.setQueue_cells (s : Dev) (q : Nat) (x : QueueSt) : (s.setQueue q x).cells = s.cells := rfl
@[simp] theorem Dev.setQueue_powering (s : Dev) (q : Nat) (x : QueueSt) : (s.setQueue q x).powering = s.powering := rfl
@[simp] theorem Dev.setQueue_dueTests (s : Dev) (q : Nat) (x : QueueSt) : (s.setQueue q x).dueTests = s.dueTests := rfl
@[simp] theorem Dev.setQueue_lastTests (s : Dev) (q : Nat) (x : QueueSt) : (s.setQueue q x).lastTests = s.lastTests := rfl
@[simp] theorem Dev.setQueue_padUsed (s : Dev) (q : Nat) (x : QueueSt) : (s.setQueue q x).padUsed = s.padUsed := rfl
@[simp] theorem Dev.setQueue_nseUsed (s : Dev) (q : Nat) (x : QueueSt) : (s.setQueue q x).nseUsed = s.nseUsed := rfl
@[simp] theorem Dev.setQueue_memKeys (s : Dev) (q : Nat) (x : QueueSt) : (s.setQueue q x).memKeys = s.memKeys := rfl
@[simp] theorem Dev.setQueue_vaults (s : Dev) (q : Nat) (x : QueueSt) : (s.setQueue q x).vaults = s.vaults := rfl
@[simp] theorem Dev.setQueue_boot (s : Dev) (q : Nat) (x : QueueSt) : (s.setQueue q x).boot = s.boot := rfl
@[simp] theorem Dev.setQueue_fused (s : Dev) (q : Nat) (x : QueueSt) : (s.setQueue q x).fused = s.fused := rfl
@[simp] theorem Dev.setQueue_dies (s : Dev) (q : Nat) (x : QueueSt) : (s.setQueue q x).dies = s.dies := rfl
@[simp] theorem Dev.setQueue_links (s : Dev) (q : Nat) (x : QueueSt) : (s.setQueue q x).links = s.links := rfl
@[simp] theorem Dev.setQueue_ports (s : Dev) (q : Nat) (x : QueueSt) : (s.setQueue q x).ports = s.ports := rfl
@[simp] theorem Dev.setQueue_fab (s : Dev) (q : Nat) (x : QueueSt) : (s.setQueue q x).fab = s.fab := rfl
@[simp] theorem Dev.setQueue_pci (s : Dev) (q : Nat) (x : QueueSt) : (s.setQueue q x).pci = s.pci := rfl
@[simp] theorem Dev.setQueue_att (s : Dev) (q : Nat) (x : QueueSt) : (s.setQueue q x).att = s.att := rfl
@[simp] theorem Dev.setQueue_pwr (s : Dev) (q : Nat) (x : QueueSt) : (s.setQueue q x).pwr = s.pwr := rfl
@[simp] theorem Dev.setQueue_pins (s : Dev) (q : Nat) (x : QueueSt) : (s.setQueue q x).pins = s.pins := rfl
@[simp] theorem Dev.setQueue_crashes (s : Dev) (q : Nat) (x : QueueSt) : (s.setQueue q x).crashes = s.crashes := rfl
@[simp] theorem Dev.setQueue_drain (s : Dev) (q : Nat) (x : QueueSt) : (s.setQueue q x).drain = s.drain := rfl
@[simp] theorem Dev.setQueue_out (s : Dev) (q : Nat) (x : QueueSt) : (s.setQueue q x).out = s.out := rfl

/-! setCx -/

@[simp] theorem Dev.setCx_time (s : Dev) (c : Nat) (x : CtxSt) : (s.setCx c x).time = s.time := rfl
@[simp] theorem Dev.setCx_draws (s : Dev) (c : Nat) (x : CtxSt) : (s.setCx c x).draws = s.draws := rfl
@[simp] theorem Dev.setCx_powerOns (s : Dev) (c : Nat) (x : CtxSt) : (s.setCx c x).powerOns = s.powerOns := rfl
@[simp] theorem Dev.setCx_regs (s : Dev) (c : Nat) (x : CtxSt) : (s.setCx c x).regs = s.regs := rfl
@[simp] theorem Dev.setCx_mem (s : Dev) (c : Nat) (x : CtxSt) : (s.setCx c x).mem = s.mem := rfl
@[simp] theorem Dev.setCx_t2Units (s : Dev) (c : Nat) (x : CtxSt) : (s.setCx c x).t2Units = s.t2Units := rfl
@[simp] theorem Dev.setCx_ugenAll (s : Dev) (c : Nat) (x : CtxSt) : (s.setCx c x).ugenAll = s.ugenAll := rfl
@[simp] theorem Dev.setCx_ugen (s : Dev) (c : Nat) (x : CtxSt) : (s.setCx c x).ugen = s.ugen := rfl
@[simp] theorem Dev.setCx_ugenBase (s : Dev) (c : Nat) (x : CtxSt) : (s.setCx c x).ugenBase = s.ugenBase := rfl
@[simp] theorem Dev.setCx_t2Map (s : Dev) (c : Nat) (x : CtxSt) : (s.setCx c x).t2Map = s.t2Map := rfl
@[simp] theorem Dev.setCx_chans (s : Dev) (c : Nat) (x : CtxSt) : (s.setCx c x).chans = s.chans := rfl
@[simp] theorem Dev.setCx_hots (s : Dev) (c : Nat) (x : CtxSt) : (s.setCx c x).hots = s.hots := rfl
@[simp] theorem Dev.setCx_stampsDue (s : Dev) (c : Nat) (x : CtxSt) : (s.setCx c x).stampsDue = s.stampsDue := rfl
@[simp] theorem Dev.setCx_notices (s : Dev) (c : Nat) (x : CtxSt) : (s.setCx c x).notices = s.notices := rfl
@[simp] theorem Dev.setCx_mapouts (s : Dev) (c : Nat) (x : CtxSt) : (s.setCx c x).mapouts = s.mapouts := rfl
@[simp] theorem Dev.setCx_scs (s : Dev) (c : Nat) (x : CtxSt) : (s.setCx c x).scs = s.scs := rfl
@[simp] theorem Dev.setCx_scOut (s : Dev) (c : Nat) (x : CtxSt) : (s.setCx c x).scOut = s.scOut := rfl
@[simp] theorem Dev.setCx_padMarked (s : Dev) (c : Nat) (x : CtxSt) : (s.setCx c x).padMarked = s.padMarked := rfl
@[simp] theorem Dev.setCx_padCorr (s : Dev) (c : Nat) (x : CtxSt) : (s.setCx c x).padCorr = s.padCorr := rfl
@[simp] theorem Dev.setCx_padTaken (s : Dev) (c : Nat) (x : CtxSt) : (s.setCx c x).padTaken = s.padTaken := rfl
@[simp] theorem Dev.setCx_padAside (s : Dev) (c : Nat) (x : CtxSt) : (s.setCx c x).padAside = s.padAside := rfl
@[simp] theorem Dev.setCx_padSeat (s : Dev) (c : Nat) (x : CtxSt) : (s.setCx c x).padSeat = s.padSeat := rfl
@[simp] theorem Dev.setCx_applied (s : Dev) (c : Nat) (x : CtxSt) : (s.setCx c x).applied = s.applied := rfl
@[simp] theorem Dev.setCx_homes (s : Dev) (c : Nat) (x : CtxSt) : (s.setCx c x).homes = s.homes := rfl
@[simp] theorem Dev.setCx_gxGuard (s : Dev) (c : Nat) (x : CtxSt) : (s.setCx c x).gxGuard = s.gxGuard := rfl
@[simp] theorem Dev.setCx_l2s (s : Dev) (c : Nat) (x : CtxSt) : (s.setCx c x).l2s = s.l2s := rfl
@[simp] theorem Dev.setCx_ccs (s : Dev) (c : Nat) (x : CtxSt) : (s.setCx c x).ccs = s.ccs := rfl
@[simp] theorem Dev.setCx_harts (s : Dev) (c : Nat) (x : CtxSt) : (s.setCx c x).harts = s.harts := rfl
@[simp] theorem Dev.setCx_msis (s : Dev) (c : Nat) (x : CtxSt) : (s.setCx c x).msis = s.msis := rfl
@[simp] theorem Dev.setCx_msiRefused (s : Dev) (c : Nat) (x : CtxSt) : (s.setCx c x).msiRefused = s.msiRefused := rfl
@[simp] theorem Dev.setCx_doorbells (s : Dev) (c : Nat) (x : CtxSt) : (s.setCx c x).doorbells = s.doorbells := rfl
@[simp] theorem Dev.setCx_atcs (s : Dev) (c : Nat) (x : CtxSt) : (s.setCx c x).atcs = s.atcs := rfl
@[simp] theorem Dev.setCx_walks (s : Dev) (c : Nat) (x : CtxSt) : (s.setCx c x).walks = s.walks := rfl
@[simp] theorem Dev.setCx_wcache (s : Dev) (c : Nat) (x : CtxSt) : (s.setCx c x).wcache = s.wcache := rfl
@[simp] theorem Dev.setCx_prs (s : Dev) (c : Nat) (x : CtxSt) : (s.setCx c x).prs = s.prs := rfl
@[simp] theorem Dev.setCx_invs (s : Dev) (c : Nat) (x : CtxSt) : (s.setCx c x).invs = s.invs := rfl
@[simp] theorem Dev.setCx_engs (s : Dev) (c : Nat) (x : CtxSt) : (s.setCx c x).engs = s.engs := rfl
@[simp] theorem Dev.setCx_xfail (s : Dev) (c : Nat) (x : CtxSt) : (s.setCx c x).xfail = s.xfail := rfl
@[simp] theorem Dev.setCx_remQ (s : Dev) (c : Nat) (x : CtxSt) : (s.setCx c x).remQ = s.remQ := rfl
@[simp] theorem Dev.setCx_remSent (s : Dev) (c : Nat) (x : CtxSt) : (s.setCx c x).remSent = s.remSent := rfl
@[simp] theorem Dev.setCx_remDone (s : Dev) (c : Nat) (x : CtxSt) : (s.setCx c x).remDone = s.remDone := rfl
@[simp] theorem Dev.setCx_late (s : Dev) (c : Nat) (x : CtxSt) : (s.setCx c x).late = s.late := rfl
@[simp] theorem Dev.setCx_net (s : Dev) (c : Nat) (x : CtxSt) : (s.setCx c x).net = s.net := rfl
@[simp] theorem Dev.setCx_recs (s : Dev) (c : Nat) (x : CtxSt) : (s.setCx c x).recs = s.recs := rfl
@[simp] theorem Dev.setCx_reports (s : Dev) (c : Nat) (x : CtxSt) : (s.setCx c x).reports = s.reports := rfl
@[simp] theorem Dev.setCx_corr (s : Dev) (c : Nat) (x : CtxSt) : (s.setCx c x).corr = s.corr := rfl
@[simp] theorem Dev.setCx_files (s : Dev) (c : Nat) (x : CtxSt) : (s.setCx c x).files = s.files := rfl
@[simp] theorem Dev.setCx_parts (s : Dev) (c : Nat) (x : CtxSt) : (s.setCx c x).parts = s.parts := rfl
@[simp] theorem Dev.setCx_queues (s : Dev) (c : Nat) (x : CtxSt) : (s.setCx c x).queues = s.queues := rfl
@[simp] theorem Dev.setCx_deques (s : Dev) (c : Nat) (x : CtxSt) : (s.setCx c x).deques = s.deques := rfl
@[simp] theorem Dev.setCx_tableQs (s : Dev) (c : Nat) (x : CtxSt) : (s.setCx c x).tableQs = s.tableQs := rfl
@[simp] theorem Dev.setCx_arrays (s : Dev) (c : Nat) (x : CtxSt) : (s.setCx c x).arrays = s.arrays := rfl
@[simp] theorem Dev.setCx_cells (s : Dev) (c : Nat) (x : CtxSt) : (s.setCx c x).cells = s.cells := rfl
@[simp] theorem Dev.setCx_powering (s : Dev) (c : Nat) (x : CtxSt) : (s.setCx c x).powering = s.powering := rfl
@[simp] theorem Dev.setCx_dueTests (s : Dev) (c : Nat) (x : CtxSt) : (s.setCx c x).dueTests = s.dueTests := rfl
@[simp] theorem Dev.setCx_lastTests (s : Dev) (c : Nat) (x : CtxSt) : (s.setCx c x).lastTests = s.lastTests := rfl
@[simp] theorem Dev.setCx_padUsed (s : Dev) (c : Nat) (x : CtxSt) : (s.setCx c x).padUsed = s.padUsed := rfl
@[simp] theorem Dev.setCx_nseUsed (s : Dev) (c : Nat) (x : CtxSt) : (s.setCx c x).nseUsed = s.nseUsed := rfl
@[simp] theorem Dev.setCx_memKeys (s : Dev) (c : Nat) (x : CtxSt) : (s.setCx c x).memKeys = s.memKeys := rfl
@[simp] theorem Dev.setCx_vaults (s : Dev) (c : Nat) (x : CtxSt) : (s.setCx c x).vaults = s.vaults := rfl
@[simp] theorem Dev.setCx_boot (s : Dev) (c : Nat) (x : CtxSt) : (s.setCx c x).boot = s.boot := rfl
@[simp] theorem Dev.setCx_fused (s : Dev) (c : Nat) (x : CtxSt) : (s.setCx c x).fused = s.fused := rfl
@[simp] theorem Dev.setCx_dies (s : Dev) (c : Nat) (x : CtxSt) : (s.setCx c x).dies = s.dies := rfl
@[simp] theorem Dev.setCx_links (s : Dev) (c : Nat) (x : CtxSt) : (s.setCx c x).links = s.links := rfl
@[simp] theorem Dev.setCx_ports (s : Dev) (c : Nat) (x : CtxSt) : (s.setCx c x).ports = s.ports := rfl
@[simp] theorem Dev.setCx_fab (s : Dev) (c : Nat) (x : CtxSt) : (s.setCx c x).fab = s.fab := rfl
@[simp] theorem Dev.setCx_pci (s : Dev) (c : Nat) (x : CtxSt) : (s.setCx c x).pci = s.pci := rfl
@[simp] theorem Dev.setCx_att (s : Dev) (c : Nat) (x : CtxSt) : (s.setCx c x).att = s.att := rfl
@[simp] theorem Dev.setCx_pwr (s : Dev) (c : Nat) (x : CtxSt) : (s.setCx c x).pwr = s.pwr := rfl
@[simp] theorem Dev.setCx_pins (s : Dev) (c : Nat) (x : CtxSt) : (s.setCx c x).pins = s.pins := rfl
@[simp] theorem Dev.setCx_crashes (s : Dev) (c : Nat) (x : CtxSt) : (s.setCx c x).crashes = s.crashes := rfl
@[simp] theorem Dev.setCx_drain (s : Dev) (c : Nat) (x : CtxSt) : (s.setCx c x).drain = s.drain := rfl
@[simp] theorem Dev.setCx_out (s : Dev) (c : Nat) (x : CtxSt) : (s.setCx c x).out = s.out := rfl

/-! setPartSt -/

@[simp] theorem Dev.setPartSt_time (s : Dev) (p : Nat) (x : PartSt) : (s.setPartSt p x).time = s.time := rfl
@[simp] theorem Dev.setPartSt_draws (s : Dev) (p : Nat) (x : PartSt) : (s.setPartSt p x).draws = s.draws := rfl
@[simp] theorem Dev.setPartSt_powerOns (s : Dev) (p : Nat) (x : PartSt) : (s.setPartSt p x).powerOns = s.powerOns := rfl
@[simp] theorem Dev.setPartSt_regs (s : Dev) (p : Nat) (x : PartSt) : (s.setPartSt p x).regs = s.regs := rfl
@[simp] theorem Dev.setPartSt_mem (s : Dev) (p : Nat) (x : PartSt) : (s.setPartSt p x).mem = s.mem := rfl
@[simp] theorem Dev.setPartSt_t2Units (s : Dev) (p : Nat) (x : PartSt) : (s.setPartSt p x).t2Units = s.t2Units := rfl
@[simp] theorem Dev.setPartSt_ugenAll (s : Dev) (p : Nat) (x : PartSt) : (s.setPartSt p x).ugenAll = s.ugenAll := rfl
@[simp] theorem Dev.setPartSt_ugen (s : Dev) (p : Nat) (x : PartSt) : (s.setPartSt p x).ugen = s.ugen := rfl
@[simp] theorem Dev.setPartSt_ugenBase (s : Dev) (p : Nat) (x : PartSt) : (s.setPartSt p x).ugenBase = s.ugenBase := rfl
@[simp] theorem Dev.setPartSt_t2Map (s : Dev) (p : Nat) (x : PartSt) : (s.setPartSt p x).t2Map = s.t2Map := rfl
@[simp] theorem Dev.setPartSt_chans (s : Dev) (p : Nat) (x : PartSt) : (s.setPartSt p x).chans = s.chans := rfl
@[simp] theorem Dev.setPartSt_hots (s : Dev) (p : Nat) (x : PartSt) : (s.setPartSt p x).hots = s.hots := rfl
@[simp] theorem Dev.setPartSt_stampsDue (s : Dev) (p : Nat) (x : PartSt) : (s.setPartSt p x).stampsDue = s.stampsDue := rfl
@[simp] theorem Dev.setPartSt_notices (s : Dev) (p : Nat) (x : PartSt) : (s.setPartSt p x).notices = s.notices := rfl
@[simp] theorem Dev.setPartSt_mapouts (s : Dev) (p : Nat) (x : PartSt) : (s.setPartSt p x).mapouts = s.mapouts := rfl
@[simp] theorem Dev.setPartSt_scs (s : Dev) (p : Nat) (x : PartSt) : (s.setPartSt p x).scs = s.scs := rfl
@[simp] theorem Dev.setPartSt_scOut (s : Dev) (p : Nat) (x : PartSt) : (s.setPartSt p x).scOut = s.scOut := rfl
@[simp] theorem Dev.setPartSt_padMarked (s : Dev) (p : Nat) (x : PartSt) : (s.setPartSt p x).padMarked = s.padMarked := rfl
@[simp] theorem Dev.setPartSt_padCorr (s : Dev) (p : Nat) (x : PartSt) : (s.setPartSt p x).padCorr = s.padCorr := rfl
@[simp] theorem Dev.setPartSt_padTaken (s : Dev) (p : Nat) (x : PartSt) : (s.setPartSt p x).padTaken = s.padTaken := rfl
@[simp] theorem Dev.setPartSt_padAside (s : Dev) (p : Nat) (x : PartSt) : (s.setPartSt p x).padAside = s.padAside := rfl
@[simp] theorem Dev.setPartSt_padSeat (s : Dev) (p : Nat) (x : PartSt) : (s.setPartSt p x).padSeat = s.padSeat := rfl
@[simp] theorem Dev.setPartSt_applied (s : Dev) (p : Nat) (x : PartSt) : (s.setPartSt p x).applied = s.applied := rfl
@[simp] theorem Dev.setPartSt_homes (s : Dev) (p : Nat) (x : PartSt) : (s.setPartSt p x).homes = s.homes := rfl
@[simp] theorem Dev.setPartSt_gxGuard (s : Dev) (p : Nat) (x : PartSt) : (s.setPartSt p x).gxGuard = s.gxGuard := rfl
@[simp] theorem Dev.setPartSt_l2s (s : Dev) (p : Nat) (x : PartSt) : (s.setPartSt p x).l2s = s.l2s := rfl
@[simp] theorem Dev.setPartSt_ccs (s : Dev) (p : Nat) (x : PartSt) : (s.setPartSt p x).ccs = s.ccs := rfl
@[simp] theorem Dev.setPartSt_harts (s : Dev) (p : Nat) (x : PartSt) : (s.setPartSt p x).harts = s.harts := rfl
@[simp] theorem Dev.setPartSt_msis (s : Dev) (p : Nat) (x : PartSt) : (s.setPartSt p x).msis = s.msis := rfl
@[simp] theorem Dev.setPartSt_msiRefused (s : Dev) (p : Nat) (x : PartSt) : (s.setPartSt p x).msiRefused = s.msiRefused := rfl
@[simp] theorem Dev.setPartSt_doorbells (s : Dev) (p : Nat) (x : PartSt) : (s.setPartSt p x).doorbells = s.doorbells := rfl
@[simp] theorem Dev.setPartSt_atcs (s : Dev) (p : Nat) (x : PartSt) : (s.setPartSt p x).atcs = s.atcs := rfl
@[simp] theorem Dev.setPartSt_walks (s : Dev) (p : Nat) (x : PartSt) : (s.setPartSt p x).walks = s.walks := rfl
@[simp] theorem Dev.setPartSt_wcache (s : Dev) (p : Nat) (x : PartSt) : (s.setPartSt p x).wcache = s.wcache := rfl
@[simp] theorem Dev.setPartSt_prs (s : Dev) (p : Nat) (x : PartSt) : (s.setPartSt p x).prs = s.prs := rfl
@[simp] theorem Dev.setPartSt_invs (s : Dev) (p : Nat) (x : PartSt) : (s.setPartSt p x).invs = s.invs := rfl
@[simp] theorem Dev.setPartSt_engs (s : Dev) (p : Nat) (x : PartSt) : (s.setPartSt p x).engs = s.engs := rfl
@[simp] theorem Dev.setPartSt_xfail (s : Dev) (p : Nat) (x : PartSt) : (s.setPartSt p x).xfail = s.xfail := rfl
@[simp] theorem Dev.setPartSt_remQ (s : Dev) (p : Nat) (x : PartSt) : (s.setPartSt p x).remQ = s.remQ := rfl
@[simp] theorem Dev.setPartSt_remSent (s : Dev) (p : Nat) (x : PartSt) : (s.setPartSt p x).remSent = s.remSent := rfl
@[simp] theorem Dev.setPartSt_remDone (s : Dev) (p : Nat) (x : PartSt) : (s.setPartSt p x).remDone = s.remDone := rfl
@[simp] theorem Dev.setPartSt_late (s : Dev) (p : Nat) (x : PartSt) : (s.setPartSt p x).late = s.late := rfl
@[simp] theorem Dev.setPartSt_net (s : Dev) (p : Nat) (x : PartSt) : (s.setPartSt p x).net = s.net := rfl
@[simp] theorem Dev.setPartSt_recs (s : Dev) (p : Nat) (x : PartSt) : (s.setPartSt p x).recs = s.recs := rfl
@[simp] theorem Dev.setPartSt_reports (s : Dev) (p : Nat) (x : PartSt) : (s.setPartSt p x).reports = s.reports := rfl
@[simp] theorem Dev.setPartSt_corr (s : Dev) (p : Nat) (x : PartSt) : (s.setPartSt p x).corr = s.corr := rfl
@[simp] theorem Dev.setPartSt_files (s : Dev) (p : Nat) (x : PartSt) : (s.setPartSt p x).files = s.files := rfl
@[simp] theorem Dev.setPartSt_queues (s : Dev) (p : Nat) (x : PartSt) : (s.setPartSt p x).queues = s.queues := rfl
@[simp] theorem Dev.setPartSt_ctxs (s : Dev) (p : Nat) (x : PartSt) : (s.setPartSt p x).ctxs = s.ctxs := rfl
@[simp] theorem Dev.setPartSt_deques (s : Dev) (p : Nat) (x : PartSt) : (s.setPartSt p x).deques = s.deques := rfl
@[simp] theorem Dev.setPartSt_tableQs (s : Dev) (p : Nat) (x : PartSt) : (s.setPartSt p x).tableQs = s.tableQs := rfl
@[simp] theorem Dev.setPartSt_arrays (s : Dev) (p : Nat) (x : PartSt) : (s.setPartSt p x).arrays = s.arrays := rfl
@[simp] theorem Dev.setPartSt_cells (s : Dev) (p : Nat) (x : PartSt) : (s.setPartSt p x).cells = s.cells := rfl
@[simp] theorem Dev.setPartSt_powering (s : Dev) (p : Nat) (x : PartSt) : (s.setPartSt p x).powering = s.powering := rfl
@[simp] theorem Dev.setPartSt_dueTests (s : Dev) (p : Nat) (x : PartSt) : (s.setPartSt p x).dueTests = s.dueTests := rfl
@[simp] theorem Dev.setPartSt_lastTests (s : Dev) (p : Nat) (x : PartSt) : (s.setPartSt p x).lastTests = s.lastTests := rfl
@[simp] theorem Dev.setPartSt_padUsed (s : Dev) (p : Nat) (x : PartSt) : (s.setPartSt p x).padUsed = s.padUsed := rfl
@[simp] theorem Dev.setPartSt_nseUsed (s : Dev) (p : Nat) (x : PartSt) : (s.setPartSt p x).nseUsed = s.nseUsed := rfl
@[simp] theorem Dev.setPartSt_memKeys (s : Dev) (p : Nat) (x : PartSt) : (s.setPartSt p x).memKeys = s.memKeys := rfl
@[simp] theorem Dev.setPartSt_vaults (s : Dev) (p : Nat) (x : PartSt) : (s.setPartSt p x).vaults = s.vaults := rfl
@[simp] theorem Dev.setPartSt_boot (s : Dev) (p : Nat) (x : PartSt) : (s.setPartSt p x).boot = s.boot := rfl
@[simp] theorem Dev.setPartSt_fused (s : Dev) (p : Nat) (x : PartSt) : (s.setPartSt p x).fused = s.fused := rfl
@[simp] theorem Dev.setPartSt_dies (s : Dev) (p : Nat) (x : PartSt) : (s.setPartSt p x).dies = s.dies := rfl
@[simp] theorem Dev.setPartSt_links (s : Dev) (p : Nat) (x : PartSt) : (s.setPartSt p x).links = s.links := rfl
@[simp] theorem Dev.setPartSt_ports (s : Dev) (p : Nat) (x : PartSt) : (s.setPartSt p x).ports = s.ports := rfl
@[simp] theorem Dev.setPartSt_fab (s : Dev) (p : Nat) (x : PartSt) : (s.setPartSt p x).fab = s.fab := rfl
@[simp] theorem Dev.setPartSt_pci (s : Dev) (p : Nat) (x : PartSt) : (s.setPartSt p x).pci = s.pci := rfl
@[simp] theorem Dev.setPartSt_att (s : Dev) (p : Nat) (x : PartSt) : (s.setPartSt p x).att = s.att := rfl
@[simp] theorem Dev.setPartSt_pwr (s : Dev) (p : Nat) (x : PartSt) : (s.setPartSt p x).pwr = s.pwr := rfl
@[simp] theorem Dev.setPartSt_pins (s : Dev) (p : Nat) (x : PartSt) : (s.setPartSt p x).pins = s.pins := rfl
@[simp] theorem Dev.setPartSt_crashes (s : Dev) (p : Nat) (x : PartSt) : (s.setPartSt p x).crashes = s.crashes := rfl
@[simp] theorem Dev.setPartSt_drain (s : Dev) (p : Nat) (x : PartSt) : (s.setPartSt p x).drain = s.drain := rfl
@[simp] theorem Dev.setPartSt_out (s : Dev) (p : Nat) (x : PartSt) : (s.setPartSt p x).out = s.out := rfl

@[simp] theorem Dev.emit_out (s : Dev) (o : Out) : (s.emit o).out = s.out ++ [o] := rfl
@[simp] theorem Dev.send_net (s : Dev) (m : NetMsg) : (s.send m).net = s.net ++ [m] := rfl
@[simp] theorem Dev.hart_setHart (s : Dev) (n : Nat) (x : Hart) : (s.setHart n x).hart n = x := by simp [Dev.hart, Dev.setHart]
@[simp] theorem Dev.queue_setQueue (s : Dev) (q : Nat) (x : QueueSt) : (s.setQueue q x).queue q = x := by simp [Dev.queue, Dev.setQueue]
@[simp] theorem Dev.cx_setCx (s : Dev) (c : Nat) (x : CtxSt) : (s.setCx c x).cx c = x := by simp [Dev.cx, Dev.setCx]

end Sys2Proof.Machine
end

