-- ==== Sys2Proof/Laws/Registers.lean ====
section
/-! SUPPORT. Laws of registers and their fields: a field reads as it was set, other fields and registers are unchanged. -/

namespace Sys2Proof.Machine

open Sys2Proof

/-- The bits of a word with a field set. -/
theorem Fld.getLsbD_put (f : Fld) (w : Word) (v k : Nat) (hk : k < 64) :
    (f.put w v).getLsbD k = if f.lo ≤ k ∧ k < f.lo + f.width then v.testBit (k - f.lo) else w.getLsbD k := by
  unfold Fld.put
  simp only [BitVec.getLsbD_or, BitVec.getLsbD_and, BitVec.getLsbD_not, BitVec.getLsbD_shiftLeft, BitVec.getLsbD_ofNat,
    Nat.testBit_two_pow_sub_one, Nat.testBit_mod_two_pow, hk, decide_true, Bool.true_and]
  by_cases h1 : k < f.lo
  · have : ¬ (f.lo ≤ k ∧ k < f.lo + f.width) := by omega
    simp [h1, this]
  · by_cases h2 : k - f.lo < f.width
    · have : f.lo ≤ k ∧ k < f.lo + f.width := by omega
      have h3 : k - f.lo < 64 := by omega
      simp [h1, h2, this, h3]
    · have : ¬ (f.lo ≤ k ∧ k < f.lo + f.width) := by omega
      simp [h1, h2, this]

/-- A field set reads as the low bits of the value. -/
theorem Fld.get_put (f : Fld) (w : Word) (v : Nat) (h : f.lo + f.width ≤ 64) : f.get (f.put w v) = v % 2 ^ f.width := by
  apply Nat.eq_of_testBit_eq
  intro i
  unfold Fld.get bitsOf
  simp only [Nat.testBit_mod_two_pow, Nat.testBit_shiftRight, BitVec.testBit_toNat]
  by_cases hi : i < f.width
  · have h2 : f.lo ≤ f.lo + i ∧ f.lo + i < f.lo + f.width := by omega
    rw [Fld.getLsbD_put f w v _ (by omega)]
    simp [hi]
  · simp [hi]

/-- A field apart from the one set reads as before. -/
theorem Fld.get_put_other (f g : Fld) (w : Word) (v : Nat) (h : f.lo + f.width ≤ g.lo ∨ g.lo + g.width ≤ f.lo) :
    f.get (g.put w v) = f.get w := by
  apply Nat.eq_of_testBit_eq
  intro i
  unfold Fld.get bitsOf
  simp only [Nat.testBit_mod_two_pow, Nat.testBit_shiftRight, BitVec.testBit_toNat]
  by_cases hi : i < f.width
  · by_cases h64 : f.lo + i < 64
    · have h2 : ¬ (g.lo ≤ f.lo + i ∧ f.lo + i < g.lo + g.width) := by omega
      rw [Fld.getLsbD_put g w v _ h64, if_neg h2]
    · rw [BitVec.getLsbD_of_ge _ _ (by omega : 64 ≤ f.lo + i), BitVec.getLsbD_of_ge _ _ (by omega : 64 ≤ f.lo + i)]
  · simp [hi]

@[simp] theorem Dev.reg_setReg (s : Dev) (r : RegName) (i : Nat) (w : Word) : (s.setReg r i w).reg r i = w := by
  simp [Dev.reg, Dev.setReg]

/-- Registers with different keys do not meet. -/
theorem Dev.reg_setReg_other (s : Dev) {r q : RegName} {i j : Nat} (w : Word) (h : RegId.key ⟨q, j⟩ ≠ RegId.key ⟨r, i⟩) :
    (s.setReg r i w).reg q j = s.reg q j := by
  simp [Dev.reg, Dev.setReg, h]

theorem RegId.key_ne_of_name {q r : RegName} {i j : Nat} (hn : q.num ≠ r.num) (hi : i < 1048576) (hj : j < 1048576) :
    RegId.key ⟨q, j⟩ ≠ RegId.key ⟨r, i⟩ := by
  simp only [RegId.key]
  omega

theorem RegId.key_ne_of_ix {r : RegName} {i j : Nat} (h : j ≠ i) : RegId.key ⟨r, j⟩ ≠ RegId.key ⟨r, i⟩ := by
  simp only [RegId.key]
  omega

/-- A field set in its register. -/
theorem Dev.fld_setFld (s : Dev) (f : Fld) (i v : Nat) (h : f.lo + f.width ≤ 64) : (s.setFld f i v).fld f i = v % 2 ^ f.width := by
  simp [Dev.fld, Dev.setFld, Fld.get_put f _ v h]

/-- Another field of the same register. -/
theorem Dev.fld_setFld_apart (s : Dev) (f g : Fld) (i v : Nat) (hr : g.reg = f.reg) (h : g.lo + g.width ≤ f.lo ∨ f.lo + f.width ≤ g.lo) :
    (s.setFld f i v).fld g i = s.fld g i := by
  simp [Dev.fld, Dev.setFld, hr, Fld.get_put_other g f _ v h]

/-- A field of a register with another key. -/
theorem Dev.fld_setFld_other (s : Dev) (f g : Fld) (i j v : Nat) (h : RegId.key ⟨g.reg, j⟩ ≠ RegId.key ⟨f.reg, i⟩) :
    (s.setFld f i v).fld g j = s.fld g j := by
  simp [Dev.fld, Dev.setFld, Dev.reg_setReg_other _ _ h]

end Sys2Proof.Machine
end

