-- ==== Sys2Proof/Laws/Ops.lean ====
section
/-! SUPPORT. Laws of the shared forms of a meaning: what a command answers under a running clock, under MGMT, at a pin, and as a
register write of someone's. -/

namespace Sys2Proof.Machine

open Sys2Proof

theorem State.after_clocked {s : State} {d : Dev} (h : s.dev.clocked = true) : s.after d = .next (s.withDev d) := by
  simp [State.after, State.withDev, h]

theorem State.after_stopped {s : State} {d : Dev} (h : s.dev.clocked = false) : s.after d = .next s := by simp [State.after, h]

theorem State.afterMgmt_runs {s : State} {d : Dev} (h : s.dev.mgmtRuns = true) : s.afterMgmt d = .next (s.withDev d) := by
  simp [State.afterMgmt, State.withDev, h]

theorem State.afterMgmt_stopped {s : State} {d : Dev} (h : s.dev.mgmtRuns = false) : s.afterMgmt d = .next s := by
  simp [State.afterMgmt, h]

theorem State.afterBurn_clocked {s : State} {d : Dev} (h : s.dev.clocked = true) :
    s.afterBurn d = .next (s.withBurn d) := by
  simp [State.afterBurn, State.withBurn, h]

theorem State.afterPin_eq (s : State) (d : Dev) : s.afterPin d = .next (s.withDev d) := rfl

theorem shaped_true {ok : Bool} {o : Host.Outcome State Fault Refusal} (h : ok = true) : shaped ok o = o := by simp [shaped, h]

theorem shaped_false {ok : Bool} {o : Host.Outcome State Fault Refusal} (h : ok = false) : shaped ok o = .fault .illFormed := by
  simp [shaped, h]

/-- A command's effect never touches the queue or, without a burn, the fuses. -/
theorem State.after_keeps {s t : State} {d : Dev} (h : s.after d = .next t) : t.pending = s.pending ∧ t.fuses = s.fuses := by
  unfold State.after at h
  split at h <;> cases h <;> simp

theorem State.afterMgmt_keeps {s t : State} {d : Dev} (h : s.afterMgmt d = .next t) : t.pending = s.pending ∧ t.fuses = s.fuses := by
  unfold State.afterMgmt at h
  split at h <;> cases h <;> simp

theorem State.afterPin_keeps {s t : State} {d : Dev} (h : s.afterPin d = .next t) : t.pending = s.pending ∧ t.fuses = s.fuses := by
  cases h
  simp

theorem State.afterBurn_pending {s t : State} {d : Dev} (h : s.afterBurn d = .next t) : t.pending = s.pending := by
  unfold State.afterBurn at h
  split at h <;> cases h <;> simp

/-- A write that is taken does its work, and the writer is answered OK. -/
theorem Dev.asWriter_takes {s : Dev} {who : Who} {r : RegId} {w v : Word} {work : Dev → Word → Dev} (h : s.accepts who r w v = true) :
    s.asWriter who r w work = (work s v).emit (.ctrl who .ok none) := by
  unfold Dev.accepts at h
  unfold Dev.asWriter
  cases e : r.unitOf with
  | none =>
    rw [e] at h
    exact Bool.noConfusion h
  | some x =>
    obtain ⟨b, u⟩ := x
    rw [e] at h
    simp only [Bool.and_eq_true, beq_iff_eq] at h
    simp [h.1.1, h.1.2, h.2]

/-- A write that the check of its block refuses changes nothing, and the writer is answered PERM. -/
theorem Dev.asWriter_perm {s : Dev} {who : Who} {r : RegId} {w : Word} {work : Dev → Word → Dev} (h : s.refusesPerm who r = true) :
    s.asWriter who r w work = s.emit (.ctrl who .perm none) := by
  unfold Dev.refusesPerm at h
  unfold Dev.asWriter
  cases e : r.unitOf with
  | none =>
    rw [e] at h
    exact Bool.noConfusion h
  | some x =>
    obtain ⟨b, u⟩ := x
    rw [e] at h
    simp only [Bool.and_eq_true, Bool.not_eq_true'] at h
    simp [h.1, h.2]

end Sys2Proof.Machine
end

