-- ==== Sys2Proof/Machine/Lands.lean ====
section
/-! DEFINITION. The package's lands (R545–R548, R555) and its fiber attach points (R559): what each land of the grid carries. -/

namespace Sys2Proof.Machine

open Sys2Proof

/-- What a land carries: a signal of a DIMM channel, a line of an SPD bus, a PCI Express pin (lane, whether it transmits, whether it is the
negative wire), REFCLK (whether the negative wire), a low-speed signal by its number, nothing (reserved), a rail by its number, or
ground. -/
inductive Land where
  | dimm (channel k : Nat) | spd (bus : Nat) (sda : Bool) | pcie (lane : Nat) (transmit negative : Bool) | refclk (negative : Bool)
  | low (i : Nat) | reserved | rail (n : Nat) | ground
  deriving DecidableEq, Repr

/-- Rows and columns of the grid. -/
def landRows : Nat := 112

/-- A position in a corner keep-out. -/
def keepOut (r c : Nat) : Bool := decide ((r ≤ 16 ∨ 97 ≤ r) ∧ (c ≤ 10 ∨ 103 ≤ c))

/-- The signal of a position, if a table of R547 or R548 gives it one; signals 126 to 153 of a DIMM channel are ground. -/
def signalLand (r c : Nat) : Option Land :=
  if r ≤ 22 ∧ 12 ≤ c ∧ c < 96 then
    let k := 7 * (r - 1) + (c - 12) % 7
    some (if k < 126 then .dimm ((c - 12) / 7) k else .ground)
  else if r = 23 ∧ 12 ≤ c ∧ c < 24 then some (.spd ((c - 12) / 2) ((c - 12) % 2 == 1))
  else if (r = 104 ∨ r = 106) ∧ 30 ≤ c ∧ c < 38 then some (.pcie ((c - 30) / 2) (r == 104) ((c - 30) % 2 == 1))
  else if r = 108 ∧ (c = 30 ∨ c = 31) then some (.refclk (c == 31))
  else if r = 110 ∧ 40 ≤ c ∧ c < 81 then some (.low (c - 40))
  else if r = 110 ∧ 81 ≤ c ∧ c < 98 then some .reserved
  else none

/-- The areas of the power lands: first number, last number, number of areas of that size in a row, the rail of the first. -/
def powerAreas : List (Nat × Nat × Nat × Nat) :=
  [(0, 896, 1, 8), (896, 80, 1, 37), (976, 768, 4, 0), (4048, 112, 4, 29), (4496, 40, 8, 9), (4816, 672, 1, 25), (5488, 768, 4, 4),
   (8560, 112, 4, 33), (9008, 40, 8, 17), (9328, 224, 2, 27), (9776, 24, 2, 38), (9824, 80, 1, 26)]

/-- The land of power position u: five lands of eight carry the area's rail, the others ground (R555). -/
def powerLand (u : Nat) : Land :=
  match powerAreas.find? (fun a => decide (a.1 ≤ u ∧ u < a.1 + a.2.1 * a.2.2.1)) with
  | some a => if (u - a.1) % a.2.1 % 8 < 5 then .rail (a.2.2.2 + (u - a.1) / a.2.1) else .ground
  | none => .ground

/-- A position that carries power or ground by its number. -/
def powerPosition (r c : Nat) : Bool := !keepOut r c && (signalLand r c).isNone

/-- The number u of a power position: those before it in row order. -/
def powerNumber (r c : Nat) : Nat :=
  ((List.range (r - 1)).map (fun i => ((List.range landRows).filter (fun j => powerPosition (i + 1) (j + 1))).length)).sum
    + ((List.range (c - 1)).filter (fun j => powerPosition r (j + 1))).length

/-- What the land in a row and column carries; none where the grid has no land. -/
def landOf (r c : Nat) : Option Land :=
  if r = 0 ∨ landRows < r ∨ c = 0 ∨ landRows < c ∨ keepOut r c then none
  else match signalLand r c with
    | some l => some l
    | none => some (powerLand (powerNumber r c))

/-- The DRAM device, and with it the symbol of the 80/64 code (R305), that a data signal of a DIMM channel belongs to. -/
def dqDevice (k : Nat) : Option Nat := if k < 80 then some (k / 8) else if k < 100 then some ((k - 80) / 2) else none

/-- The fabric port that a fiber attach point serves: those of the west edge I/O die 0's, those of the east edge I/O die 1's (R420, R559). -/
def attachPort (east : Bool) (k : Nat) : Nat × Nat := (if east then 10 else 9, k)

/-- The centre of an attach point from the north edge, in tenths of a millimetre. -/
def attachCentre (k : Nat) : Nat := 160 + 35 * k

end Sys2Proof.Machine
end

