-- ==== Sys2Proof/Machine/Relay.lean ====
section
/-! DEFINITION. The relay (file 16): what the runtime lays over the device's commands. Bands, legs and device IDs, the job entries a relay
needs, baton rings and their headers, and the descriptors that send and take a baton, as the bytes that a queue fetches. -/

namespace Sys2Proof.Machine

open Sys2Proof

/-! Bands and legs (R455, R456). -/

/-- The job entry of a device agrees with its relay: JOB and EPOCH, INBOUND, AUTO_DNF, every device of the relay a member (R455). -/
def Dev.relayEntry (s : Dev) (j job epoch : Nat) (devices : List Nat) : Bool :=
  s.jobLive j && s.fld F.JOB_CFG_JOB j == job && s.fld F.JOB_CFG_EPOCH j == epoch && s.flag F.JOB_CFG_INBOUND j && s.flag F.JOB_CFG_AUTO_DNF j
    && devices.all (s.jobMember j)

/-- Weight bytes that one device holds: rho, container bytes to weight bytes, as a fraction. -/
def relayBudget (t1 t2 rhoNum rhoDen : Nat) : Nat := t1 + t2 * rhoDen / rhoNum

/-- The bands opened when layers are cut in order, and what the last one holds. -/
def cutLayers (budget : Nat) (layers : List Nat) : Nat × Nat :=
  layers.foldl (fun b l => if b.1 = 0 ∨ b.2 + l > budget then (b.1 + 1, l) else (b.1, b.2 + l)) (0, 0)

/-- The first byte of each layer in the model. -/
def layerStarts (layers : List Nat) : List Nat := (List.range layers.length).map (fun i => (layers.take i).foldl (· + ·) 0)

/-- The band of a layer that starts at a byte of the model. -/
def relayBandOf (total nb start : Nat) : Nat := start * nb / total

/-- The weight bytes of band b. -/
def relayBandBytes (layers : List Nat) (nb b : Nat) : Nat :=
  let total := layers.foldl (· + ·) 0
  ((layers.zip (layerStarts layers)).filter (fun l => relayBandOf total nb l.2 == b)).foldl (fun n l => n + l.1) 0

/-- The band count, from a first one on: doubled while a band exceeds the budget; none past 32. -/
def bandsFrom (budget : Nat) (layers : List Nat) : Nat → Nat → Option Nat
  | 0, _ => none
  | n + 1, nb =>
    if nb > 32 then none
    else if (List.range nb).all (fun b => decide (relayBandBytes layers nb b ≤ budget)) then some nb
    else bandsFrom budget layers n (2 * nb)

/-- The band count of a model; none where it does not fit (R456). -/
def relayBands (budget : Nat) (layers : List Nat) : Option Nat :=
  if layers.any (fun l => decide (l > budget)) then none
  else ([1, 2, 4, 8, 16, 32].find? (fun nb => decide (nb ≥ (cutLayers budget layers).1))).bind (bandsFrom budget layers 6)

/-- Legs of D devices, the positions of a leg's stretch. -/
def relayLegs (devices nb : Nat) : Nat := devices / nb
def relayStretch (positions nl : Nat) : Nat := ceilDiv positions nl

/-- The ID that the runtime gives device (b, j): a group holds whole legs. -/
def relayId (nb b j : Nat) : Nat := 32 * (j / (32 / nb)) + nb * (j % (32 / nb)) + b

/-! Batons (R457). -/

/-- The slot of step k in a ring of ns slots. -/
def batonSlot (base stride ns k : Nat) : Nat := base + stride * ((k - 1) % ns)

/-- A baton's header. -/
structure Baton where
  kind     : Nat
  sender   : Nat
  job      : Nat
  step     : Nat
  epoch    : Nat
  body     : Nat
  posFirst : Nat
  posCount : Nat
  band     : Nat
  leg      : Nat
  deriving DecidableEq, Repr

def Baton.bytes (b : Baton) : List Byte :=
  leBytes 2 0x5242 ++ leBytes 1 1 ++ leBytes 1 b.kind ++ leBytes 2 b.sender ++ leBytes 2 b.job ++ leBytes 4 b.step ++ leBytes 4 b.epoch
    ++ leBytes 8 b.body ++ leBytes 8 b.posFirst ++ leBytes 4 b.posCount ++ leBytes 2 b.band ++ leBytes 2 b.leg ++ List.replicate 24 0

/-- What the 64 bytes of a slot's header say, where they are one for slots of a stride. -/
def batonOf (stride : Nat) (h : List Byte) : Option Baton :=
  let b : Baton := ⟨fieldAt h 3 1, fieldAt h 4 2, fieldAt h 6 2, fieldAt h 8 4, fieldAt h 12 4, fieldAt h 16 8, fieldAt h 24 8,
    fieldAt h 32 4, fieldAt h 36 2, fieldAt h 38 2⟩
  if bytesAt h 0 64 == b.bytes && (b.kind == 1 || b.kind == 2) && decide (b.sender < 1024) && b.step != 0 && decide (b.body + 256 ≤ stride)
  then some b else none

/-! The descriptors of a baton (R458), with the generation tag and the tag that their place in the ring gives them. -/

/-- A descriptor's header (R256). -/
def descHead (op gen slots flags tag : Nat) : List Byte :=
  leBytes 1 op ++ leBytes 1 gen ++ leBytes 1 slots ++ leBytes 1 flags ++ leBytes 2 tag ++ List.replicate 10 0

/-- A HURDLE on one word of memory, of all its 64 bits (R269). -/
def memHurdle (gen tag addr op value limit : Nat) : List Byte :=
  descHead 1 gen 2 0 tag ++ List.replicate 32 0 ++ leBytes 8 addr ++ leBytes 8 value ++ leBytes 8 (2 ^ 64 - 1) ++ leBytes 1 op
    ++ List.replicate 3 0 ++ leBytes 4 limit ++ List.replicate 48 0

/-- An MV_COPY or MV_FILL of one row (R242). -/
def rowMove (op gen tag : Nat) (acq : Bool) (src dst len aux : Nat) : List Byte :=
  descHead op gen 2 (if acq then 1 else 0) tag ++ leBytes 8 src ++ leBytes 8 dst ++ leBytes 4 len ++ leBytes 4 1 ++ leBytes 4 1
    ++ List.replicate 36 0 ++ leBytes 8 aux ++ List.replicate 40 0

/-- What sends step k: behind the ring, the wait for its slot; the body; the header, with ACQ. -/
def batonSend (gen tag ns consumed slot body header k len : Nat) : List (List Byte) :=
  (if k > ns then [memHurdle gen tag consumed 2 (k - ns) 0] else [])
    ++ [rowMove 0x50 gen tag false body (slot + 0x100) len 0, rowMove 0x50 gen tag true header slot 64 0]

/-- What takes step k, before the descriptors that read the body: the wait for its header. -/
def batonWait (gen tag slot k epoch : Nat) : List Byte := memHurdle gen tag (slot + 8) 1 (k + epoch * 2 ^ 32) 0

/-- What takes step k, after the last reader: CONSUMED written at the sender, with ACQ. -/
def batonConsumed (gen tag consumed k : Nat) : List Byte := rowMove 0x51 gen tag true 0 consumed 8 k

/-! Streaming weights (R460–R463). -/

/-- The token of a slice and the value by which a reader of fill g names it (R460). -/
def sliceToken (t0 s g : Nat) : Nat × Nat := (t0 + s, g)

/-- The write that advances a slice's token once the record of its fill shows a status; none at PAGE_STATUS or worse (R461). -/
def sliceAdvance (t0 s g status : Nat) : Option (Nat × Nat) := if status = 0 then some (sliceToken t0 s g) else none

/-- A stream keeps up with its band: P positions of F FLOP at R FLOP/s take no less time than C container bytes at 0.9 × 614.4 GB/s
(R463). -/
def streamKeepsUp (p f r c : Nat) : Bool := decide (c * r ≤ 552960000000 * f * p)

end Sys2Proof.Machine
end

