-- ==== Sys2Proof/Tests/Slice0.lean ====
section
/-! SUPPORT. Tests: states on which the premises of each statement hold (the theorems named meets_…), the shapes of ill-formed commands,
and worked examples of the spec. -/

namespace Sys2Proof

open Sys2Proof.Machine

-- One thread at a time: each evaluation below would otherwise start one with a large stack.
set_option Elab.async false
set_option linter.unusedVariables false

/-- A device under power with REFCLK running, before its PLLs lock. -/
def Tests.dark : Dev := { Dev.reset with pins := { PinSt.init with pwrgood := true, refclk := true } }

/-- The same with every die's PLL locked. -/
def Tests.up : Dev := (List.range 11).foldl (fun d i => d.setFlag F.CLK_STATUS_PLL_LOCK i true) Tests.dark

/-- The state whose device is d. -/
def Tests.on (d : Dev) : State := ⟨[], .made, d⟩

/-- The same with one partition in RUN, the owner of every region and core group. -/
def Tests.owned : Dev :=
  ({ Tests.up with recs := [(0, { PartRec.none with regions := 0xFFFFFFFF, groups := 0xFFFF, ctxCount := 64 })] } : Dev).setFld
    F.PART_STATUS_STATE 0 2

/-- A device in PHASE 2 whose MGMT has its I3C address. -/
def Tests.bus : Dev := ({ Tests.up with pins := { Tests.up.pins with i3cAddr := some 9 } } : Dev).setPhase 2

/-- A device with an ID of its own, job 0 of partition 0 for every context and device 1, a route to device 1, and a remote read waiting. -/
def Tests.fabric : Dev :=
  let d : Dev := { Tests.owned with
    remQ := [⟨.vxe 64, 5, .rdOnce, 2 ^ 55 + 2 ^ 45, 64, [], 0, 0, some 3, .normal⟩],
    fab := { FabSt.init with bound := [(77, 1)], map := [⟨77, 1, [(0, [])], [], 0⟩], routes := [(1, [[2]])], stale := false } }
  let d := (d.setFlag F.FAB_SELF_ASSIGNED 0 true).setFlag F.JOB_CFG_VALID 0 true
  let d := ((d.setFld F.JOB_RANGE_CTX_COUNT 0 64).setFlag F.JOB_CFG_INBOUND 0 true).setReg .JOB_MEMBERS 0 3
  (d.setFlag F.PORT_STATUS_IN_SERVICE 2 true).setFld F.CL_PAD_STATUS_BANKS 0 32

/-- A request packet of device 1 for the first line of cluster 0's pad. -/
def Tests.pkt (type : Byte) : List Byte :=
  [type, 0, 0, 0, 1, 0, 0, 0] ++ List.replicate 8 0 ++ leBytes 6 0x100000000000 ++ List.replicate 10 0 ++ List.replicate 8 0xFF ++ List.replicate 88 0

/-- That packet in the receive buffer of port 0. -/
def Tests.served (type : Byte) : Dev := { Tests.fabric with ports := [(0, { PortSt.init with inbox := [(Tests.pkt type, 0, 0)] })] }

/-- An answer packet in the receive buffer of port 2, whose request is outstanding. -/
def Tests.answered : Dev :=
  { Tests.fabric with
    fab := { FabSt.init with opens := [⟨0, 0, [], ⟨.vxe 64, 5, .rdOnce, 2 ^ 55 + 2 ^ 45, 64, [], 0, 0, some 3, .normal⟩⟩] },
    ports := [(2, { PortSt.init with inbox := [([17], 0, 0)] })] }

/-- A device with the links of the pairs 0–8, 0–4, 4–9, 5–9, 5–6 and 6–10 in service, and the die routes 8 to 9 and 9 to 10 over them. -/
def Tests.linked (d : Dev) : Dev :=
  let d : Dev := { d with boot := { d.boot with
    records := [⟨4, 0xFF, 0, List.replicate 16 0 ++ [0, 8, 9, 0, 4, 0xFF, 0xFF, 0] ++ [0, 9, 10, 5, 6, 0xFF, 0xFF, 0]⟩] } }
  [(8, 0), (0, 4), (4, 9), (9, 5), (5, 6), (6, 10)].foldl (fun (d : Dev) (h : Nat × Nat) =>
    match (endsOf h.1).find? (fun e => match partnerOf e with | some (p, _, _) => p == h.2 | none => false) with
    | some e => d.setFlag F.LINK_STATUS_IN_SERVICE e true
    | none => d) d

/-- A released device whose port is up, with its VFs enabled. -/
def Tests.host : Dev :=
  let d := (((Tests.owned.setPhase 7).setFlag F.PCI_STATUS_LINK_UP 0 true).setFlag F.PCI_STATUS_VF_ENABLE 0 true).setFld F.PCI_STATUS_NUM_VFS 0 32
  (d.setFlag F.APER_ENABLE 0 true).setFlag F.APER_ENABLE 16 true

/-- A vault, partition 16, sealed, with a destination ring and the path to it. -/
def Tests.vault : Dev :=
  let d : Dev := { Tests.linked Tests.host with
    recs := [(16, { PartRec.none with regions := 1, groups := 1, vault := true, vf := 3 })], pci := { PciSt.init with fns := [(4, { PciFn.init with bme := true })] } }
  ((d.setFld F.GX_STATUS_STATE 16 1).setFld F.GX_DEST_BASE_BASE 16 1).setFld F.PART_STATUS_STATE 16 2

/-- A small partition in RUN: region 0, core group 0, 8 contexts; its queue 0 is ACTIVE and bound to context 0, which is RUNNING; its
cluster 0 is in service. -/
def Tests.run : Dev :=
  let d : Dev := { Tests.up with recs := [(0, { PartRec.none with regions := 1, groups := 1, ctxCount := 8 })] }
  let d := ((d.setFld F.PART_STATUS_STATE 0 2).setFlag F.CL_STATUS_IN_SERVICE 0 true).setFld F.CL_PAD_STATUS_BANKS 0 32
  let d := (d.setFlag F.Q_CFG_ENABLE 0 true).setFld F.Q_STATUS_STATE 0 1
  (d.setFld F.CTX_STATE_STATE 0 2).setFlag F.CTX_STATE_BOUND 0 true

/-- A descriptor of 64 bytes at a position, with its first byte, its tiles and its status. -/
def Tests.desc (op pos tiles : Nat) (status : Option Nat) : Desc :=
  ⟨pos, leBytes 4 (op + 0x10100) ++ List.replicate 124 0, 0, 0, pos, 1, tiles, false, 0, [], [], [], status, 0, 0, none, false, [], none, false, [], 0, []⟩

/-- The small partition with descriptors in flight on queue 0. -/
def Tests.flying (ds : List Desc) : Dev := { Tests.run with queues := [(0, { QueueSt.init with inflight := ds })] }

/-- The answer of a run was not that it must wait. -/
def Tests.ran {α : Type} (x : Except Stop α) : Bool := match x with | .error (.wait _) => false | _ => true

theorem Tests.runs_not {α : Type} (x : Except Stop α) (h : Tests.ran x = true) : ∀ b, x ≠ .error (.wait b) := by
  intro b e
  subst e
  exact absurd h (by simp [Tests.ran])

/-- The small partition with channel 0 of its window in service. -/
def Tests.mem : Dev := Tests.run.setFlag F.CH_STATUS_IN_SERVICE 0 true

/-- The same with core 0 running. -/
def Tests.core : Dev := { Tests.mem with harts := [(0, { Hart.init with inReset := false })] }

/-- The small partition with messages in flight. -/
def Tests.net (l : List NetMsg) : Dev := { Tests.mem with net := l }

/-- A read of block 0 of a channel. -/
def Tests.read (src : ChSrc) : ChReq := ⟨0, false, [], 0, 0, src, 0, none, 0, false, 0⟩

/-- A matrix tile on an array, HELD since a time or not. -/
def Tests.mx (held : Option Nat) : MxRun := ⟨⟨0, 0, 0⟩, true, 0, 0, 0, held, false, [], [], [], [], []⟩

/-- What is left of a device whose message was taken. -/
def Tests.rest (x : Option (NetMsg × Dev)) : Dev := match x with | some (_, d) => d | none => .reset

theorem Tests.took {x : Option (NetMsg × Dev)} {m : NetMsg} (h : x.map Prod.fst = some m) : x = some (m, Tests.rest x) := by
  cases x with
  | none => simp at h
  | some p => simp at h; simp [Tests.rest, ← h]

theorem Tests.pair {α β : Type} {x : α × β} {a : α} (h : x.1 = a) : x = (a, x.2) := by simp [← h]

theorem meets_PWRGOOD_RISE : ∃ (s : State) (bootSrc i3cSa : Fin 4),
    s.dev.pins.pwrgood = false :=
  ⟨.reset, 1, 2, by decide +kernel⟩

theorem meets_PWRGOOD_FALL : ∃ (s : State),
    s.dev.pins.pwrgood = true :=
  ⟨Tests.on Tests.up, by decide +kernel⟩

theorem meets_SYS_RST_N_LOW : ∃ (s : State),
    s.dev.pins.sysLow = false ∧
    s.dev.pins.refclk = true ∧
    s.dev.pins.pwrgood = true ∧
    s.dev.pins.perstLow = false :=
  ⟨Tests.on { Tests.up with pins := { Tests.up.pins with sysLow := false, perstLow := false } }, by decide +kernel⟩

theorem meets_PERST_N_LOW : ∃ (s : State),
    s.dev.pins.perstLow = false ∧
    s.dev.pins.refclk = true ∧
    s.dev.pins.pwrgood = true ∧
    s.dev.pins.sysLow = false :=
  ⟨Tests.on { Tests.up with pins := { Tests.up.pins with sysLow := false, perstLow := false } }, by decide +kernel⟩

theorem meets_FUSES_LOADED : ∃ (s : State),
    s.dev.clocked = true ∧
    s.dev.phase = 0 :=
  ⟨Tests.on Tests.up, by decide +kernel⟩

theorem meets_PLL_LOCK : ∃ (s : State) (d : DieIx),
    s.dev.clocked = true ∧
    s.dev.phase ≠ 0 ∧
    s.dev.dieState d ≠ 2 ∧
    s.dev.flag F.CLK_STATUS_PLL_LOCK d = false ∧
    s.dev.pwr.railHold = [] :=
  ⟨Tests.on (Tests.dark.setPhase 1), 9, by decide +kernel⟩

theorem meets_LOCK_LOST : ∃ (s : State) (d : DieIx),
    s.dev.clocked = true ∧
    s.dev.flag F.CLK_STATUS_PLL_LOCK d = true :=
  ⟨Tests.on (Tests.up.setFlag F.CLK_STATUS_PLL_LOCK 3 true), 3, by decide +kernel⟩

theorem meets_DIVIDER_STEP : ∃ (s : State) (d : DieIx) (clk : Fin 3),
    s.dev.clocked = true ∧
    s.dev.dieRuns d = true ∧
    (s.dev.stepsAsked d clk).isEmpty = false :=
  ⟨Tests.on Tests.up, 7, 0, by decide +kernel⟩

theorem meets_IMAGE_READ_DONE_read : ∃ (s : State) (bs : List Byte),
    s.dev.clocked = true ∧
    s.dev.phase = 2 :=
  ⟨Tests.on (Tests.up.setPhase 2), [], by decide +kernel⟩

theorem meets_IMAGE_READ_DONE_unreadable : ∃ (s : State),
    s.dev.clocked = true ∧
    s.dev.phase = 2 :=
  ⟨Tests.on (Tests.up.setPhase 2), by decide +kernel⟩

theorem meets_BOOT_GO : ∃ (s : State) (who : Who),
    s.dev.clocked = true ∧
    s.dev.phase = 8 ∧
    s.dev.accepts who ⟨.BOOT_GO, 0⟩ 1 1 = true :=
  ⟨Tests.on (Tests.up.setPhase 8), .pf0, by decide +kernel⟩

theorem meets_RECORDS_APPLIED : ∃ (s : State) (differ : List VaultIx),
    s.dev.clocked = true ∧
    s.dev.phase = 4 :=
  ⟨Tests.on (Tests.up.setPhase 4), [], by decide +kernel⟩

theorem meets_STACK_TRAINING_DONE : ∃ (s : State) (d : Fin 8) (absent : List (Fin 2)) (failed : List (Fin 32)) (badSlices : List (Fin 4)),
    s.dev.clocked = true ∧
    (s.dev.die d).trained = false ∧
    s.dev.dieState d = 0 ∧
    s.dev.flag F.CLK_STATUS_PLL_LOCK d = true ∧
    2 ≤ s.dev.phase ∧
    s.dev.phase ≠ 9 :=
  ⟨Tests.on ((Tests.up.setPhase 2).setFlag F.CLK_STATUS_PLL_LOCK 1 true), 1, [], [3], [], by decide +kernel⟩

theorem meets_DIMM_TRAINING_DONE : ∃ (s : State) (spd : List (List DimmSpd)),
    s.dev.clocked = true ∧
    spdShape spd = true ∧
    s.dev.boot.dimmsDone = false ∧
    2 ≤ s.dev.phase ∧
    s.dev.phase ≠ 9 ∧
    s.dev.dieState 8 = 0 ∧
    s.dev.flag F.CLK_STATUS_PLL_LOCK 8 = true :=
  ⟨Tests.on ((Tests.up.setPhase 2).setFlag F.CLK_STATUS_PLL_LOCK 8 true), List.replicate 12 [], by decide +kernel⟩

theorem meets_FIRMWARE_COPY_DONE : ∃ (s : State),
    s.dev.clocked = true ∧
    s.dev.phase = 5 ∧
    s.dev.boot.stacksDone = true ∧
    s.dev.boot.dimmsDone = true ∧
    s.dev.portsReady = true ∧
    s.dev.boot.fwDone = false ∧
    (s.dev.copyFirmware s.dev.boot.records).1.isNone = false :=
  ⟨Tests.on ((List.range 48).foldl (fun d f => d.setFlag F.PORT_STATUS_KEYWAIT f true) (({ Tests.up with boot := { BootSt.init with stacksDone := true, dimmsDone := true } } : Dev).setPhase 5)), by decide +kernel⟩

theorem meets_ATTEST_LEAF_RESERVE : ∃ (s : State) (rest : List Bool),
    s.dev.clocked = true ∧
    s.dev.phase = 6 ∧
    s.dev.flag F.BOOT_STATUS_LEAF_RESERVED 0 = false ∧
    s.dev.flag F.BOOT_STATUS_ATTEST_EXHAUSTED 0 = false ∧
    s.dev.fused.attNext < 16384 :=
  ⟨Tests.on (Tests.up.setPhase 6), [], by decide +kernel⟩

theorem meets_RELEASE : ∃ (s : State),
    s.dev.clocked = true ∧
    s.dev.flag F.BOOT_STATUS_COLD 0 = true ∧
    s.dev.phase = 6 ∧
    s.dev.flag F.BOOT_STATUS_LEAF_RESERVED 0 = true :=
  ⟨Tests.on (((Tests.up.setPhase 6).setFlag F.BOOT_STATUS_COLD 0 true).setFlag F.BOOT_STATUS_LEAF_RESERVED 0 true), by decide +kernel⟩

theorem meets_LEVEL1_CERTIFIED : ∃ (s : State),
    s.dev.clocked = true ∧
    s.dev.phase = 7 ∧
    s.dev.att.seed.isEmpty = false ∧
    s.dev.att.certified = false ∧
    s.dev.dieState 9 = 0 :=
  ⟨Tests.on ({ Tests.up with att := { AttSt.init with seed := [1] } }.setPhase 7), by decide +kernel⟩

theorem meets_RELOAD_GO : ∃ (s : State) (who : Who),
    s.dev.clocked = true ∧
    s.dev.flag F.RELOAD_STATUS_BUSY 0 = false ∧
    s.dev.phase = 7 ∧
    s.dev.accepts who ⟨.RELOAD_CTRL, 0⟩ 1 1 = true :=
  ⟨Tests.on (Tests.up.setPhase 7), .pf0, by decide +kernel⟩

theorem meets_RELOAD_VERIFY_DONE_judged : ∃ (s : State),
    s.dev.clocked = true ∧
    s.dev.boot.reloadStage = 2 ∧
    s.dev.boot.reloadErr = none ∧
    s.dev.boot.reloadWho = none :=
  ⟨Tests.on { Tests.up with boot := { BootSt.init with reloadStage := 2 } }, by decide +kernel⟩

theorem meets_RELOAD_VERIFY_DONE_copy_failed : ∃ (s : State) (code : Nat),
    s.dev.clocked = true ∧
    s.dev.boot.reloadStage = 2 ∧
    s.dev.boot.reloadErr = some code :=
  ⟨Tests.on { Tests.up with boot := { BootSt.init with reloadStage := 2, reloadErr := some 10 } }, 10, by decide +kernel⟩

theorem meets_RELOAD_LOADING_DONE : ∃ (s : State) (p : Nat) (differ : Bool),
    s.dev.clocked = true ∧
    s.dev.boot.reloadPart = some p ∧
    s.dev.partState p = 1 :=
  ⟨Tests.on ({ Tests.up with boot := { BootSt.init with reloadPart := some 2 } }.setFld F.PART_STATUS_STATE 2 1), 2, false, by decide +kernel⟩

theorem meets_LINK_TRAINING_START : ∃ (s : State) (e : LinkEnd),
    s.dev.clocked = true ∧
    linkExists e = true ∧
    s.dev.linkState e = 0 ∧
    s.dev.pllUp (e / 16) = true ∧
    s.dev.pllUp (otherEnd e / 16) = true :=
  ⟨Tests.on Tests.up, 0, by decide +kernel⟩

theorem meets_LINK_TRAINING_END : ∃ (s : State) (e : LinkEnd) (good : BitVec 34) (rtt : Nat) (late : Bool) (rails : List Nat),
    s.dev.clocked = true ∧
    railsShape rails = true ∧
    linkExists e = true ∧
    s.dev.linkState e = 1 :=
  ⟨Tests.on (Tests.up.setFld F.LINK_STATUS_STATE 0 1), 0, 0x3FFFFFFFF, 20, false, List.replicate 40 0, by decide +kernel⟩

theorem meets_LINK_RETRAIN : ∃ (s : State) (who : Who) (e : LinkEnd),
    s.dev.clocked = true ∧
    linkExists e = true ∧
    2 ≤ s.dev.linkState e ∧
    s.dev.accepts who ⟨.LINK_CTRL, e⟩ 0x100 0x100 = true :=
  ⟨Tests.on (Tests.up.setFld F.LINK_STATUS_STATE 0 5), .mgmt, 0, by decide +kernel⟩

theorem meets_LANE_LOCK_LOSS : ∃ (s : State) (e : LinkEnd) (lane : Fin 34),
    s.dev.clocked = true ∧
    linkExists e = true ∧
    s.dev.linkState e ≠ 0 :=
  ⟨Tests.on (Tests.up.setFld F.LINK_STATUS_STATE 0 2), 0, 33, by decide +kernel⟩

theorem meets_LANE_ERR_WINDOW_END : ∃ (s : State) (e : LinkEnd),
    s.dev.clocked = true ∧
    linkExists e = true ∧
    s.dev.fld F.LANE_ERR_LIMIT_WINDOW e ≠ 0 :=
  ⟨Tests.on (Tests.up.setFld F.LANE_ERR_LIMIT_WINDOW 0 1000), 0, by decide +kernel⟩

theorem meets_FLIT_RECEIVE_bad : ∃ (s : State) (e : LinkEnd) (f : Flit),
    s.dev.clocked = true ∧
    flitShape f = true ∧
    linkExists e = true ∧
    2 ≤ s.dev.linkState e ∧
    s.dev.linkState e ≤ 4 ∧
    (f.kind == 0 && !s.dev.maySend (otherEnd e) f.slots) = false ∧
    (s.dev.flitComes e f).1.any (fun g => g.cls.bad) = true :=
  ⟨Tests.on ({ Tests.up with links := [(0, { LinkSt.init with lanes := List.range 32 }), (otherEnd 0, { LinkSt.init with lanes := List.range 32 })] }.setFld F.LINK_STATUS_STATE 0 2), 0, ⟨1, [], [(0, 0), (5, 0)]⟩, by decide +kernel⟩

theorem meets_FLIT_RECEIVE_whole : ∃ (s : State) (e : LinkEnd) (f : Flit),
    s.dev.clocked = true ∧
    flitShape f = true ∧
    linkExists e = true ∧
    2 ≤ s.dev.linkState e ∧
    s.dev.linkState e ≤ 4 ∧
    (f.kind == 0 && !s.dev.maySend (otherEnd e) f.slots) = false ∧
    (s.dev.flitComes e f).1.any (fun g => g.cls.bad) = false :=
  ⟨Tests.on ({ Tests.up with links := [(0, { LinkSt.init with lanes := List.range 32 }), (otherEnd 0, { LinkSt.init with lanes := List.range 32 })] }.setFld F.LINK_STATUS_STATE 0 2), 0, ⟨1, [], [(33, 0)]⟩, by decide +kernel⟩

theorem meets_PART_RESET_REQUEST : ∃ (s : State) (who : Who) (p : PartIx),
    s.dev.clocked = true ∧
    s.dev.partRuns p = true ∧
    s.dev.accepts who ⟨.PART_CTRL, p⟩ 1 1 = true :=
  ⟨Tests.on Tests.run, .mgmt, 0, by decide +kernel⟩

theorem meets_QUIESCE_DONE : ∃ (s : State) (p : PartIx),
    s.dev.clocked = true ∧
    s.dev.partState p = 3 ∧
    s.dev.startedOf p = false ∧
    s.dev.requestsOut p = false ∧
    (s.dev.l2sOf p).length ≤ ((s.dev.flushAll p []).l2sOf p).length :=
  ⟨Tests.on (Tests.run.setFld F.PART_STATUS_STATE 0 3), 0, by decide +kernel⟩

theorem meets_QUIESCE_LIMIT_EXPIRE : ∃ (s : State) (p : PartIx) (hung : List CoreIx),
    s.dev.clocked = true ∧
    s.dev.partState p = 3 :=
  ⟨Tests.on (Tests.run.setFld F.PART_STATUS_STATE 0 3), 0, [1], by decide +kernel⟩

theorem meets_L2_FLUSH_LIMIT_EXPIRE : ∃ (s : State) (n : CoreIx) (p : Nat),
    s.dev.clocked = true ∧
    s.dev.partOfCore n = some p ∧
    s.dev.partState p = 3 :=
  ⟨Tests.on (Tests.run.setFld F.PART_STATUS_STATE 0 3), 0, 0, by decide +kernel⟩

theorem meets_PART_RESET_DONE : ∃ (s : State) (p : PartIx),
    s.dev.clocked = true ∧
    s.dev.partState p = 4 ∧
    (s.dev.diesOf p).any (fun d => s.dev.dieState d != 0) = false ∧
    s.dev.unreclaimed p = false ∧
    (s.dev.partSt p).reload = false ∧
    (s.dev.chanList p).isEmpty = false ∧
    ((s.dev.partSt p).escs.filter (fun t => decide (s.dev.time < t + s.dev.fld F.PART_ESC_FAULT_WINDOW p))).length < 4 ∧
    (s.dev.coresOf p).all (fun n => !(s.dev.l2 n).dead) = true :=
  ⟨Tests.on ((Tests.run.setFld F.PART_STATUS_STATE 0 4).setFlag F.CH_STATUS_IN_SERVICE 0 true), 0, by decide +kernel⟩

theorem meets_MAPOUT_COMPLETE : ∃ (s : State) (p : PartIx) (m : MapOut),
    s.dev.clocked = true ∧
    s.dev.mapouts.find? (fun m => m.started && s.dev.partOfChan m.chan == some p.val) = some m ∧
    s.dev.windowOpen p = false :=
  ⟨Tests.on { (Tests.run.setFlag F.CH_STATUS_IN_SERVICE 0 true) with mapouts := [⟨0, 2, true⟩] }, 0, ⟨0, 2, true⟩, by decide +kernel⟩

theorem meets_SNOOP_TIMEOUT : ∃ (s : State) (h : HomeIx) (line : Nat) (core : CoreIx) (p : Nat),
    s.dev.clocked = true ∧
    s.dev.fld F.HOME_CFG_SNOOP_LIMIT h ≠ 0 ∧
    (s.dev.home h).opens.any (fun o => o.req.line == line && o.waits.contains core) = true ∧
    (s.dev.home h).unsent.any (fun u => u.1 == core.val && u.2.1 == line) = false ∧
    (s.dev.setFlag F.HOME_EVENT_SNOOP_TIMEOUT h true).partOfCore core = some p ∧
    (s.dev.setFlag F.HOME_EVENT_SNOOP_TIMEOUT h true).partRuns p = true :=
  ⟨Tests.on { Tests.run.setFld F.HOME_CFG_SNOOP_LIMIT 0 100 with homes := [(0, { HomeSt.init with opens := [⟨⟨.rdOnce, 5, .core 0, 0, none, none, .normal, 0, 0⟩, [3], none⟩] })] }, 0, 5, 3, 0, by decide +kernel⟩

theorem meets_INVALIDATION_LATE : ∃ (s : State) (p : PartIx) (v : InvSt),
    s.dev.clocked = true ∧
    SMap.find s.dev.invs p = some v ∧
    s.dev.mapouts.any (fun m => m.started && s.dev.partOfChan m.chan == some p.val) = false ∧
    ((s.dev.setFlag F.XP_INV_STATUS_LATE p true).setFld F.XP_INV_STATUS_LAG_CLUSTER p (v.waitAtc.headD 0)).partRuns p = true :=
  ⟨Tests.on { Tests.run with invs := [(0, ⟨[0], 0, none, none⟩)] }, 0, ⟨[0], 0, none, none⟩, by decide +kernel⟩

theorem meets_ENGINE_HANG_EXPIRE_of_an_array : ∃ (s : State) (a : Fin 512) (e : Fin 960) (r : MxRun) (p : Nat),
    s.dev.clocked = true ∧
    e.val = a.val ∧
    SMap.find s.dev.arrays a = some r ∧
    r.run = true ∧
    r.held = none ∧
    s.dev.fld F.HANG_LIMIT_LIMIT (a / 16 / 4) ≠ 0 ∧
    s.dev.partOfRegion (a / 16) = some p ∧
    s.dev.partRuns p = true :=
  ⟨Tests.on { (Tests.run.setFld F.HANG_LIMIT_LIMIT 0 9) with arrays := [(3, Tests.mx none)] }, 3, 3, Tests.mx none, 0, by decide +kernel⟩

theorem meets_ENGINE_HANG_EXPIRE_of_another_engine : ∃ (s : State) (e : Fin 960) (t : Tile) (g cl p : Nat),
    s.dev.clocked = true ∧
    512 ≤ e.val ∧
    s.dev.fld F.ENG_STATUS_STATE (e.val - 512) = 2 ∧
    SMap.find s.dev.engs e = some t ∧
    g = (if e.val < 896 then (e.val - 512) % 128 / 4 else (e.val - 896) % 32) ∧
    cl = (if e.val < 896 then (e.val - 512) % 128 else 4 * g) ∧
    s.dev.fld F.HANG_LIMIT_LIMIT (g / 4) ≠ 0 ∧
    s.dev.partOfRegion g = some p ∧
    s.dev.partRuns p = true :=
  ⟨Tests.on { ((Tests.run.setFld F.HANG_LIMIT_LIMIT 0 9).setFld F.ENG_STATUS_STATE 384 2) with engs := [(896, ⟨0, 0, 0⟩)] }, 896, ⟨0, 0, 0⟩, 0, 0, 0, by decide +kernel⟩

theorem meets_DRAIN_LIMIT_EXPIRE : ∃ (s : State) (c : CtxIx) (p : Nat),
    s.dev.clocked = true ∧
    (match (s.dev.cx c).proc with | .fault | .disable _ => true | _ => false) = true ∧
    s.dev.partOfCtx c = some p ∧
    s.dev.partRuns p = true :=
  ⟨Tests.on { Tests.run with ctxs := [(0, { CtxSt.init with proc := .fault })] }, 0, 0, by decide +kernel⟩

theorem meets_CTX_HOLD : ∃ (s : State) (who : Who) (c : CtxIx) (w v : Word),
    s.dev.clocked = true ∧
    s.dev.accepts who ⟨.CTX_CTRL, c⟩ (F.CTX_CTRL_HOLD.put w 1) v = true ∧
    F.CTX_CTRL_HOLD.get v = 1 ∧
    F.CTX_CTRL_RELEASE.get v = 0 ∧
    F.CTX_CTRL_CLEAR.get v = 0 ∧
    F.CTX_CTRL_DISABLE.get v = 0 :=
  ⟨Tests.on Tests.run, .mgmt, 0, 0, F.CTX_CTRL_HOLD.put 0 1, by decide +kernel⟩

theorem meets_CTX_RELEASE : ∃ (s : State) (who : Who) (c : CtxIx) (w v : Word),
    s.dev.clocked = true ∧
    s.dev.accepts who ⟨.CTX_CTRL, c⟩ (F.CTX_CTRL_RELEASE.put w 1) v = true ∧
    F.CTX_CTRL_HOLD.get v = 0 ∧
    F.CTX_CTRL_RELEASE.get v = 1 ∧
    F.CTX_CTRL_CLEAR.get v = 0 ∧
    F.CTX_CTRL_DISABLE.get v = 0 :=
  ⟨Tests.on Tests.run, .mgmt, 0, 0, F.CTX_CTRL_RELEASE.put 0 1, by decide +kernel⟩

theorem meets_CTX_CLEAR : ∃ (s : State) (who : Who) (c : CtxIx) (w v : Word),
    s.dev.clocked = true ∧
    s.dev.accepts who ⟨.CTX_CTRL, c⟩ (F.CTX_CTRL_CLEAR.put w 1) v = true ∧
    F.CTX_CTRL_HOLD.get v = 0 ∧
    F.CTX_CTRL_RELEASE.get v = 0 ∧
    F.CTX_CTRL_CLEAR.get v = 1 ∧
    F.CTX_CTRL_DISABLE.get v = 0 :=
  ⟨Tests.on Tests.run, .mgmt, 0, 0, F.CTX_CTRL_CLEAR.put 0 1, by decide +kernel⟩

theorem meets_CTX_DISABLE : ∃ (s : State) (who : Who) (c : CtxIx) (w v : Word),
    s.dev.clocked = true ∧
    s.dev.accepts who ⟨.CTX_CTRL, c⟩ (F.CTX_CTRL_DISABLE.put w 1) v = true ∧
    F.CTX_CTRL_HOLD.get v = 0 ∧
    F.CTX_CTRL_RELEASE.get v = 0 ∧
    F.CTX_CTRL_CLEAR.get v = 0 ∧
    F.CTX_CTRL_DISABLE.get v = 1 :=
  ⟨Tests.on Tests.run, .mgmt, 0, 0, F.CTX_CTRL_DISABLE.put 0 1, by decide +kernel⟩

theorem meets_PACER_ARM : ∃ (s : State) (who : Who) (c : CtxIx) (w v : Word),
    s.dev.clocked = true ∧
    s.dev.accepts who ⟨.CTX_PACE, c⟩ (F.CTX_PACE_ARM.put w 1) v = true ∧
    F.CTX_PACE_ARM.get v = 1 :=
  ⟨Tests.on Tests.run, .mgmt, 0, 0, F.CTX_PACE_ARM.put 0 1, by decide +kernel⟩

theorem meets_CONTEXT_DRAINED_of_a_fault : ∃ (s : State) (c : CtxIx),
    s.dev.clocked = true ∧
    (s.dev.cx c).closed = true ∧
    (s.dev.cx c).proc = .fault ∧
    (s.dev.queue (s.dev.ctxQueue c)).inflight.isEmpty = true ∧
    (s.dev.queue (s.dev.ctxQueue c)).records.isEmpty = true ∧
    s.dev.queueStarted (s.dev.ctxQueue c) = false ∧
    s.dev.queueRuns (s.dev.ctxQueue c) = true :=
  ⟨Tests.on { Tests.run with ctxs := [(0, { CtxSt.init with proc := .fault, closed := true })] }, 0, by decide +kernel⟩

theorem meets_CONTEXT_DRAINED_of_a_disable : ∃ (s : State) (c : CtxIx) (n : Nat),
    s.dev.clocked = true ∧
    (s.dev.cx c).closed = true ∧
    (s.dev.cx c).proc = .disable n ∧
    (s.dev.queue (s.dev.ctxQueue c)).inflight.isEmpty = true ∧
    (s.dev.queue (s.dev.ctxQueue c)).records.isEmpty = true ∧
    s.dev.queueStarted (s.dev.ctxQueue c) = false ∧
    s.dev.queueRuns (s.dev.ctxQueue c) = true :=
  ⟨Tests.on { Tests.run with ctxs := [(0, { CtxSt.init with proc := .disable 2, closed := true })] }, 0, 2, by decide +kernel⟩

theorem meets_RUN_SLOT_GRANT : ∃ (s : State) (p : PartIx) (c0 : Nat) (cs : List Nat),
    s.dev.clocked = true ∧
    s.dev.partRuns p = true ∧
    (s.dev.runningOf p).length < s.dev.fld F.PART_LAP_RUN_MAX p ∧
    s.dev.eligibleOf p = c0 :: cs :=
  ⟨Tests.on { ((Tests.run.setFld F.CTX_STATE_STATE 0 1).setFld F.PART_LAP_RUN_MAX 0 1) with ctxs := [(0, { CtxSt.init with eligible := some 5 })] }, 0, 0, [], by decide +kernel⟩

theorem meets_LAP_END : ∃ (s : State) (c : CtxIx) (p : Nat),
    s.dev.clocked = true ∧
    s.dev.partOfCtx c = some p ∧
    s.dev.ctxState c = 2 ∧
    s.dev.fld F.PART_LAP_LAP_LEN p ≠ 0 ∧
    ((s.dev.cx c).proc == .none || (s.dev.cx c).proc == .restore) = true ∧
    s.dev.partRuns p = true :=
  ⟨Tests.on (Tests.run.setFld F.PART_LAP_LAP_LEN 0 9), 0, 0, by decide +kernel⟩

theorem meets_PREEMPT_GRACE_EXPIRE : ∃ (s : State) (c : CtxIx) (hold : Bool),
    s.dev.clocked = true ∧
    (s.dev.cx c).proc = .preempt hold :=
  ⟨Tests.on { Tests.run with ctxs := [(0, { CtxSt.init with proc := .preempt false })] }, 0, false, by decide +kernel⟩

theorem meets_SAVE_AREA_WRITE_DONE : ∃ (s : State) (c : CtxIx) (hold : Bool),
    s.dev.clocked = true ∧
    (s.dev.cx c).proc = .preempt hold ∧
    s.dev.queueStarted (s.dev.ctxQueue c) = false ∧
    s.dev.queueRuns (s.dev.ctxQueue c) = true :=
  ⟨Tests.on { Tests.run with ctxs := [(0, { CtxSt.init with proc := .preempt false })] }, 0, false, by decide +kernel⟩

theorem meets_RESTORE_READ_DONE : ∃ (s : State) (c : CtxIx) (sv : Saved),
    s.dev.clocked = true ∧
    (s.dev.cx c).proc = .restore ∧
    (s.dev.cx c).saved = some sv ∧
    s.dev.queueRuns (s.dev.ctxQueue c) = true :=
  ⟨Tests.on { Tests.run with ctxs := [(0, { CtxSt.init with proc := .restore, saved := some ⟨[], 0⟩ })] }, 0, ⟨[], 0⟩, by decide +kernel⟩

theorem meets_PACER_POLL : ∃ (s : State) (c : CtxIx),
    s.dev.clocked = true ∧
    s.dev.queueRuns (s.dev.ctxQueue c) = true :=
  ⟨Tests.on Tests.run, 0, by decide +kernel⟩

theorem meets_DOORBELL : ∃ (s : State) (who : Who) (q : QueueIx) (w v : Word),
    s.dev.clocked = true ∧
    s.dev.accepts who ⟨.DB, q⟩ w v = true ∧
    s.dev.queueState q ≠ 0 ∧
    (match (s.dev.cx (s.dev.ctxOfQueue q)).proc with | .disable _ => true | _ => false) = false ∧
    bitsOf v.toNat 48 16 = s.dev.fld F.Q_CFG_DB_KEY q ∧
    sub32 (bitsOf v.toNat 0 32) (s.dev.fld F.Q_POS_HEAD q) ≤ s.dev.ringSlots q ∧
    sub32 (bitsOf v.toNat 0 32) (s.dev.fld F.Q_POS_TAIL q) < 2 ^ 31 :=
  ⟨Tests.on Tests.run, .mgmt, 0, 3, 3, by decide +kernel⟩

theorem meets_QUEUE_RESUME : ∃ (s : State) (who : Who) (q : QueueIx),
    s.dev.clocked = true ∧
    s.dev.accepts who ⟨.Q_CTRL, q⟩ 1 1 = true ∧
    s.dev.queueState q = 3 ∧
    s.dev.fld F.Q_STATUS_CAUSE q ≠ 5 :=
  ⟨Tests.on (Tests.run.setFld F.Q_STATUS_STATE 0 3), .mgmt, 0, by decide +kernel⟩

theorem meets_QUEUE_SKIP : ∃ (s : State) (who : Who) (q : QueueIx) (resume : Bool) (t : Dev) (x : Except Stop (List Byte)) (d : Dev),
    s.dev.clocked = true ∧
    s.dev.accepts who ⟨.Q_CTRL, q⟩ (if resume then 3 else 2) (if resume then 3 else 2) = true ∧
    s.dev.queueState q = 3 ∧
    s.dev.fld F.Q_STATUS_CAUSE q = 1 ∧
    s.dev.fld F.Q_POS_HEAD q ≠ s.dev.fld F.Q_POS_TAIL q ∧
    (s.dev.resume q).setQueue q { (s.dev.resume q).queue q with skip := true } = t ∧
    t.fetchRun q (t.fld F.Q_POS_HEAD q) 1 = (x, d) :=
  ⟨Tests.on (((Tests.run.setFld F.Q_STATUS_STATE 0 3).setFld F.Q_STATUS_CAUSE 0 1).setFld F.Q_POS_TAIL 0 5), .mgmt, 0, true, _, _, _, by decide +kernel, by decide +kernel, by decide +kernel, by decide +kernel, by decide +kernel, rfl, rfl⟩

theorem meets_QUEUE_ENABLE : ∃ (s : State) (who : Who) (q : QueueIx) (cfg v : Word) (p : Nat),
    s.dev.clocked = true ∧
    s.dev.accepts who ⟨.Q_CFG, q⟩ (F.Q_CFG_ENABLE.put cfg 1) v = true ∧
    F.Q_CFG_ENABLE.get v = 1 ∧
    s.dev.flag F.Q_CFG_ENABLE q = false ∧
    s.dev.queueState q = 0 ∧
    (s.dev.storeReg ⟨.Q_CFG, q⟩ (F.Q_CFG_ENABLE.put v 0)).partOfQueue q = some p ∧
    (s.dev.storeReg ⟨.Q_CFG, q⟩ (F.Q_CFG_ENABLE.put v 0)).partRuns p = true ∧
    (s.dev.storeReg ⟨.Q_CFG, q⟩ (F.Q_CFG_ENABLE.put v 0)).partOfCtx ((s.dev.storeReg ⟨.Q_CFG, q⟩ (F.Q_CFG_ENABLE.put v 0)).ctxOfQueue q) = some p ∧
    (s.dev.storeReg ⟨.Q_CFG, q⟩ (F.Q_CFG_ENABLE.put v 0)).bound ((s.dev.storeReg ⟨.Q_CFG, q⟩ (F.Q_CFG_ENABLE.put v 0)).ctxOfQueue q) = false :=
  ⟨Tests.on { Tests.up with recs := Tests.run.recs, regs := (Tests.up.setFld F.PART_STATUS_STATE 0 2).regs }, .mgmt, 0, 0, F.Q_CFG_ENABLE.put 0 1, 0, by decide +kernel⟩

theorem meets_QUEUE_DISABLE : ∃ (s : State) (who : Who) (q : QueueIx) (cfg v : Word),
    s.dev.clocked = true ∧
    s.dev.accepts who ⟨.Q_CFG, q⟩ (F.Q_CFG_ENABLE.put cfg 0) v = true ∧
    F.Q_CFG_ENABLE.get v = 0 ∧
    s.dev.flag F.Q_CFG_ENABLE q = true :=
  ⟨Tests.on Tests.run, .mgmt, 0, 0, 0, by decide +kernel⟩

theorem meets_TOKEN_WRITE : ∃ (s : State) (who : Who) (g : RegionIx) (t : Fin 4096) (w v : Word) (p : Nat),
    s.dev.clocked = true ∧
    s.dev.accepts who ⟨.TOKEN, g * 4096 + t⟩ w v = true ∧
    s.dev.partOfRegion g = some p ∧
    t.val ≠ 0 :=
  ⟨Tests.on Tests.run, .mgmt, 0, 5, 7, 7, 0, by decide +kernel⟩

theorem meets_CQ_HEAD_WRITE : ∃ (s : State) (who : Who) (q : QueueIx) (w v : Word),
    s.dev.clocked = true ∧
    s.dev.accepts who ⟨.Q_CQ_HEAD, q⟩ w v = true :=
  ⟨Tests.on Tests.run, .mgmt, 0, 0, 0, by decide +kernel⟩

theorem meets_DESCRIPTOR_FETCH : ∃ (s : State) (q : QueueIx),
    s.dev.clocked = true ∧
    (s.dev.queue q).skip = false ∧
    s.dev.mayFetch q = true :=
  ⟨Tests.on (Tests.run.setFld F.Q_POS_TAIL 0 5), 0, by decide +kernel⟩

theorem meets_DESCRIPTOR_ACCEPT : ∃ (s : State) (q : QueueIx) (l : List (List Byte)),
    s.dev.clocked = true ∧
    s.dev.queueRuns q = true ∧
    (s.dev.queueState q == 1 || s.dev.queueState q == 2) = true ∧
    s.dev.fetchStopped q = false ∧
    (s.dev.queue q).fetched.isEmpty = false ∧
    chainMembers 5 (((s.dev.queue q).fetched.takeWhile (·.err.isNone)).map (·.bytes)) = some l ∧
    ((s.dev.cx (s.dev.ctxOfQueue q)).pacer.armed && (s.dev.cx (s.dev.ctxOfQueue q)).pacer.slots != 0
    && (((s.dev.queue q).fetched.takeWhile (·.err.isNone)).take l.length).any
      (fun f => decide (f.pos < 2 ^ 32 ∧ sub32 f.pos (s.dev.cx (s.dev.ctxOfQueue q)).pacer.pEnd < 2 ^ 31))) = false :=
  ⟨Tests.on { Tests.run with queues := [(0, { QueueSt.init with fetched := [⟨0, leBytes 4 0x10100 ++ List.replicate 60 0, none⟩] })] }, 0, [leBytes 4 0x10100 ++ List.replicate 60 0], by decide +kernel⟩

theorem meets_FALSE_START_REREAD : ∃ (s : State) (q : QueueIx) (f : FalseStart),
    s.dev.clocked = true ∧
    (s.dev.queue q).fstart = some f ∧
    s.dev.queueState q = 2 ∧
    s.dev.queueRuns q = true ∧
    s.dev.fetchStopped q = false :=
  ⟨Tests.on { (Tests.run.setFld F.Q_STATUS_STATE 0 2) with queues := [(0, { QueueSt.init with fstart := some ⟨0, 0, 8, 16, 0⟩ })] }, 0, ⟨0, 0, 8, 16, 0⟩, by decide +kernel⟩

theorem meets_FALSE_START_STOP : ∃ (s : State) (q : QueueIx) (f : FalseStart),
    s.dev.clocked = true ∧
    (s.dev.queue q).fstart = some f ∧
    s.dev.queueState q = 2 ∧
    s.dev.queueRuns q = true ∧
    s.dev.noneWhole q = true :=
  ⟨Tests.on { (Tests.run.setFld F.Q_STATUS_STATE 0 2) with queues := [(0, { QueueSt.init with fstart := some ⟨0, 0, 8, 16, 0⟩ })] }, 0, ⟨0, 0, 8, 16, 0⟩, by decide +kernel⟩

theorem meets_TILE_ISSUE_of_a_cluster_engine_s_tile : ∃ (s : State) (q : QueueIx) (d : Desc) (ix cl : Nat),
    s.dev.clocked = true ∧
    s.dev.queueRuns q = true ∧
    s.dev.bound (s.dev.ctxOfQueue q) = true ∧
    s.dev.ctxState (s.dev.ctxOfQueue q) = 2 ∧
    (s.dev.cx (s.dev.ctxOfQueue q)).proc = .none ∧
    s.dev.issueUnit q = some d ∧
    s.dev.nextTile q d = some ix ∧
    (kindOfOp d.op).table = false ∧
    (s.dev.queue q).inflight.any (fun x => x.head == d.head && x.acq) = false ∧
    s.dev.shortest (s.dev.issueClusters q) = some cl :=
  ⟨Tests.on (Tests.flying [Tests.desc 0x10 0 4 none]), 0, Tests.desc 0x10 0 4 none, 0, 0, by decide +kernel⟩

theorem meets_TILE_ISSUE_of_a_table_engine_s_tile : ∃ (s : State) (q : QueueIx) (d : Desc) (ix : Nat),
    s.dev.clocked = true ∧
    s.dev.queueRuns q = true ∧
    s.dev.bound (s.dev.ctxOfQueue q) = true ∧
    s.dev.ctxState (s.dev.ctxOfQueue q) = 2 ∧
    (s.dev.cx (s.dev.ctxOfQueue q)).proc = .none ∧
    s.dev.issueUnit q = some d ∧
    s.dev.nextTile q d = some ix ∧
    kindOfOp d.op = .cde ∧
    (s.dev.queue q).inflight.any (fun x => x.head == d.head && x.acq) = false :=
  ⟨Tests.on (Tests.flying [Tests.desc 0x40 0 4 none]), 0, Tests.desc 0x40 0 4 none, 0, by decide +kernel⟩

theorem meets_NOP : ∃ (s : State) (q : QueueIx) (d : Desc),
    s.dev.clocked = true ∧
    s.dev.queueRuns q = true ∧
    (s.dev.queue q).inflight.find? (fun d => d.op == 0 && d.status.isNone && d.stopped.isNone) = some d ∧
    ((s.dev.queue q).inflight.takeWhile (fun x => x.pos != d.pos)).any (fun x => x.isHurdle && x.status.isNone) = false :=
  ⟨Tests.on (Tests.flying [Tests.desc 0 0 0 none]), 0, Tests.desc 0 0 0 none, by decide +kernel⟩

theorem meets_SET_SEED : ∃ (s : State) (q : QueueIx) (d : Desc),
    s.dev.clocked = true ∧
    s.dev.queueRuns q = true ∧
    (s.dev.queue q).inflight.find? (fun d => d.op == 2 && d.status.isNone && d.stopped.isNone) = some d ∧
    ((s.dev.queue q).inflight.takeWhile (fun x => x.pos != d.pos)).any (fun x => x.isHurdle && x.status.isNone) = false :=
  ⟨Tests.on (Tests.flying [Tests.desc 2 0 0 none]), 0, Tests.desc 2 0 0 none, by decide +kernel⟩

theorem meets_HURDLE_ARRIVE : ∃ (s : State) (q : QueueIx) (d : Desc) (ds : List Desc),
    s.dev.clocked = true ∧
    s.dev.queueRuns q = true ∧
    (s.dev.queue q).inflight = d :: ds ∧
    d.isHurdle = true ∧
    d.arrived = none ∧
    d.status = none ∧
    d.stopped = none :=
  ⟨Tests.on (Tests.flying [Tests.desc 1 0 0 none]), 0, Tests.desc 1 0 0 none, [], by decide +kernel⟩

theorem meets_HURDLE_POLL : ∃ (s : State) (q : QueueIx) (d : Desc) (p : Nat),
    s.dev.clocked = true ∧
    s.dev.queueRuns q = true ∧
    s.dev.partOfQueue q = some p ∧
    (s.dev.queue q).inflight.find? (fun d => d.waits && fieldAt d.bytes 0x30 8 != 0) = some d ∧
    fieldAt d.bytes 0x30 8 ≠ 0 :=
  ⟨Tests.on (Tests.flying [{ Tests.desc 1 0 0 none with bytes := 1 :: List.replicate 127 1, arrived := some 0 }]), 0, { Tests.desc 1 0 0 none with bytes := 1 :: List.replicate 127 1, arrived := some 0 }, 0, by decide +kernel⟩

theorem meets_HURDLE_EXPIRE : ∃ (s : State) (q : QueueIx) (d : Desc),
    s.dev.clocked = true ∧
    s.dev.queueRuns q = true ∧
    (s.dev.queue q).inflight.find? (·.waits) = some d ∧
    fieldAt d.bytes 0x4C 4 ≠ 0 :=
  ⟨Tests.on (Tests.flying [{ Tests.desc 1 0 0 none with bytes := 1 :: List.replicate 127 1, arrived := some 0 }]), 0, { Tests.desc 1 0 0 none with bytes := 1 :: List.replicate 127 1, arrived := some 0 }, by decide +kernel⟩

theorem meets_DESCRIPTOR_COMPLETE_of_a_quiet_descriptor : ∃ (s : State) (q : QueueIx) (d : Desc),
    s.dev.clocked = true ∧
    s.dev.queueRuns q = true ∧
    dueDesc (s.dev.queue q).inflight = some d ∧
    d.quiet = true ∧
    d.status = some 0 :=
  ⟨Tests.on (Tests.flying [{ Tests.desc 0 0 0 (some 0) with bytes := [0, 1, 1, 16] }]), 0, { Tests.desc 0 0 0 (some 0) with bytes := [0, 1, 1, 16] }, by decide +kernel⟩

theorem meets_DESCRIPTOR_COMPLETE_of_another : ∃ (s : State) (q : QueueIx) (d : Desc),
    s.dev.clocked = true ∧
    s.dev.queueRuns q = true ∧
    dueDesc (s.dev.queue q).inflight = some d ∧
    (d.quiet && d.status == some 0) = false :=
  ⟨Tests.on (Tests.flying [Tests.desc 0 0 0 (some 0)]), 0, Tests.desc 0 0 0 (some 0), by decide +kernel⟩

theorem meets_COMPLETION_RECORD_WRITE : ∃ (s : State) (q : QueueIx) (r : CqRec) (rs : List CqRec),
    s.dev.clocked = true ∧
    s.dev.queueRuns q = true ∧
    (s.dev.queueState q == 3 && s.dev.fld F.Q_STATUS_CAUSE q == 5) = false ∧
    (s.dev.queue q).records = r :: rs ∧
    sub32 (s.dev.queue q).cqPos (s.dev.fld F.Q_CQ_HEAD_HEAD q) < s.dev.cqSlots q :=
  ⟨Tests.on { Tests.run with queues := [(0, { QueueSt.init with records := [.event ⟨1, 0, 0⟩ 0 0] })] }, 0, .event ⟨1, 0, 0⟩ 0 0, [], by decide +kernel⟩

theorem meets_MSI_HOLDOFF_EXPIRE : ∃ (s : State) (q : QueueIx),
    s.dev.clocked = true ∧
    s.dev.queueRuns q = true ∧
    (s.dev.queue q).msiPend = true :=
  ⟨Tests.on { Tests.run with queues := [(0, { QueueSt.init with msiPend := true })] }, 0, by decide +kernel⟩

theorem meets_VX_EW_VX_ACT_VX_REDUCE_VX_SOFTMAX_VX_NORM_VX_OPTIM : ∃ (s : State) (c : ClusterIx) (i : Instr) (op : Nat) (t : Tile) (d : Desc) (ds : List Desc),
    s.dev.clocked = true ∧
    (i, op) ∈ [(Instr.vxEw c, 0x10), (.vxAct c, 0x11), (.vxReduce c, 0x12), (.vxSoftmax c, 0x13), (.vxNorm c, 0x14), (.vxOptim c, 0x15)] ∧
    SMap.find s.dev.engs (512 + c) = some t ∧
    s.dev.unit t = d :: ds ∧
    d.op = op :=
  ⟨Tests.on { (Tests.flying [Tests.desc 0x11 0 4 none]) with engs := [(512, ⟨0, 0, 0⟩)] }, 0, .vxAct 0, 0x11, ⟨0, 0, 0⟩, Tests.desc 0x11 0 4 none, [], by decide +kernel⟩

theorem meets_SP_GATHER_SP_SCATTER_SP_EMBED_SP_SPMV : ∃ (s : State) (c : ClusterIx) (i : Instr) (op : Nat) (t : Tile) (d : Desc) (ds : List Desc),
    s.dev.clocked = true ∧
    (i, op) ∈ [(Instr.spGather c, 0x20), (.spScatter c, 0x21), (.spEmbed c, 0x22), (.spSpmv c, 0x23)] ∧
    SMap.find s.dev.engs (640 + c) = some t ∧
    s.dev.unit t = d :: ds ∧
    d.op = op :=
  ⟨Tests.on { (Tests.flying [Tests.desc 0x21 0 4 none]) with engs := [(640, ⟨0, 0, 0⟩)] }, 0, .spScatter 0, 0x21, ⟨0, 0, 0⟩, Tests.desc 0x21 0 4 none, [], by decide +kernel⟩

theorem meets_CD_COMPRESS_CD_DECOMPRESS : ∃ (s : State) (g : RegionIx) (i : Instr) (op : Nat) (t : Tile) (d : Desc) (ds : List Desc),
    s.dev.clocked = true ∧
    (i, op) ∈ [(Instr.cdCompress g, 0x40), (.cdDecompress g, 0x41)] ∧
    SMap.find s.dev.engs (928 + g) = some t ∧
    s.dev.unit t = d :: ds ∧
    d.op = op :=
  ⟨Tests.on { (Tests.flying [Tests.desc 0x41 0 4 none]) with engs := [(928, ⟨0, 0, 0⟩)] }, 0, .cdDecompress 0, 0x41, ⟨0, 0, 0⟩, Tests.desc 0x41 0 4 none, [], by decide +kernel⟩

theorem meets_MV_COPY_MV_FILL_MV_PAGES : ∃ (s : State) (c : ClusterIx) (i : Instr) (op : Nat) (t : Tile) (d : Desc) (ds : List Desc),
    s.dev.clocked = true ∧
    (i, op) ∈ [(Instr.mvCopy c, 0x50), (.mvFill c, 0x51), (.mvPages c, 0x52)] ∧
    SMap.find s.dev.engs (768 + c) = some t ∧
    s.dev.unit t = d :: ds ∧
    d.op = op :=
  ⟨Tests.on { (Tests.flying [Tests.desc 0x51 0 4 none]) with engs := [(768, ⟨0, 0, 0⟩)] }, 0, .mvFill 0, 0x51, ⟨0, 0, 0⟩, Tests.desc 0x51 0 4 none, [], by decide +kernel⟩

theorem meets_TB_PARTITION_TB_AGGREGATE : ∃ (s : State) (g : RegionIx) (i : Instr) (op : Nat) (t : Tile) (d : Desc) (ds : List Desc),
    s.dev.clocked = true ∧
    (i, op) ∈ [(Instr.tbPartition g, 0x30), (.tbAggregate g, 0x31)] ∧
    SMap.find s.dev.engs (896 + g) = some t ∧
    s.dev.unit t = d :: ds ∧
    d.op = op :=
  ⟨Tests.on { (Tests.flying [Tests.desc 0x31 0 4 none]) with engs := [(896, ⟨0, 0, 0⟩)] }, 0, .tbAggregate 0, 0x31, ⟨0, 0, 0⟩, Tests.desc 0x31 0 4 none, [], by decide +kernel⟩

theorem meets_MATMUL_CONV : ∃ (s : State) (a : ArrayIx) (i : Instr) (op : Nat) (r : MxRun) (d : Desc) (n : Nat),
    s.dev.clocked = true ∧
    (i, op) ∈ [(Instr.matmul a, 8), (.conv a, 9)] ∧
    SMap.find s.dev.arrays (s.dev.logical a) = some r ∧
    r.run = true ∧
    r.held = none ∧
    s.dev.desc r.tile.q r.tile.pos = some d ∧
    d.op = op ∧
    s.dev.passBound (s.dev.logical a) = n + 1 :=
  ⟨Tests.on { (Tests.flying [Tests.desc 8 0 4 none]) with arrays := [(0, Tests.mx none)] }, 0, .matmul 0, 8, Tests.mx none, Tests.desc 8 0 4 none, 0, by decide +kernel⟩

theorem meets_MXA_TILE_START : ∃ (s : State) (a : ArrayIx) (r : MxRun),
    s.dev.clocked = true ∧
    SMap.find s.dev.arrays (s.dev.logical a) = some r ∧
    r.run = false ∧
    ((s.dev.members (s.dev.logical a)).map (fun m => s.dev.fld F.MXA_STATUS_STATE m)).all (fun x => x == 0 || x == 1) = true :=
  ⟨Tests.on { (Tests.run.setFld F.MXA_STATUS_STATE 0 1) with arrays := [(0, { Tests.mx none with run := false })] }, 0, { Tests.mx none with run := false }, by decide +kernel⟩

theorem meets_MXA_PASS_END : ∃ (s : State) (a : ArrayIx) (staged : Bool) (r : MxRun) (d : Desc) (ds : List Desc),
    s.dev.clocked = true ∧
    SMap.find s.dev.arrays (s.dev.logical a) = some r ∧
    s.dev.unit r.tile = d :: ds ∧
    r.run = true ∧
    r.held = none :=
  ⟨Tests.on { (Tests.flying [Tests.desc 8 0 4 none]) with arrays := [(0, Tests.mx none)] }, 0, true, Tests.mx none, Tests.desc 8 0 4 none, [], by decide +kernel⟩

theorem meets_MXA_WEIGHTS_AVAILABLE : ∃ (s : State) (a : ArrayIx) (r : MxRun) (h : Nat),
    s.dev.clocked = true ∧
    SMap.find s.dev.arrays (s.dev.logical a) = some r ∧
    r.held = some h ∧
    s.dev.weightsReady r.tile true = true :=
  ⟨Tests.on { (Tests.flying [Tests.desc 8 0 4 none]) with arrays := [(0, Tests.mx (some 0))] }, 0, Tests.mx (some 0), 0, by decide +kernel⟩

theorem meets_MXA_HOLD_LIMIT_EXPIRE : ∃ (s : State) (a : ArrayIx) (r : MxRun) (h : Nat),
    s.dev.clocked = true ∧
    SMap.find s.dev.arrays (s.dev.logical a) = some r ∧
    r.held = some h ∧
    r.heldLogged = false ∧
    s.dev.fld F.MXA_HOLD_LIMIT_LIMIT (s.dev.logical a) ≠ 0 :=
  ⟨Tests.on { (Tests.run.setFld F.MXA_HOLD_LIMIT_LIMIT 0 9) with arrays := [(0, Tests.mx (some 0))] }, 0, Tests.mx (some 0), 0, by decide +kernel⟩

theorem meets_MXA_SELFTEST_REQUEST : ∃ (s : State) (who : Who) (c : ClusterIx) (w v : Word),
    s.dev.clocked = true ∧
    s.dev.accepts who ⟨.CL_SELFTEST_CTRL, c⟩ w v = true :=
  ⟨Tests.on Tests.run, .mgmt, 0, 1, 1, by decide +kernel⟩

theorem meets_SELFTEST_DUE : ∃ (s : State) (a : ArrayIx),
    s.dev.clocked = true ∧
    s.dev.fld F.MXA_STATUS_STATE a ≠ 5 :=
  ⟨Tests.on (Tests.run.setFld F.MXA_STATUS_STATE 0 1), 0, by decide +kernel⟩

theorem meets_MXA_SELFTEST_BEGIN : ∃ (s : State) (a : ArrayIx),
    s.dev.clocked = true ∧
    s.dev.testWaits a = true ∧
    (match SMap.find s.dev.arrays (s.dev.logical a) with | some r => r.run | none => false) = false ∧
    (s.dev.fld F.MXA_STATUS_STATE a == 0 || s.dev.fld F.MXA_STATUS_STATE a == 1 || s.dev.fld F.MXA_STATUS_STATE a == 5) = true :=
  ⟨Tests.on ((Tests.run.setFld F.MXA_STATUS_STATE 0 1).setFld F.CL_SELFTEST_CTRL_START 0 1), 0, by decide +kernel⟩

theorem meets_MXA_SELFTEST_END_passed : ∃ (s : State) (a : ArrayIx),
    s.dev.clocked = true ∧
    s.dev.fld F.MXA_STATUS_STATE a = 4 :=
  ⟨Tests.on (Tests.run.setFld F.MXA_STATUS_STATE 0 4), 0, by decide +kernel⟩

theorem meets_MXA_SELFTEST_END_failed : ∃ (s : State) (a : ArrayIx),
    s.dev.clocked = true ∧
    s.dev.fld F.MXA_STATUS_STATE a = 4 :=
  ⟨Tests.on (Tests.run.setFld F.MXA_STATUS_STATE 0 4), 0, by decide +kernel⟩

theorem meets_MXA_POWER_GATE : ∃ (s : State) (a : ArrayIx),
    s.dev.clocked = true ∧
    s.dev.fld F.PWR_IDLE_ARRAY_IDLE (s.dev.logical a / 64) ≠ 0 ∧
    SMap.find s.dev.arrays (s.dev.logical a) = none ∧
    (s.dev.members (s.dev.logical a)).all (fun m => s.dev.fld F.MXA_STATUS_STATE m == 1) = true :=
  ⟨Tests.on ((Tests.run.setFld F.MXA_STATUS_STATE 0 1).setFld F.PWR_IDLE_ARRAY_IDLE 0 5), 0, by decide +kernel⟩

theorem meets_MXA_POWER_UP_DONE : ∃ (s : State) (a : ArrayIx),
    s.dev.clocked = true ∧
    s.dev.powering.contains (s.dev.logical a) = true ∧
    s.dev.powerFirst (s.dev.logical a) = true :=
  ⟨Tests.on { Tests.run with powering := [0] }, 0, by decide +kernel⟩

theorem meets_ENGINE_TILE_TAKE : ∃ (s : State) (e : Fin 896) (unstaged : List Tile) (t : Tile) (rest : List Tile),
    s.dev.clocked = true ∧
    s.dev.engineIdle e = true ∧
    takeFirst (s.dev.canRun e unstaged) (s.dev.deque (clusterOfEngine e)) = some (t, rest) :=
  ⟨Tests.on { (Tests.flying [Tests.desc 0x10 0 4 none]) with deques := [(0, [⟨0, 0, 0⟩])] }, 512, [], ⟨0, 0, 0⟩, [], by decide +kernel⟩

theorem meets_TILE_STEAL : ∃ (s : State) (e : Fin 896) (unstaged : List Tile) (v : Nat) (t : Tile) (rest : List Tile),
    s.dev.clocked = true ∧
    s.dev.engineIdle e = true ∧
    (s.dev.deque (clusterOfEngine e)).any (s.dev.canRun e unstaged) = false ∧
    s.dev.flag F.CL_STEAL_CFG_STEAL (clusterOfEngine e) = true ∧
    s.dev.stealFrom e unstaged = some v ∧
    takeFirst (s.dev.canRun e unstaged) (s.dev.deque v).reverse = some (t, rest) :=
  ⟨Tests.on { (((Tests.flying [Tests.desc 0x10 0 4 none]).setFlag F.CL_STATUS_IN_SERVICE 1 true).setFlag F.CL_STEAL_CFG_STEAL 0 true) with deques := [(1, [⟨0, 0, 0⟩])] }, 512, [], 1, ⟨0, 0, 0⟩, [], by decide +kernel⟩

theorem meets_TABLE_QUEUE_TAKE : ∃ (s : State) (u : Fin 64) (x : Nat) (t : Tile) (rest : List Tile) (p : Nat),
    s.dev.clocked = true ∧
    s.dev.engineIdle (896 + u) = true ∧
    s.dev.partOfRegion (regionOfEngine (896 + u)) = some p ∧
    (regionOfEngine (896 + u) :: (s.dev.regionsOf p).filter (· != regionOfEngine (896 + u))).find? (fun x => (s.dev.tableQ x).any (s.dev.canRun (896 + u) [])) = some x ∧
    takeFirst (s.dev.canRun (896 + u) []) (s.dev.tableQ x) = some (t, rest) :=
  ⟨Tests.on { (Tests.flying [Tests.desc 0x40 0 4 none]) with tableQs := [(0, [⟨0, 0, 0⟩])] }, 32, 0, ⟨0, 0, 0⟩, [], 0, by decide +kernel⟩

theorem meets_MVE_STAGE_WRITE : ∃ (s : State) (who : Who) (c : ClusterIx) (w v : Word),
    s.dev.clocked = true ∧
    s.dev.accepts who ⟨.MVE_STAGE, c⟩ w v = true :=
  ⟨Tests.on Tests.run, .mgmt, 0, 1, 1, by decide +kernel⟩

theorem meets_STAGE_SPLIT_EFFECT : ∃ (s : State) (c : ClusterIx),
    s.dev.clocked = true ∧
    s.dev.tileInFlight c = false ∧
    s.dev.fld F.MVE_STAGE_ACTIVE_BASE c < s.dev.stageSplit c ∧
    s.dev.padUsed.contains c.val = false :=
  ⟨Tests.on ((Tests.run.setFld F.CL_PAD_STATUS_BANK_MAP 0 0xFFFFFFFF).setFld F.MVE_STAGE_STAGE_BASE 0 2), 0, by decide +kernel⟩

theorem meets_PAD_READ : ∃ (s : State) (c : ClusterIx) (off : Fin 4194304) (arr : Option (Fin 4)),
    s.dev.clocked = true ∧
    off.val < s.dev.padSize c :=
  ⟨Tests.on Tests.run, 0, 64, some 1, by decide +kernel⟩

theorem meets_ENGINE_RESPONSE_ERROR_of_an_array : ∃ (s : State) (e : Fin 960) (code : Resp) (addr : Word) (r : MxRun) (d : Desc),
    s.dev.clocked = true ∧
    e.val < 512 ∧
    SMap.find s.dev.arrays (s.dev.logical e) = some r ∧
    s.dev.desc r.tile.q r.tile.pos = some d ∧
    d.op ≠ 0x40 ∧
    d.op ≠ 0x41 ∧
    d.op ≠ 0x52 ∧
    code ≠ .ok :=
  ⟨Tests.on { (Tests.flying [Tests.desc 8 0 4 none]) with arrays := [(0, Tests.mx none)] }, 0, .dataErr, 64, Tests.mx none, Tests.desc 8 0 4 none, by decide +kernel⟩

theorem meets_ENGINE_RESPONSE_ERROR_of_another_engine : ∃ (s : State) (e : Fin 960) (code : Resp) (addr : Word) (t : Tile) (d : Desc),
    s.dev.clocked = true ∧
    512 ≤ e.val ∧
    SMap.find s.dev.engs e = some t ∧
    s.dev.desc t.q t.pos = some d ∧
    d.op ≠ 0x40 ∧
    d.op ≠ 0x41 ∧
    d.op ≠ 0x52 ∧
    code ≠ .ok :=
  ⟨Tests.on { (Tests.flying [Tests.desc 0x10 0 4 none]) with engs := [(512, ⟨0, 0, 0⟩)] }, 512, .dataErr, 64, ⟨0, 0, 0⟩, Tests.desc 0x10 0 4 none, by decide +kernel⟩

theorem meets_TBE_LOCKSTEP_MISMATCH : ∃ (s : State) (g : RegionIx) (t : Tile),
    s.dev.clocked = true ∧
    SMap.find s.dev.engs (896 + g) = some t :=
  ⟨Tests.on { (Tests.flying [Tests.desc 0x30 0 4 none]) with engs := [(896, ⟨0, 0, 0⟩)] }, 0, ⟨0, 0, 0⟩, by decide +kernel⟩

theorem meets_T1_CHANNEL_ACCESS : ∃ (s : State) (ch : ChanIx) (arrive : List ChReq) (upset : List (Nat × Nat × Byte)) (q : ChReq),
    s.dev.clocked = true ∧
    arrive.all chReqShape = true ∧
    s.dev.ctlUp ch = true ∧
    (arrive.foldl (fun c q => c.arrive s.dev.time q) (s.dev.chan ch)).mode.pick ((s.dev.setChan ch (arrive.foldl (fun c q => c.arrive s.dev.time q) (s.dev.chan ch)).mode).inFallback ch) = some q :=
  ⟨Tests.on Tests.mem, 0, [Tests.read .scFill], [], Tests.read .scFill, by decide +kernel⟩

theorem meets_T2_CHANNEL_ACCESS : ∃ (s : State) (m : DimmIx) (arrive : List ChReq) (upset : List (Nat × Nat × Byte)) (q : ChReq),
    s.dev.clocked = true ∧
    arrive.all chReqShape = true ∧
    s.dev.ctlUp (256 + m) = true ∧
    (arrive.foldl (fun c q => c.arrive s.dev.time q) (s.dev.chan (256 + m))).mode.pick ((s.dev.setChan (256 + m) (arrive.foldl (fun c q => c.arrive s.dev.time q) (s.dev.chan (256 + m))).mode).inFallback (256 + m)) = some q :=
  ⟨Tests.on Tests.mem, 0, [Tests.read .scFill], [], Tests.read .scFill, by decide +kernel⟩

theorem meets_AGE_FALLBACK : ∃ (s : State) (ctl : CtlIx),
    s.dev.clocked = true ∧
    s.dev.ctlUp ctl = true ∧
    s.dev.inFallback ctl = false ∧
    ((s.dev.chan ctl).rdq ++ (s.dev.chan ctl).wrq).isEmpty = false :=
  ⟨Tests.on { Tests.mem with chans := [(0, { ChanSt.init with rdq := [Tests.read .scFill] })] }, 0, by decide +kernel⟩

theorem meets_PATROL_SCRUB : ∃ (s : State) (ctl : CtlIx) (upset : List (Nat × Byte)),
    s.dev.clocked = true ∧
    s.dev.ctlUp ctl = true ∧
    s.dev.ctlFailed ctl = false ∧
    s.dev.scrubPeriod ctl ≠ 0 ∧
    s.dev.scrubWords ctl ≠ 0 ∧
    (decide (256 ≤ ctl.val) && !s.dev.flag F.T2_STATUS_USED (ctl - 256)) = false :=
  ⟨Tests.on (Tests.mem.setFld F.CH_CTRL_SCRUB_PERIOD 0 5), 0, [], by decide +kernel⟩

theorem meets_CHANNEL_MAPOUT : ∃ (s : State) (who : Who) (ch : ChanIx) (v : Word),
    s.dev.clocked = true ∧
    s.dev.accepts who ⟨.CH_CTRL, ch⟩ (s.dev.reg .CH_CTRL ch ||| 1) v = true ∧
    F.CH_CTRL_MAPOUT.get v = 1 :=
  ⟨Tests.on Tests.mem, .mgmt, 0, Tests.mem.reg .CH_CTRL 0 ||| 1, by decide +kernel⟩

theorem meets_DIMM_TEMP_READ : ∃ (s : State) (m : DimmIx) (temp : Int),
    s.dev.clocked = true ∧
    s.dev.flag F.T2_STATUS_POPULATED m = true ∧
    s.dev.ctlUp (256 + m) = true :=
  ⟨Tests.on (Tests.mem.setFlag F.T2_STATUS_POPULATED 0 true), 0, 40, by decide +kernel⟩

theorem meets_HOT_DECAY : ∃ (s : State) (m : DimmIx),
    s.dev.clocked = true ∧
    s.dev.fld F.T2_CTRL_HOT_DECAY m ≠ 0 :=
  ⟨Tests.on (Tests.mem.setFld F.T2_CTRL_HOT_DECAY 0 5), 0, by decide +kernel⟩

theorem meets_CHANNEL_TRAINING_LOST : ∃ (s : State) (ctl : CtlIx),
    s.dev.clocked = true :=
  ⟨Tests.on Tests.mem, 0, by decide +kernel⟩

theorem meets_EPOCH_WRITE : ∃ (s : State) (who : Who) (p : PartIx) (epoch : BitVec 16) (v : Word),
    s.dev.clocked = true ∧
    s.dev.accepts who ⟨.TIER_POOL_CFG, p⟩ (F.TIER_POOL_CFG_EPOCH.put (s.dev.reg .TIER_POOL_CFG p) epoch.toNat) v = true :=
  ⟨Tests.on Tests.mem, .mgmt, 0, 5, F.TIER_POOL_CFG_EPOCH.put (Tests.mem.reg .TIER_POOL_CFG 0) 5, by decide +kernel⟩

theorem meets_SC_REQUEST : ∃ (s : State) (g : RegionIx) (chan : Fin 8) (blk : Nat) (r : ScReq) (fault : ScFault),
    s.dev.clocked = true ∧
    scReqShape r = true ∧
    s.dev.scUp g = true :=
  ⟨Tests.on Tests.mem, 0, 0, 0, ⟨0, false, 0, 0, 0, .normal, none⟩, 0, by decide +kernel⟩

theorem meets_SC_FILL : ∃ (s : State) (g : RegionIx) (chan : Fin 8) (blk : Nat) (m : MissReg) (ms : List MissReg) (d : ChDone) (left : List ChDone),
    s.dev.clocked = true ∧
    s.dev.scUp g = true ∧
    takeFirst (fun (m : MissReg) => m.chan == chan.val && m.blk == blk) (s.dev.sc g).miss = some (m, ms) ∧
    takeFirst (fun (d : ChDone) => d.req.src == .scFill && d.req.blk == blk) (s.dev.chan (8 * g + chan)).done = some (d, left) :=
  ⟨Tests.on { Tests.mem with chans := [(0, { ChanSt.init with done := [⟨Tests.read .scFill, .ok, []⟩] })], scs := [(0, { ScSt.init with miss := [⟨0, 0, []⟩] })] }, 0, 0, 0, ⟨0, 0, []⟩, [], ⟨Tests.read .scFill, .ok, []⟩, [], by decide +kernel⟩

theorem meets_SC_PREFETCH_FILL : ∃ (s : State) (g : RegionIx) (chan : Fin 8) (blk : Nat) (d : ChDone) (left : List ChDone),
    s.dev.clocked = true ∧
    takeFirst (fun (d : ChDone) => d.req.src == .scPrefetch && d.req.blk == blk) (s.dev.chan (8 * g + chan)).done = some (d, left) ∧
    ((s.dev.setChan (8 * g + chan) { s.dev.chan (8 * g + chan) with done := left }).sc g).pfOut.contains (chan.val, blk) = true ∧
    ((s.dev.setChan (8 * g + chan) { s.dev.chan (8 * g + chan) with done := left }).sc g).pfDead.contains (chan.val, blk) = false ∧
    d.words.length = 32 ∧
    d.words.any (·.1) = false :=
  ⟨Tests.on { Tests.mem with chans := [(0, { ChanSt.init with done := [⟨Tests.read .scPrefetch, .ok, List.replicate 32 (false, 0)⟩] })], scs := [(0, { ScSt.init with pfOut := [(0, 0)] })] }, 0, 0, 0, ⟨Tests.read .scPrefetch, .ok, List.replicate 32 (false, 0)⟩, [], by decide +kernel⟩

theorem meets_SC_PRELOAD_GO : ∃ (s : State) (who : Who) (g : RegionIx) (v : Word),
    s.dev.clocked = true ∧
    s.dev.accepts who ⟨.SC_PRELOAD_CTRL, g⟩ (F.SC_PRELOAD_CTRL_GO.put (s.dev.reg .SC_PRELOAD_CTRL g) 1) v = true ∧
    F.SC_PRELOAD_CTRL_GO.get v = 1 ∧
    F.SC_PRELOAD_CTRL_UNLOCK.get v = 0 ∧
    s.dev.flag F.SC_PRELOAD_CTRL_GO g = false :=
  ⟨Tests.on Tests.mem, .mgmt, 0, F.SC_PRELOAD_CTRL_GO.put (Tests.mem.reg .SC_PRELOAD_CTRL 0) 1, by decide +kernel⟩

theorem meets_SC_PRELOAD_DONE : ∃ (s : State) (g : RegionIx),
    s.dev.clocked = true ∧
    s.dev.flag F.SC_PRELOAD_CTRL_GO g = true :=
  ⟨Tests.on (Tests.mem.setFlag F.SC_PRELOAD_CTRL_GO 0 true), 0, by decide +kernel⟩

theorem meets_SC_UNLOCK : ∃ (s : State) (who : Who) (g : RegionIx) (v : Word),
    s.dev.clocked = true ∧
    s.dev.accepts who ⟨.SC_PRELOAD_CTRL, g⟩ (F.SC_PRELOAD_CTRL_UNLOCK.put (F.SC_PRELOAD_CTRL_GO.put (s.dev.reg .SC_PRELOAD_CTRL g) 0) 1) v = true ∧
    F.SC_PRELOAD_CTRL_GO.get v = 0 ∧
    F.SC_PRELOAD_CTRL_UNLOCK.get v = 1 :=
  ⟨Tests.on Tests.mem, .mgmt, 0, F.SC_PRELOAD_CTRL_UNLOCK.put (F.SC_PRELOAD_CTRL_GO.put (Tests.mem.reg .SC_PRELOAD_CTRL 0) 0) 1, by decide +kernel⟩

theorem meets_SC_WAY_WINDOW : ∃ (s : State) (g : RegionIx),
    s.dev.clocked = true ∧
    s.dev.fld F.PWR_IDLE_WAY_WINDOW (g / 4) ≠ 0 ∧
    s.dev.flag F.SC_STATUS_LOST g = false ∧
    s.dev.scUp g = true :=
  ⟨Tests.on (Tests.mem.setFld F.PWR_IDLE_WAY_WINDOW 0 9), 0, by decide +kernel⟩

theorem meets_SC_WAY_POWER_DOWN_DONE : ∃ (s : State) (g : RegionIx) (way : Fin 16),
    s.dev.clocked = true ∧
    (s.dev.sc g).downing.contains way.val = true :=
  ⟨Tests.on { Tests.mem with scs := [(0, { ScSt.init with downing := [3] })] }, 0, 3, by decide +kernel⟩

theorem meets_RD_SHARED_RD_UNIQUE_UPGRADE_MAKE_UNIQUE : ∃ (s : State) (n : CoreIx) (line : Nat) (flit : Fin 3) (i : Instr) (k : ReqKind) (r : Req) (d e : Dev) (h : Nat),
    s.dev.clocked = true ∧
    (i, k) ∈ [(Instr.rdShared n ⟨line, flit⟩, ReqKind.rdShared), (.rdUnique n ⟨line, flit⟩, .rdUnique), (.upgrade n ⟨line, flit⟩, .upgrade), (.makeUnique n ⟨line, flit⟩, .makeUnique)] ∧
    s.dev.takeMsg (fun m => match m with | .req r => r.kind == k && r.src == .core n && r.line == line | _ => false) = some (.req r, d) ∧
    d.fromDead r = false ∧
    d.ownCode r = .ok ∧
    d.ctxCheck r = (some .ok, e) ∧
    homeOfPlace (r.line * 64) (e.place (r.line * 64)) = some h :=
  ⟨Tests.on (Tests.linked (Tests.net [.req (Tests.mem.l2Req .rdShared 0 0)])), 0, 0, 0, .rdShared 0 ⟨0, 0⟩, .rdShared, Tests.mem.l2Req .rdShared 0 0, _, _, 0, by decide +kernel, by decide +kernel, Tests.took (by decide +kernel), by decide +kernel, by decide +kernel, Tests.pair (by decide +kernel), by decide +kernel⟩

theorem meets_RD_ONCE_WR_LINE_WR_PART_ATOMIC : ∃ (s : State) (src : Agent) (tag line : Nat) (part ctx : Option Nat) (hint : Hint) (data : Line) (mask : BitVec 64) (op : AtomOp) (flit : Fin 3) (i : Instr) (r : Req) (e : Dev) (h : Nat),
    s.dev.clocked = true ∧
    (i, r) ∈ [(Instr.rdOnce src tag ⟨line, flit⟩ part ctx hint mask, (⟨.rdOnce, line, src, tag, part, ctx, hint, 0, mask⟩ : Req)),
    (.wrLine src tag ⟨line, flit⟩ part ctx hint data, ⟨.wrLine, line, src, tag, part, ctx, hint, data, fullMask⟩),
    (.wrPart src tag ⟨line, flit⟩ part ctx hint data mask, ⟨.wrPart, line, src, tag, part, ctx, hint, data, mask⟩),
    (.atomic src tag ⟨line, flit⟩ part ctx ⟨op, hint⟩ data mask, ⟨.atomic op, line, src, tag, part, ctx, hint, data, mask⟩)] ∧
    s.dev.takeMsg (fun x => decide (x = .req r)) = none ∧
    s.dev.laneBefore (.req r) = false ∧
    s.dev.fromDead r = false ∧
    s.dev.ownCode r = .ok ∧
    s.dev.ctxCheck r = (some .ok, e) ∧
    homeOfPlace (line * 64) (e.place (line * 64)) = some h :=
  ⟨Tests.on Tests.mem, .mve 0, 0, 0, some 0, none, .normal, 0, 0, .int .add 8, 0, _, ⟨.rdOnce, 0, .mve 0, 0, some 0, none, .normal, 0, 0⟩, _, 0, by decide +kernel, List.mem_cons_self .., by decide +kernel, by decide +kernel, by rfl, by decide +kernel, Tests.pair (by decide +kernel), by decide +kernel⟩

theorem meets_WB_DIRTY : ∃ (s : State) (n : CoreIx) (line h : Nat) (x : Line) (d : Dev),
    s.dev.clocked = true ∧
    s.dev.homeOf line = some h ∧
    s.dev.takeMsg (fun m => match m with | .wbDirty c l _ => c == n.val && l == line | _ => false) = some (.wbDirty n line x, d) ∧
    (s.dev.l2 n).dead = false ∧
    s.dev.lineBusy h line = false :=
  ⟨Tests.on (Tests.net [.wbDirty 0 0 5]), 0, 0, 0, 5, _, by decide +kernel, by decide +kernel, Tests.took (by decide +kernel), by decide +kernel, by decide +kernel⟩

theorem meets_EVICT_CLEAN : ∃ (s : State) (n : CoreIx) (line h : Nat) (d : Dev),
    s.dev.clocked = true ∧
    s.dev.homeOf line = some h ∧
    s.dev.takeMsg (fun m => decide (m = .evictClean n line)) = some (.evictClean n line, d) ∧
    (s.dev.l2 n).dead = false ∧
    s.dev.lineBusy h line = false :=
  ⟨Tests.on (Tests.net [.evictClean 0 0]), 0, 0, 0, _, by decide +kernel, by decide +kernel, Tests.took (by decide +kernel), by decide +kernel, by decide +kernel⟩

theorem meets_LOST_NOTE : ∃ (s : State) (n : CoreIx) (line h : Nat) (d : Dev) (e : FiltEntry),
    s.dev.clocked = true ∧
    s.dev.homeOf line = some h ∧
    s.dev.takeMsg (fun m => decide (m = .lostNote n line)) = some (.lostNote n line, d) ∧
    s.dev.lineBusy h line = false ∧
    d.dir h line = some e ∧
    e.holders.contains n.val = true :=
  ⟨Tests.on { Tests.net [.lostNote 0 0] with homes := [(0, { HomeSt.init with filter := [⟨0, .m, [0]⟩] })] }, 0, 0, 0, _, ⟨0, .m, [0]⟩, by decide +kernel, by decide +kernel, Tests.took (by decide +kernel), by decide +kernel, by decide +kernel, by decide +kernel⟩

theorem meets_SNP_SHARE : ∃ (s : State) (n : CoreIx) (line : Nat) (d : Dev) (l : L2Line),
    s.dev.clocked = true ∧
    (s.dev.l2 n).dead = false ∧
    s.dev.granting n line = false ∧
    s.dev.takeMsg (fun m => decide (m = .snpShare n line)) = some (.snpShare n line, d) ∧
    (d.l2 n).find line = some l :=
  ⟨Tests.on { Tests.net [.snpShare 0 0] with l2s := [(0, { L2St.init with lines := [⟨0, .m, 7⟩] })] }, 0, 0, _, ⟨0, .m, 7⟩, by decide +kernel, by rfl, by decide +kernel, Tests.took (by decide +kernel), by rfl⟩

theorem meets_SNP_SHARE_of_an_unreadable_line : ∃ (s : State) (n : CoreIx) (line : Nat) (d : Dev) (l : L2Line),
    s.dev.clocked = true ∧
    (s.dev.l2 n).dead = false ∧
    s.dev.granting n line = false ∧
    s.dev.takeMsg (fun m => decide (m = .snpShare n line)) = some (.snpShare n line, d) ∧
    (d.l2 n).find line = some l :=
  ⟨Tests.on { Tests.net [.snpShare 0 0] with l2s := [(0, { L2St.init with lines := [⟨0, .m, 7⟩] })] }, 0, 0, _, ⟨0, .m, 7⟩, by decide +kernel, by rfl, by decide +kernel, Tests.took (by decide +kernel), by rfl⟩

theorem meets_SNP_INV : ∃ (s : State) (n : CoreIx) (line : Nat) (d : Dev) (l : L2Line),
    s.dev.clocked = true ∧
    (s.dev.l2 n).dead = false ∧
    s.dev.granting n line = false ∧
    s.dev.takeMsg (fun m => decide (m = .snpInv n line)) = some (.snpInv n line, d) ∧
    (d.l2 n).find line = some l :=
  ⟨Tests.on { Tests.net [.snpInv 0 0] with l2s := [(0, { L2St.init with lines := [⟨0, .m, 7⟩] })] }, 0, 0, _, ⟨0, .m, 7⟩, by decide +kernel, by rfl, by decide +kernel, Tests.took (by decide +kernel), by rfl⟩

theorem meets_SNP_INV_of_an_unreadable_line : ∃ (s : State) (n : CoreIx) (line : Nat) (d : Dev) (l : L2Line),
    s.dev.clocked = true ∧
    (s.dev.l2 n).dead = false ∧
    s.dev.granting n line = false ∧
    s.dev.takeMsg (fun m => decide (m = .snpInv n line)) = some (.snpInv n line, d) ∧
    (d.l2 n).find line = some l :=
  ⟨Tests.on { Tests.net [.snpInv 0 0] with l2s := [(0, { L2St.init with lines := [⟨0, .m, 7⟩] })] }, 0, 0, _, ⟨0, .m, 7⟩, by decide +kernel, by rfl, by decide +kernel, Tests.took (by decide +kernel), by rfl⟩

theorem meets_SNP_ACK : ∃ (s : State) (n : CoreIx) (line h : Nat) (d : Dev),
    s.dev.clocked = true ∧
    s.dev.homeOf line = some h ∧
    s.dev.takeMsg (fun m => match m with | .snpAck c l => !false && c == n.val && l == line | .snpData c l _ => false && c == n.val && l == line | _ => false) = some (.snpAck n line, d) :=
  ⟨Tests.on (Tests.net [.snpAck 0 0]), 0, 0, 0, _, by decide +kernel, by decide +kernel, Tests.took (by decide +kernel)⟩

theorem meets_SNP_DATA : ∃ (s : State) (n : CoreIx) (line h : Nat) (x : Line) (d : Dev),
    s.dev.clocked = true ∧
    s.dev.homeOf line = some h ∧
    s.dev.takeMsg (fun m => match m with | .snpAck c l => !true && c == n.val && l == line | .snpData c l _ => true && c == n.val && l == line | _ => false) = some (.snpData n line x, d) :=
  ⟨Tests.on (Tests.net [.snpData 0 0 5]), 0, 0, 0, 5, _, by decide +kernel, by decide +kernel, Tests.took (by decide +kernel)⟩

theorem meets_GRANT : ∃ (s : State) (n : CoreIx) (line : Nat) (evict : List (Nat × Bool)) (d : Dev),
    s.dev.clocked = true ∧
    s.dev.takeMsg (fun m => decide (m = .grant n line)) = some (.grant n line, d) ∧
    d.l2Waits n line = true :=
  ⟨Tests.on { Tests.net [.grant 0 0] with l2s := [(0, { L2St.init with pend := [(0, .upgrade, 0)] })] }, 0, 0, [], _, by decide +kernel, Tests.took (by decide +kernel), by decide +kernel⟩

theorem meets_COMP_to_a_core : ∃ (s : State) (n : CoreIx) (line tag : Nat) (flit : Fin 3) (code : Resp) (d : Dev),
    s.dev.clocked = true ∧
    s.dev.takeMsg (fun m => match m with | .comp a l t _ => a == .core n && l == line && t == tag | _ => false) = some (.comp (.core n) line tag code, d) :=
  ⟨Tests.on (Tests.net [.comp (.core 0) 0 1 .ok]), 0, 0, 1, 0, .ok, _, by decide +kernel, Tests.took (by decide +kernel)⟩

theorem meets_COMP_to_an_engine : ∃ (s : State) (n : ClusterIx) (line tag : Nat) (flit : Fin 3) (code : Resp) (d : Dev),
    s.dev.clocked = true ∧
    s.dev.takeMsg (fun m => match m with | .comp a l t _ => a == .mve n && l == line && t == tag | _ => false) = some (.comp (.mve n) line tag code, d) :=
  ⟨Tests.on (Tests.net [.comp (.mve 0) 0 1 .ok]), 0, 0, 1, 0, .ok, _, by decide +kernel, Tests.took (by decide +kernel)⟩

theorem meets_DATA : ∃ (s : State) (n : CoreIx) (line tag : Nat) (evict : List (Nat × Bool)) (flit : Fin 3) (st : Option DirSt) (x : Line) (d : Dev),
    s.dev.clocked = true ∧
    s.dev.takeMsg (fun m => match m with | .data a l t _ _ => a == .core n && l == line && t == tag | _ => false) = some (.data (.core n) line tag st x, d) :=
  ⟨Tests.on (Tests.net [.data (.core 0) 0 0 (some .e) 5]), 0, 0, 0, [], 0, some .e, 5, _, by decide +kernel, Tests.took (by decide +kernel)⟩

theorem meets_RECLAIM_ORDER : ∃ (s : State) (h : HomeIx),
    s.dev.clocked = true :=
  ⟨Tests.on Tests.mem, 0, by decide +kernel⟩

theorem meets_CORE_LOAD_of_a_held_line : ∃ (s : State) (n : CoreIx) (lvl : Level) (pa : BitVec 56) (size : Fin 9) (pbmt : Fin 4) (l : L2Line),
    s.dev.clocked = true ∧
    loadShape size = true ∧
    s.dev.coreUp n = true ∧
    s.dev.strictly pa.toNat pbmt = false ∧
    memType pa.toNat pbmt = .cacheable ∧
    pa.toNat % 8 + size.val ≤ 8 ∧
    s.dev.wcTouches n [pa.toNat / 64] = false ∧
    (s.dev.hart n).sb.all (fun e => e.line != pa.toNat / 64) = true ∧
    (s.dev.l2 n).find (pa.toNat / 64) = some l :=
  ⟨Tests.on { Tests.core with l2s := [(0, { L2St.init with lines := [⟨0, .m, 7⟩] })] }, 0, .user, 0, 8, 0, ⟨0, .m, 7⟩, by decide +kernel⟩

theorem meets_CORE_LOAD_of_a_line_not_held : ∃ (s : State) (n : CoreIx) (lvl : Level) (pa : BitVec 56) (size : Fin 9) (pbmt : Fin 4) (bad : Bool) (t : Dev),
    s.dev.clocked = true ∧
    loadShape size = true ∧
    s.dev.coreUp n = true ∧
    s.dev.strictly pa.toNat pbmt = false ∧
    memType pa.toNat pbmt = .cacheable ∧
    pa.toNat % 8 + size.val ≤ 8 ∧
    (if bad then s.dev.l2Bad n (pa.toNat / 64) else s.dev) = t ∧
    t.wcTouches n [pa.toNat / 64] = false ∧
    (t.hart n).sb.all (fun e => e.line != pa.toNat / 64) = true ∧
    (t.l2 n).find (pa.toNat / 64) = none :=
  ⟨Tests.on Tests.core, 0, .user, 0, 8, 0, true, _, by decide +kernel, by decide +kernel, by decide +kernel, by decide +kernel, rfl, by decide, rfl, by decide +kernel, by decide +kernel, by decide +kernel⟩

theorem meets_CORE_LOAD_around_the_caches : ∃ (s : State) (n : CoreIx) (lvl : Level) (pa : BitVec 56) (size : Fin 9) (pbmt : Fin 4) (l : Nat),
    s.dev.clocked = true ∧
    loadShape size = true ∧
    s.dev.coreUp n = true ∧
    s.dev.strictly pa.toNat pbmt = false ∧
    memType pa.toNat pbmt = .nonCaching ∧
    linesOf (s.dev.answerAddr pa.toNat) size.val = [l] ∧
    s.dev.wcTouches n [l] = false ∧
    (s.dev.hart n).waits.contains (.load, s.dev.answerAddr pa.toNat, size.val) = false :=
  ⟨Tests.on Tests.core, 0, .user, 0, 8, 1, 0, by decide +kernel⟩

theorem meets_CORE_LOAD_of_strict_device_memory : ∃ (s : State) (n : CoreIx) (lvl : Level) (pa : BitVec 56) (size : Fin 9) (pbmt : Fin 4) (bad : Bool),
    s.dev.clocked = true ∧
    loadShape size = true ∧
    s.dev.strictly pa.toNat pbmt = true :=
  ⟨Tests.on Tests.core, 0, .user, 0, 8, 2, false, by decide +kernel⟩

theorem meets_CORE_STORE : ∃ (s : State) (n : CoreIx) (lvl : Level) (pa : BitVec 56) (data : List Byte) (pbmt : Fin 4) (merge : Bool),
    s.dev.clocked = true ∧
    storeShape data = true ∧
    s.dev.coreUp n = true ∧
    s.dev.strictly pa.toNat pbmt = false ∧
    memType pa.toNat pbmt = .cacheable ∧
    (linesOf pa.toNat data.length).all (s.dev.l2Owns n) = true ∧
    (s.dev.hart n).sb.length + (storePieces (s.dev.answerAddr pa.toNat) data).length ≤ 64 :=
  ⟨Tests.on { Tests.core with l2s := [(0, { L2St.init with lines := [⟨0, .m, 7⟩] })] }, 0, .user, 0, [1, 2], 0, true, by decide +kernel⟩

theorem meets_CORE_STORE_of_a_line_not_owned : ∃ (s : State) (n : CoreIx) (lvl : Level) (pa : BitVec 56) (data : List Byte) (pbmt : Fin 4) (merge : Bool),
    s.dev.clocked = true ∧
    storeShape data = true ∧
    s.dev.coreUp n = true ∧
    s.dev.strictly pa.toNat pbmt = false ∧
    memType pa.toNat pbmt = .cacheable ∧
    (linesOf pa.toNat data.length).all (s.dev.l2Owns n) = false :=
  ⟨Tests.on Tests.core, 0, .user, 0, [1, 2], 0, true, by decide +kernel⟩

theorem meets_CORE_STORE_around_the_caches : ∃ (s : State) (n : CoreIx) (lvl : Level) (pa : BitVec 56) (data : List Byte) (pbmt : Fin 4) (merge : Bool) (t : Dev),
    s.dev.clocked = true ∧
    storeShape data = true ∧
    s.dev.coreUp n = true ∧
    s.dev.strictly pa.toNat pbmt = false ∧
    memType pa.toNat pbmt = .nonCaching ∧
    (storePieces (s.dev.answerAddr pa.toNat) data).foldl (fun (acc : Option Dev) p => acc.bind (fun s => s.wcStore n (storeEntry p.1 p.2 (s.hart n).epoch))) (some s.dev) = some t :=
  ⟨Tests.on Tests.core, 0, .user, 0, [1, 2], 1, true, _, by decide +kernel, by decide, by decide +kernel, by rfl, rfl, rfl⟩

theorem meets_CORE_STORE_to_strict_device_memory : ∃ (s : State) (n : CoreIx) (lvl : Level) (pa : BitVec 56) (data : List Byte) (pbmt : Fin 4) (merge : Bool),
    s.dev.clocked = true ∧
    storeShape data = true ∧
    s.dev.strictly pa.toNat pbmt = true ∧
    data.length ≤ 8 :=
  ⟨Tests.on Tests.core, 0, .user, 0, [1, 2], 2, true, by decide +kernel⟩

theorem meets_STORE_PERFORM : ∃ (s : State) (n : CoreIx) (i : Fin 64) (e : BufEntry) (l : L2Line),
    s.dev.clocked = true ∧
    (s.dev.hart n).sb[i.val]? = some e ∧
    (s.dev.hart n).inReset = false ∧
    ((s.dev.hart n).sb.take i.val).any (fun x => x.line == e.line || decide (x.ep < e.ep)) = false ∧
    (s.dev.l2 n).find e.line = some l ∧
    l.st ≠ .s :=
  ⟨Tests.on { Tests.core with harts := [(0, { Hart.init with inReset := false, sb := [⟨0, 5, 1, 0⟩] })], l2s := [(0, { L2St.init with lines := [⟨0, .m, 7⟩] })] }, 0, 0, ⟨0, 5, 1, 0⟩, ⟨0, .m, 7⟩, by decide +kernel⟩

theorem meets_STORE_PERFORM_of_a_line_no_longer_held : ∃ (s : State) (n : CoreIx) (i : Fin 64) (bad : Bool) (e : BufEntry) (t : Dev),
    s.dev.clocked = true ∧
    (s.dev.hart n).sb[i.val]? = some e ∧
    (if bad then s.dev.l2Bad n e.line else s.dev) = t ∧
    (t.hart n).inReset = false ∧
    ((t.hart n).sb.take i.val).any (fun x => x.line == e.line || decide (x.ep < e.ep)) = false ∧
    (t.l2 n).find e.line = none :=
  ⟨Tests.on { Tests.core with harts := [(0, { Hart.init with inReset := false, sb := [⟨0, 5, 1, 0⟩] })] }, 0, 0, true, ⟨0, 5, 1, 0⟩, _, by decide +kernel, rfl, rfl, by decide +kernel, by decide +kernel, by decide +kernel⟩

theorem meets_WC_DRAIN : ∃ (s : State) (n : CoreIx) (i : Fin 8) (e : BufEntry),
    s.dev.clocked = true ∧
    (s.dev.hart n).wc[i.val]? = some e ∧
    (s.dev.hart n).mayDrain e = true :=
  ⟨Tests.on { Tests.core with harts := [(0, { Hart.init with inReset := false, wc := [⟨0, 5, 1, 0⟩] })] }, 0, 0, ⟨0, 5, 1, 0⟩, by decide +kernel⟩

theorem meets_CORE_FENCE_without_W_before_it : ∃ (s : State) (n : CoreIx) (pr pi po sr sw si so : Bool),
    s.dev.clocked = true ∧
    s.dev.coreUp n = true ∧
    (s.dev.hart n).predWaits pr false pi po = false :=
  ⟨Tests.on Tests.core, 0, true, true, true, true, true, true, true, by decide +kernel⟩

theorem meets_CORE_FENCE_with_W_before_it : ∃ (s : State) (n : CoreIx) (pr pi po sr sw si so : Bool),
    s.dev.clocked = true ∧
    s.dev.coreUp n = true ∧
    (s.dev.hart n).predWaits pr true pi po = false :=
  ⟨Tests.on Tests.core, 0, true, true, true, true, true, true, true, by decide +kernel⟩

theorem meets_CORE_FENCE_with_an_earlier_access_unanswered : ∃ (s : State) (n : CoreIx) (pr pw pi po sr sw si so : Bool),
    s.dev.clocked = true ∧
    s.dev.coreUp n = true ∧
    (s.dev.hart n).predWaits pr pw pi po = true :=
  ⟨Tests.on { Tests.core with harts := [(0, { Hart.init with inReset := false, waits := [(.load, 0, 8)] })] }, 0, true, true, true, true, true, true, true, true, by decide +kernel⟩

theorem meets_CORE_AMO : ∃ (s : State) (n : CoreIx) (pa : BitVec 56) (size : Fin 9) (fn : AmoFn) (x : Word) (pbmt : Fin 4) (rl : Bool) (l : L2Line),
    s.dev.clocked = true ∧
    s.dev.coreUp n = true ∧
    size.val ≠ 0 ∧
    pa.toNat % size.val = 0 ∧
    memType pa.toNat pbmt = .cacheable ∧
    s.dev.wcTouches n [pa.toNat / 64] = false ∧
    s.dev.olderWait n (pa.toNat / 64) rl = false ∧
    (s.dev.l2 n).find (pa.toNat / 64) = some l ∧
    l.st ≠ .s :=
  ⟨Tests.on { Tests.core with l2s := [(0, { L2St.init with lines := [⟨0, .m, 7⟩] })] }, 0, 0, 8, .add, 5, 0, false, ⟨0, .m, 7⟩, by decide +kernel⟩

theorem meets_CORE_AMO_of_a_line_not_held : ∃ (s : State) (n : CoreIx) (pa : BitVec 56) (size : Fin 9) (fn : AmoFn) (x : Word) (pbmt : Fin 4) (rl bad : Bool) (t : Dev),
    s.dev.clocked = true ∧
    s.dev.coreUp n = true ∧
    (if bad then s.dev.l2Bad n (pa.toNat / 64) else s.dev) = t ∧
    size.val ≠ 0 ∧
    pa.toNat % size.val = 0 ∧
    memType pa.toNat pbmt = .cacheable ∧
    t.wcTouches n [pa.toNat / 64] = false ∧
    t.olderWait n (pa.toNat / 64) rl = false ∧
    (t.l2 n).find (pa.toNat / 64) = none :=
  ⟨Tests.on Tests.core, 0, 0, 8, .add, 5, 0, false, true, _, by decide +kernel, by decide +kernel, rfl, by decide, rfl, rfl, by decide +kernel, by decide +kernel, by decide +kernel⟩

theorem meets_CORE_LR : ∃ (s : State) (n : CoreIx) (pa : BitVec 56) (size : Fin 9) (pbmt : Fin 4) (rl : Bool) (l : L2Line),
    s.dev.clocked = true ∧
    s.dev.coreUp n = true ∧
    size.val ≠ 0 ∧
    pa.toNat % size.val = 0 ∧
    memType pa.toNat pbmt = .cacheable ∧
    s.dev.wcTouches n [pa.toNat / 64] = false ∧
    s.dev.olderWait n (pa.toNat / 64) rl = false ∧
    (s.dev.l2 n).find (pa.toNat / 64) = some l :=
  ⟨Tests.on { Tests.core with l2s := [(0, { L2St.init with lines := [⟨0, .s, 7⟩] })] }, 0, 0, 8, 0, false, ⟨0, .s, 7⟩, by decide +kernel⟩

theorem meets_CORE_LR_of_a_line_not_held : ∃ (s : State) (n : CoreIx) (pa : BitVec 56) (size : Fin 9) (pbmt : Fin 4) (rl bad : Bool) (t : Dev),
    s.dev.clocked = true ∧
    s.dev.coreUp n = true ∧
    (if bad then s.dev.l2Bad n (pa.toNat / 64) else s.dev) = t ∧
    size.val ≠ 0 ∧
    pa.toNat % size.val = 0 ∧
    memType pa.toNat pbmt = .cacheable ∧
    t.wcTouches n [pa.toNat / 64] = false ∧
    t.olderWait n (pa.toNat / 64) rl = false ∧
    (t.l2 n).find (pa.toNat / 64) = none :=
  ⟨Tests.on Tests.core, 0, 0, 8, 0, false, true, _, by decide +kernel, by decide +kernel, rfl, by decide, rfl, rfl, by decide +kernel, by decide +kernel, by decide +kernel⟩

theorem meets_CORE_SC_with_the_reservation : ∃ (s : State) (n : CoreIx) (pa : BitVec 56) (data : List Byte) (pbmt : Fin 4) (rl : Bool) (l : L2Line),
    s.dev.clocked = true ∧
    s.dev.coreUp n = true ∧
    data.length ≠ 0 ∧
    pa.toNat % data.length = 0 ∧
    memType pa.toNat pbmt = .cacheable ∧
    (s.dev.hart n).resv = some (pa.toNat / 64) ∧
    s.dev.wcTouches n [pa.toNat / 64] = false ∧
    s.dev.olderWait n (pa.toNat / 64) rl = false ∧
    (s.dev.l2 n).find (pa.toNat / 64) = some l ∧
    l.st ≠ .s :=
  ⟨Tests.on { Tests.core with harts := [(0, { Hart.init with inReset := false, resv := some 0 })], l2s := [(0, { L2St.init with lines := [⟨0, .m, 7⟩] })] }, 0, 0, [1, 2, 3, 4], 0, false, ⟨0, .m, 7⟩, by decide +kernel⟩

theorem meets_CORE_SC_without_it : ∃ (s : State) (n : CoreIx) (pa : BitVec 56) (data : List Byte) (pbmt : Fin 4) (rl bad : Bool) (t : Dev),
    s.dev.clocked = true ∧
    s.dev.coreUp n = true ∧
    (if bad then s.dev.l2Bad n (pa.toNat / 64) else s.dev) = t ∧
    data.length ≠ 0 ∧
    pa.toNat % data.length = 0 ∧
    memType pa.toNat pbmt = .cacheable ∧
    (t.hart n).resv ≠ some (pa.toNat / 64) :=
  ⟨Tests.on Tests.core, 0, 0, [1, 2, 3, 4], 0, false, true, _, by decide +kernel, by decide +kernel, rfl, by decide, rfl, rfl, by decide +kernel⟩

theorem meets_STRICT_DEVICE_ACCESS_of_CTRL_space : ∃ (s : State) (n : CoreIx) (lvl : Level) (pa : BitVec 56) (size : Fin 9) (store : Option (BitVec 64)) (a : Nat),
    s.dev.clocked = true ∧
    s.dev.coreUp n = true ∧
    [1, 2, 4, 8].contains size.val = true ∧
    pa.toNat % size.val = 0 ∧
    ((s.dev.setHart n { s.dev.hart n with sealed := true }).hart n).strictWaits = false ∧
    (s.dev.setHart n { s.dev.hart n with sealed := true }).localForm pa.toNat = some a ∧
    ctrlBase ≤ a ∧
    a ≤ ctrlLimit :=
  ⟨Tests.on Tests.core, 0, .machine, BitVec.ofNat 56 ctrlBase, 8, none, ctrlBase, by decide +kernel, by decide +kernel, by decide, rfl, by decide +kernel, by decide +kernel, by decide, by decide⟩

theorem meets_STRICT_DEVICE_ACCESS_of_memory : ∃ (s : State) (n : CoreIx) (lvl : Level) (pa : BitVec 56) (size : Fin 9) (store : Option (BitVec 64)) (a : Nat),
    s.dev.clocked = true ∧
    s.dev.coreUp n = true ∧
    [1, 2, 4, 8].contains size.val = true ∧
    pa.toNat % size.val = 0 ∧
    ((s.dev.setHart n { s.dev.hart n with sealed := true }).hart n).strictWaits = false ∧
    (s.dev.setHart n { s.dev.hart n with sealed := true }).localForm pa.toNat = some a ∧
    a < ctrlBase :=
  ⟨Tests.on Tests.core, 0, .machine, 0, 8, none, 0, by decide +kernel⟩

theorem meets_STRICT_DEVICE_ACCESS_behind_another : ∃ (s : State) (n : CoreIx) (lvl : Level) (pa : BitVec 56) (size : Fin 9) (store : Option (BitVec 64)),
    s.dev.clocked = true ∧
    s.dev.coreUp n = true ∧
    [1, 2, 4, 8].contains size.val = true ∧
    pa.toNat % size.val = 0 ∧
    ((s.dev.setHart n { s.dev.hart n with sealed := true }).hart n).strictWaits = true :=
  ⟨Tests.on { Tests.core with harts := [(0, { Hart.init with inReset := false, waits := [(.strictLoad, 0, 8)] })] }, 0, .machine, 8, 8, none, by decide +kernel⟩

theorem meets_STRICT_DEVICE_ACCESS_with_a_bad_size : ∃ (s : State) (n : CoreIx) (lvl : Level) (pa : BitVec 56) (size : Fin 9) (store : Option (BitVec 64)),
    s.dev.clocked = true ∧
    s.dev.coreUp n = true ∧
    [1, 2, 4, 8].contains size.val = false :=
  ⟨Tests.on Tests.core, 0, .machine, 0, 3, none, by decide +kernel⟩

theorem meets_CORE_TRAP : ∃ (s : State) (n : CoreIx),
    s.dev.clocked = true :=
  ⟨Tests.on Tests.core, 0, by decide +kernel⟩

theorem meets_IMSIC_MSI : ∃ (s : State) (i : Nat) (m : Msi) (n page : Nat),
    s.dev.clocked = true ∧
    s.dev.msis[i]? = some m ∧
    imsicFile m.addr = some (n, page) ∧
    1 ≤ m.id ∧
    m.id ≤ 2047 ∧
    (SMap.get s.dev.files [] (n * 16 + page)).contains m.id = false ∧
    ({ s.dev with msis := s.dev.msis.eraseIdx i } : Dev).dieState 8 = 0 :=
  ⟨Tests.on { Tests.core with msis := [⟨none, ctrlBase + 8 * 0x10000000 + 0x01000000, 5⟩] }, 0, ⟨none, ctrlBase + 8 * 0x10000000 + 0x01000000, 5⟩, 0, 0, by decide +kernel⟩

theorem meets_CORE_WAKE : ∃ (s : State) (n : CoreIx),
    s.dev.clocked = true ∧
    (s.dev.hart n).gated = true ∧
    s.dev.corePending n = true :=
  ⟨Tests.on { Tests.core with harts := [(0, { Hart.init with inReset := false, gated := true })], files := [(0, [5])] }, 0, by decide +kernel⟩

theorem meets_CORE_POWER_GATE : ∃ (s : State) (n : CoreIx),
    s.dev.clocked = true ∧
    s.dev.coreUp n = true ∧
    s.dev.fld F.PWR_IDLE_CORE_IDLE 8 ≠ 0 ∧
    s.dev.corePending n = false ∧
    (s.dev.hart n).waits.isEmpty = true ∧
    (s.dev.l2Flush n).1 = true :=
  ⟨Tests.on (Tests.core.setFld F.PWR_IDLE_CORE_IDLE 8 9), 0, by decide +kernel⟩

theorem meets_CC_DROP : ∃ (s : State) (who : Who) (c : ClusterIx) (v : Word),
    s.dev.clocked = true ∧
    s.dev.accepts who ⟨.CC_CTRL, c⟩ (F.CC_CTRL_DROP.put (s.dev.reg .CC_CTRL c) 1) v = true ∧
    F.CC_CTRL_DROP.get v = 1 :=
  ⟨Tests.on Tests.mem, .mgmt, 0, F.CC_CTRL_DROP.put (Tests.mem.reg .CC_CTRL 0) 1, by decide +kernel⟩

theorem meets_CC_ENABLE_WRITE : ∃ (s : State) (who : Who) (c : ClusterIx) (enable : Bool) (v : Word),
    s.dev.clocked = true ∧
    s.dev.accepts who ⟨.CC_CTRL, c⟩ (F.CC_CTRL_ENABLE.put (s.dev.reg .CC_CTRL c) (if enable then 1 else 0)) v = true ∧
    F.CC_CTRL_DROP.get v = 0 :=
  ⟨Tests.on Tests.mem, .mgmt, 0, true, F.CC_CTRL_ENABLE.put (Tests.mem.reg .CC_CTRL 0) 1, by decide +kernel⟩

theorem meets_REGISTER_WRITE : ∃ (s : State) (who : Who) (off : BitVec 32) (w v : Word) (b : Block) (u o : Nat) (r : RegId),
    s.dev.clocked = true ∧
    ctrlPlace off.toNat = .block b u o ∧
    off.toNat % 8 = 0 ∧
    s.dev.blockAnswers who b u = true ∧
    regAt b u o = some r ∧
    s.dev.ctrlOpen who b u ((some r).or (bandOf b u o)) = true ∧
    s.dev.takes who b u r w = some v :=
  ⟨Tests.on Tests.mem, .mgmt, 0x88000000, 5, 5, .dieCommon, 8, 0, _, by decide +kernel, by decide +kernel, by decide +kernel, by decide +kernel, rfl, by decide +kernel, by decide +kernel⟩

theorem meets_ATC_MISS : ∃ (s : State) (c : ClusterIx) (ctx : CtxIx) (va : Word) (tag : Nat) (need : Right),
    s.dev.clocked = true ∧
    s.dev.xmode ctx = 9 ∧
    s.dev.dieState (c.val / 16) = 0 ∧
    (s.dev.atc c).any (fun e => e.covers ctx va.toNat && e.gives need) = false ∧
    s.dev.dieState 8 = 0 ∧
    (s.dev.walks.filter (fun w => w.cluster == c.val)).length < 32 :=
  ⟨Tests.on (Tests.mem.setFld F.CTX_XLATE_MODE 0 9), 0, 0, 4096, 0, .r, by decide +kernel⟩

theorem meets_HTU_WALK : ∃ (s : State) (c : ClusterIx) (ctx : CtxIx) (vpage : Nat) (w : Walk) (q : XReq) (qs : List XReq) (e : WalkEnd) (d : Dev),
    s.dev.clocked = true ∧
    (s.dev.walks.filter (fun w => w.walked)).length < 256 ∧
    s.dev.walks.find? (fun w => w.cluster == c.val && w.ctx == ctx.val && w.vpage == vpage && !w.walked) = some w ∧
    w.reqs = q :: qs ∧
    s.dev.walkFrom ctx q.va = (e, d) ∧
    e ≠ .wait :=
  ⟨Tests.on { Tests.mem.setFld F.CTX_XLATE_MODE 0 9 with walks := [⟨0, 0, 1, [⟨0, 0, .r, 2 ^ 60⟩], false, none⟩] }, 0, 0, 1, ⟨0, 0, 1, [⟨0, 0, .r, 2 ^ 60⟩], false, none⟩, ⟨0, 0, .r, 2 ^ 60⟩, [], .bad, _, by decide +kernel, by decide, by decide +kernel, by decide +kernel, Tests.pair (by decide +kernel), by decide +kernel⟩

theorem meets_WALK_DONE : ∃ (s : State) (c : ClusterIx) (ctx : CtxIx) (vpage p : Nat) (w : Walk) (rest : List Walk),
    s.dev.clocked = true ∧
    takeFirst (fun (w : Walk) => w.cluster == c.val && w.ctx == ctx.val && w.vpage == vpage && w.walked) s.dev.walks = some (w, rest) ∧
    (s.dev.setWalks c rest).partOfCtx ctx = some p :=
  ⟨Tests.on { Tests.mem with walks := [⟨0, 0, 1, [⟨0, 0, .r, 4096⟩], true, none⟩] }, 0, 0, 1, 0, ⟨0, 0, 1, [⟨0, 0, .r, 4096⟩], true, none⟩, [], by decide +kernel⟩

theorem meets_PR_HEAD_WRITE : ∃ (s : State) (who : Who) (p : PartIx) (head : BitVec 32) (v : Word),
    s.dev.clocked = true ∧
    s.dev.accepts who ⟨.XP_PR_HEAD, p⟩ (head.setWidth 64) v = true :=
  ⟨Tests.on Tests.mem, .mgmt, 0, 5, 5, by decide +kernel⟩

theorem meets_PR_RESP_RETRY : ∃ (s : State) (who : Who) (p : PartIx) (id : BitVec 8) (v : Word) (e : PrEntry),
    s.dev.clocked = true ∧
    s.dev.accepts who ⟨.XP_PR_RESP, p⟩ (prRespWord id 0) v = true ∧
    F.XP_PR_RESP_CODE.get v = 0 ∧
    s.dev.prEntry p (F.XP_PR_RESP_PR_ID.get v) = some e :=
  ⟨Tests.on { Tests.mem with prs := [(0, { PrSt.init with entries := [⟨3, 0, 0, 1, [], none⟩] })] }, .mgmt, 0, 3, prRespWord 3 0, ⟨3, 0, 0, 1, [], none⟩, by decide +kernel⟩

theorem meets_PR_RESP_FAIL : ∃ (s : State) (who : Who) (p : PartIx) (id : BitVec 8) (v : Word) (e : PrEntry),
    s.dev.clocked = true ∧
    s.dev.accepts who ⟨.XP_PR_RESP, p⟩ (prRespWord id 1) v = true ∧
    F.XP_PR_RESP_CODE.get v = 1 ∧
    s.dev.prEntry p (F.XP_PR_RESP_PR_ID.get v) = some e :=
  ⟨Tests.on { Tests.mem with prs := [(0, { PrSt.init with entries := [⟨3, 0, 0, 1, [], none⟩] })] }, .mgmt, 0, 3, prRespWord 3 1, ⟨3, 0, 0, 1, [], none⟩, by decide +kernel⟩

theorem meets_PR_LIMIT_EXPIRE : ∃ (s : State) (p : PartIx) (ix : Fin 64) (e : PrEntry),
    s.dev.clocked = true ∧
    s.dev.fld F.XP_PR_LIMIT_LIMIT p ≠ 0 ∧
    (s.dev.pr p).entries.find? (fun e => e.ix == ix.val && e.written.isSome) = some e :=
  ⟨Tests.on { Tests.mem.setFld F.XP_PR_LIMIT_LIMIT 0 9 with prs := [(0, { PrSt.init with entries := [⟨3, 0, 0, 1, [], some 5⟩] })] }, 0, 3, ⟨3, 0, 0, 1, [], some 5⟩, by decide +kernel⟩

theorem meets_INVALIDATION_GO : ∃ (s : State) (who : Who) (p : PartIx) (ctrl v : Word) (t : Dev),
    s.dev.clocked = true ∧
    s.dev.accepts who ⟨.XP_INV_CTRL, p⟩ (F.XP_INV_CTRL_GO.put ctrl 1) v = true ∧
    F.XP_INV_CTRL_GO.get v = 1 ∧
    s.dev.flag F.XP_INV_STATUS_BUSY p = false ∧
    (s.dev.storeReg ⟨.XP_INV_CTRL, p⟩ v).setFlag F.XP_INV_CTRL_GO p false = t ∧
    ((!t.flag F.XP_INV_CTRL_ALL_VA p && (decide (t.fld F.XP_INV_CTRL_LOG2 p < 12 ∨ 57 < t.fld F.XP_INV_CTRL_LOG2 p) || t.fld F.XP_INV_ADDR_VA p * 4096 % 2 ^ t.fld F.XP_INV_CTRL_LOG2 p != 0)) ||
    (!t.flag F.XP_INV_CTRL_ALL p && t.partOfCtx (t.fld F.XP_INV_CTRL_CONTEXT p) != some p.val)) = false :=
  ⟨Tests.on Tests.mem, .mgmt, 0, F.XP_INV_CTRL_ALL.put (F.XP_INV_CTRL_ALL_VA.put 0 1) 1, F.XP_INV_CTRL_GO.put (F.XP_INV_CTRL_ALL.put (F.XP_INV_CTRL_ALL_VA.put 0 1) 1) 1, _, by decide +kernel, by decide +kernel, by decide +kernel, by decide +kernel, rfl, by decide +kernel⟩

theorem meets_INVALIDATION_GO_with_bad_operands : ∃ (s : State) (who : Who) (p : PartIx) (ctrl v : Word) (t : Dev),
    s.dev.clocked = true ∧
    s.dev.accepts who ⟨.XP_INV_CTRL, p⟩ (F.XP_INV_CTRL_GO.put ctrl 1) v = true ∧
    F.XP_INV_CTRL_GO.get v = 1 ∧
    s.dev.flag F.XP_INV_STATUS_BUSY p = false ∧
    (s.dev.storeReg ⟨.XP_INV_CTRL, p⟩ v).setFlag F.XP_INV_CTRL_GO p false = t ∧
    ((!t.flag F.XP_INV_CTRL_ALL_VA p && (decide (t.fld F.XP_INV_CTRL_LOG2 p < 12 ∨ 57 < t.fld F.XP_INV_CTRL_LOG2 p) || t.fld F.XP_INV_ADDR_VA p * 4096 % 2 ^ t.fld F.XP_INV_CTRL_LOG2 p != 0)) ||
    (!t.flag F.XP_INV_CTRL_ALL p && t.partOfCtx (t.fld F.XP_INV_CTRL_CONTEXT p) != some p.val)) = true :=
  ⟨Tests.on Tests.mem, .mgmt, 0, 0, F.XP_INV_CTRL_GO.put 0 1, _, by decide +kernel, by decide +kernel, by decide +kernel, by decide +kernel, rfl, by decide +kernel⟩

theorem meets_ATC_INV_ACK : ∃ (s : State) (p : PartIx) (c : ClusterIx) (v : InvSt),
    s.dev.clocked = true ∧
    SMap.find s.dev.invs p = some v ∧
    v.waitAtc.contains c.val = true ∧
    s.dev.remSent.any (fun r => (s.dev.tagsOf c).contains r.tag) = false :=
  ⟨Tests.on { Tests.mem with invs := [(0, ⟨[0], 0, none, none⟩)] }, 0, 0, ⟨[0], 0, none, none⟩, by decide +kernel⟩

theorem meets_CHECK_FLUSH : ∃ (s : State) (who : Who) (p : PartIx) (v : Word),
    s.dev.clocked = true ∧
    s.dev.accepts who ⟨.XP_CHECK_CTRL, p⟩ (F.XP_CHECK_CTRL_FLUSH.put (s.dev.reg .XP_CHECK_CTRL p) 1) v = true ∧
    F.XP_CHECK_CTRL_FLUSH.get v = 1 :=
  ⟨Tests.on Tests.mem, .mgmt, 0, F.XP_CHECK_CTRL_FLUSH.put (Tests.mem.reg .XP_CHECK_CTRL 0) 1, by decide +kernel⟩

theorem meets_PORT_TRAINING_START : ∃ (s : State) (f : FPort),
    s.dev.clocked = true ∧
    s.dev.portState f = 0 ∧
    s.dev.pllUp (portDie f) = true ∧
    s.dev.flag F.BOOT_STATUS_LOCKED 0 = true :=
  ⟨Tests.on ((Tests.up.setFlag F.BOOT_STATUS_LOCKED 0 true).setFlag F.CLK_STATUS_PLL_LOCK 10 true), 47, by decide +kernel⟩

theorem meets_ECHO : ∃ (s : State) (f : FPort) (rtt : Nat),
    s.dev.clocked = true ∧
    s.dev.portState f = 1 ∧
    (s.dev.port f).echoes.length < 16 :=
  ⟨Tests.on (Tests.up.setFld F.PORT_STATUS_STATE 0 1), 0, 1000, by decide +kernel⟩

theorem meets_CAP : ∃ (s : State) (f : FPort) (g : List Byte),
    s.dev.clocked = true ∧
    capShape g = true ∧
    s.dev.portState f = 1 ∧
    (allZero (bytesAt g 0x12 14) && bitsOf (fieldAt g 0xF 1) 5 3 == 0 && bitsOf (fieldAt g 0x10 2) 10 5 == 0) = true :=
  ⟨Tests.on (Tests.up.setFld F.PORT_STATUS_STATE 0 1), 0, List.replicate 18 1 ++ List.replicate 14 0, by decide +kernel⟩

theorem meets_CAP_that_breaks_its_layout : ∃ (s : State) (f : FPort) (g : List Byte),
    s.dev.clocked = true ∧
    capShape g = true ∧
    s.dev.portState f = 1 ∧
    (allZero (bytesAt g 0x12 14) && bitsOf (fieldAt g 0xF 1) 5 3 == 0 && bitsOf (fieldAt g 0x10 2) 10 5 == 0) = false :=
  ⟨Tests.on (Tests.up.setFld F.PORT_STATUS_STATE 0 1), 0, List.replicate 32 1, by decide +kernel⟩

theorem meets_KX : ∃ (s : State) (f : FPort) (p : List Byte) (x : PortSt),
    s.dev.clocked = true ∧
    s.dev.portState f = 1 ∧
    (s.dev.port f).full = true ∧
    (s.dev.port f).cap.isEmpty = false ∧
    ((fieldAt (granule p 0) 0 1 == 1 || fieldAt (granule p 0) 0 1 == 2) && allZero (bytesAt (granule p 0) 3 29)) = true ∧
    (s.dev.att.certified || s.dev.attSpent) = true ∧
    (if fieldAt (granule p 0) 1 1 = 0 then { s.dev.port f with parts := [], frag := 0 } else s.dev.port f) = x ∧
    fieldAt (granule p 0) 1 1 = x.frag :=
  ⟨Tests.on { (Tests.up.setFld F.PORT_STATUS_STATE 0 1) with att := { AttSt.init with certified := true }, ports := [(0, { PortSt.init with full := true, cap := [1], frag := 2 })] }, 0, List.replicate 32 0 ++ [1, 2, 9], _, by decide +kernel, by decide +kernel, by decide +kernel, by decide +kernel, by rfl, by rfl, rfl, by decide +kernel⟩

theorem meets_KX_that_breaks_its_layout : ∃ (s : State) (f : FPort) (p : List Byte),
    s.dev.clocked = true ∧
    s.dev.portState f = 1 ∧
    (s.dev.port f).full = true ∧
    (s.dev.port f).cap.isEmpty = false ∧
    ((fieldAt (granule p 0) 0 1 == 1 || fieldAt (granule p 0) 0 1 == 2) && allZero (bytesAt (granule p 0) 3 29)) = false :=
  ⟨Tests.on { (Tests.up.setFld F.PORT_STATUS_STATE 0 1) with ports := [(0, { PortSt.init with full := true, cap := [1] })] }, 0, List.replicate 35 0, by decide +kernel⟩

theorem meets_PORT_TRAINING_DONE : ∃ (s : State) (f : FPort) (good : Fin 32),
    s.dev.clocked = true ∧
    s.dev.portState f = 1 ∧
    (s.dev.port f).keyed = true ∧
    (s.dev.port f).cap.isEmpty = false ∧
    16 ≤ (s.dev.port f).echoes.length ∧
    (lanesOf (s.dev.fld F.PORT_LANES_GOOD f &&& good.val &&& fieldAt (s.dev.port f).cap 0xF 1)).length ≠ 0 ∧
    (s.dev.port f).echoes.foldl max 0 ≤ 14000 :=
  ⟨Tests.on { ((Tests.up.setFld F.PORT_STATUS_STATE 0 1).setFld F.PORT_LANES_GOOD 0 31) with ports := [(0, { PortSt.init with keyed := true, cap := List.replicate 16 31, echoes := List.replicate 16 900 })] }, 0, 1, by decide +kernel⟩

theorem meets_PORT_RETRAIN_from_FAILED : ∃ (s : State) (who : Who) (f : FPort),
    s.dev.clocked = true ∧
    s.dev.portState f = 5 ∧
    s.dev.accepts who ⟨.PORT_CTRL, f⟩ 1 1 = true :=
  ⟨Tests.on (Tests.up.setFld F.PORT_STATUS_STATE 3 5), .mgmt, 3, by decide +kernel⟩

theorem meets_PORT_RETRAIN_in_service : ∃ (s : State) (who : Who) (f : FPort),
    s.dev.clocked = true ∧
    s.dev.portState f ≠ 5 ∧
    s.dev.portUp f = true ∧
    s.dev.accepts who ⟨.PORT_CTRL, f⟩ 1 1 = true :=
  ⟨Tests.on (Tests.up.setFld F.PORT_STATUS_STATE 3 2), .mgmt, 3, by decide +kernel⟩

theorem meets_FRAME_RECEIVE : ∃ (s : State) (f : FPort) (head body : List Byte) (errs : List (Fin 68 × Fin 80)) (gs : List (WordClass × List Byte)) (fr : List Byte),
    s.dev.clocked = true ∧
    frameShape head body = true ∧
    s.dev.portUp f = true ∧
    frameArrives (head ++ body) (errs.map (fun e => (e.1.val, e.2.val))) = gs ∧
    gs.any (fun g => g.1.bad) = false ∧
    gs.flatMap (·.2) = fr ∧
    bitsOf (fieldAt fr 0 8) 33 2 < 2 ∧
    fieldAt fr 8 8 < 2 ^ 32 :=
  ⟨Tests.on (Tests.up.setFld F.PORT_STATUS_STATE 0 2), 0, List.replicate 32 0, List.replicate 512 0, [], _, _, by decide +kernel, by decide +kernel, by decide +kernel, rfl, by decide +kernel, rfl, by decide +kernel⟩

theorem meets_FRAME_RECEIVE_of_a_bad_frame : ∃ (s : State) (f : FPort) (head body : List Byte) (errs : List (Fin 68 × Fin 80)) (rs : List (Fin 5)) (gs : List (WordClass × List Byte)),
    s.dev.clocked = true ∧
    frameShape head body = true ∧
    s.dev.portUp f = true ∧
    frameArrives (head ++ body) (errs.map (fun e => (e.1.val, e.2.val))) = gs ∧
    (gs.any (fun g => g.1.bad) || !(rs.map (·.val)).isEmpty) = true :=
  ⟨Tests.on (Tests.up.setFld F.PORT_STATUS_STATE 0 2), 0, List.replicate 32 0, List.replicate 512 0, [], [3], _, by decide +kernel, by decide +kernel, by decide +kernel, rfl, by decide +kernel⟩

theorem meets_FRAME_SILENCE : ∃ (s : State) (f : FPort),
    s.dev.clocked = true ∧
    s.dev.portUp f = true :=
  ⟨Tests.on (Tests.up.setFld F.PORT_STATUS_STATE 3 4), 3, by decide +kernel⟩

theorem meets_REKEY : ∃ (s : State) (f : FPort),
    s.dev.clocked = true ∧
    268435456 ≤ (s.dev.port f).tx.ctr :=
  ⟨Tests.on { Tests.up with ports := [(3, { PortSt.init with tx := { DirKey.init with ctr := 268435456 } })] }, 3, by decide +kernel⟩

theorem meets_WAVELENGTH_LOSS : ∃ (s : State) (f : FPort) (w : Fin 5),
    s.dev.clocked = true ∧
    s.dev.portUp f = true :=
  ⟨Tests.on (Tests.up.setFld F.PORT_STATUS_STATE 3 2), 3, 4, by decide +kernel⟩

theorem meets_RS_ERROR_WINDOW_END : ∃ (s : State) (f : FPort),
    s.dev.clocked = true :=
  ⟨Tests.on Tests.up, 3, by decide +kernel⟩

theorem meets_LSA : ∃ (s : State) (f : FPort) (e : List Byte × Nat × Nat) (rest : List (List Byte × Nat × Nat)),
    s.dev.clocked = true ∧
    takeFirst (fun (e : List Byte × Nat × Nat) => pktType e.1 == 0x23) (s.dev.port f).inbox = some (e, rest) :=
  ⟨Tests.on { Tests.up with ports := [(2, { PortSt.init with inbox := [([0x23], 0, 0)] })] }, 2, ([0x23], 0, 0), [], by decide +kernel⟩

theorem meets_DISC : ∃ (s : State) (f : FPort) (e : List Byte × Nat × Nat) (rest : List (List Byte × Nat × Nat)),
    s.dev.clocked = true ∧
    takeFirst (fun (e : List Byte × Nat × Nat) => pktType e.1 == 0x22) (s.dev.port f).inbox = some (e, rest) :=
  ⟨Tests.on { Tests.up with ports := [(2, { PortSt.init with inbox := [([0x22], 0, 0)] })] }, 2, ([0x22], 0, 0), [], by decide +kernel⟩

theorem meets_LSA_PERIODIC : ∃ (s : State),
    s.dev.clocked = true ∧
    (s.dev.phase = 7 ∨ (List.range 48).any s.dev.portServes = true) :=
  ⟨Tests.on (Tests.up.setPhase 7), by decide +kernel⟩

theorem meets_LSA_AGE_OUT : ∃ (s : State) (origin : Word),
    s.dev.clocked = true ∧
    origin.toNat ≠ s.dev.disc ∧
    (s.dev.lsaOf origin.toNat).isNone = false :=
  ⟨Tests.on { Tests.up with fab := { FabSt.init with map := [⟨77, 1, [(0, [])], [], 0⟩] } }, 77, by decide +kernel⟩

theorem meets_STARTER_ELECT : ∃ (s : State),
    s.dev.clocked = true ∧
    s.dev.starter = some s.dev.disc :=
  ⟨Tests.on { Tests.up with fab := { FabSt.init with map := [⟨0, 1, [(0, List.replicate 10 0 ++ [1])], [], 0⟩] } }, by decide +kernel⟩

theorem meets_STARTER_ELECT_elsewhere : ∃ (s : State),
    s.dev.clocked = true ∧
    s.dev.starter ≠ some s.dev.disc :=
  ⟨Tests.on Tests.up, by decide +kernel⟩

theorem meets_REDISCOVER : ∃ (s : State) (who : Who),
    s.dev.clocked = true ∧
    s.dev.accepts who ⟨.FAB_CTRL, 0⟩ 1 1 = true :=
  ⟨Tests.on Tests.up, .pf0, by decide +kernel⟩

theorem meets_MAP_CONVERGE : ∃ (s : State),
    s.dev.clocked = true ∧
    s.dev.fab.bound.all (fun b => (s.dev.lsaOf b.1).isSome) = true :=
  ⟨Tests.on { Tests.up with fab := { FabSt.init with bound := [(77, 0)], map := [⟨77, 1, [(0, [])], [], 0⟩] } }, by decide +kernel⟩

theorem meets_ROUTE_RECOMPUTE : ∃ (s : State) (me : Nat),
    s.dev.clocked = true ∧
    s.dev.ownId = some me :=
  ⟨Tests.on (Tests.up.setFlag F.FAB_SELF_ASSIGNED 0 true), 0, by decide +kernel⟩

theorem meets_HOLD_LSA_TIMEOUT : ∃ (s : State) (f : FPort),
    s.dev.clocked = true ∧
    (s.dev.port f).heldAt.isNone = false :=
  ⟨Tests.on { Tests.up with ports := [(2, { PortSt.init with heldAt := some 1 })] }, 2, by decide +kernel⟩

theorem meets_FABRIC_PACKET_SEND : ∃ (s : State) (r : RemReq) (rest : List RemReq),
    s.dev.clocked = true ∧
    s.dev.remQ = r :: rest ∧
    s.dev.localForm r.addr = none ∧
    s.dev.sourceCode r (bitsOf r.addr 45 10) = none :=
  ⟨Tests.on (Tests.linked Tests.fabric), ⟨.vxe 64, 5, .rdOnce, 2 ^ 55 + 2 ^ 45, 64, [], 0, 0, some 3, .normal⟩, [], by decide +kernel⟩

theorem meets_FABRIC_PACKET_FORWARD : ∃ (s : State) (f : FPort) (p : List Byte) (t : Dev),
    s.dev.clocked = true ∧
    s.dev.takeInbox f transits = some (p, t) ∧
    t.joined (dieOfPort f) (dieOfPort (pktRoute p (pktHop p + 1))) = true :=
  ⟨Tests.on { Tests.up with ports := [(2, { PortSt.init with inbox := [([1, 0, 16], 0, 0)] })] }, 2, [1, 0, 16], _, by decide +kernel, rfl, by decide +kernel⟩

theorem meets_FABRIC_PACKET_FORWARD_with_no_way_to_its_port : ∃ (s : State) (f : FPort) (p : List Byte) (t : Dev),
    s.dev.clocked = true ∧
    s.dev.takeInbox f transits = some (p, t) ∧
    t.joined (dieOfPort f) (dieOfPort (pktRoute p (pktHop p + 1))) = false :=
  ⟨Tests.on { Tests.up with ports := [(2, { PortSt.init with inbox := [([1, 0, 16, 0, 0, 0, 0, 0, 0, 6], 0, 0)] })] }, 2, [1, 0, 16, 0, 0, 0, 0, 0, 0, 6], _, by decide +kernel, rfl, by decide +kernel⟩

theorem meets_FABRIC_RD_FABRIC_WR_FABRIC_WR_PART_FABRIC_ATOMIC : ∃ (s : State) (f : FPort) (c : Instr) (type : Nat) (p : List Byte) (t : Dev) (q ctx : Nat),
    s.dev.clocked = true ∧
    ((c, type) = (.fabricRd f, 1) ∨ (c, type) = (.fabricWr f, 2) ∨ (c, type) = (.fabricWrPart f, 3) ∨ (c, type) = (.fabricAtomic f, 4)) ∧
    s.dev.takeInbox f (fun p => pktType p == type && !transits p) = some (p, t) ∧
    s.dev.ownId = some (pktDst p) ∧
    s.dev.admittedFor p = some (q, ctx) ∧
    ((t.idleFrame f).serveLines (dieOfPort f) p q ctx (List.range (pktLines p))).1.isSome = true :=
  let d := Tests.served 1; ⟨Tests.on d, 0, .fabricRd 0, 1, Tests.pkt 1, d.setPort 0 ({ d.port 0 with inbox := [] }.give (min (pktVc (Tests.pkt 1)) 12) 0 0), 0, 0, by decide +kernel, .inl rfl, by rfl, by decide +kernel, by decide +kernel, by decide +kernel⟩

theorem meets_FABRIC_RD_FABRIC_WR_FABRIC_WR_PART_FABRIC_ATOMIC_not_admitted : ∃ (s : State) (f : FPort) (c : Instr) (type : Nat) (p : List Byte) (t : Dev),
    s.dev.clocked = true ∧
    ((c, type) = (.fabricRd f, 1) ∨ (c, type) = (.fabricWr f, 2) ∨ (c, type) = (.fabricWrPart f, 3) ∨ (c, type) = (.fabricAtomic f, 4)) ∧
    s.dev.takeInbox f (fun p => pktType p == type && !transits p) = some (p, t) ∧
    s.dev.ownId = some (pktDst p) ∧
    s.dev.admittedFor p = none :=
  let d := (Tests.served 1).setFlag F.JOB_CFG_VALID 0 false; ⟨Tests.on d, 0, .fabricRd 0, 1, Tests.pkt 1, d.setPort 0 ({ d.port 0 with inbox := [] }.give (min (pktVc (Tests.pkt 1)) 12) 0 0), by decide +kernel, .inl rfl, by rfl, by decide +kernel, by decide +kernel⟩

theorem meets_FABRIC_COMP_FABRIC_DATA : ∃ (s : State) (f : FPort) (c : Instr) (type : Nat) (p : List Byte) (t : Dev) (o : OpenTxn),
    s.dev.clocked = true ∧
    ((c, type) = (.fabricComp f, 0x10) ∨ (c, type) = (.fabricData f, 0x11)) ∧
    s.dev.takeInbox f (fun p => pktType p == type && !transits p) = some (p, t) ∧
    (t.idleFrame f).fab.opens.find? (fun o => o.txn == pktTxn p && o.dst == pktSrc p) = some o :=
  let d := Tests.answered; ⟨Tests.on d, 2, .fabricData 2, 17, [17], d.setPort 2 ({ d.port 2 with inbox := [] }.give (min (pktVc [17]) 12) 0 0), ⟨0, 0, [], ⟨.vxe 64, 5, .rdOnce, 2 ^ 55 + 2 ^ 45, 64, [], 0, 0, some 3, .normal⟩⟩, by decide +kernel, .inr rfl, by rfl, by decide +kernel⟩

theorem meets_FAB_DNF_RAISE : ∃ (s : State) (who : Who) (job : BitVec 16) (v : Word) (j : Nat),
    s.dev.clocked = true ∧
    s.dev.accepts who ⟨.FAB_DNF_RAISE, 0⟩ (job.setWidth 64) v = true ∧
    (List.range 64).find? (fun j => s.dev.flag F.JOB_CFG_VALID j && s.dev.fld F.JOB_CFG_JOB j == F.FAB_DNF_RAISE_JOB.get v) = some j :=
  ⟨Tests.on (Tests.up.setFlag F.JOB_CFG_VALID 3 true), .pf0, 0, 0, 3, by decide +kernel⟩

theorem meets_DNF : ∃ (s : State) (f : FPort) (e : List Byte × Nat × Nat) (rest : List (List Byte × Nat × Nat)),
    s.dev.clocked = true ∧
    takeFirst (fun (e : List Byte × Nat × Nat) => pktType e.1 == 0x24) (s.dev.port f).inbox = some (e, rest) ∧
    allZero (bytesAt (granule e.1 0) 12 20) = true :=
  ⟨Tests.on { Tests.up with ports := [(2, { PortSt.init with inbox := [([0x24], 0, 0)] })] }, 2, ([0x24], 0, 0), [], by decide +kernel⟩

theorem meets_CONFIG_REQUEST : ∃ (s : State) (f : FuncIx) (tag : BitVec 14) (off : BitVec 12) (v : BitVec 32),
    s.dev.mgmtRuns = true ∧
    s.dev.pciUp = true ∧
    s.dev.phase = 7 ∧
    s.dev.fnExists f = true ∧
    (s.dev.fn f).flr.isSome = false :=
  ⟨Tests.on Tests.host, 0, 5, 0x40C, 0, by decide +kernel⟩

theorem meets_CONFIG_REQUEST_before_release : ∃ (s : State) (f : FuncIx) (tag : BitVec 14) (off : BitVec 12) (write : Option (BitVec 32)),
    s.dev.mgmtRuns = true ∧
    s.dev.pciUp = true ∧
    s.dev.phase ≠ 7 ∧
    s.dev.phase ≠ 8 :=
  ⟨Tests.on (Tests.up.setFlag F.PCI_STATUS_LINK_UP 0 true), 0, 5, 0, none, by decide +kernel⟩

theorem meets_FLR : ∃ (s : State) (f : FuncIx) (tag : BitVec 14),
    s.dev.mgmtRuns = true ∧
    s.dev.pciUp = true ∧
    s.dev.phase = 7 ∧
    s.dev.fnExists f = true ∧
    (s.dev.fn f).flr.isSome = false ∧
    f.val ≠ 0 :=
  ⟨Tests.on Tests.host, 33, 5, by decide +kernel⟩

theorem meets_FLR_of_PF0 : ∃ (s : State) (tag : BitVec 14),
    s.dev.mgmtRuns = true ∧
    s.dev.pciUp = true ∧
    s.dev.phase = 7 ∧
    s.dev.fnExists 0 = true ∧
    (s.dev.fn 0).flr.isSome = false :=
  ⟨Tests.on Tests.host, 5, by decide +kernel⟩

theorem meets_VF_ENABLE_WRITE : ∃ (s : State) (tag : BitVec 14) (numVfs : Fin 33),
    s.dev.mgmtRuns = true ∧
    s.dev.pciUp = true ∧
    s.dev.phase = 7 ∧
    s.dev.fnExists 0 = true ∧
    (s.dev.fn 0).flr.isSome = false ∧
    s.dev.flag F.PCI_STATUS_VF_ENABLE 0 = false :=
  ⟨Tests.on (Tests.host.setFlag F.PCI_STATUS_VF_ENABLE 0 false), 5, 32, by decide +kernel⟩

theorem meets_VF_ENABLE_WRITE_clear : ∃ (s : State) (tag : BitVec 14) (numVfs : Fin 33) (ari : Bool),
    s.dev.mgmtRuns = true ∧
    s.dev.pciUp = true ∧
    s.dev.phase = 7 ∧
    s.dev.fnExists 0 = true ∧
    (s.dev.fn 0).flr.isSome = false :=
  ⟨Tests.on Tests.host, 5, 0, true, by decide +kernel⟩

theorem meets_BUS_MASTER_CLEAR : ∃ (s : State) (f : FuncIx) (tag : BitVec 14),
    s.dev.mgmtRuns = true ∧
    s.dev.pciUp = true ∧
    s.dev.phase = 7 ∧
    s.dev.fnExists f = true ∧
    (s.dev.fn f).flr.isSome = false ∧
    f.val ≠ 0 ∧
    (s.dev.fn f).bme = true :=
  ⟨Tests.on { Tests.host with pci := { PciSt.init with fns := [(4, { PciFn.init with bme := true })] } }, 4, 9, by decide +kernel⟩

theorem meets_DVSEC_PARTITION_RESET_DVSEC_PACKAGE_RESET : ∃ (s : State) (tag : BitVec 14) (p : PartIx),
    s.dev.mgmtRuns = true ∧
    s.dev.pciUp = true ∧
    s.dev.phase = 7 ∧
    s.dev.fnExists 0 = true ∧
    (s.dev.fn 0).flr.isSome = false :=
  ⟨Tests.on Tests.host, 5, 31, by decide +kernel⟩

theorem meets_CRASH_DATA_READ : ∃ (s : State) (tag : BitVec 14),
    s.dev.mgmtRuns = true ∧
    s.dev.pciUp = true ∧
    s.dev.phase = 7 ∧
    s.dev.fnExists 0 = true ∧
    (s.dev.fn 0).flr.isSome = false :=
  ⟨Tests.on Tests.host, 5, by decide +kernel⟩

theorem meets_FLR_COMPLETE : ∃ (s : State) (f : FuncIx),
    s.dev.mgmtRuns = true :=
  ⟨Tests.on Tests.host, 5, by decide +kernel⟩

theorem meets_APERTURE_WRITE : ∃ (s : State) (f : FuncIx) (off : BitVec 36) (data : List (Option Byte)) (ro : Bool),
    s.dev.clocked = true ∧
    s.dev.pciUp = true ∧
    f.val ≠ 0 ∧
    s.dev.barsUp f = true ∧
    (s.dev.fn f).flr.isSome = false ∧
    s.dev.aperOn (aperOf f off.toNat) = true :=
  ⟨Tests.on Tests.host, 1, 64, [some 1], false, by decide +kernel⟩

theorem meets_APERTURE_READ : ∃ (s : State) (f : FuncIx) (tag : BitVec 14) (off : BitVec 36) (len : Fin 4097),
    s.dev.clocked = true ∧
    s.dev.pciUp = true ∧
    f.val = 1 ∧
    s.dev.barsUp f = true ∧
    (s.dev.fn f).flr.isSome = false ∧
    s.dev.aperOn (aperOf f off.toNat) = true :=
  ⟨Tests.on Tests.host, 1, 5, 64, 4, by decide +kernel⟩

theorem meets_APERTURE_READ_of_a_VF : ∃ (s : State) (f : FuncIx) (tag : BitVec 14) (off : BitVec 36) (len : Fin 4097),
    s.dev.clocked = true ∧
    s.dev.pciUp = true ∧
    2 ≤ f.val ∧
    s.dev.barsUp f = true ∧
    (s.dev.fn f).flr.isSome = false ∧
    s.dev.aperOn (aperOf f off.toNat) = true :=
  ⟨Tests.on Tests.host, 2, 5, 64, 4, by decide +kernel⟩

theorem meets_APERTURE_READ_with_its_aperture_off : ∃ (s : State) (f : FuncIx) (tag : BitVec 14) (off : BitVec 36) (len : Fin 4097),
    s.dev.clocked = true ∧
    s.dev.pciUp = true ∧
    f.val ≠ 0 ∧
    s.dev.barsUp f = true ∧
    (s.dev.fn f).flr.isSome = false ∧
    s.dev.aperOn (aperOf f off.toNat) = false :=
  ⟨Tests.on (Tests.host.setFlag F.APER_ENABLE 0 false), 1, 5, 64, 4, by decide +kernel⟩

theorem meets_BAR0_CTRL_ACCESS : ∃ (s : State) (tag : BitVec 14) (off : BitVec 32) (size : Fin 9) (w : Word),
    s.dev.clocked = true ∧
    s.dev.pciUp = true ∧
    s.dev.barsUp 0 = true ∧
    (s.dev.fn 0).flr.isSome = false ∧
    (s.dev.ctrlAccess .pf0 off.toNat size (some w)).1 = .ok ∧
    (s.dev.ctrlAccess .pf0 off.toNat size none).1 = .ok :=
  ⟨Tests.on Tests.host, 5, 0x95000000, 8, 0, by decide +kernel⟩

theorem meets_STAGING_BAR_ACCESS_write : ∃ (s : State) (tag : BitVec 14) (off : BitVec 29) (bs : List (Option Byte)) (len : Fin 4097),
    s.dev.clocked = true ∧
    s.dev.pciUp = true ∧
    s.dev.barsUp 0 = true ∧
    (s.dev.fn 0).flr.isSome = false ∧
    s.dev.phase = 8 ∧
    off.toNat + bs.length ≤ s.dev.stageRoom :=
  ⟨Tests.on ((Tests.linked Tests.host).setPhase 8), 5, 0, [], 0, by decide +kernel⟩

theorem meets_STAGING_BAR_ACCESS_read : ∃ (s : State) (tag : BitVec 14) (off : BitVec 29) (len : Fin 4097),
    s.dev.clocked = true ∧
    s.dev.pciUp = true ∧
    s.dev.barsUp 0 = true ∧
    (s.dev.fn 0).flr.isSome = false ∧
    s.dev.phase = 8 ∧
    (s.dev.stageRead off.toNat len).1.isSome = true :=
  ⟨Tests.on ((Tests.linked Tests.host).setPhase 8), 5, 0, 0, by decide +kernel⟩

theorem meets_APER_REGISTER_WRITE : ∃ (s : State) (who : Who) (a : Fin 144) (w v : Word),
    s.dev.clocked = true ∧
    s.dev.accepts who ⟨.APER, a⟩ w v = true ∧
    F.APER_ENABLE.get v ≠ 1 :=
  ⟨Tests.on Tests.host, .pf0, 143, 0, 0, by decide +kernel⟩

theorem meets_PCIE_LINK_UP : ∃ (s : State) (rate : Fin 7) (width : Fin 3) (flit : Bool),
    s.dev.clocked = true ∧
    s.dev.pciUp = false ∧
    2 ≤ s.dev.phase ∧
    s.dev.pins.perstLow = false :=
  ⟨Tests.on ({ Tests.up with pins := { Tests.up.pins with sysLow := false, perstLow := false } }.setPhase 2), 6, 2, false, by decide +kernel⟩

theorem meets_HOT_RESET : ∃ (s : State),
    s.dev.mgmtRuns = true ∧
    s.dev.pciUp = true :=
  ⟨Tests.on Tests.host, by decide +kernel⟩

theorem meets_POISONED_WRITE_UNEXPECTED_COMPLETION_MALFORMED_TLP : ∃ (s : State),
    s.dev.clocked = true ∧
    s.dev.pciUp = true :=
  ⟨Tests.on Tests.host, by decide +kernel⟩

theorem meets_PCI_NOTIFY : ∃ (s : State) (who : Who) (func vec : BitVec 6) (v : Word),
    s.dev.clocked = true ∧
    s.dev.accepts who ⟨.PCI_NOTIFY, 0⟩ (BitVec.ofNat 64 (func.toNat + vec.toNat * 64)) v = true ∧
    F.PCI_NOTIFY_VECTOR.get v < fnVectors (F.PCI_NOTIFY_FUNC.get v) ∧
    (F.PCI_NOTIFY_FUNC.get v = 0 → 2 ≤ F.PCI_NOTIFY_VECTOR.get v) ∧
    (2 ≤ F.PCI_NOTIFY_FUNC.get v → F.PCI_NOTIFY_VECTOR.get v ≠ 0) :=
  ⟨Tests.on Tests.host, .pf0, 2, 7, 450, by decide +kernel⟩

theorem meets_MSIX_UNMASK : ∃ (s : State) (f : FuncIx) (v : Fin 64),
    s.dev.clocked = true ∧
    s.dev.pciUp = true ∧
    s.dev.fnExists f = true ∧
    v.val < fnVectors f ∧
    (s.dev.fn f).open_.contains v.val = false :=
  ⟨Tests.on Tests.host, 33, 7, by decide +kernel⟩

theorem meets_REQUEST_TIMEOUT : ∃ (s : State) (n : CoreIx) (line : Nat),
    s.dev.clocked = true ∧
    s.dev.l2Waits n line = true :=
  ⟨Tests.on { Tests.up with l2s := [(3, { L2St.init with pend := [(40, .rdShared, 0)] })] }, 3, 40, by decide +kernel⟩

theorem meets_REQUEST_TIMEOUT_of_a_core_s_access : ∃ (s : State) (n : CoreIx) (addr : Nat),
    s.dev.clocked = true ∧
    ((s.dev.hart n).waitOn (addr / 64)).isSome = true :=
  ⟨Tests.on { Tests.up with harts := [(3, { Hart.init with waits := [(.load, 2560, 8)] })] }, 3, 2560, by decide +kernel⟩

theorem meets_REQUEST_TIMEOUT_of_an_engine_s_request : ∃ (s : State) (e : Fin 960) (addr : Nat) (t : Tile),
    s.dev.clocked = true ∧
    s.dev.tileOn (if e.val < 512 then s.dev.logical e else e.val) = some t :=
  ⟨Tests.on { Tests.up with engs := [(512, ⟨0, 0, 0⟩)] }, 512, 64, ⟨0, 0, 0⟩, by decide +kernel⟩

theorem meets_GX_RELEASE : ∃ (s : State) (who : Who) (p : VaultIx) (agree : Fin 3),
    s.dev.clocked = true ∧
    s.dev.accepts who ⟨.GX_CTRL, p⟩ (BitVec.ofNat 64 (1 + 2 * 0)) 1 = true ∧
    s.dev.fld F.GX_STATUS_STATE p = 1 ∧
    (s.dev.setFld F.GX_CTRL_KIND p 0).gxRefusal p 0 = none :=
  ⟨Tests.on Tests.vault, .core 0 .machine, 16, 0, by decide +kernel⟩

theorem meets_GX_EXPORT : ∃ (s : State) (who : Who) (p : VaultIx) (agree : Fin 3),
    s.dev.clocked = true ∧
    s.dev.accepts who ⟨.GX_CTRL, p⟩ (BitVec.ofNat 64 (1 + 2 * 1)) 3 = true ∧
    s.dev.fld F.GX_STATUS_STATE p = 1 ∧
    (s.dev.setFld F.GX_CTRL_KIND p 1).gxRefusal p 1 = none :=
  ⟨Tests.on ((Tests.vault.setFlag F.NSE_STATUS_HEALTHY 0 true).setFlag F.NSE_STATUS_HEALTHY 1 true), .core 0 .machine, 16, 0, by decide +kernel⟩

theorem meets_GX_IMPORT : ∃ (s : State) (who : Who) (p : VaultIx),
    s.dev.clocked = true ∧
    s.dev.accepts who ⟨.GX_CTRL, p⟩ (BitVec.ofNat 64 (1 + 2 * 2)) 5 = true ∧
    s.dev.fld F.GX_STATUS_STATE p = 1 ∧
    (s.dev.setFld F.GX_CTRL_KIND p 2).gxRefusal p 2 = none :=
  ⟨Tests.on Tests.vault, .core 0 .machine, 16, by decide +kernel⟩

theorem meets_GX_RELEASE_refused : ∃ (s : State) (who : Who) (p : VaultIx) (agree : Fin 3) (r : Nat),
    s.dev.clocked = true ∧
    s.dev.accepts who ⟨.GX_CTRL, p⟩ (BitVec.ofNat 64 (1 + 2 * 0)) 1 = true ∧
    s.dev.fld F.GX_STATUS_STATE p ≠ 2 ∧
    s.dev.fld F.GX_STATUS_STATE p ≠ 0 ∧
    (s.dev.setFld F.GX_CTRL_KIND p 0).gxRefusal p 0 = some r :=
  ⟨Tests.on (Tests.vault.setFld F.GX_STATUS_STATE 16 4), .core 0 .machine, 16, 0, 1, by decide +kernel⟩

theorem meets_GX_EXPORT_refused : ∃ (s : State) (who : Who) (p : VaultIx) (agree : Fin 3) (r : Nat),
    s.dev.clocked = true ∧
    s.dev.accepts who ⟨.GX_CTRL, p⟩ (BitVec.ofNat 64 (1 + 2 * 1)) 3 = true ∧
    s.dev.fld F.GX_STATUS_STATE p ≠ 2 ∧
    s.dev.fld F.GX_STATUS_STATE p ≠ 0 ∧
    (s.dev.setFld F.GX_CTRL_KIND p 1).gxRefusal p 1 = some r :=
  ⟨Tests.on (Tests.vault.setFld F.GX_STATUS_STATE 16 4), .core 0 .machine, 16, 0, 1, by decide +kernel⟩

theorem meets_GX_IMPORT_refused : ∃ (s : State) (who : Who) (p : VaultIx) (r : Nat),
    s.dev.clocked = true ∧
    s.dev.accepts who ⟨.GX_CTRL, p⟩ (BitVec.ofNat 64 (1 + 2 * 2)) 5 = true ∧
    s.dev.fld F.GX_STATUS_STATE p ≠ 2 ∧
    s.dev.fld F.GX_STATUS_STATE p ≠ 0 ∧
    (s.dev.setFld F.GX_CTRL_KIND p 2).gxRefusal p 2 = some r :=
  ⟨Tests.on (Tests.vault.setFld F.GX_STATUS_STATE 16 4), .core 0 .machine, 16, 1, by decide +kernel⟩

theorem meets_GX_CHUNK_release : ∃ (s : State) (p : VaultIx) (agree : Fin 3) (o : GxOp),
    s.dev.clocked = true ∧
    (s.dev.vault p).op = some o ∧
    o.fin = none ∧
    o.stream.length < o.written + 64 ∧
    o.kind = 0 ∧
    o.stream.isEmpty = false :=
  ⟨Tests.on { Tests.vault with vaults := [(0, { VaultSt.init with op := some ⟨0, 0, 0, 0, 0, [], 0, [], [], [1], 0, none⟩ })] }, 0, 0, ⟨0, 0, 0, 0, 0, [], 0, [], [], [1], 0, none⟩, by decide +kernel⟩

theorem meets_GX_CHUNK_export : ∃ (s : State) (p : VaultIx) (agree : Fin 3) (o : GxOp),
    s.dev.clocked = true ∧
    (s.dev.vault p).op = some o ∧
    o.fin = none ∧
    o.stream.length < o.written + 64 ∧
    o.kind = 1 ∧
    o.stream.isEmpty = false :=
  ⟨Tests.on { Tests.vault with vaults := [(0, { VaultSt.init with op := some ⟨1, 0, 0, 0, 0, [], 0, [], [], [1], 0, none⟩ })] }, 0, 0, ⟨1, 0, 0, 0, 0, [], 0, [], [], [1], 0, none⟩, by decide +kernel⟩

theorem meets_GX_DEST_HEAD_WRITE : ∃ (s : State) (who : Who) (p : VaultIx) (head : BitVec 32) (v : Word),
    s.dev.clocked = true ∧
    s.dev.accepts who ⟨.GX_DEST_CFG, p⟩ (F.GX_DEST_CFG_HEAD.put (s.dev.reg .GX_DEST_CFG p) head.toNat) v = true :=
  ⟨Tests.on Tests.vault, .pf0, 0, 7, F.GX_DEST_CFG_HEAD.put (Tests.vault.reg .GX_DEST_CFG 0) 7, by decide +kernel⟩

theorem meets_NSE_HEALTH_FAIL : ∃ (s : State) (d : Fin 2) (which : Fin 3),
    s.dev.clocked = true ∧
    s.dev.dieState (9 + d) = 0 :=
  ⟨Tests.on Tests.up, 1, 2, by decide +kernel⟩

theorem meets_ATTEST_REQUEST : ∃ (s : State) (who : Who) (w v : Word),
    s.dev.clocked = true ∧
    s.dev.accepts who ⟨.ATT_CTRL, 0⟩ w v = true ∧
    s.dev.flag F.ATT_STATUS_BUSY 0 = false ∧
    F.ATT_CTRL_GO.get v ≠ 0 :=
  ⟨Tests.on Tests.host, .pf0, F.ATT_CTRL_GO.put 0 1, F.ATT_CTRL_GO.put 0 1, by decide +kernel⟩

theorem meets_RAIL_LIMITER_TICK : ∃ (s : State) (d : Fin 9) (amps : Nat),
    s.dev.clocked = true ∧
    s.dev.dieRuns d = true ∧
    s.dev.flag F.BOOT_STATUS_LOCKED 0 = true :=
  ⟨Tests.on (Tests.up.setFlag F.BOOT_STATUS_LOCKED 0 true), 8, 500, by decide +kernel⟩

theorem meets_REGION_LIMITER_COMPARE : ∃ (s : State) (g : RegionIx) (watts : Nat),
    s.dev.clocked = true ∧
    s.dev.dieRuns (g / 4) = true ∧
    (s.dev.partOfRegion g).isNone = false ∧
    s.dev.flag F.BOOT_STATUS_LOCKED 0 = true :=
  ⟨Tests.on (Tests.owned.setFlag F.BOOT_STATUS_LOCKED 0 true), 0, 90, by decide +kernel⟩

theorem meets_CAPC_EPOCH : ∃ (s : State) (watts : List Nat),
    s.dev.clocked = true ∧
    wattsShape watts = true ∧
    s.dev.phase = 7 :=
  ⟨Tests.on (Tests.up.setPhase 7), List.replicate 32 10, by decide +kernel⟩

theorem meets_VR_ALERT_ASSERT : ∃ (s : State) (j : DieIx),
    s.dev.pins.refclk = true ∧
    s.dev.pins.pwrgood = true ∧
    s.dev.pwr.alerts.contains j.val = false :=
  ⟨Tests.on Tests.up, 10, by decide +kernel⟩

theorem meets_VR_ALERT_DEASSERT : ∃ (s : State) (j : DieIx),
    s.dev.pins.refclk = true ∧
    s.dev.pins.pwrgood = true ∧
    s.dev.pwr.alerts.contains j.val = true :=
  ⟨Tests.on { Tests.up with pwr := { PwrSt.init with alerts := [3] } }, 3, by decide +kernel⟩

theorem meets_VR_ALERT_HOLD_EXPIRE : ∃ (s : State) (j : DieIx) (t0 : Nat),
    s.dev.mgmtRuns = true ∧
    SMap.find s.dev.pwr.rising j = some t0 :=
  ⟨Tests.on { Tests.up with pwr := { PwrSt.init with rising := [(3, 7)] } }, 3, 7, by decide +kernel⟩

theorem meets_THERMAL_SAMPLE : ∃ (s : State) (d : DieIx) (readings : List Int),
    s.dev.clocked = true ∧
    readingsShape d readings = true ∧
    s.dev.dieRuns d = true :=
  ⟨Tests.on Tests.up, 9, [40, 41, 90, 39], by decide +kernel⟩

theorem meets_THERMAL_LEVEL_RISE : ∃ (s : State) (z : Fin 33),
    s.dev.clocked = true ∧
    s.dev.dieRuns (dieOfZone z) = true ∧
    s.dev.flag F.BOOT_STATUS_LOCKED 0 = true ∧
    (s.dev.zone z).reads.any (fun r => decide (r.2 ≥ (s.dev.fld F.THERM_CFG_THROTTLE (dieOfZone z) : Int))) = true ∧
    (s.dev.zone z).level < 4 :=
  ⟨Tests.on { (Tests.up.setFlag F.BOOT_STATUS_LOCKED 0 true) with pwr := { PwrSt.init with zones := [(32, ⟨3, [(0, 200)]⟩)] } }, 32, by decide +kernel⟩

theorem meets_THERMAL_LEVEL_FALL : ∃ (s : State) (z : Fin 33),
    s.dev.clocked = true ∧
    s.dev.dieRuns (dieOfZone z) = true ∧
    (s.dev.zone z).reads.all (fun r => decide (r.2 + 3 ≤ (s.dev.fld F.THERM_CFG_THROTTLE (dieOfZone z) : Int))) = true ∧
    (s.dev.zone z).level ≠ 0 :=
  ⟨Tests.on { Tests.up with pwr := { PwrSt.init with zones := [(0, ⟨4, [(0, -9)]⟩)] } }, 0, by decide +kernel⟩

theorem meets_THERMTRIP : ∃ (s : State) (d : DieIx),
    s.dev.pins.tripped = false ∧
    s.dev.pins.pwrgood = true :=
  ⟨Tests.on Tests.up, 4, by decide +kernel⟩

theorem meets_RAIL_SAMPLE_inside : ∃ (s : State) (n : RailIx) (mv : Nat),
    s.dev.mgmtRuns = true ∧
    2 ≤ s.dev.phase ∧
    (s.dev.railWindow n).1 ≤ mv ∧
    mv ≤ (s.dev.railWindow n).2 :=
  ⟨Tests.on (Tests.up.setPhase 2), 0, 700, by decide +kernel⟩

theorem meets_RAIL_SAMPLE_outside : ∃ (s : State) (n : RailIx) (mv : Nat),
    s.dev.mgmtRuns = true ∧
    2 ≤ s.dev.phase ∧
    (mv < (s.dev.railWindow n).1 ∨ (s.dev.railWindow n).2 < mv) :=
  ⟨Tests.on (Tests.up.setPhase 2), 0, 3, by decide +kernel⟩

theorem meets_PMBUS_POLL_silent : ∃ (s : State) (n : RailIx),
    s.dev.mgmtRuns = true ∧
    2 ≤ s.dev.phase :=
  ⟨Tests.on (Tests.up.setPhase 2), 39, by decide +kernel⟩

theorem meets_PMBUS_POLL_answered : ∃ (s : State) (n : RailIx) (v i p : Nat),
    s.dev.mgmtRuns = true ∧
    2 ≤ s.dev.phase :=
  ⟨Tests.on (Tests.up.setPhase 2), 39, 780, 50, 4, by decide +kernel⟩

theorem meets_ERROR_REPORT : ∃ (s : State) (e : ErrRep) (rest : List ErrRep),
    s.dev.mgmtRuns = true ∧
    s.dev.reports = e :: rest :=
  ⟨Tests.on { Tests.up with reports := [⟨1, 0, none, 1, 1, none, 0, 0⟩] }, ⟨1, 0, none, 1, 1, none, 0, 0⟩, [], by decide +kernel⟩

theorem meets_ELOG_SAFETY_CLEAR : ∃ (s : State) (who : Who),
    s.dev.mgmtRuns = true ∧
    s.dev.accepts who ⟨.ELOG_STATUS, 0⟩ (BitVec.ofNat 64 (2 ^ 33)) (BitVec.ofNat 64 (2 ^ 33)) = true :=
  ⟨Tests.on Tests.up, .pf0, by decide +kernel⟩

theorem meets_HEARTBEAT : ∃ (s : State) (d : DieIx),
    s.dev.clocked = true ∧
    s.dev.dieAnswers d = true :=
  ⟨Tests.on (Tests.up.setFlag F.CLK_STATUS_PLL_LOCK 5 true), 5, by decide +kernel⟩

theorem meets_HEARTBEAT_LIMIT_EXPIRE : ∃ (s : State) (d : DieIx),
    s.dev.mgmtRuns = true ∧
    2 ≤ s.dev.phase :=
  ⟨Tests.on (Tests.up.setPhase 2), 5, by decide +kernel⟩

theorem meets_DIE_RESET : ∃ (s : State) (who : Who) (d : DieIx),
    s.dev.mgmtRuns = true ∧
    s.dev.accepts who ⟨.DIE_CTRL, d⟩ 1 1 = true :=
  ⟨Tests.on Tests.up, .mgmt, 4, by decide +kernel⟩

theorem meets_RESET_CTRL_DIE : ∃ (s : State) (who : Who) (mask : BitVec 11),
    s.dev.mgmtRuns = true ∧
    s.dev.accepts who ⟨.RESET_CTRL, 0⟩ (BitVec.ofNat 64 (mask.toNat + 0xA5 * 2 ^ 24)) (BitVec.ofNat 64 (mask.toNat + 0xA5 * 2 ^ 24)) = true :=
  ⟨Tests.on Tests.up, .mgmt, 0x7FF, by decide +kernel⟩

theorem meets_FORCED_RESET_EXPIRE : ∃ (s : State) (p : PartIx),
    s.dev.mgmtRuns = true ∧
    s.dev.partState p = 3 ∧
    (s.dev.partSt p).resetAt.isSome = true :=
  ⟨Tests.on (({ Tests.up with parts := [(1, { PartSt.init with resetAt := some 5 })] } : Dev).setFld F.PART_STATUS_STATE 1 3), 1, by decide +kernel⟩

theorem meets_DIE_RELEASE : ∃ (s : State) (d : DieIx) (bad : List (Fin 4)),
    s.dev.clocked = true ∧
    s.dev.dieState d = 1 ∧
    s.dev.flag F.CLK_STATUS_PLL_LOCK d = true ∧
    s.dev.pwr.railHold.any (fun n => (diesOfRail n).contains d.val) = false ∧
    s.dev.dieTrained d = true :=
  ⟨Tests.on ((List.range 11).foldl (fun (t : Dev) e => t.setFld F.LINK_STATUS_STATE e 2) (({ Tests.up with dies := [(0, { DieSt.init with trained := true })] } : Dev).setDieState 0 1 |>.setFlag F.CLK_STATUS_PLL_LOCK 0 true)), 0, [], by decide +kernel⟩

theorem meets_DIE_RELEASE_relock_failed : ∃ (s : State) (d : DieIx) (bad : List (Fin 4)),
    s.dev.clocked = true ∧
    s.dev.dieState d = 1 ∧
    (s.dev.die d).trigger = 1 :=
  ⟨Tests.on (({ Tests.up with dies := [(0, { DieSt.init with trigger := 1 })] } : Dev).setDieState 0 1), 0, [], by decide +kernel⟩

theorem meets_RESET_CTRL_PACKAGE : ∃ (s : State) (who : Who),
    s.dev.mgmtRuns = true ∧
    s.dev.drain = none ∧
    s.dev.accepts who ⟨.RESET_CTRL, 0⟩ (BitVec.ofNat 64 (2 ^ 16 + 0xA5 * 2 ^ 24)) (BitVec.ofNat 64 (2 ^ 16 + 0xA5 * 2 ^ 24)) = true :=
  ⟨Tests.on Tests.up, .pf0, by decide +kernel⟩

theorem meets_PACKAGE_DRAIN_DONE : ∃ (s : State) (t0 trigger rail : Nat),
    s.dev.mgmtRuns = true ∧
    s.dev.drain = some (t0, trigger, rail) :=
  ⟨Tests.on { Tests.up with drain := some (3, 5, 255) }, 3, 5, 255, by decide +kernel⟩

theorem meets_I3C_ADDRESS_ASSIGN : ∃ (s : State) (addr : BitVec 7),
    s.dev.mgmtRuns = true ∧
    s.dev.pins.i3cAddr.isSome = false ∧
    2 ≤ s.dev.phase :=
  ⟨Tests.on (Tests.up.setPhase 2), 9, by decide +kernel⟩

theorem meets_I3C_STATUS : ∃ (s : State),
    s.dev.mgmtRuns = true ∧
    s.dev.pins.i3cAddr.isSome = true ∧
    2 ≤ s.dev.phase :=
  ⟨Tests.on Tests.bus, by decide +kernel⟩

theorem meets_I3C_CRASH_READ : ∃ (s : State) (first : BitVec 16) (count : BitVec 8),
    s.dev.mgmtRuns = true ∧
    s.dev.pins.i3cAddr.isSome = true ∧
    2 ≤ s.dev.phase ∧
    1 ≤ count.toNat ∧
    count.toNat ≤ 64 :=
  ⟨Tests.on Tests.bus, 0, 64, by decide +kernel⟩

theorem meets_I3C_ELOG_READ : ∃ (s : State) (first : BitVec 16) (count : BitVec 8),
    s.dev.mgmtRuns = true ∧
    s.dev.pins.i3cAddr.isSome = true ∧
    2 ≤ s.dev.phase ∧
    1 ≤ count.toNat ∧
    count.toNat ≤ 8 :=
  ⟨Tests.on Tests.bus, 1023, 8, by decide +kernel⟩

theorem meets_I3C_PARTITION_RESET : ∃ (s : State) (p : BitVec 8),
    s.dev.mgmtRuns = true ∧
    s.dev.pins.i3cAddr.isSome = true ∧
    2 ≤ s.dev.phase ∧
    p.toNat < 32 ∧
    s.dev.partRuns p.toNat = true :=
  ⟨Tests.on { Tests.bus with recs := Tests.owned.recs, regs := Tests.bus.regs ++ [(RegId.key ⟨.PART_STATUS, 0⟩, 2)] }, 0, by decide +kernel⟩

theorem meets_I3C_PACKAGE_RESET : ∃ (s : State),
    s.dev.mgmtRuns = true ∧
    s.dev.pins.i3cAddr.isSome = true ∧
    2 ≤ s.dev.phase ∧
    s.dev.drain = none :=
  ⟨Tests.on Tests.bus, by decide +kernel⟩

theorem meets_I3C_DIE_RESET : ∃ (s : State) (d : BitVec 8),
    s.dev.mgmtRuns = true ∧
    s.dev.pins.i3cAddr.isSome = true ∧
    2 ≤ s.dev.phase ∧
    d.toNat < 11 :=
  ⟨Tests.on Tests.bus, 10, by decide +kernel⟩

theorem meets_a_wrong_key : ∃ (s : State) (key p d : BitVec 8),
    s.dev.mgmtRuns = true ∧
    s.dev.pins.i3cAddr.isSome = true ∧
    2 ≤ s.dev.phase ∧
    (key == 0xA5) = false :=
  ⟨Tests.on Tests.bus, 0xA4, 0, 0, by decide +kernel⟩

theorem meets_I3C_ATTEST : ∃ (s : State) (p : PartIx) (package : Bool) (data : List Byte),
    s.dev.mgmtRuns = true ∧
    dataShape data = true ∧
    s.dev.pins.i3cAddr.isSome = true ∧
    2 ≤ s.dev.phase :=
  ⟨Tests.on Tests.bus, 0, true, List.replicate 64 0, by decide +kernel⟩

theorem meets_MCTP_CONTROL : ∃ (s : State) (eid : Byte),
    s.dev.mgmtRuns = true ∧
    s.dev.pins.i3cAddr.isSome = true ∧
    2 ≤ s.dev.phase ∧
    eid ≠ 0 ∧
    eid ≠ 0xFF :=
  ⟨Tests.on Tests.bus, 8, by decide +kernel⟩

theorem meets_PLDM_REQUEST : ∃ (s : State) (x : Sensor),
    s.dev.mgmtRuns = true ∧
    s.dev.pins.i3cAddr.isSome = true ∧
    2 ≤ s.dev.phase :=
  ⟨Tests.on Tests.bus, .packagePower, by decide +kernel⟩

theorem meets_EXTEST_drives : ∃ (s : State) (v : Word),
    (s.dev.phase = 8 ∨ s.dev.phase = 9) :=
  ⟨Tests.on (Tests.up.setPhase 8), 0xFF, by decide +kernel⟩

theorem meets_EXTEST_as_BYPASS : ∃ (s : State) (v : Word),
    s.dev.phase ≠ 8 ∧
    s.dev.phase ≠ 9 :=
  ⟨.reset, 0xFF, by decide +kernel⟩

theorem meets_FRONT : ∃ (c : Instr) (rest : List Instr) (s : State),
    s.pending = c :: rest :=
  ⟨.idcode, [], ⟨[.idcode], .made, Tests.up⟩, by decide +kernel⟩

theorem meets_IDLE : ∃ (s : State),
    s.pending = [] :=
  ⟨Tests.on Tests.up, by decide +kernel⟩

theorem meets_COMPLETES : ∃ (c : Instr) (s : State),
    c.wf = true :=
  ⟨.idcode, Tests.on Tests.up, by decide +kernel⟩

theorem meets_STOPS : ∃ (c : Instr) (s : State),
    c.wf = false :=
  ⟨.cap 0 [], Tests.on Tests.up, by decide +kernel⟩

theorem meets_QUEUE : ∃ (c : Instr) (s t : State),
    exec c s = .next t :=
  ⟨.sysRstNDeassert, Tests.on Tests.up, _, rfl⟩

theorem meets_TAKEN : ∃ (s t : State),
    step s = .next t :=
  ⟨.reset, _, rfl⟩

theorem meets_STOPPED : ∃ (c : Instr) (s : State),
    c.wf = true ∧
    c.atPins = false ∧
    c.byMgmt = false ∧
    s.dev.clocked = false :=
  ⟨.lockLost 0, .reset, by decide +kernel⟩

theorem meets_STOPPED_MGMT : ∃ (c : Instr) (s : State),
    c.wf = true ∧
    c.byMgmt = true ∧
    s.dev.mgmtRuns = false :=
  ⟨.i3cStatus, .reset, by decide +kernel⟩

theorem meets_STOPPED_IDLE : ∃ (s : State),
    s.pending = [] ∧
    s.dev.mgmtRuns = false :=
  ⟨.reset, by decide +kernel⟩

theorem meets_GROW : ∃ (f : Fuses) (s t : State),
    FusesGrown f s.fuses ∧
    step s = .next t :=
  ⟨.made, .reset, { State.reset with dev := State.reset.dev.tick }, by constructor <;> rfl, rfl⟩

theorem meets_UNBURNT : ∃ (c : Instr) (s t : State),
    c.burns = false ∧
    exec c s = .next t :=
  ⟨.sysRstNDeassert, Tests.on Tests.up, _, rfl, rfl⟩

theorem meets_REFUSED_WRITES : ∃ (c : Instr) (s : State) (who : Who) (r : RegId),
    c.writes = some (who, r) ∧
    s.dev.clocked = true ∧
    s.dev.refusesPerm who r = true :=
  ⟨.linkRetrain (.engine 0) 0, Tests.on Tests.up, .engine 0, ⟨.LINK_CTRL, 0⟩, by decide +kernel⟩

theorem meets_FIELDS : ∃ (s : Dev) (r : RegId) (w : Word) (f : FieldRow),
    f ∈ r.name.fields :=
  ⟨Tests.up, ⟨.CLK_EVENT, 0⟩, 1, ⟨0, 1, .w1c, 0, 1⟩, by decide +kernel⟩

theorem meets_FIELD_READS : ∃ (s : Dev) (r : RegId) (f : FieldRow),
    f ∈ r.name.fields :=
  ⟨Tests.up, ⟨.CLK_EVENT, 0⟩, ⟨0, 1, .w1c, 0, 1⟩, by decide +kernel⟩

theorem meets_FIELD_GAPS : ∃ (s : Dev) (r : RegId) (w : Word) (k : Nat),
    k < 64 ∧
    (∀ f ∈ r.name.fields, k < f.lo ∨ f.lo + f.width ≤ k) :=
  ⟨Tests.up, ⟨.CLK_EVENT, 0⟩, 1, 63, by decide +kernel⟩

theorem meets_OTHER_REGISTERS : ∃ (s : Dev) (r q : RegId) (w : Word),
    q.key ≠ r.key :=
  ⟨Tests.up, ⟨.CLK_EVENT, 0⟩, ⟨.CLK_EVENT, 1⟩, 1, by decide +kernel⟩

theorem meets_FOLD_T1 : ∃ (s : Dev) (ch off : Nat),
    ch < 256 ∧
    off < 2 ^ 33 :=
  ⟨Tests.up, 255, 8589934591, by decide +kernel⟩

theorem meets_FOLD_T2 : ∃ (s : Dev) (off : Nat),
    off < 2 ^ 43 :=
  ⟨Tests.up, 8796093022207, by decide +kernel⟩

theorem meets_FOLD_PAD : ∃ (s : Dev) (w : Nat),
    2 ^ 41 ≤ w :=
  ⟨Tests.up, 2199023255552, by decide +kernel⟩

theorem meets_CLASSES : ∃ (sy : List Byte) (F : BitVec 16) (S0 S1 : Byte),
    sy.length = 10 ∧
    S0 = sy.foldl (· ^^^ ·) (F.setWidth 8) ∧
    S1 = (List.range 10).foldl (fun acc i => acc ^^^ gfShift i ((sy[i]?).getD 0)) ((F >>> 8).setWidth 8) :=
  ⟨List.replicate 10 0, 0, 0, 0, by decide +kernel⟩

theorem meets_ONE_SYMBOL : ∃ (d : Word) (F : BitVec 16) (i : Nat) (x : Byte),
    i < 10 ∧
    x ≠ 0 :=
  ⟨0, 0, 9, 255, by decide +kernel⟩

theorem meets_OTHER_GENERATION : ∃ (d : Word) (w g h : Nat),
    w < 2 ^ 41 ∧
    g < 256 ∧
    h < 256 ∧
    g ≠ h :=
  ⟨0, 2199023255551, 0, 255, by decide +kernel⟩

theorem meets_TWO_SYMBOLS : ∃ (d : Word) (F : BitVec 16) (i j : Nat) (x y : Byte),
    i < 10 ∧
    j < 10 ∧
    i ≠ j ∧
    x ≠ 0 ∧
    y ≠ 0 :=
  ⟨0, 0, 9, 8, 1, 1, by decide +kernel⟩

theorem meets_OTHER_WORDS : ∃ (s : Dev) (w u : Nat) (v : Word),
    u ≠ w :=
  ⟨Tests.up, 0, 1, 5, by decide +kernel⟩

theorem meets_CANONICAL : ∃ (s : Dev) (w : Nat) (v : Word),
    s.mem.wf = true :=
  ⟨Tests.up, 0, 5, by decide +kernel⟩

theorem meets_CODES : ∃ (f : Fmt) (c : Nat),
    f ≠ .pair16 ∧
    c < 2 ^ f.bits ∧
    f.decode c ≠ .nan :=
  ⟨.bf16, 0x8000, by decide +kernel⟩


/-! Each shape of WellFormed refuses a term that breaks it. -/

theorem test_illformed_t1_burst : (Instr.t1ChannelAccess 0 [⟨0, true, [], 0, 0, .other, 0, none, 0, false, 0⟩] []).wf = false := by decide
theorem test_illformed_t2_mask :
    (Instr.t2ChannelAccess 0 [⟨0, false, [], 2 ^ 256, 0, .other, 0, none, 0, false, 0⟩] []).wf = false := by decide +kernel
theorem test_illformed_sector : (Instr.scRequest 0 0 0 ⟨0, false, 4, 0, 0, .normal, none⟩ 0).wf = false := by decide
theorem test_illformed_flit : (Instr.flitReceive 0 ⟨4, [], []⟩).wf = false := by decide
theorem test_illformed_load : (Instr.coreLoad ⟨0, .user⟩ 0 0 0 false).wf = false := by decide
theorem test_illformed_store : (Instr.coreStore ⟨0, .user⟩ 0 [] 0 false).wf = false := by decide
theorem test_illformed_spd : (Instr.dimmTrainingDone []).wf = false := by decide
theorem test_illformed_rails : (Instr.linkTrainingEnd 0 0 0 false []).wf = false := by decide
theorem test_illformed_cap : (Instr.cap 0 []).wf = false := by decide
theorem test_illformed_frame : (Instr.frameReceive 0 [] [] [] []).wf = false := by decide
theorem test_illformed_attest : (Instr.i3cAttest 0 false []).wf = false := by decide
theorem test_illformed_watts : (Instr.capcEpoch []).wf = false := by decide
theorem test_illformed_readings : (Instr.thermalSample 8 []).wf = false := by decide
theorem test_illformed_stops : exec (.cap 0 []) .reset = .fault .illFormed := rfl

/-! Worked examples of the spec. -/

/-- R51, the worked example: channel 19 at offset 0x1_2456 with all channels in service. -/
theorem test_interleave_all : nearDecode ((List.range 16).map (· + 16)) 0x123456 = (19, 0x12456) := by decide
/-- R51, the same with channel 17 mapped out: channel 23 at offset 0x1_3456. -/
theorem test_interleave_fifteen : nearDecode (((List.range 16).map (· + 16)).filter (· != 17)) 0x123456 = (23, 0x13456) := by decide
/-- R53, the worked example: the MVE of cluster 45. -/
theorem test_ctrl_place_mve : ctrlPlace 0x23570000 = .block .mve 45 0 := by decide
/-- The worked example of spec/11_memory_tiers.md: SC set 1,828 and bank 4 of burst 0x124 of channel 3 of its region. -/
theorem test_sc_set : scSet 3 0x124 = 1828 := by decide
theorem test_bank : bankOf 0x124 = 4 := by decide
/-- The worked example of spec/07_training_numerics.md: 1 + 3/1024 in BF16 under RNE, and under SR on both sides of F. -/
theorem test_round_bf16_rne : (convertTo .bf16 .rne (.fin (1027 / 1024))).code = 0x3F80 := by decide +kernel
theorem test_round_bf16_sr_up : (convertTo .bf16 (.sr 0x5FFFFFFF) (.fin (1027 / 1024))).code = 0x3F81 := by decide +kernel
theorem test_round_bf16_sr_down : (convertTo .bf16 (.sr 0x60000000) (.fin (1027 / 1024))).code = 0x3F80 := by decide +kernel
/-- The same value as PAIR16: bytes 0x80, 0x3F, 0x40, 0x3B. -/
theorem test_pair16 : (convertTo .pair16 .rne (.fin (1027 / 1024))).code = 0x3B403F80 := by decide +kernel
/-- The block of spec/06_number_formats.md's worked example. -/
def Tests.block : List (Machine.Num × RMode) :=
  [(480 : Int), 9, -12, 0, 24, 3, -6, 10].map (fun v => (Machine.Num.ofRat ((v : Rat) / 10) false, RMode.rne)) ++
  [(75 : Int), -150, 20, 200, -45, 110, 0, 320].map (fun v => (Machine.Num.ofRat ((v : Rat) / 100) false, RMode.rne))
/-- It is written split, with scales 0x82 and 0x7F, these codes, and 6 elements vanished. -/
theorem test_block_e2m1 : (writeBlock .e2m1 true 16 Tests.block).codes = [7, 0, 8, 0, 1, 0, 8, 0, 2, 0xB, 0, 4, 9, 2, 0, 5] := by decide +kernel
theorem test_block_scales : let b := writeBlock .e2m1 true 16 Tests.block
    (b.byte0, b.byte1, b.vanished, b.split) = (0x82, 0x7F, 6, true) := by decide +kernel
/-- With SPLIT = 0 the same block takes 0x82 alone, and 11 elements vanish. -/
theorem test_block_whole : let b := writeBlock .e2m1 false 16 Tests.block
    (b.byte0, b.vanished, b.split) = (0x82, 11, false) := by decide +kernel
/-- R307: a pad word has no fold. -/
theorem test_pad_fold : foldGen (2 ^ 41) 5 = 0 := by decide +kernel
/-- R560: the device identification code. -/
theorem test_idcode : (match exec .idcode .reset with | .next t => t.dev.out | _ => []) = [.scan 0x10900B67] := by decide +kernel
/-- R182: of two planes that share a byte, the later result keeps its own byte or takes the earlier's. -/
theorem test_planes_meet : planesMeet [⟨100, [1, 2], .normal, none, 1, 0⟩, ⟨101, [3], .normal, none, 2, 0⟩] = true := by decide
/-- R456: of eight bands, band 5 of stretch 77 is run by device 32 × 19 + 8 × 1 + 5. -/
theorem test_relay_id : relayId 8 5 77 = 621 := by decide
/-- R547, R548: the first signal of channel 0, a reserved land, a corner without lands. -/
theorem test_lands : (landOf 1 12, landOf 110 81, landOf 1 1) = (some (.dimm 0 0), some .reserved, none) := by decide
/-- R553, R555: VDD_CORE, rail 8, has 560 lands in positions 0 to 895. -/
theorem test_power_land : ((List.range 896).filter (fun u => powerLand u == .rail 8)).length = 560 := by decide +kernel

end Sys2Proof
end

section
/-! SUPPORT. Every command is one of four effects, and only its payload's shape can stop it: the form that the dispatch has as a whole. -/

namespace Sys2Proof

open Sys2Proof.Machine

/-- The outcome of a command that makes d of its device: by its kind it acts at the pins always, in MGMT while MGMT runs, with its burns
carried to the fuse array, or under running clocks (R28, R62, R86). -/
def Instr.effect (c : Instr) (s : State) (d : Dev) : Host.Outcome State Fault Refusal :=
  if c.atPins then s.afterPin d
  else if c.byMgmt then s.afterMgmt d
  else if c.burns then s.afterBurn d
  else s.after d

/-- The dispatch read as a whole: each command has the effect of its kind, if its payload has the command's shape. -/
theorem Instr.exec_eq_effect (c : Instr) (s : State) : ∃ d : Dev, exec c s = shaped c.wf (c.effect s d) := by
  cases c <;> exact ⟨_, rfl⟩

/-- An effect of any kind answers a next state and leaves the queue. -/
theorem Instr.effect_next (c : Instr) (s : State) (d : Dev) : ∃ t, c.effect s d = .next t ∧ t.pending = s.pending := by
  unfold Instr.effect
  split_ifs
  · exact ⟨_, rfl, (State.afterPin_keeps rfl).1⟩
  · exact ⟨_, rfl, (State.afterMgmt_keeps rfl).1⟩
  · exact ⟨_, rfl, State.afterBurn_pending rfl⟩
  · exact ⟨_, rfl, (State.after_keeps rfl).1⟩

theorem Instr.exec_of_wf {c : Instr} (h : c.wf = true) (s : State) : ∃ t, exec c s = .next t ∧ t.pending = s.pending := by
  obtain ⟨d, hd⟩ := c.exec_eq_effect s
  rw [hd, shaped_true h]
  exact c.effect_next s d

theorem Instr.exec_of_not_wf {c : Instr} (h : c.wf = false) (s : State) : exec c s = .fault .illFormed := by
  obtain ⟨d, hd⟩ := c.exec_eq_effect s
  rw [hd, shaped_false h]

theorem Instr.exec_pending {c : Instr} {s t : State} (h : exec c s = .next t) : t.pending = s.pending := by
  cases hw : c.wf with
  | true =>
    obtain ⟨u, hu, hp⟩ := Instr.exec_of_wf hw s
    cases hu.symm.trans h
    exact hp
  | false => cases (Instr.exec_of_not_wf hw s).symm.trans h

theorem Machine.step_of_cons {s : State} {c : Instr} {rest : List Instr} (h : s.pending = c :: rest) :
    step s = exec c { s with pending := rest } := by
  simp [step, h]

theorem Machine.step_of_nil {s : State} (h : s.pending = []) : step s = .next (s.withDev s.dev.tick) := by
  simp [step, h, State.withDev]

/-- A step takes one command of the queue, if one waits. -/
theorem Machine.step_pending {s t : State} (h : step s = .next t) : t.pending = s.pending.tail := by
  cases hp : s.pending with
  | nil =>
    rw [step_of_nil hp] at h
    cases h
    exact hp
  | cons c rest =>
    rw [step_of_cons hp] at h
    exact Instr.exec_pending h

/-- Settles O46, by the two cases of a step. -/
theorem stepRunsTheFrontCommand : Obligations.StepRunsTheFrontCommand :=
  ⟨fun _ _ _ h => step_of_cons h, fun _ h => step_of_nil h⟩

/-- Settles O48, by the form of every command's effect. -/
theorem shapesDecideCompletion : Obligations.ShapesDecideCompletion :=
  ⟨fun _ s h => (Instr.exec_of_wf h s).imp fun _ ht => ht.1, fun _ s h => Instr.exec_of_not_wf h s⟩

/-- Settles O49, by the form of every command's effect. -/
theorem commandsKeepTheQueue : Obligations.CommandsKeepTheQueue :=
  ⟨fun _ _ _ h => Instr.exec_pending h, fun _ _ h => step_pending h⟩

end Sys2Proof
end

section
/-! SUPPORT. The reset state (R20, R86). -/

namespace Sys2Proof

open Sys2Proof.Machine

/-- A part is as grown as itself. -/
theorem FusesGrown.refl (f : Fuses) : FusesGrown f f where
  rollback := le_rfl
  revoked := Nat.or_self _
  attNext := le_rfl
  options := rfl
  keyHash := rfl
  slots := rfl
  spares := rfl
  waves := rfl
  trim := rfl
  discId := rfl
  budget := rfl
  seed := rfl

/-- With no register listed, each reads the reset value of its map. -/
theorem Machine.Dev.reg_of_regs_nil {s : Dev} (h : s.regs = []) (r : RegName) (i : Nat) : s.reg r i = BitVec.ofNat 64 r.resetValue := by
  simp [Dev.reg, SMap.get, h]

/-- Settles O47: nothing is listed in the reset state. -/
theorem resetLeavesTheDevice : Obligations.ResetLeavesTheDevice :=
  ⟨rfl, Dev.reg_of_regs_nil rfl, rfl, rfl, rfl, rfl, rfl, rfl, rfl, rfl, rfl, FusesGrown.refl _⟩

end Sys2Proof
end

section
/-! SUPPORT. What a plain write and a read do to the fields of a register (R10, R14, R17): the work on each field stays within its bits, and
the fields of a register lie apart. -/

namespace Sys2Proof.Machine

/-- Two fields share no bit. -/
def Fld.Apart (f g : Fld) : Prop := f.lo + f.width ≤ g.lo ∨ g.lo + g.width ≤ f.lo

/-- The field that a row of a register's table gives. -/
def FieldRow.fld (f : FieldRow) (r : RegName) : Fld := ⟨r, f.lo, f.width⟩

theorem RegName.fields_fit (r : RegName) : ∀ f ∈ r.fields, f.lo + f.width ≤ 64 := by
  cases r <;> decide

/-- The fields of every register stand in ascending order of their bits. -/
theorem RegName.fields_ascend (r : RegName) : r.fields.Pairwise (fun f g => f.lo + f.width ≤ g.lo) := by
  cases r <;> decide

theorem Fld.get_lt (f : Fld) (w : Word) : f.get w < 2 ^ f.width := Nat.mod_lt _ (Nat.two_pow_pos _)

theorem Fld.get_put_of_lt {f : Fld} (hf : f.lo + f.width ≤ 64) {v : Nat} (hv : v < 2 ^ f.width) (w : Word) : f.get (f.put w v) = v := by
  rw [Fld.get_put f w v hf, Nat.mod_eq_of_lt hv]

/-- A bit of a word as a field of one bit. -/
theorem Fld.get_bit (r : RegName) (k : Nat) (w : Word) : (⟨r, k, 1⟩ : Fld).get w = 1 ↔ w.getLsbD k = true := by
  simp [Fld.get, bitsOf, BitVec.getLsbD, Nat.testBit_eq_decide_div_mod_eq, Nat.shiftRight_eq_div_pow]

theorem getLsbD_eq_of_get_bit {r : RegName} {k : Nat} {v w : Word} (h : (⟨r, k, 1⟩ : Fld).get v = (⟨r, k, 1⟩ : Fld).get w) :
    v.getLsbD k = w.getLsbD k := by
  rw [Bool.eq_iff_iff, ← Fld.get_bit r, ← Fld.get_bit r, h]

section Passes

variable {r : RegName} {pass : Word → FieldRow → Word}

/-- A pass over a table that touches each row's own field alone leaves a field apart from them all. -/
theorem Fld.get_foldl_apart (keeps : ∀ (g : Fld) (w : Word) (f : FieldRow), g.Apart (f.fld r) → g.get (pass w f) = g.get w)
    {g : Fld} {l : List FieldRow} (h : ∀ f ∈ l, g.Apart (f.fld r)) (w : Word) : g.get (l.foldl pass w) = g.get w := by
  induction l generalizing w with
  | nil => rfl
  | cons f l ih =>
    rw [List.foldl_cons, ih (fun f hf => h f (List.mem_cons_of_mem _ hf)), keeps _ _ _ (h f List.mem_cons_self)]

/-- A pass over a table of ascending rows does to the field of a row what its turn does to it. -/
theorem FieldRow.get_foldl (keeps : ∀ (g : Fld) (w : Word) (f : FieldRow), g.Apart (f.fld r) → g.get (pass w f) = g.get w)
    {value : Nat → Nat} {f : FieldRow} (turn : ∀ w, (f.fld r).get (pass w f) = value ((f.fld r).get w)) {l : List FieldRow}
    (hl : l.Pairwise (fun f g => f.lo + f.width ≤ g.lo)) (hf : f ∈ l) (w : Word) :
    (f.fld r).get (l.foldl pass w) = value ((f.fld r).get w) := by
  induction l generalizing w with
  | nil => cases hf
  | cons g l ih =>
    obtain ⟨hg, hl⟩ := List.pairwise_cons.1 hl
    rw [List.foldl_cons]
    rcases List.mem_cons.1 hf with rfl | hf
    · rw [Fld.get_foldl_apart keeps (fun x hx => .inl (hg x hx)), turn]
    · rw [ih hl hf, keeps (f.fld r) w g (.inr (hg f hf))]

end Passes

/-- What a plain write of v makes of a field's value, by the field's access code (R14, R17). -/
def FieldRow.written (f : FieldRow) (v old : Nat) : Nat :=
  match f.acc with
  | .rw => if f.least ≤ v ∧ v ≤ f.most then v else old
  | .w1c => old &&& (2 ^ f.width - 1 - v)
  | .w1s => old ||| v
  | _ => old

/-- A value lies in the range that a write may set (R17). -/
def FieldRow.admits (f : FieldRow) (v : Nat) : Bool := decide (f.least ≤ v ∧ v ≤ f.most)

/-- The turn of one field in a plain write of w. -/
def FieldRow.write (r : RegName) (w acc : Word) (f : FieldRow) : Word :=
  match f.acc with
  | .rw => if f.admits ((f.fld r).get w) then (f.fld r).put acc ((f.fld r).get w) else acc
  | .w1c => (f.fld r).put acc ((f.fld r).get acc &&& (2 ^ f.width - 1 - (f.fld r).get w))
  | .w1s => (f.fld r).put acc ((f.fld r).get acc ||| (f.fld r).get w)
  | _ => acc

/-- The turn of one field in a read: a WO field reads zero (R14). -/
def FieldRow.shown (r : RegName) (w : Word) (f : FieldRow) : Word := if f.acc = .wo then (f.fld r).put w 0 else w

theorem FieldRow.write_keeps {r : RegName} {w : Word} (g : Fld) (acc : Word) (f : FieldRow) (h : g.Apart (f.fld r)) :
    g.get (f.write r w acc) = g.get acc := by
  cases ha : f.acc <;> simp only [FieldRow.write, ha]
  case rw => split_ifs <;> simp only [Fld.get_put_other _ _ _ _ h]
  case w1c | w1s => exact Fld.get_put_other _ _ _ _ h

theorem FieldRow.get_write {f : FieldRow} (hf : f.lo + f.width ≤ 64) (r : RegName) (w acc : Word) :
    (f.fld r).get (f.write r w acc) = f.written ((f.fld r).get w) ((f.fld r).get acc) := by
  have hw : (f.fld r).get w < 2 ^ f.width := Fld.get_lt _ _
  have ho : (f.fld r).get acc < 2 ^ f.width := Fld.get_lt _ _
  cases ha : f.acc <;> simp only [FieldRow.write, FieldRow.written, FieldRow.admits, decide_eq_true_eq, ha]
  case rw =>
    split_ifs
    · exact Fld.get_put_of_lt hf hw acc
    · rfl
  case w1c => exact Fld.get_put_of_lt hf (Nat.and_le_left.trans_lt ho) acc
  case w1s => exact Fld.get_put_of_lt hf (Nat.or_lt_two_pow ho hw) acc

theorem FieldRow.shown_keeps {r : RegName} (g : Fld) (w : Word) (f : FieldRow) (h : g.Apart (f.fld r)) :
    g.get (f.shown r w) = g.get w := by
  unfold FieldRow.shown
  split_ifs
  · exact Fld.get_put_other _ _ _ _ h
  · rfl

theorem FieldRow.get_shown {f : FieldRow} (hf : f.lo + f.width ≤ 64) (r : RegName) (w : Word) :
    (f.fld r).get (f.shown r w) = if f.acc = .wo then 0 else (f.fld r).get w := by
  unfold FieldRow.shown
  split_ifs
  · exact Fld.get_put_of_lt hf (Nat.two_pow_pos _) w
  · rfl

/-- A plain write is one pass over the register's fields. -/
theorem Dev.storeReg_eq (s : Dev) (r : RegId) (w : Word) :
    s.storeReg r w = s.setReg r.name r.ix (r.name.fields.foldl (FieldRow.write r.name w) (s.reg r.name r.ix)) := rfl

theorem Dev.reg_storeReg (s : Dev) (r : RegId) (w : Word) :
    (s.storeReg r w).reg r.name r.ix = r.name.fields.foldl (FieldRow.write r.name w) (s.reg r.name r.ix) := by
  rw [Dev.storeReg_eq, Dev.reg_setReg]

/-- A read is one pass over the register's fields. -/
theorem Dev.readReg_eq (s : Dev) (r : RegId) : s.readReg r = r.name.fields.foldl (FieldRow.shown r.name) (s.reg r.name r.ix) := rfl

/-- Settles O54: a write and a read are passes over the register's fields, whose turns do not meet. -/
theorem registerFieldsTakeWrites : Obligations.RegisterFieldsTakeWrites := by
  refine ⟨fun s r w f hf => ?_, fun s r f hf => ?_, fun s r w k _ hgap => ?_, fun s r q w hqr => ⟨?_, rfl⟩⟩
  · have h := FieldRow.get_foldl FieldRow.write_keeps (FieldRow.get_write (r.name.fields_fit f hf) r.name w) r.name.fields_ascend hf
      (s.reg r.name r.ix)
    rw [← Dev.reg_storeReg] at h
    exact h
  · rw [Dev.readReg_eq]
    exact FieldRow.get_foldl FieldRow.shown_keeps (FieldRow.get_shown (r.name.fields_fit f hf) r.name) r.name.fields_ascend hf _
  · rw [Dev.reg_storeReg]
    exact getLsbD_eq_of_get_bit (r := r.name) (Fld.get_foldl_apart FieldRow.write_keeps (g := ⟨r.name, k, 1⟩) hgap _)
  · exact Dev.reg_setReg_other s _ hqr

end Sys2Proof.Machine
end

section
/-! SUPPORT. Traps, interrupts, gating, cluster caches and register writes (R14, R385, R387, R389, R390, R392, R505): what each of their
operations on the device does where its conditions hold. -/

namespace Sys2Proof.Machine

/-- An MSI whose identity its file takes: the identity is pending (R389). -/
theorem Dev.imsicTake_pends {s : Dev} {i n page : Nat} {m : Msi} (hm : s.msis[i]? = some m) (hf : imsicFile m.addr = some (n, page))
    (hlo : 1 ≤ m.id) (hhi : m.id ≤ 2047) (hnew : m.id ∉ SMap.get s.files [] (n * 16 + page))
    (hup : ({ s with msis := s.msis.eraseIdx i } : Dev).dieState 8 = 0) :
    s.imsicTake i = (let f := SMap.set s.files (n * 16 + page) (SMap.get s.files [] (n * 16 + page) ++ [m.id])
      { s with msis := s.msis.eraseIdx i, files := f }) := by
  have h0 : m.id ≠ 0 := by omega
  simp [Dev.imsicTake, hm, hf, h0, hhi.not_gt, hnew, hup]

theorem Dev.coreWake_pending {s : Dev} {n : Nat} (hg : (s.hart n).gated = true) (hp : s.corePending n = true) :
    s.coreWake n = s.setHart n { s.hart n with gated := false } := by
  simp [Dev.coreWake, hg, hp]

/-- An idle core whose L2 flushes is gated (R505, R392). -/
theorem Dev.coreGate_flushed {s : Dev} {n : Nat} (hup : s.coreUp n = true) (hidle : s.fld F.PWR_IDLE_CORE_IDLE 8 ≠ 0)
    (hp : s.corePending n = false) (hw : (s.hart n).waits.isEmpty = true) (hl : (s.l2Flush n).1 = true) :
    s.coreGate n = (s.l2Flush n).2.setHart n { (s.l2Flush n).2.hart n with gated := true, resv := none } := by
  simp [Dev.coreGate, hup, hidle, hp, hw, hl]

theorem Dev.writeCcCtrl_drop {s : Dev} {c : Nat} {v : Word} (h : F.CC_CTRL_DROP.get v = 1) :
    s.writeCcCtrl c v = ((s.storeReg ⟨.CC_CTRL, c⟩ v).setFlag F.CC_CTRL_DROP c false).ccDrop c := by
  simp [Dev.writeCcCtrl, h]

theorem Dev.writeCcCtrl_keep {s : Dev} {c : Nat} {v : Word} (h : F.CC_CTRL_DROP.get v = 0) :
    s.writeCcCtrl c v = (let t := (s.storeReg ⟨.CC_CTRL, c⟩ v).setFlag F.CC_CTRL_DROP c false
      if F.CC_CTRL_ENABLE.get v = 0 then t.ccDrop c else t) := by
  simp [Dev.writeCcCtrl, h]

/-- A write of an aligned doubleword to a listed register, open to the writer, that is taken: the register's work is done (R14). -/
theorem Dev.ctrlAccess_takes {s : Dev} {who : Who} {off u o : Nat} {w v : Word} {b : Block} {r : RegId}
    (hpl : ctrlPlace off = .block b u o) (hal : off % 8 = 0) (hans : s.blockAnswers who b u = true) (hreg : regAt b u o = some r)
    (hopen : s.ctrlOpen who b u ((some r).or (bandOf b u o)) = true) (htake : s.takes who b u r w = some v) :
    s.ctrlAccess who off 8 (some w) = (.ok, 0, s.regWork who r v) := by
  have hsz : ctrlSized off 8 (.block b u o) = true := by simp [ctrlSized, hal]
  have hopen : s.ctrlOpen who b u (some r) = true := hopen
  simp [Dev.ctrlAccess, hpl, hans, hreg, hsz, hopen, htake]

/-- Settles O27, a case for each clause: the clocks run, and the command's operation does what the clause says. -/
theorem coreEventsTakeEffect : Obligations.CoreEventsTakeEffect := by
  refine ⟨?trap, ?msi, ?wake, ?gate, ?drop, ?enable, ?write⟩
  case trap =>
    intro s n hc
    exact State.after_clocked hc
  case msi =>
    intro s i m n page hc hm hf hlo hhi hnew hup
    rw [exec_imsicMsi, execImsicMsi, State.after_clocked hc, Dev.imsicTake_pends hm hf hlo hhi (by simpa using hnew) hup]
  case wake =>
    intro s n hc hg hp
    rw [exec_coreWake, execCoreWake, State.after_clocked hc, Dev.coreWake_pending hg hp]
  case gate =>
    intro s n hc hup hidle hp hw hl
    rw [exec_corePowerGate, execCorePowerGate, State.after_clocked hc, Dev.coreGate_flushed hup hidle hp hw hl]
  case drop =>
    intro s who c v hc ha hd
    rw [exec_ccDrop, execCcDrop, State.after_clocked hc, Dev.asWriter_takes ha, Dev.writeCcCtrl_drop hd]
  case enable =>
    intro s who c enable v hc ha hd
    rw [exec_ccEnableWrite, execCcEnableWrite, State.after_clocked hc, Dev.asWriter_takes ha, Dev.writeCcCtrl_keep hd]
  case write =>
    intro s who off w v b u o r hc hpl hal hans hreg hopen htake
    rw [exec_registerWrite, execRegisterWrite, State.afterBurn_clocked hc, Dev.ctrlAccess_takes hpl hal hans hreg hopen htake]

end Sys2Proof.Machine
end

section
/-! SUPPORT. A device whose clocks, or whose MGMT, cannot run (R28, R62, R108, R524): the effect of each kind of command, and of a cycle. -/

namespace Sys2Proof

open Sys2Proof.Machine

theorem Machine.State.afterBurn_stopped {s : State} {d : Dev} (h : s.dev.clocked = false) : s.afterBurn d = .next s := by
  simp [State.afterBurn, h]

/-- No command is both an event at the pins and work of MGMT. -/
theorem Instr.atPins_and_byMgmt (c : Instr) : (c.atPins && c.byMgmt) = false := by
  cases c <;> rfl

theorem Instr.atPins_of_byMgmt {c : Instr} (h : c.byMgmt = true) : c.atPins = false := by
  simpa [h] using c.atPins_and_byMgmt

/-- Without running clocks a command that neither the pins nor MGMT carry out leaves the state, whether or not it could burn fuses. -/
theorem Instr.effect_of_not_clocked {c : Instr} {s : State} (hpin : c.atPins = false) (hmgmt : c.byMgmt = false)
    (hstop : s.dev.clocked = false) (d : Dev) : c.effect s d = .next s := by
  cases hburn : c.burns with
  | true => simp [Instr.effect, hpin, hmgmt, hburn, State.afterBurn_stopped hstop]
  | false => simp [Instr.effect, hpin, hmgmt, hburn, State.after_stopped hstop]

/-- Without MGMT its commands leave the state. -/
theorem Instr.effect_of_not_mgmtRuns {c : Instr} {s : State} (hmgmt : c.byMgmt = true) (hstop : s.dev.mgmtRuns = false) (d : Dev) :
    c.effect s d = .next s := by
  simp [Instr.effect, Instr.atPins_of_byMgmt hmgmt, hmgmt, State.afterMgmt_stopped hstop]

/-- A well-formed command whose effect leaves the state, whatever it makes of the device, changes nothing. -/
theorem Instr.exec_of_effect_idle {c : Instr} {s : State} (hwf : c.wf = true) (h : ∀ d : Dev, c.effect s d = .next s) :
    exec c s = .next s := by
  obtain ⟨d, hd⟩ := c.exec_eq_effect s
  rw [hd, shaped_true hwf, h d]

/-- A cycle passes only while MGMT runs. -/
theorem Machine.Dev.tick_of_not_mgmtRuns {d : Dev} (h : d.mgmtRuns = false) : d.tick = d := by
  simp [Dev.tick, h]

theorem Machine.step_of_nil_of_not_mgmtRuns {s : State} (hq : s.pending = []) (hstop : s.dev.mgmtRuns = false) : step s = .next s := by
  rw [step_of_nil hq, Dev.tick_of_not_mgmtRuns hstop]
  rfl

/-- Settles O50, by the form of every command's effect and the guard of a cycle. -/
theorem stoppedClocksFreezeTheDevice : Obligations.StoppedClocksFreezeTheDevice :=
  ⟨fun _ _ hwf hpin hmgmt hstop => Instr.exec_of_effect_idle hwf (Instr.effect_of_not_clocked hpin hmgmt hstop),
   fun _ _ hwf hmgmt hstop => Instr.exec_of_effect_idle hwf (Instr.effect_of_not_mgmtRuns hmgmt hstop),
   fun _ hq hstop => step_of_nil_of_not_mgmtRuns hq hstop⟩

end Sys2Proof
end

section
/-! SUPPORT. The write commands of named registers (R56, R57, R81): each is its register's write by its writer, whatever the register's
work, and under running clocks its effect is done, in MGMT and with burns too. -/

namespace Sys2Proof

open Sys2Proof.Machine

/-- Under running clocks MGMT runs as well. -/
theorem Machine.Dev.mgmtRuns_of_clocked {d : Dev} (h : d.clocked = true) : d.mgmtRuns = true := by
  simp only [Dev.clocked, Bool.and_eq_true] at h
  obtain ⟨⟨⟨⟨⟨hgood, href⟩, -⟩, -⟩, -⟩, -⟩ := h
  simp [Dev.mgmtRuns, hgood, href]

/-- Under running clocks an effect of any kind puts its device in the state. -/
theorem Instr.effect_of_clocked {s : State} (h : s.dev.clocked = true) (c : Instr) (d : Dev) :
    ∃ t, c.effect s d = .next t ∧ t.dev = d ∧ t.pending = s.pending := by
  unfold Instr.effect
  split_ifs
  · exact ⟨_, State.afterPin_eq s d, rfl, rfl⟩
  · exact ⟨_, State.afterMgmt_runs (Dev.mgmtRuns_of_clocked h), rfl, rfl⟩
  · exact ⟨_, State.afterBurn_clocked h, rfl, rfl⟩
  · exact ⟨_, State.after_clocked h, rfl, rfl⟩

/-- A command that writes a register for someone is that register's write command (R81), with a word and a work of its own. -/
theorem Instr.exec_of_writes {c : Instr} {who : Who} {r : RegId} (h : c.writes = some (who, r)) (s : State) :
    ∃ (w : Word) (work : Dev → Word → Dev), exec c s = c.effect s (s.dev.asWriter who r w work) := by
  cases c <;> cases h <;> exact ⟨_, _, rfl⟩

/-- Settles O53, by the form of every write command and the answer of a refused write. -/
theorem refusedWritesChangeNothing : Obligations.RefusedWritesChangeNothing := by
  intro c s who r hwrites hclk hperm
  obtain ⟨w, work, hexec⟩ := Instr.exec_of_writes hwrites s
  rw [hexec, Dev.asWriter_perm hperm]
  exact Instr.effect_of_clocked hclk c _

end Sys2Proof
end

section
/-! SUPPORT. Requests at their homes (R60, R310, R346, R347, R352): what the flits of a request make of it, and where one that nothing
refuses goes. -/

namespace Sys2Proof.Machine

open Sys2Proof

/-- What a home does with a request, by the state of its flits (R310). -/
theorem Dev.homeTakeFlits_eq (s : Dev) (r : Req) (flit : Fin 3) :
    s.homeTakeFlits r flit = if flit = 0 then s.homeTake r else if flit = 1 then s.send (.comp r.src r.line r.tag .dataErr) else s := by
  match flit with
  | 0 => rfl
  | 1 => rfl
  | 2 => rfl

/-- A request that its line's owner may make and the context check lets through arrives at its line's home (R346, R347). -/
theorem Dev.homeTake_arrives {s e : Dev} {r : Req} {h : Nat} (hdead : s.fromDead r = false) (hown : s.ownCode r = .ok)
    (hctx : s.ctxCheck r = (some .ok, e)) (hhome : homeOfPlace (r.line * 64) (e.place (r.line * 64)) = some h) :
    s.homeTake r = e.arriveReq h r := by
  have hfirst : Resp.first .ok .ok = .ok := rfl
  cases hplace : e.place (r.line * 64) with
  | pad => simp [hplace, homeOfPlace] at hhome
  | _ =>
    rw [hplace] at hhome
    simp [Dev.homeTake, hdead, hown, hctx, hfirst, hplace, hhome]

/-- A message in flight is an L2's request of a kind for a line. -/
def NetMsg.isL2Req (kind : ReqKind) (core line : Nat) (m : NetMsg) : Bool :=
  match m with
  | .req r => r.kind == kind && r.src == .core core && r.line == line
  | _ => false

theorem Dev.takeL2Req_eq (s : Dev) (kind : ReqKind) (core line flit : Nat) :
    s.takeL2Req kind core line flit = match s.takeMsg (NetMsg.isL2Req kind core line) with
      | some (.req r, s') => s'.homeTakeFlits r flit
      | _ => s := rfl

/-- A home takes an L2's request that is in flight and first in its lane. -/
theorem Dev.takeL2Req_of_takeMsg {s d : Dev} {kind : ReqKind} {core line : Nat} {r : Req}
    (h : s.takeMsg (NetMsg.isL2Req kind core line) = some (.req r, d)) (flit : Nat) :
    s.takeL2Req kind core line flit = d.homeTakeFlits r flit := by
  rw [Dev.takeL2Req_eq, h]

/-- A home takes a request newly made, with none like it and none before it in its lane in flight. -/
theorem Dev.takeReq_new {s : Dev} {r : Req} (hnone : s.takeMsg (fun m => decide (m = .req r)) = none)
    (hlane : s.laneBefore (.req r) = false) (flit : Nat) : s.takeReq r flit = s.homeTakeFlits r flit := by
  simp [Dev.takeReq, hnone, hlane]

/-- A caching request's command is the taking of its kind of L2 request. -/
theorem exec_l2Req {s : State} {n : CoreIx} {line : Nat} {flit : Fin 3} {i : Instr} {k : ReqKind}
    (h : (i, k) ∈ [(Instr.rdShared n ⟨line, flit⟩, ReqKind.rdShared), (.rdUnique n ⟨line, flit⟩, .rdUnique),
      (.upgrade n ⟨line, flit⟩, .upgrade), (.makeUnique n ⟨line, flit⟩, .makeUnique)]) :
    exec i s = s.after (s.dev.takeL2Req k n line flit) := by
  simp only [List.mem_cons, Prod.mk.injEq, List.not_mem_nil, or_false] at h
  obtain ⟨rfl, rfl⟩ | ⟨rfl, rfl⟩ | ⟨rfl, rfl⟩ | ⟨rfl, rfl⟩ := h <;> rfl

/-- Settles O24, a case for each clause: the home takes the request, and its flits decide whether it arrives. -/
theorem homesTakeRequests : Obligations.HomesTakeRequests := by
  refine ⟨?l2, ?agent⟩
  case l2 =>
    intro s n line flit i k r d e h hclk hi htake hdead hown hctx hhome
    rw [exec_l2Req hi, State.after_clocked hclk, Dev.takeL2Req_of_takeMsg htake, Dev.homeTakeFlits_eq,
      Dev.homeTake_arrives hdead hown hctx hhome]
  case agent =>
    intro s src tag line part ctx hint data mask op flit i r e h hclk hi hnone hlane hdead hown hctx hhome
    have hreq : exec i s = s.after (s.dev.takeReq r flit) ∧ r.src = src ∧ r.line = line ∧ r.tag = tag := by
      simp only [List.mem_cons, Prod.mk.injEq, List.not_mem_nil, or_false] at hi
      obtain ⟨rfl, rfl⟩ | ⟨rfl, rfl⟩ | ⟨rfl, rfl⟩ | ⟨rfl, rfl⟩ := hi <;> exact ⟨rfl, rfl, rfl, rfl⟩
    obtain ⟨hexec, rfl, rfl, rfl⟩ := hreq
    rw [hexec, State.after_clocked hclk, Dev.takeReq_new hnone hlane, Dev.homeTakeFlits_eq,
      Dev.homeTake_arrives hdead hown hctx hhome]

end Sys2Proof.Machine
end

section
/-! SUPPORT. The die-to-die links (R72–R77, R82): what each operation on a link does in the states in which it acts. -/

namespace Sys2Proof.Machine

open Sys2Proof

/-- Full training starts on a link that is DOWN between two dies with locked PLLs (R82). -/
theorem Dev.linkStart_trains {s : Dev} {e : Nat} (hlink : linkExists e = true) (hdown : s.linkState e = 0)
    (hmine : s.pllUp (e / 16) = true) (hother : s.pllUp (otherEnd e / 16) = true) : s.linkStart e = s.linkTrain e := by
  simp [Dev.linkStart, hlink, hdown, hmine, hother]

/-- Training ends on a link in TRAIN: the lanes that failed leave both maps, then each end takes the state that follows (R76, R82). -/
theorem Dev.linkEnd_of_train {s : Dev} {e : Nat} (hlink : linkExists e = true) (htrain : s.linkState e = 1) (good rtt : Nat) (late : Bool) :
    s.linkEnd e good rtt late = (
      let f := otherEnd e
      let t := [e, f].foldl (fun t k =>
        let m := t.fld F.LANE_MAP_GOOD k
        (if m &&& good = m then t else t.setFlag F.LINK_EVENT_LANE_FAILED k true).setFld F.LANE_MAP_GOOD k (m &&& good)) s
      let g := t.fld F.LANE_MAP_GOOD e &&& t.fld F.LANE_MAP_GOOD f
      let st := if late || decide (rtt > 200) then 5 else linkWidth (laneCount g)
      (t.endTraining e g rtt st).endTraining f g rtt st) := by
  have htraining : ¬ (!(linkExists e && s.linkState e == 1)) = true := by simp [hlink, htrain]
  rw [Dev.linkEnd, if_neg htraining]

/-- RETRAIN written on a link that is UP, HALF, QUARTER or FAILED starts a training (R82). -/
theorem Dev.writeLinkCtrl_trains {s : Dev} {e : Nat} {w : Word} (hlink : linkExists e = true) (hst : 2 ≤ s.linkState e)
    (hw : F.LINK_CTRL_RETRAIN.get w = 1) : s.writeLinkCtrl e w = s.linkTrain e := by
  simp [Dev.writeLinkCtrl, hlink, hst, hw]

/-- Lanes fail on a link that is not DOWN: they leave LANE_MAP, and a link that carries flits retrains (R77, R82). -/
theorem Dev.failLanes_of_not_down {s : Dev} {e mask : Nat} (hst : s.linkState e ≠ 0) (hmask : mask ≠ 0) :
    s.failLanes e mask = (
      let m := s.fld F.LANE_MAP_GOOD e
      let t := (s.setFld F.LANE_MAP_GOOD e (m - (m &&& mask))).setFlag F.LINK_EVENT_LANE_FAILED e true
      if 2 ≤ s.linkState e ∧ s.linkState e ≤ 4 then t.linkTrain e else t) := by
  simp [Dev.failLanes, hst, hmask]

/-- With a WINDOW set, its end clears the counts of corrected errors and fails the lanes whose count passed LIMIT (R77). -/
theorem Dev.laneWindow_of_window {s : Dev} {e : Nat} (hlink : linkExists e = true) (hwin : s.fld F.LANE_ERR_LIMIT_WINDOW e ≠ 0) :
    s.laneWindow e = (
      let passed := (s.link e).laneErr.filter (fun n => decide (n.2 > s.fld F.LANE_ERR_LIMIT_LIMIT e))
      (s.setLink e { s.link e with laneErr := [] }).failLanes e (passed.foldl (fun m n => m + 2 ^ n.1) 0)) := by
  simp [Dev.laneWindow, hlink, hwin]

/-- Settles O6, a case for each command: the link is in the state that the command acts on. -/
theorem linkTrainingTakesEffect : Obligations.LinkTrainingTakesEffect := by
  refine ⟨?start, ?done, ?retrain⟩
  case start =>
    intro s e hclk hlink hdown hmine hother
    rw [exec_linkTrainingStart, execLinkTrainingStart, State.after_clocked hclk, Dev.linkStart_trains hlink hdown hmine hother,
      Dev.linkTrain]
  case done =>
    intro s e good rtt late rails hclk hrails hlink htrain
    rw [exec_linkTrainingEnd, execLinkTrainingEnd, shaped_true hrails, State.after_clocked hclk, Dev.linkEnd_of_train hlink htrain]
  case retrain =>
    intro s who e hclk hlink hst haccepts
    have hwritten : F.LINK_CTRL_RETRAIN.get 0x100 = 1 := by decide
    rw [exec_linkRetrain, execLinkRetrain, State.after_clocked hclk, Dev.asWriter_takes haccepts,
      Dev.writeLinkCtrl_trains hlink hst hwritten]

/-- Settles O7, a case for each command: lanes fail one by one at a lost lock, and by their counts at the end of a window. -/
theorem laneFailuresTakeEffect : Obligations.LaneFailuresTakeEffect := by
  refine ⟨?lock, ?window⟩
  case lock =>
    intro s e lane hclk hlink hst
    have hmask : 2 ^ lane.val ≠ 0 := (Nat.two_pow_pos _).ne'
    rw [exec_laneLockLoss, execLaneLockLoss, State.after_clocked hclk, if_pos hlink, Dev.failLanes_of_not_down hst hmask]
  case window =>
    intro s e hclk hlink hwin
    rw [exec_laneErrWindowEnd, execLaneErrWindowEnd, State.after_clocked hclk, Dev.laneWindow_of_window hlink hwin]

section Flits

variable {s : Dev} {e : Nat} {f : Flit} (hlink : linkExists e = true) (hlo : 2 ≤ s.linkState e) (hhi : s.linkState e ≤ 4)
  (hsent : (f.kind == 0 && !s.maySend (otherEnd e) f.slots) = false)

include hlink hlo hhi hsent

/-- A flit that its sender may send, on a link that carries flits, is not held back. -/
theorem Dev.flit_not_held_back :
    ¬ (!linkExists e || s.linkState e < 2 || s.linkState e > 4 || (f.kind == 0 && !s.maySend (otherEnd e) f.slots)) = true := by
  simp [hlink, hlo.not_gt, hhi.not_gt, hsent]

/-- A flit that comes with a word that cannot be corrected is treated as bad, from the state that its way left (R74). -/
theorem Dev.flitReceive_bad (hbad : (s.flitComes e f).1.any (fun g => g.cls.bad) = true) :
    s.flitReceive e f = (s.flitComes e f).2.flitBad e (s.flitComes e f).1 := by
  rw [Dev.flitReceive, if_neg (Dev.flit_not_held_back hlink hlo hhi hsent), if_pos hbad]

/-- A flit that comes whole is taken for what it carries, and a payload flit is then judged by its SEQ (R74). -/
theorem Dev.flitReceive_whole (hwhole : (s.flitComes e f).1.any (fun g => g.cls.bad) = false) :
    s.flitReceive e f = (
      let gs := (s.flitComes e f).1
      let t := (s.flitComes e f).2.flitCarries e gs
      if bitsOf (gotWord gs 0) 8 2 ≠ 0 then t else t.flitJudge e (bitsOf (gotWord gs 0) 0 8) (gotMsgs gs f.slots)) := by
  rw [Dev.flitReceive, if_neg (Dev.flit_not_held_back hlink hlo hhi hsent), if_neg (Bool.eq_false_iff.1 hwhole)]

end Flits

/-- Settles O8, a case for each way that a flit can come: with a bad word, or whole; what a whole one carries and the judgement of its SEQ
are then as defined. -/
theorem flitIsDeliveredOrNaked : Obligations.FlitIsDeliveredOrNaked := by
  refine ⟨?bad, ?whole⟩
  case bad =>
    intro s e f hclk hshape hlink hlo hhi hsent hbad
    rw [exec_flitReceive, execFlitReceive, shaped_true hshape, State.after_clocked hclk, Dev.flitReceive_bad hlink hlo hhi hsent hbad,
      Dev.flitBad]
  case whole =>
    intro s e f hclk hshape hlink hlo hhi hsent hwhole
    rw [exec_flitReceive, execFlitReceive, shaped_true hshape, State.after_clocked hclk, Dev.flitReceive_whole hlink hlo hhi hsent hwhole]
    rfl

end Sys2Proof.Machine
end

section
/-! SUPPORT. The fuses of a part (R86): what a command and a step can make of them, and the order in which they grow. -/

namespace Sys2Proof

open Sys2Proof.Machine

/-- A burn lets the floor, the revocations and the attestation bank grow, and leaves what manufacture wrote. -/
theorem FusesGrown.burned (f g : Fuses) : FusesGrown f (f.burned g) where
  rollback := le_max_left ..
  revoked := by rw [Fuses.burned, ← Nat.or_assoc, Nat.or_self]
  attNext := le_max_left ..
  options := rfl
  keyHash := rfl
  slots := rfl
  spares := rfl
  waves := rfl
  trim := rfl
  discId := rfl
  budget := rfl
  seed := rfl

theorem FusesGrown.trans {f g h : Fuses} (hfg : FusesGrown f g) (hgh : FusesGrown g h) : FusesGrown f h where
  rollback := hfg.rollback.trans hgh.rollback
  revoked := by rw [← hgh.revoked, ← Nat.or_assoc, hfg.revoked]
  attNext := hfg.attNext.trans hgh.attNext
  options := hgh.options.trans hfg.options
  keyHash := hgh.keyHash.trans hfg.keyHash
  slots := hgh.slots.trans hfg.slots
  spares := hgh.spares.trans hfg.spares
  waves := hgh.waves.trans hfg.waves
  trim := hgh.trim.trans hfg.trim
  discId := hgh.discId.trans hfg.discId
  budget := hgh.budget.trans hfg.budget
  seed := hgh.seed.trans hfg.seed

/-- An effect that may burn leaves the fuse array as it was, or burned with fuses of its device. -/
theorem Machine.State.afterBurn_fuses {s t : State} {d : Dev} (h : s.afterBurn d = .next t) :
    t.fuses = s.fuses ∨ t.fuses = s.fuses.burned d.fused := by
  cases hclk : s.dev.clocked with
  | true =>
    rw [State.afterBurn_clocked hclk] at h
    cases h
    exact .inr rfl
  | false =>
    rw [State.afterBurn_stopped hclk] at h
    cases h
    exact .inl rfl

/-- Only the effect of a command that can burn touches the fuse array, and then as a burn does. -/
theorem Instr.effect_fuses {c : Instr} {s t : State} {d : Dev} (h : c.effect s d = .next t) :
    t.fuses = s.fuses ∨ (c.burns = true ∧ t.fuses = s.fuses.burned d.fused) := by
  unfold Instr.effect at h
  split_ifs at h with _ _ hburns
  · exact .inl (State.afterPin_keeps h).2
  · exact .inl (State.afterMgmt_keeps h).2
  · exact (State.afterBurn_fuses h).imp_right fun hf => ⟨hburns, hf⟩
  · exact .inl (State.after_keeps h).2

theorem Instr.exec_fuses {c : Instr} {s t : State} (h : exec c s = .next t) :
    t.fuses = s.fuses ∨ (c.burns = true ∧ ∃ g : Fuses, t.fuses = s.fuses.burned g) := by
  obtain ⟨d, hd⟩ := c.exec_eq_effect s
  cases hwf : c.wf with
  | true =>
    rw [hd, shaped_true hwf] at h
    exact (Instr.effect_fuses h).imp_right fun ⟨hburns, hf⟩ => ⟨hburns, d.fused, hf⟩
  | false => cases (Instr.exec_of_not_wf hwf s).symm.trans h

theorem Instr.exec_fusesGrown {c : Instr} {s t : State} (h : exec c s = .next t) : FusesGrown s.fuses t.fuses := by
  obtain hf | ⟨_, g, hf⟩ := Instr.exec_fuses h
  · rw [hf]
    exact FusesGrown.refl _
  · rw [hf]
    exact FusesGrown.burned _ g

/-- One step of the machine, be it a command or a cycle, lets the fuses only grow. -/
theorem Machine.step_fusesGrown {s t : State} (h : step s = .next t) : FusesGrown s.fuses t.fuses := by
  cases hp : s.pending with
  | nil =>
    rw [step_of_nil hp] at h
    cases h
    exact FusesGrown.refl _
  | cons c rest =>
    rw [step_of_cons hp] at h
    exact Instr.exec_fusesGrown (s := { s with pending := rest }) h

/-- Settles O51: growth is transitive, and every step lets the fuses grow. -/
theorem fusesOnlyGrow : Obligations.FusesOnlyGrow :=
  fun _ _ _ hgrown hstep => hgrown.trans (step_fusesGrown hstep)

/-- Settles O52, by what a command can make of the fuse array. -/
theorem onlyBurningCommandsMoveFuses : Obligations.OnlyBurningCommandsMoveFuses := by
  intro c s t hburns hexec
  obtain hf | ⟨hburnt, -⟩ := Instr.exec_fuses hexec
  · exact hf
  · exact absurd hburnt (by simp [hburns])

end Sys2Proof
end

section
/-! SUPPORT. The pins and the clocks of the dies (R63, R66–R68, R86, R108, R507, R524, R551, R561): what each of their operations does where
its conditions hold. -/

namespace Sys2Proof.Machine

open Sys2Proof

/-- PWRGOOD rises on a device without power: the straps are sampled, and MGMT starts cold (R108, R551). -/
theorem Dev.pwrRise_of_off {s : Dev} (hoff : s.pins.pwrgood = false) (bootSrc i3cSa : Nat) :
    s.pwrRise bootSrc i3cSa = s.pwr.alerts.foldl Dev.alertAccept
      (Dev.setFlag { s with
        time := 0, boot := BootSt.init,
        pins := { s.pins with pwrgood := true, floating := false, refclk := true, bootSrc := bootSrc, i3cSa := i3cSa } }
        F.BOOT_STATUS_COLD 0 true) := by
  rw [Dev.pwrRise, if_neg (Bool.eq_false_iff.1 hoff)]

theorem Dev.pwrFall_of_on {s : Dev} (hon : s.pins.pwrgood = true) : s.pwrFall = s.powerOff := if_pos hon

/-- SYS_RST_N goes low with PERST_N high, under power with REFCLK running: a package reset with trigger 6 (R524). -/
theorem Dev.sysRst_resets {s : Dev} (hhigh : s.pins.sysLow = false) (hclk : s.pins.refclk = true) (hon : s.pins.pwrgood = true)
    (hother : s.pins.perstLow = false) :
    s.sysRst = { s.packageFault 6 0 with pins := { (s.packageFault 6 0).pins with sysLow := true } } := by
  simp [Dev.sysRst, hhigh, hclk, hon, hother]

/-- PERST_N goes low with SYS_RST_N high, under power with REFCLK running: a package reset with trigger 7 (R474, R524). -/
theorem Dev.perst_resets {s : Dev} (hhigh : s.pins.perstLow = false) (hclk : s.pins.refclk = true) (hon : s.pins.pwrgood = true)
    (hother : s.pins.sysLow = false) :
    s.perst = { s.packageFault 7 0 with pins := { (s.packageFault 7 0).pins with perstLow := true } } := by
  simp [Dev.perst, hhigh, hclk, hon, hother]

/-- Settles O1, a case for each event: a pin that changes does its work, and a release or a stop sets its own pin alone. -/
theorem pinEventsTakeEffect : Obligations.PinEventsTakeEffect := by
  refine ⟨?rise, ?fall, ?sysRst, ?perst, ?sysHigh, ?perstHigh, ?refclk, ?vddIo⟩
  case rise =>
    intro s bootSrc i3cSa hoff
    rw [exec_pwrgoodRise, execPwrgoodRise, State.afterPin_eq, Dev.pwrRise_of_off hoff]
  case fall =>
    intro s hon
    rw [exec_pwrgoodFall, execPwrgoodFall, State.afterPin_eq, Dev.pwrFall_of_on hon, Dev.powerOff]
  case sysRst =>
    intro s hhigh hclk hon hother
    rw [exec_sysRstNLow, execSysRstNLow, State.afterPin_eq, Dev.sysRst_resets hhigh hclk hon hother]
  case perst =>
    intro s hhigh hclk hon hother
    rw [exec_perstNLow, execPerstNLow, State.afterPin_eq, Dev.perst_resets hhigh hclk hon hother]
  case sysHigh | perstHigh | refclk | vddIo =>
    intro s
    exact State.afterPin_eq s _

/-- In PHASE 0 the fuses are taken into the device and shown in its registers (R86). -/
theorem Dev.fusesLoad_of_phase {s : Dev} (hphase : s.phase = 0) (f : Fuses) :
    s.fusesLoad f = (({ s with fused := f, applied := [] } : Dev).showFuses.attShow).setPhase 1 := by
  rw [Dev.fusesLoad, if_neg (not_not_intro hphase)]

/-- The PLL of a die outside DEAD locks, with the fuses loaded and no rail held (R66, R68). -/
theorem Dev.pllLock_locks {s : Dev} {d : Nat} (hphase : s.phase ≠ 0) (halive : s.dieState d ≠ 2)
    (hopen : s.flag F.CLK_STATUS_PLL_LOCK d = false) (hrails : s.pwr.railHold = []) :
    s.pllLock d = (
      let t := (s.setFlag F.CLK_STATUS_PLL_LOCK d true).setReg .SLOW_COUNT d 0
      if d ≥ 9 then t.setFlag F.NSE_STATUS_HEALTHY (d - 9) true else t) := by
  rw [Dev.pllLock, if_neg (by simp [hphase, halive, hopen, hrails])]

/-- A PLL in lock loses it: the die's links go DOWN, and the die is held in reset with trigger 1 (R67, R82). -/
theorem Dev.lockLost_of_locked {s : Dev} {d : Nat} (hlock : s.flag F.CLK_STATUS_PLL_LOCK d = true) :
    s.lockLost d = (
      let t := (s.setFlag F.CLK_STATUS_PLL_LOCK d false).setFlag F.CLK_EVENT_LOCK_LOST d true
      ((endsOf d).foldl (fun t e => t.linkDown e) (t.count F.CLK_EVENT_LOCK_LOST_COUNT d 1)).dieReset d 1 0) := by
  rw [Dev.lockLost, if_neg (by simp [hlock])]

/-- A running die with a block that divides the clock puts in force the steps asked of its blocks (R63, R507). -/
theorem Dev.dividerStep_of_asked {s : Dev} {d clk : Nat} (hruns : s.dieRuns d = true) (hasked : (s.stepsAsked d clk).isEmpty = false) :
    s.dividerStep d clk =
      (s.setPwr { s.pwr with steps := (s.stepsAsked d clk).foldl (fun m b => SMap.set m b.1 b.2) s.pwr.steps }).setFld
        (stepField clk) d (((s.stepsAsked d clk).map (·.2)).foldl max 0) := by
  rw [Dev.dividerStep, if_neg (by simp [hruns, hasked])]

/-- Settles O2, a case for each event: the clocks run, and the die is in the state that the event acts on. -/
theorem clockEventsTakeEffect : Obligations.ClockEventsTakeEffect := by
  refine ⟨?fuses, ?lock, ?lost, ?step⟩
  case fuses =>
    intro s hclk hphase
    rw [exec_fusesLoaded, execFusesLoaded, State.after_clocked hclk, Dev.fusesLoad_of_phase hphase]
  case lock =>
    intro s d hclk hphase halive hopen hrails
    rw [exec_pllLock, execPllLock, State.after_clocked hclk, Dev.pllLock_locks hphase halive hopen hrails]
  case lost =>
    intro s d hclk hlock
    rw [exec_lockLost, execLockLost, State.after_clocked hclk, Dev.lockLost_of_locked hlock]
  case step =>
    intro s d clk hclk hruns hasked
    rw [exec_dividerStep, execDividerStep, State.after_clocked hclk, Dev.dividerStep_of_asked hruns hasked]

end Sys2Proof.Machine
end

section
/-! SUPPORT. Start-up from the image to release (R90–R115, R313–R333): what each step does in the phase that it belongs to. -/

namespace Sys2Proof.Machine

open Sys2Proof

section Image

variable {s : Dev}

/-- In PHASE 2 an image read from its slot's place is staged, at most the slot's 256 MiB, and judged (R90, R94). -/
theorem Dev.imageRead_of_slot (hphase : s.phase = 2) (bs : List Byte) :
    s.imageRead (some (slotOffset s.boot.slot, bs)) = (
      let t := (s.stageStore s.stagePads (bs.take 0x10000000)).setPhase 3
      match t.judgeImage false t.stageRoom (bs.take 0x10000000) with
      | .error e => t.slotFails e
      | .ok recs => t.acceptImage (bs.take 0x10000000) recs) := by
  rw [Dev.imageRead, if_neg (not_not_intro hphase)]
  exact if_neg (not_not_intro rfl)

theorem Dev.imageRead_none (hphase : s.phase = 2) : s.imageRead none = s.slotFails (headErr 1) := by
  rw [Dev.imageRead, if_neg (not_not_intro hphase)]

/-- GO in PHASE 8 judges the staged bytes, and a rejected image leaves the staging wait as it was but for BOOT_ERROR (R113). -/
theorem Dev.writeBootGo_judges {w : Word} (hgo : F.BOOT_GO_GO.get w ≠ 0) (hphase : s.phase = 8) :
    s.writeBootGo w = (
      let len := s.fld F.STAGE_LEN_LENGTH 0
      let r := s.stagedLines s.stagePads ((len + 63) / 64) 0
      let bs := bytesAt r.1 0 len
      let t := r.2.setPhase 3
      match t.judgeImage false t.stageRoom bs with
      | .error e => (t.bootErr e).setPhase 8
      | .ok recs => t.acceptImage bs recs) := by
  exact if_neg (by simp [hgo, hphase])

/-- In PHASE 4 the staging pads are cleared, every record takes effect, and image lock with it (R107). -/
theorem Dev.applyRecords_of_phase (hphase : s.phase = 4) (differ : List Nat) :
    s.applyRecords differ = (
      let recs := s.boot.records
      let t := (List.range 128).foldl (fun t c => t.padZero c) s
      let t := (t.applyPackage recs).applySpares recs
      let t := (List.range 11).foldl (fun t d => t.dieImage d) t
      let t := (recs.filter (fun r => r.type == 1)).foldl (fun t r => t.applyPart r.scope recs (differ.contains r.scope)) t
      let t := ((List.range 32).foldl Dev.showRegion t).showVfs
      let t := (t.setReg .IMAGE_ID 0 (BitVec.ofNat 64 t.boot.serial)).setFld F.BOOT_STATUS_SOURCE 0 t.boot.slot
      ((t.setFlag F.BOOT_STATUS_LOCKED 0 true).showShort).setPhase 5) := by
  rw [Dev.applyRecords, if_neg (not_not_intro hphase)]

end Image

/-- Settles O3, a case for each event: start-up is in the phase that the event acts in. -/
theorem imageEventsTakeEffect : Obligations.ImageEventsTakeEffect := by
  refine ⟨?read, ?unreadable, ?go, ?records⟩
  case read =>
    intro s bs hclk hphase
    rw [exec_imageReadDone, execImageReadDone, State.afterBurn_clocked hclk]
    exact congrArg (fun d => Host.Outcome.next (s.withBurn d)) (Dev.imageRead_of_slot hphase bs)
  case unreadable =>
    intro s hclk hphase
    rw [exec_imageReadDone, execImageReadDone, State.afterBurn_clocked hclk, Dev.imageRead_none hphase]
  case go =>
    intro s who hclk hphase haccepts
    have hgo : F.BOOT_GO_GO.get 1 ≠ 0 := by decide
    rw [exec_bootGo, execBootGo, State.afterBurn_clocked hclk, Dev.asWriter_takes haccepts]
    exact congrArg (fun d => Host.Outcome.next (s.withBurn (d.emit (.ctrl who .ok none)))) (Dev.writeBootGo_judges hgo hphase)
  case records =>
    intro s differ hclk hphase
    rw [exec_recordsApplied, execRecordsApplied, State.after_clocked hclk, Dev.applyRecords_of_phase hphase]

section Memories

variable {s : Dev}

/-- The stacks of a compute die in RUN end their training at start-up: channels are mapped out or filled, and bad slices are lost (R108, R317,
R333). -/
theorem Dev.stacksTrained_of_runs {d : Nat} (hnew : (s.die d).trained = false) (hruns : s.dieState d = 0)
    (hlock : s.flag F.CLK_STATUS_PLL_LOCK d = true) (hlo : 2 ≤ s.phase) (hup : s.phase ≠ 9) (absent failed badSlices : List Nat) :
    s.stacksTrained d absent failed badSlices = (
      let t := (List.range 32).foldl (fun t i => t.chanTrained (32 * d + i)
        (if absent.contains (i / 16) then 1 else if failed.contains i then 2 else 0) true) s
      let t := (t.setDie d { t.die d with trained := true }).loseSlices d badSlices
      { t with boot := { t.boot with stacksDone := t.boot.stacksDone || t.stacksReady } }) := by
  have hdue : ¬ ((s.die d).trained || s.dieState d == 2 || !s.flag F.CLK_STATUS_PLL_LOCK d || s.phase < 2 || s.phase == 9) = true := by
    simp [hnew, hruns, hlock, hlo.not_gt, hup]
  rw [Dev.stacksTrained, if_neg hdue, hruns]
  rfl

/-- The DIMMs are read and trained once, while the core die runs (R110, R321). -/
theorem Dev.dimmsTrained_of_runs (hnew : s.boot.dimmsDone = false) (hlo : 2 ≤ s.phase) (hup : s.phase ≠ 9) (hruns : s.dieState 8 = 0)
    (hlock : s.flag F.CLK_STATUS_PLL_LOCK 8 = true) (spd : List (List DimmSpd)) :
    s.dimmsTrained spd = (
      let t := (List.range 12).foldl (fun t m => t.showDimms m (spd.getD m [])) s
      let least := t.dimmMin
      let t := (t.dimmList.foldl (fun t m => t.setFld F.T2_STATUS_UNUSED m (t.fld F.T2_STATUS_CAPACITY m - least)) t).remapHost
      ({ t with boot := { t.boot with dimmsDone := true } } : Dev).showShort) := by
  have hdue : ¬ (s.boot.dimmsDone || s.phase < 2 || s.phase == 9 || s.dieState 8 != 0 || !s.flag F.CLK_STATUS_PLL_LOCK 8) = true := by
    simp [hnew, hlo.not_gt, hup, hruns, hlock]
  rw [Dev.dimmsTrained, if_neg hdue]

/-- With the memories and the ports ready and no home waiting, the firmware is copied, and a power-on goes on to step 7 (R108). -/
theorem Dev.firmwareCopied_of_ready (hphase : s.phase = 5) (hstacks : s.boot.stacksDone = true) (hdimms : s.boot.dimmsDone = true)
    (hports : s.portsReady = true) (hnew : s.boot.fwDone = false) (hanswered : (s.copyFirmware s.boot.records).1.isNone = false) :
    s.firmwareCopied = (
      let t := (s.copyFirmware s.boot.records).2
      let t := { t with boot := { t.boot with fwDone := true } }
      if t.flag F.BOOT_STATUS_COLD 0 then t.setPhase 6 else t) := by
  rw [Dev.firmwareCopied, if_neg (by simp [hphase, hstacks, hdimms, hports, hnew])]
  exact if_neg (by simp [hanswered])

/-- The next bit of the attestation bank reads back 1 when it is burned: the leaf is reserved, and the session's seed and I are drawn (R111,
R501). -/
theorem Dev.leafStep_reserves (hphase : s.phase = 6) (hnew : s.flag F.BOOT_STATUS_LEAF_RESERVED 0 = false)
    (hleft : s.flag F.BOOT_STATUS_ATTEST_EXHAUSTED 0 = false) (hroom : s.fused.attNext < 16384) (rest : List Bool) :
    s.leafStep (true :: rest) = (
      let q := s.fused.attNext
      let t := ({ s with fused := { s.fused with attNext := q + 1 } } : Dev).setFld F.ATTEST_FUSE_COUNT_NEXT 0 (q + 1)
      let a := t.drbg 9 48
      let t : Dev := { a.2 with
        att := { a.2.att with leaf := q, seed := a.1.take 32, ident := a.1.drop 32, next := 0, certified := false, exhausted := false } }
      (t.setFlag F.BOOT_STATUS_LEAF_RESERVED 0 true).attShow) := by
  rw [Dev.leafStep, if_neg (by simp [hphase, hnew, hleft]), Dev.reserveLeaf]
  exact if_neg hroom.not_ge

/-- After a power-on with its leaf reserved, PHASE 7 is entered, and every partition goes where its dies let it (R112, R115). -/
theorem Dev.releaseAll_of_cold (hcold : s.flag F.BOOT_STATUS_COLD 0 = true) (hphase : s.phase = 6)
    (hleaf : s.flag F.BOOT_STATUS_LEAF_RESERVED 0 = true) :
    s.releaseAll = (
      let t := (List.range 32).foldl (fun t g => t.setFld F.CAPC_REGION_BUDGET_W g t.fused.capcBudget) (s.setPhase 7)
      t.recs.foldl (fun t e =>
        if (t.diesOf e.1).any (fun d => t.dieState d == 2) then t.setPartState e.1 5
        else if (t.diesOf e.1).any (fun d => t.dieState d == 1) then t.setPartState e.1 4
        else t.enterRun e.1) t) := by
  rw [Dev.releaseAll, hcold, hphase, hleaf]
  rfl

/-- The drawn level-1 seed is certified, waiting requests are answered, and ports that wait for it send their OFFER (R111). -/
theorem Dev.certifyDone_of_drawn (hphase : s.phase = 7) (hdrawn : s.att.seed.isEmpty = false) (hnew : s.att.certified = false)
    (hruns : s.dieState 9 = 0) :
    s.certifyDone = (
      let t := s.certify
      let t := t.attServe t.att.waiting.length
      (List.range 48).foldl (fun t f => if t.flag F.PORT_STATUS_KEYWAIT f then t.kxOffer f else t) t) := by
  rw [Dev.certifyDone, if_neg (by simp [hphase, hdrawn, hnew, hruns])]

end Memories

/-- Settles O4, a case for each event: start-up and the dies are in the states that the event acts in. -/
theorem memoriesAndReleaseTakeEffect : Obligations.MemoriesAndReleaseTakeEffect := by
  refine ⟨?channels, ?dimms, ?firmware, ?leaf, ?release, ?certified⟩
  case channels =>
    intro s d absent failed badSlices hclk hnew hruns hlock hlo hup
    rw [exec_stackTrainingDone, execStackTrainingDone, State.after_clocked hclk, Dev.stacksTrained_of_runs hnew hruns hlock hlo hup]
  case dimms =>
    intro s spd hclk hshape hnew hlo hup hruns hlock
    rw [exec_dimmTrainingDone, execDimmTrainingDone, shaped_true hshape, State.after_clocked hclk,
      Dev.dimmsTrained_of_runs hnew hlo hup hruns hlock]
  case firmware =>
    intro s hclk hphase hstacks hdimms hports hnew hanswered
    rw [exec_firmwareCopyDone, execFirmwareCopyDone, State.after_clocked hclk,
      Dev.firmwareCopied_of_ready hphase hstacks hdimms hports hnew hanswered]
  case leaf =>
    intro s rest hclk hphase hnew hleft hroom
    rw [exec_attestLeafReserve, execAttestLeafReserve, State.afterBurn_clocked hclk, Dev.leafStep_reserves hphase hnew hleft hroom]
  case release =>
    intro s hclk hcold hphase hleaf
    rw [exec_release, execRelease, State.after_clocked hclk, Dev.releaseAll_of_cold hcold hphase hleaf]
  case certified =>
    intro s hclk hphase hdrawn hnew hruns
    rw [exec_level1Certified, execLevel1Certified, State.after_clocked hclk, Dev.certifyDone_of_drawn hphase hdrawn hnew hruns]

end Sys2Proof.Machine
end

section
/-! SUPPORT. Partial reload (R116, R117, R563): what GO, the verdict on the copied image, and the loading do. -/

namespace Sys2Proof.Machine

open Sys2Proof

variable {s : Dev}

/-- GO on a released device with no reload in progress records its party and copies the image (R116). -/
theorem Dev.writeReloadCtrl_starts {w : Word} (hgo : F.RELOAD_CTRL_GO.get w ≠ 0) (hidle : s.flag F.RELOAD_STATUS_BUSY 0 = false)
    (hphase : s.phase = 7) (who : Who) :
    s.writeReloadCtrl who w = (
      let party := match who with | .core n _ => s.partOfCore n | _ => none
      let t := (s.setFlag F.RELOAD_STATUS_BUSY 0 true).setFlag F.RELOAD_CTRL_GO 0 true
      ({ t with boot := { t.boot with
        reloadWho := party, reloadStage := 1, reloadErr := none, reloadBytes := [], reload := [], reloadPart := none } } : Dev).reloadCopy) :=
  if_neg (by simp [hgo, hidle, hphase])

/-- With the copy done, the verification ends with the copy's own failure, or goes on to the image (R116). -/
theorem Dev.reloadVerify_copied (hcopied : s.boot.reloadStage = 2) :
    s.reloadVerify = (
      match s.boot.reloadErr with
      | some c => s.reloadEnd (some c)
      | none =>
        let bs := s.boot.reloadBytes
        let p := imgTarget bs
        let t := s.setFld F.RELOAD_STATUS_PARTITION 0 p
        if (match t.boot.reloadWho with | some q => q != p | none => false) then t.reloadEnd (some 0x0A)
        else match t.judgeImage true (2 ^ 24) bs with
          | .error e => t.reloadEnd (some e.code)
          | .ok recs => ({ t with boot := { t.boot with reload := recs, reloadPart := some p, reloadStage := 3 } } : Dev).reloadReset p) := by
  have hnot : ¬ s.boot.reloadStage = 1 := by omega
  rw [Dev.reloadVerify, if_neg hnot]
  exact if_neg (not_not_intro hcopied)

/-- A copy that failed ends the reload with its code. -/
theorem Dev.reloadVerify_of_err (hcopied : s.boot.reloadStage = 2) {code : Nat} (herr : s.boot.reloadErr = some code) :
    s.reloadVerify = s.reloadEnd (some code) := by
  rw [Dev.reloadVerify_copied hcopied, herr]

/-- A copied image of a party that may name every partition is judged as it stands. -/
theorem Dev.reloadVerify_judges (hcopied : s.boot.reloadStage = 2) (hgood : s.boot.reloadErr = none) (hany : s.boot.reloadWho = none) :
    s.reloadVerify = (
      let bs := s.boot.reloadBytes
      let t := s.setFld F.RELOAD_STATUS_PARTITION 0 (imgTarget bs)
      match t.judgeImage true (2 ^ 24) bs with
      | .error e => t.reloadEnd (some e.code)
      | .ok recs => ({ t with boot := { t.boot with
          reload := recs, reloadPart := some (imgTarget bs), reloadStage := 3 } } : Dev).reloadReset (imgTarget bs)) := by
  simp only [Dev.reloadVerify_copied hcopied, hgood, Dev.setFld_boot, hany, Bool.false_eq_true, if_false]

/-- A partition in LOADING takes its image's records, and the copy of its firmware decides where it goes (R116, R281). -/
theorem Dev.reloadLoad_of_loading {p : Nat} (hpart : s.boot.reloadPart = some p) (hload : s.partState p = 1) (differ : Bool) :
    s.reloadLoad differ = (
      let recs := s.boot.reload
      let old := (s.partRec p).getD .none
      let new := old.after p recs
      let gone := (List.range 32).filter (fun g => bitOf old.regions g && !bitOf new.regions g)
      let t := (((s.takeUnits old new).zeroGained old new).applySpares recs).applyPart p recs differ
      let t := (gone.foldl Dev.dropRegion t).showVfs
      let t : Dev := { t with att := { t.att with partial_ := SMap.set t.att.partial_ p (imgSerial t.boot.reloadBytes) } }
      let x := t.showShort.copyFirmware recs
      match x.1 with
      | none => s
      | some true => (x.2.enterRun p).reloadEnd none
      | some false => ((x.2.free 256).2.setPartState p 5).reloadEnd (some (x.2.free 256).1)) := by
  rw [Dev.reloadLoad, hpart]
  exact if_neg (not_not_intro hload)

/-- Settles O5, a case for each clause: the reload has reached the stage that the event acts in. -/
theorem reloadEventsTakeEffect : Obligations.ReloadEventsTakeEffect := by
  refine ⟨?go, ?judged, ?failed, ?loaded⟩
  case go =>
    intro s who hclk hidle hphase haccepts
    have hgo : F.RELOAD_CTRL_GO.get 1 ≠ 0 := by decide
    rw [exec_reloadGo, execReloadGo, State.after_clocked hclk, Dev.asWriter_takes haccepts]
    exact congrArg (fun d => Host.Outcome.next (s.withDev (d.emit (.ctrl who .ok none)))) (Dev.writeReloadCtrl_starts hgo hidle hphase who)
  case judged =>
    intro s hclk hcopied hgood hany
    rw [exec_reloadVerifyDone, execReloadVerifyDone, State.after_clocked hclk]
    exact congrArg (fun d => Host.Outcome.next (s.withDev d)) (Dev.reloadVerify_judges hcopied hgood hany)
  case failed =>
    intro s code hclk hcopied herr
    rw [exec_reloadVerifyDone, execReloadVerifyDone, State.after_clocked hclk, Dev.reloadVerify_of_err hcopied herr]
  case loaded =>
    intro s p differ hclk hpart hload
    rw [exec_reloadLoadingDone, execReloadLoadingDone, State.after_clocked hclk]
    exact congrArg (fun d => Host.Outcome.next (s.withDev d)) (Dev.reloadLoad_of_loading hpart hload differ)

end Sys2Proof.Machine
end

section
/-! SUPPORT. Configuration requests of the PCI Express port (R112, R467, R474, R475, R477): when one is served, and what the work of each
is. -/

namespace Sys2Proof.Machine

open Sys2Proof

/-- The data that a served configuration request completes with: a dword for a read, nothing for a write. -/
def cplData : Option Nat → List Byte
  | some v => leBytes 4 v
  | none => []

/-- After release a request of a function that is there and under no reset is served, and its completion is successful (R112). -/
theorem Dev.config_serves {s : Dev} {f : Nat} (hup : s.pciUp = true) (hphase : s.phase = 7) (hthere : s.fnExists f = true)
    (hfree : (s.fn f).flr.isSome = false) (tag : Nat) (work : Dev → Option Nat × Dev) :
    s.config f tag work = (work s).2.emit (.completion f tag 0 (cplData (work s).1)) := by
  rw [Dev.config, if_neg (by simp [hup]), if_neg (by simp [hphase]), if_neg (by simp [hthere, hfree])]
  rfl

/-- Before release and outside the staging wait a request is answered with Retry Status (R112). -/
theorem Dev.config_retries {s : Dev} (hup : s.pciUp = true) (h7 : s.phase ≠ 7) (h8 : s.phase ≠ 8) (f tag : Nat) (work : Dev → Option Nat × Dev) :
    s.config f tag work = s.emit (.completion f tag 2 []) := by
  rw [Dev.config, if_neg (by simp [hup]), if_pos ⟨h7, h8⟩, Dev.pciComplete]

theorem Dev.flr_zero (s : Dev) : s.flr 0 = (s.vfDisable.fnClear 0).fnStop 0 := rfl

theorem Dev.flr_of_ne_zero {f : Nat} (hf : f ≠ 0) (s : Dev) : s.flr f = (s.fnClear f).fnStop f := by
  rw [Dev.flr, if_neg hf]

/-- VF Enable set with ARI after release enables the VFs (R467). -/
theorem Dev.vfEnable_sets {s : Dev} (hphase : s.phase = 7) (hoff : s.flag F.PCI_STATUS_VF_ENABLE 0 = false) (n : Nat) :
    s.vfEnable true n true = (s.setFlag F.PCI_STATUS_VF_ENABLE 0 true).setFld F.PCI_STATUS_NUM_VFS 0 n := by
  simp [Dev.vfEnable, hphase, hoff]

theorem Dev.vfEnable_clears {s : Dev} (hphase : s.phase = 7) (n : Nat) (ari : Bool) : s.vfEnable false n ari = s.vfDisable := by
  simp [Dev.vfEnable, hphase]

/-- Bus Master Enable cleared on PF1 or a VF stops the function (R475). -/
theorem Dev.writeBme_stops {s : Dev} {f : Nat} (hf : f ≠ 0) (hon : (s.fn f).bme = true) :
    s.writeBme f false = (s.setFn f { s.fn f with bme := false }).fnStop f := by
  simp [Dev.writeBme, hf, hon]

/-- ACTION written with its key and the partition bit asks for the partition's reset alone (R477). -/
theorem Dev.dvsecAction_partition (s : Dev) (p : PartIx) :
    s.dvsecAction (0xA5 + p.val * 256 + 2 ^ 13) = ({ s with pci := { s.pci with action := 0 } } : Dev).askReset p.val 1 1 0 := by
  have hfields : bitsOf (0xA5 + p.val * 256 + 2 ^ 13) 0 8 = 0xA5 ∧ bitsOf (0xA5 + p.val * 256 + 2 ^ 13) 8 5 = p.val ∧
      bitOf (0xA5 + p.val * 256 + 2 ^ 13) 13 = true ∧ bitOf (0xA5 + p.val * 256 + 2 ^ 13) 14 = false := by
    revert p
    decide
  obtain ⟨hkey, hpart, hreset, hpackage⟩ := hfields
  simp only [Dev.dvsecAction, hkey, hpart, hreset, hpackage, ne_eq, not_true_eq_false, if_false, if_true, Bool.false_eq_true]

/-- ACTION written with its key and the package bit starts the package drain alone (R477). -/
theorem Dev.dvsecAction_package (s : Dev) :
    s.dvsecAction (0xA5 + 2 ^ 14) = ({ s with pci := { s.pci with action := 0 } } : Dev).packageAsk := rfl

/-- Settles O33, a case for each command: the port serves the request, whose work is the command's own. -/
theorem configurationRequestsAreServed : Obligations.ConfigurationRequestsAreServed := by
  refine ⟨?request, ?retry, ?flr, ?flr0, ?vfSet, ?vfClear, ?bme, ?action, ?crash, ?flrDone⟩
  case request =>
    intro s f tag off v hmgmt hup hphase hthere hfree
    constructor <;>
      rw [exec_configRequest, execConfigRequest, State.afterMgmt_runs hmgmt, Dev.config_serves hup hphase hthere hfree, cplData]
  case retry =>
    intro s f tag off write hmgmt hup h7 h8
    rw [exec_configRequest, execConfigRequest, State.afterMgmt_runs hmgmt, Dev.config_retries hup h7 h8]
  case flr =>
    intro s f tag hmgmt hup hphase hthere hfree hf
    rw [exec_flr, execFlr, State.afterMgmt_runs hmgmt, Dev.config_serves hup hphase hthere hfree, Dev.flr_of_ne_zero hf, Dev.fnClear, cplData]
  case flr0 =>
    intro s tag hmgmt hup hphase hthere hfree
    rw [exec_flr, execFlr, State.afterMgmt_runs hmgmt, Fin.val_zero, Dev.config_serves hup hphase hthere hfree, Dev.flr_zero, cplData]
  case vfSet =>
    intro s tag numVfs hmgmt hup hphase hthere hfree hoff
    rw [exec_vfEnableWrite, execVfEnableWrite, State.afterMgmt_runs hmgmt, Dev.config_serves hup hphase hthere hfree,
      Dev.vfEnable_sets hphase hoff, cplData]
  case vfClear =>
    intro s tag numVfs ari hmgmt hup hphase hthere hfree
    rw [exec_vfEnableWrite, execVfEnableWrite, State.afterMgmt_runs hmgmt, Dev.config_serves hup hphase hthere hfree,
      Dev.vfEnable_clears hphase, Dev.vfDisable, cplData]
  case bme =>
    intro s f tag hmgmt hup hphase hthere hfree hf hon
    rw [exec_busMasterClear, execBusMasterClear, State.afterMgmt_runs hmgmt, Dev.config_serves hup hphase hthere hfree,
      Dev.writeBme_stops hf hon, cplData]
  case action =>
    intro s tag p hmgmt hup hphase hthere hfree
    have hkey : (0xA5 : BitVec 8).toNat = 0xA5 := rfl
    constructor
    · rw [exec_dvsecPartitionReset, execDvsecPartitionReset, State.afterMgmt_runs hmgmt, Dev.config_serves hup hphase hthere hfree,
        hkey, Dev.dvsecAction_partition, cplData]
    · rw [exec_dvsecPackageReset, execDvsecPackageReset, State.afterMgmt_runs hmgmt, Dev.config_serves hup hphase hthere hfree,
        hkey, Dev.dvsecAction_package, cplData]
  case crash =>
    intro s tag hmgmt hup hphase hthere hfree
    rw [exec_crashDataRead, execCrashDataRead, State.afterMgmt_runs hmgmt, Dev.config_serves hup hphase hthere hfree, Dev.crashData, cplData]
  case flrDone =>
    intro s f hmgmt
    rw [exec_flrComplete, execFlrComplete, State.afterMgmt_runs hmgmt]

end Sys2Proof.Machine
end

section
/-! SUPPORT. MGMT over I3C (R112, R504, R531): when it answers on the bus, and what each command is answered. -/

namespace Sys2Proof.Machine

open Sys2Proof

/-- The address is assigned once, from PHASE 2 on (R531). -/
theorem Dev.i3cAssign_dynamic {s : Dev} (hnew : s.pins.i3cAddr.isSome = false) (hphase : 2 ≤ s.phase) (addr : Nat) :
    s.i3cAssign none addr = { s with pins := { s.pins with i3cAddr := some addr } } := by
  simp [Dev.i3cAssign, hnew, hphase.not_gt]

section OnBus

variable {s : Dev} (haddr : s.pins.i3cAddr.isSome = true) (hphase : 2 ≤ s.phase)

include haddr hphase

/-- With its dynamic address and from PHASE 2 on, MGMT serves what comes on the bus (R112, R531). -/
theorem Dev.onBus_served (t : Dev) : s.onBus t = t := by
  simp [Dev.onBus, haddr, hphase]

/-- A reset command that is good is answered 0, and its work is done. -/
theorem Dev.i3cReset_taken {good : Bool} (hgood : good = true) (work : Dev → Dev) : s.i3cReset good work = work (s.emit (.serial [0])) := by
  rw [Dev.i3cReset, Dev.onBus_served haddr hphase, if_pos hgood, Dev.serial]

/-- A reset command that is not good is answered 1, and nothing else is done. -/
theorem Dev.i3cReset_refused {good : Bool} (hbad : good = false) (work : Dev → Dev) : s.i3cReset good work = s.emit (.serial [1]) := by
  rw [Dev.i3cReset, Dev.onBus_served haddr hphase, if_neg (Bool.eq_false_iff.1 hbad), Dev.serial]

end OnBus

/-- With no drain under way, a package reset asked for after an answer starts one (R533). -/
theorem Dev.packageAsk_emit {s : Dev} (hidle : s.drain = none) (o : Out) :
    (s.emit o).packageAsk = { (s.emit o) with drain := some (s.time, 5, 0xFF) } := by
  simp [Dev.packageAsk, hidle]

/-- An endpoint ID that is neither null nor broadcast is taken. -/
theorem Dev.mctp_setEndpointId {eid : Byte} (hnull : eid ≠ 0) (hall : eid ≠ 0xFF) (s : Dev) :
    s.mctp (.setEndpointId eid) = ({ s with pins := { s.pins with eid := eid.toNat } } : Dev).emit (.serial [0, 0, eid, 0]) :=
  if_neg (not_or.2 ⟨hnull, hall⟩)

/-- Settles O44, a case for each command: MGMT serves the bus, and the command's answer is its own. -/
theorem serialCommandsAnswer : Obligations.SerialCommandsAnswer := by
  refine ⟨?assign, ?status, ?crash, ?elog, ?partition, ?package, ?die, ?wrongKey, ?attest, ?mctp, ?pldm⟩
  case assign =>
    intro s addr hmgmt hnew hphase
    rw [exec_i3cAddressAssign, execI3cAddressAssign, State.afterMgmt_runs hmgmt, Option.map_none, Dev.i3cAssign_dynamic hnew hphase]
  case status =>
    intro s hmgmt haddr hphase
    rw [exec_i3cStatus, execI3cStatus, State.afterMgmt_runs hmgmt, Dev.onBus_served haddr hphase, Dev.serial, Dev.i3cStatus]
  case crash =>
    intro s first count hmgmt haddr hphase hlo hhi
    have hcount : ¬ (count.toNat = 0 ∨ count.toNat > 64) := by omega
    rw [exec_i3cCrashRead, execI3cCrashRead, if_neg hcount, State.afterMgmt_runs hmgmt, Dev.onBus_served haddr hphase, Dev.serial]
  case elog =>
    intro s first count hmgmt haddr hphase hlo hhi
    have hcount : ¬ (count.toNat = 0 ∨ count.toNat > 8) := by omega
    rw [exec_i3cElogRead, execI3cElogRead, if_neg hcount, State.afterMgmt_runs hmgmt, Dev.onBus_served haddr hphase, Dev.serial]
  case partition =>
    intro s p hmgmt haddr hphase hp hruns
    have hgood : ((0xA5 : BitVec 8) == 0xA5 && decide (p.toNat < 32) && s.dev.partRuns p.toNat) = true := by simp [hp, hruns]
    rw [exec_i3cPartitionReset, execI3cPartitionReset, State.afterMgmt_runs hmgmt, Dev.i3cReset_taken haddr hphase hgood]
  case package =>
    intro s hmgmt haddr hphase hidle
    rw [exec_i3cPackageReset, execI3cPackageReset, State.afterMgmt_runs hmgmt, Dev.i3cReset_taken haddr hphase (beq_self_eq_true _),
      Dev.packageAsk_emit hidle]
  case die =>
    intro s d hmgmt haddr hphase hd
    have hgood : ((0xA5 : BitVec 8) == 0xA5 && decide (d.toNat < 11)) = true := by simp [hd]
    rw [exec_i3cDieReset, execI3cDieReset, State.afterMgmt_runs hmgmt, Dev.i3cReset_taken haddr hphase hgood]
  case wrongKey =>
    intro s key p d hmgmt haddr hphase hkey
    have hbad : ∀ rest : Bool, (key == 0xA5 && rest) = false := fun rest => by rw [hkey, Bool.false_and]
    refine ⟨?_, ?_, ?_⟩
    · rw [exec_i3cPartitionReset, execI3cPartitionReset, State.afterMgmt_runs hmgmt, Bool.and_assoc, Dev.i3cReset_refused haddr hphase (hbad _)]
    · rw [exec_i3cPackageReset, execI3cPackageReset, State.afterMgmt_runs hmgmt, Dev.i3cReset_refused haddr hphase hkey]
    · rw [exec_i3cDieReset, execI3cDieReset, State.afterMgmt_runs hmgmt, Dev.i3cReset_refused haddr hphase (hbad _)]
  case attest =>
    intro s p package data hmgmt hshape haddr hphase
    rw [exec_i3cAttest, execI3cAttest, shaped_true hshape, State.afterMgmt_runs hmgmt, Dev.onBus_served haddr hphase]
  case mctp =>
    intro s eid hmgmt haddr hphase hnull hall
    have hserved : ∀ m, exec (.mctpControl m) s = .next (s.withDev (s.dev.mctp m)) := fun m => by
      rw [exec_mctpControl, execMctpControl, State.afterMgmt_runs hmgmt, Dev.onBus_served haddr hphase]
    refine ⟨?_, hserved .getEndpointId, hserved .getMessageTypes⟩
    rw [hserved, Dev.mctp_setEndpointId hnull hall]
  case pldm =>
    intro s x hmgmt haddr hphase
    rw [exec_pldmRequest, execPldmRequest, State.afterMgmt_runs hmgmt, Dev.onBus_served haddr hphase, Dev.serial]
    cases x <;> rfl

end Sys2Proof.Machine
end

section
/-! SUPPORT. Tiles on the matrix arrays (R129, R132, R138, R139, R141, R145, R148): what the start of a tile, the end of a pass, the two ends
of HELD and the run of a whole tile do in the states in which they act. -/

namespace Sys2Proof.Machine

open Sys2Proof

/-- An assigned tile whose members are IDLE or OFF starts if all are IDLE, and powers the array up otherwise (R148). -/
theorem Dev.tileStart_of_assigned {s : Dev} {a : Nat} {r : MxRun} (hr : SMap.find s.arrays a = some r) (hrun : r.run = false)
    (hst : ((s.members a).map (fun m => s.fld F.MXA_STATUS_STATE m)).all (fun x => x == 0 || x == 1) = true) :
    s.tileStart a = if ((s.members a).map (fun m => s.fld F.MXA_STATUS_STATE m)).all (· == 1) then s.arrayRun a r else s.powerUp a := by
  simp only [Dev.tileStart, hr, hrun, hst, Bool.false_eq_true, if_false, if_true]

/-- A pass of a running tile that is not HELD ends: it is run, and what comes of it decides where the array goes (R129, R132, R139, R145). -/
theorem Dev.passEnd_of_running {s : Dev} {a : Nat} {r : MxRun} {d : Desc} {ds : List Desc} (hr : SMap.find s.arrays a = some r)
    (hunit : s.unit r.tile = d :: ds) (hrun : r.run = true) (hheld : r.held = none) (staged : Bool) :
    s.passEnd a staged = (
      let f := mxFields d.bytes
      let b := tileBox f.m f.n f.tm f.tn r.tile.ix
      let dims := shapeDims (s.fld F.MXA_STATUS_SHAPE a)
      let counted := fun (t : Dev) => (t.members a).foldl (fun t m => (t.bump F.MXA_PASSES_COUNT m 1).bump F.MXA_BUBBLE_COUNT m (64 - b.nr)) t
      let ends := decide (r.pass + 1 ≥ f.foldPasses dims.1)
      let last := ends && decide (r.fold + 1 ≥ foldsOf b.nc dims.2)
      let c1 := foldEnd (d :: ds) b.c0 b.nc dims.2 r.fold
      let x := runEng s (s.engId a r.tile.q) (foldRun (s.engId a r.tile.q) (d :: ds) r dims.2 dims.1 (b.c0 + r.cols) c1 ends last)
      match x.1 with
      | .ok o =>
        let t := (counted (x.2.countFormats (a / 4) (o.outs.foldl TileOut.add .zero))).loadCells a r.tile o.pass.wts
        let r' := { r with exp := o.pass.table, part := o.pass.part, even := o.even, odd := o.odd }
        if last then (t.matrixDone a r.tile).ringDoorbells
        else if ends then
          t.ringDoorbells.nextPass a { r' with pass := 0, fold := r.fold + 1, cols := c1 - b.c0, stats := addStats r.stats o.outs } staged
        else t.nextPass a { r' with pass := r.pass + 1 } staged
      | .error (.wait _) => x.2
      | .error (.err code va) => (x.2.tileError a r.tile code va).ringDoorbells) := by
  have hruns : ¬ (!r.run || r.held.isSome) = true := by simp [hrun, hheld]
  simp only [Dev.passEnd, hr, hunit]
  exact if_neg hruns

/-- A running tile of the operation ends a pass with its staging ahead, and the run goes on while that moves it. -/
theorem Dev.runMatrix_succ_of_running {s : Dev} {a op : Nat} {r : MxRun} {d : Desc} (hr : SMap.find s.arrays a = some r) (hrun : r.run = true)
    (hheld : r.held = none) (hd : s.desc r.tile.q r.tile.pos = some d) (hop : d.op = op) (n : Nat) :
    s.runMatrix a op (n + 1) = (
      let t := s.passEnd a true
      match SMap.find t.arrays a with
      | some r' => if r' = r then t else t.runMatrix a op n
      | none => t) := by
  have hruns : ¬ (!(s.desc r.tile.q r.tile.pos).any (fun d => d.op == op) || !r.run || r.held.isSome) = true := by
    simp [hd, hop, hrun, hheld]
  simp only [Dev.runMatrix, hr]
  exact if_neg hruns

/-- MATMUL and CONV run the tile of a logical array whose descriptor is of the operation. -/
theorem exec_matrix {s : State} {a : ArrayIx} {i : Instr} {op : Nat} (h : (i, op) ∈ [(Instr.matmul a, 8), (.conv a, 9)]) :
    exec i s = s.after (s.dev.runMatrix (s.dev.logical a) op (s.dev.passBound (s.dev.logical a))) := by
  simp only [List.mem_cons, Prod.mk.injEq, List.not_mem_nil, or_false] at h
  obtain ⟨rfl, rfl⟩ | ⟨rfl, rfl⟩ := h <;> rfl

/-- Weights that come end HELD: its length is charged, and every member runs again (R139, R141). -/
theorem Dev.weightsAvailable_of_held {s : Dev} {a h : Nat} {r : MxRun} (hr : SMap.find s.arrays a = some r) (hheld : r.held = some h)
    (hready : s.weightsReady r.tile true = true) :
    s.weightsAvailable a = (
      let t := s.bump F.CTX_ACCT_HOLD_HOLD (s.ctxOfQueue r.tile.q) (s.time - h)
      let t := (t.members a).foldl (fun t m => t.setFld F.MXA_STATUS_STATE m 2) t
      { t with arrays := SMap.set t.arrays a { r with held := none } }) := by
  simp only [Dev.weightsAvailable, hr, hheld, hready, Dev.endHeld, Option.isNone_some, Bool.not_true, Bool.or_self, Bool.false_eq_true, if_false]

/-- HELD reaches a limit that is set: the event shows, and is recorded this once (R141). -/
theorem Dev.holdLimit_of_held {s : Dev} {a h : Nat} {r : MxRun} (hr : SMap.find s.arrays a = some r) (hheld : r.held = some h)
    (hnew : r.heldLogged = false) (hlimit : s.fld F.MXA_HOLD_LIMIT_LIMIT a ≠ 0) :
    s.holdLimit a = (
      let t := s.setFlag F.MXA_EVENT_HOLD_EXPIRED a true
      ({ t with arrays := SMap.set t.arrays a { r with heldLogged := true } } : Dev).eventOf r.tile.q ⟨4, a, 0⟩
        (((t.desc r.tile.q r.tile.pos).map (·.op)).getD 0)) := by
  have hacts : ¬ (r.held.isNone || r.heldLogged || decide (s.fld F.MXA_HOLD_LIMIT_LIMIT a = 0)) = true := by simp [hheld, hnew, hlimit]
  simp only [Dev.holdLimit, hr]
  exact if_neg hacts

/-- Settles O19, a case for each command: the array is in the state that the command acts on. -/
theorem matrixTilesTakeEffect : Obligations.MatrixTilesTakeEffect := by
  refine ⟨?run, ?start, ?passEnd, ?weights, ?limit⟩
  case run =>
    intro s a i op r d n hclk hi hr hrun hheld hd hop hbound
    rw [exec_matrix hi, State.after_clocked hclk, hbound]
    exact congrArg (fun d => Host.Outcome.next (s.withDev d)) (Dev.runMatrix_succ_of_running hr hrun hheld hd hop n)
  case start =>
    intro s a r hclk hr hrun hst
    rw [exec_mxaTileStart, execMxaTileStart, State.after_clocked hclk, Dev.tileStart_of_assigned hr hrun hst]
  case passEnd =>
    intro s a staged r d ds hclk hr hunit hrun hheld
    rw [exec_mxaPassEnd, execMxaPassEnd, State.after_clocked hclk]
    exact congrArg (fun d => Host.Outcome.next (s.withDev d)) (Dev.passEnd_of_running hr hunit hrun hheld staged)
  case weights =>
    intro s a r h hclk hr hheld hready
    rw [exec_mxaWeightsAvailable, execMxaWeightsAvailable, State.after_clocked hclk, Dev.weightsAvailable_of_held hr hheld hready]
  case limit =>
    intro s a r h hclk hr hheld hnew hlimit
    rw [exec_mxaHoldLimitExpire, execMxaHoldLimitExpire, State.after_clocked hclk, Dev.holdLimit_of_held hr hheld hnew hlimit]

end Sys2Proof.Machine
end

section
/-! SUPPORT. Self-tests of the arrays and their power (R148–R150, R505, R540, R541): what each of their operations does in the states of the
array that it acts in. -/

namespace Sys2Proof.Machine

open Sys2Proof

/-- A periodic test falls due for an array that is not in FAULT: kept while it is OFF, requested otherwise (R540, R541). -/
theorem Dev.testDue_of_not_fault {s : Dev} {a : Nat} (hst : s.fld F.MXA_STATUS_STATE a ≠ 5) :
    s.testDue a =
      if s.fld F.MXA_STATUS_STATE a = 0 then (if s.dueTests.contains a then s else { s with dueTests := s.dueTests ++ [a] })
      else s.setArrayBit F.CL_SELFTEST_CTRL_START a true := by
  unfold Dev.testDue
  split
  case h_1 hfault => exact absurd hfault hst
  case h_2 hoff => exact (if_pos hoff).symm
  case h_3 hon => exact (if_neg hon).symm

/-- A requested test of an array with no running tile begins from IDLE or FAULT, and powers up an array that is OFF (R149). -/
theorem Dev.testBegin_of_waiting {s : Dev} {a : Nat} (hwaits : s.testWaits a = true)
    (hfree : (match SMap.find s.arrays (s.logical a) with | some r => r.run | none => false) = false)
    (hst : (s.fld F.MXA_STATUS_STATE a == 0 || s.fld F.MXA_STATUS_STATE a == 1 || s.fld F.MXA_STATUS_STATE a == 5) = true) :
    s.testBegin a = if s.fld F.MXA_STATUS_STATE a = 0 then s.powerUp (s.logical a) else s.enterTest a := by
  have hacts : ¬ (!s.testWaits a || (match SMap.find s.arrays (s.logical a) with | some r => r.run | none => false)) = true := by
    simp [hwaits, hfree]
  rw [Dev.testBegin]
  refine (if_neg hacts).trans ?_
  simp only [Bool.or_eq_true, beq_iff_eq] at hst
  obtain (hoff | hidle) | hfault := hst
  · simp only [hoff, if_true]
  · simp only [hidle, one_ne_zero, if_false]
  · simp only [hfault, OfNat.ofNat_ne_zero, if_false]

/-- A test of an array in TEST passes: the array is IDLE (R148, R149). -/
theorem Dev.testEnd_passes {s : Dev} {a : Nat} (htest : s.fld F.MXA_STATUS_STATE a = 4) :
    s.testEnd a true = (
      let t := s.setArrayBit F.CL_SELFTEST_STATUS_BUSY a false
      let t := { t with lastTests := SMap.set t.lastTests a t.time }
      ((t.setArrayBit F.CL_SELFTEST_STATUS_LAST_PASS a true).setArrayBit F.CL_SELFTEST_STATUS_FAULTED a false).setFld F.MXA_STATUS_STATE a 1) := by
  rw [Dev.testEnd, if_neg (not_not_intro htest)]
  rfl

/-- A test of an array in TEST fails: the array is in FAULT, reported, and its gang dissolves (R148, R150). -/
theorem Dev.testEnd_fails {s : Dev} {a : Nat} (htest : s.fld F.MXA_STATUS_STATE a = 4) :
    s.testEnd a false = (
      let t := s.setArrayBit F.CL_SELFTEST_STATUS_BUSY a false
      let t := { t with lastTests := SMap.set t.lastTests a t.time }
      let t := (t.setArrayBit F.CL_SELFTEST_STATUS_LAST_PASS a false).setArrayBit F.CL_SELFTEST_STATUS_FAULTED a true
      let t := ((t.setFld F.MXA_STATUS_STATE a 5).setFlag F.MXA_EVENT_SELFTEST_FAIL a true).count F.SAFE_STATUS_FAILED 0 1
      (t.report ⟨6, a / 64, t.partOfRegion (a / 16), 5, 4, none, 0, a⟩).dissolve a) := by
  rw [Dev.testEnd, if_neg (not_not_intro htest)]
  rfl

/-- An idle logical array of a die with an idle limit goes off (R505). -/
theorem Dev.powerGate_of_idle {s : Dev} {a : Nat} (hlimit : s.fld F.PWR_IDLE_ARRAY_IDLE (a / 64) ≠ 0) (hnone : SMap.find s.arrays a = none)
    (hidle : (s.members a).all (fun m => s.fld F.MXA_STATUS_STATE m == 1) = true) :
    s.powerGate a = (s.members a).foldl (fun t m => t.setFld F.MXA_STATUS_STATE m 0) s := by
  simp [Dev.powerGate, hlimit, hnone, hidle]

/-- A powering array in its turn is IDLE, and starts the tests that wait for it, else its tile (R505, R541). -/
theorem Dev.powerUpDone_of_first {s : Dev} {a : Nat} (hpowers : s.powering.contains a = true) (hfirst : s.powerFirst a = true) :
    s.powerUpDone a = (
      let t := { s with powering := s.powering.filter (· != a) }
      let t := (t.members a).foldl (fun t m => if t.fld F.MXA_STATUS_STATE m = 0 then t.setFld F.MXA_STATUS_STATE m 1 else t) t
      let due := (t.members a).filter (fun m => t.dueTests.contains m || t.testWaits m)
      if due.isEmpty then t.tileStart a else due.foldl Dev.enterTest t) := by
  have hacts : ¬ (!s.powering.contains a || !s.powerFirst a) = true := by
    rw [hpowers, hfirst]
    decide
  rw [Dev.powerUpDone, if_neg hacts]

/-- Settles O20, a case for each command and for each result of a test: the array is in the state that the command acts on. -/
theorem arrayTestsAndPowerTakeEffect : Obligations.ArrayTestsAndPowerTakeEffect := by
  refine ⟨?request, ?due, ?begins, ?passes, ?fails, ?gate, ?powered⟩
  case request =>
    intro s who c w v hclk haccepts
    rw [exec_mxaSelftestRequest, execMxaSelftestRequest, State.after_clocked hclk, Dev.asWriter_takes haccepts]
  case due =>
    intro s a hclk hst
    rw [exec_selftestDue, execSelftestDue, State.after_clocked hclk, Dev.testDue_of_not_fault hst]
  case begins =>
    intro s a hclk hwaits hfree hst
    rw [exec_mxaSelftestBegin, execMxaSelftestBegin, State.after_clocked hclk, Dev.testBegin_of_waiting hwaits hfree hst]
  case passes =>
    intro s a hclk htest
    rw [exec_mxaSelftestEnd, execMxaSelftestEnd, State.after_clocked hclk, Dev.testEnd_passes htest]
  case fails =>
    intro s a hclk htest
    rw [exec_mxaSelftestEnd, execMxaSelftestEnd, State.after_clocked hclk, Dev.testEnd_fails htest]
  case gate =>
    intro s a hclk hlimit hnone hidle
    rw [exec_mxaPowerGate, execMxaPowerGate, State.after_clocked hclk, Dev.powerGate_of_idle hlimit hnone hidle]
  case powered =>
    intro s a hclk hpowers hfirst
    rw [exec_mxaPowerUpDone, execMxaPowerUpDone, State.after_clocked hclk]
    exact congrArg (fun d => Host.Outcome.next (s.withDev d)) (Dev.powerUpDone_of_first hpowers hfirst)

end Sys2Proof.Machine
end

section
/-! SUPPORT. Tiles taken and stolen, the staging split, pad reads, and failures of tiles (R148, R152, R210, R250, R286–R288, R539): what each
of their operations does where its conditions hold. -/

namespace Sys2Proof.Machine

open Sys2Proof

/-- An idle engine takes the first tile of its deque that it can run (R286). -/
theorem Dev.tileTake_takes {s : Dev} {e : Nat} {unstaged : List Tile} {t : Tile} {rest : List Tile} (he : e < 896)
    (hidle : s.engineIdle e = true) (htake : takeFirst (s.canRun e unstaged) (s.deque (clusterOfEngine e)) = some (t, rest)) :
    s.tileTake e unstaged = (s.setDeque (clusterOfEngine e) rest).assign e t := by
  simp [Dev.tileTake, he.not_ge, hidle, htake]

/-- An idle engine that may steal, with no tile of its own to run, takes the last one that it can run of its victim's deque (R287). -/
theorem Dev.steal_takes {s : Dev} {e v : Nat} {unstaged : List Tile} {t : Tile} {rest : List Tile} (he : e < 896)
    (hidle : s.engineIdle e = true) (hnone : (s.deque (clusterOfEngine e)).any (s.canRun e unstaged) = false)
    (hmay : s.flag F.CL_STEAL_CFG_STEAL (clusterOfEngine e) = true) (hvictim : s.stealFrom e unstaged = some v)
    (htake : takeFirst (s.canRun e unstaged) (s.deque v).reverse = some (t, rest)) :
    s.steal e unstaged = (((s.setDeque v rest.reverse).count F.CL_STEALS_OUT v 1).count F.CL_STEALS_IN (clusterOfEngine e) 1).assign e t := by
  have hacts : ¬ (decide (e ≥ 896) || !s.engineIdle e || (s.deque (clusterOfEngine e)).any (s.canRun e unstaged)
      || !s.flag F.CL_STEAL_CFG_STEAL (clusterOfEngine e)) = true := by
    simp only [he.not_ge, hidle, hnone, hmay, decide_false, Bool.not_true, Bool.or_self, Bool.false_eq_true, not_false_eq_true]
  rw [Dev.steal, if_neg hacts]
  simp only [hvictim, htake]

/-- An idle table engine takes the oldest tile that it can run of the first table queue of its partition with one, its own first (R288). -/
theorem Dev.tableTake_takes {s : Dev} {e p x : Nat} {t : Tile} {rest : List Tile} (hidle : s.engineIdle e = true)
    (hpart : s.partOfRegion (regionOfEngine e) = some p)
    (hfirst : (regionOfEngine e :: (s.regionsOf p).filter (· != regionOfEngine e)).find? (fun x => (s.tableQ x).any (s.canRun e [])) = some x)
    (htake : takeFirst (s.canRun e []) (s.tableQ x) = some (t, rest)) :
    s.tableTake e = (s.setTableQ x rest).assign e t := by
  have hacts : ¬ (!s.engineIdle e) = true := by simp [hidle]
  rw [Dev.tableTake, if_neg hacts]
  simp only [hpart, hfirst, htake]

/-- With no tile in flight, a split that rises over a pad that is not in use is set alone (R210). -/
theorem Dev.splitEffect_rises {s : Dev} {c : Nat} (hnone : s.tileInFlight c = false)
    (hrise : s.fld F.MVE_STAGE_ACTIVE_BASE c < s.stageSplit c) (hpad : s.padUsed.contains c = false) :
    s.splitEffect c = s.setFld F.MVE_STAGE_ACTIVE_BASE c (s.stageSplit c) := by
  have hacts : ¬ (s.tileInFlight c || decide (s.fld F.MVE_STAGE_ACTIVE_BASE c = s.stageSplit c)) = true := by simp [hnone, hrise.ne]
  rw [Dev.splitEffect, if_neg hacts, if_neg hrise.not_gt]
  exact if_neg (Bool.eq_false_iff.1 hpad)

/-- A pad read within the pad answers its line; one that cannot be read ends the tile of the array it was read for (R148, R152). -/
theorem Dev.padReadCmd_of_lt {s : Dev} {c off : Nat} (hoff : off < s.padSize c) (arr : Option (Fin 4)) :
    s.padReadCmd c off arr = (
      let r := s.padRead c off fullMask
      let t := r.2.2.emit (.resp (.mve c) off r.1 (some r.2.1))
      match arr with
      | none => t
      | some i => match SMap.find t.arrays (t.logical (4 * c + i)) with
        | some x => if r.1 == .dataErr && x.run then t.tileEnds (t.logical (4 * c + i)) (t.logical (4 * c + i)) x.tile .dataErr 0 else t
        | none => t) := by
  rw [Dev.padReadCmd]
  exact if_neg hoff.not_ge

/-- An answer other than OK to a request of a tile is judged by the tile's operation: it ends the tile, unless the operation has a status of
its own for its pages and containers (R241, R250). -/
theorem Dev.responseError_of_tile {s : Dev} {e : Nat} {code : Resp} {t : Tile} {d : Desc}
    (htile : (if e < 512 then (SMap.find s.arrays (s.logical e)).map (·.tile) else SMap.find s.engs e) = some t)
    (hd : s.desc t.q t.pos = some d) (hcompress : d.op ≠ 0x40) (hdecompress : d.op ≠ 0x41) (hpages : d.op ≠ 0x52) (hcode : code ≠ .ok)
    (addr : Nat) : s.responseError e code addr = s.tileError (if e < 512 then s.logical e else e) t code addr := by
  have hacts : ¬ (code == .ok || (d.op == 0x40 || d.op == 0x41 || d.op == 0x52)) = true := by
    simp [hcode, hcompress, hdecompress, hpages]
  simp only [Dev.responseError, htile, hd]
  exact if_neg hacts

theorem Dev.lockstep_of_tile {s : Dev} {g : Nat} {t : Tile} (ht : SMap.find s.engs (896 + g) = some t) :
    s.lockstep g = s.tileError (896 + g) t .dataErr 0 := by
  rw [Dev.lockstep, ht]

/-- Settles O21, a case for each clause: the engine, the split or the pad is in the state that the command acts on. -/
theorem enginesAndPadsTakeEffect : Obligations.EnginesAndPadsTakeEffect := by
  refine ⟨?take, ?steal, ?table, ?write, ?split, ?pad, ?array, ?engine, ?lockstep⟩
  case take =>
    intro s e unstaged t rest hclk hidle htake
    rw [exec_engineTileTake, execEngineTileTake, State.after_clocked hclk, Dev.tileTake_takes e.isLt hidle htake]
  case steal =>
    intro s e unstaged v t rest hclk hidle hnone hmay hvictim htake
    rw [exec_tileSteal, execTileSteal, State.after_clocked hclk, Dev.steal_takes e.isLt hidle hnone hmay hvictim htake]
  case table =>
    intro s u x t rest p hclk hidle hpart hfirst htake
    rw [exec_tableQueueTake, execTableQueueTake, State.after_clocked hclk, Dev.tableTake_takes hidle hpart hfirst htake]
  case write =>
    intro s who c w v hclk haccepts
    rw [exec_mveStageWrite, execMveStageWrite, State.after_clocked hclk, Dev.asWriter_takes haccepts, Dev.writeMveStage]
  case split =>
    intro s c hclk hnone hrise hpad
    rw [exec_stageSplitEffect, execStageSplitEffect, State.after_clocked hclk, Dev.splitEffect_rises hnone hrise hpad]
  case pad =>
    intro s c off arr hclk hoff
    rw [exec_padRead, execPadRead, State.after_clocked hclk]
    exact congrArg (fun d => Host.Outcome.next (s.withDev d)) (Dev.padReadCmd_of_lt hoff arr)
  case array =>
    intro s e code addr r d hclk he hr hd hcompress hdecompress hpages hcode
    have htile : (if e.val < 512 then (SMap.find s.dev.arrays (s.dev.logical e)).map (·.tile) else SMap.find s.dev.engs e) = some r.tile := by
      rw [if_pos he, hr, Option.map_some]
    rw [exec_engineResponseError, execEngineResponseError, State.after_clocked hclk,
      Dev.responseError_of_tile htile hd hcompress hdecompress hpages hcode, if_pos he]
  case engine =>
    intro s e code addr t d hclk he ht hd hcompress hdecompress hpages hcode
    have htile : (if e.val < 512 then (SMap.find s.dev.arrays (s.dev.logical e)).map (·.tile) else SMap.find s.dev.engs e) = some t := by
      rw [if_neg he.not_gt, ht]
    rw [exec_engineResponseError, execEngineResponseError, State.after_clocked hclk,
      Dev.responseError_of_tile htile hd hcompress hdecompress hpages hcode, if_neg he.not_gt]
  case lockstep =>
    intro s g t hclk ht
    rw [exec_tbeLockstepMismatch, execTbeLockstepMismatch, State.after_clocked hclk, Dev.lockstep_of_tile ht]

end Sys2Proof.Machine
end

section
/-! SUPPORT. The codes of the element formats (R154–R156): the exponent of an exact value, the code of a multiple of a format's grid step, and
the fields that a code is made of. -/

namespace Sys2Proof.Machine

open Sys2Proof

theorem pow2_eq_zpow (e : Int) : pow2 e = (2 : ℚ) ^ e := by
  unfold pow2
  split
  case isTrue h =>
    obtain ⟨n, rfl⟩ := Int.eq_ofNat_of_zero_le h
    simp
  case isFalse h =>
    obtain ⟨n, hn⟩ := Int.eq_ofNat_of_zero_le (by omega : 0 ≤ -e)
    obtain rfl : e = -(n : Int) := by omega
    simp

theorem pow2_pos (e : Int) : 0 < pow2 e := by
  rw [pow2_eq_zpow]
  positivity

theorem pow2_sub_natCast (e : Int) (m : Nat) : pow2 (e - m) = pow2 e / ((2 ^ m : Nat) : ℚ) := by
  rw [pow2_eq_zpow, pow2_eq_zpow, zpow_sub₀ two_ne_zero, zpow_natCast]
  norm_cast

/-- The difference of the lengths of numerator and denominator is the exponent of the fraction, or one more. -/
theorem natCast_div_log_bounds {n d : Nat} (hn : n ≠ 0) (hd : d ≠ 0) :
    (n.log2 : Int) - d.log2 - 1 ≤ Int.log 2 (n / d : ℚ) ∧ Int.log 2 (n / d : ℚ) ≤ (n.log2 : Int) - d.log2 := by
  have hnpos : (0 : ℚ) < n := by exact_mod_cast Nat.pos_of_ne_zero hn
  have hdpos : (0 : ℚ) < d := by exact_mod_cast Nat.pos_of_ne_zero hd
  have hnlow : (2 : ℚ) ^ n.log2 ≤ n := by exact_mod_cast Nat.log2_self_le hn
  have hnhigh : (n : ℚ) < 2 ^ (n.log2 + 1) := by exact_mod_cast Nat.lt_log2_self
  have hdlow : (2 : ℚ) ^ d.log2 ≤ d := by exact_mod_cast Nat.log2_self_le hd
  have hdhigh : (d : ℚ) < 2 ^ (d.log2 + 1) := by exact_mod_cast Nat.lt_log2_self
  have hq : (0 : ℚ) < n / d := div_pos hnpos hdpos
  constructor
  · rw [← Int.zpow_le_iff_le_log one_lt_two hq, le_div_iff₀ hdpos]
    calc ((2 : Nat) : ℚ) ^ ((n.log2 : Int) - d.log2 - 1) * d
        ≤ (2 : ℚ) ^ ((n.log2 : Int) - d.log2 - 1) * 2 ^ (d.log2 + 1) := by
          push_cast
          gcongr
      _ = 2 ^ n.log2 := by
          rw [← zpow_natCast, ← zpow_natCast, ← zpow_add₀ two_ne_zero]
          congr 1
          push_cast
          ring
      _ ≤ n := hnlow
  · rw [← Int.lt_add_one_iff, ← Int.lt_zpow_iff_log_lt one_lt_two hq, div_lt_iff₀ hdpos]
    calc (n : ℚ) < 2 ^ (n.log2 + 1) := hnhigh
      _ = (2 : ℚ) ^ ((n.log2 : Int) - d.log2 + 1) * 2 ^ d.log2 := by
          rw [← zpow_natCast, ← zpow_natCast, ← zpow_add₀ two_ne_zero]
          congr 1
          push_cast
          ring
      _ ≤ ((2 : Nat) : ℚ) ^ ((n.log2 : Int) - d.log2 + 1) * d := by
          push_cast
          gcongr

theorem flog2_eq_log {q : ℚ} (hq : 0 < q) : flog2 q = Int.log 2 q := by
  have hnum : q.num.natAbs ≠ 0 := Int.natAbs_ne_zero.mpr (Rat.num_pos.mpr hq).ne'
  have hfrac : ((q.num.natAbs : ℚ) / q.den) = q := by
    rw [Nat.cast_natAbs, abs_of_pos (Rat.num_pos.mpr hq), Rat.num_div_den]
  have hbounds := natCast_div_log_bounds hnum q.den_nz
  rw [hfrac] at hbounds
  have htest := Int.lt_zpow_iff_log_lt (R := ℚ) one_lt_two (x := (q.num.natAbs.log2 : Int) - q.den.log2) hq
  simp only [flog2, pow2_eq_zpow]
  split
  case isTrue h =>
    have := htest.mp h
    omega
  case isFalse h =>
    have := mt htest.mpr h
    omega

/-- The value k × 2^(E − m) has the exponent E of its grid where k has m + 1 bits, or where E is the least exponent and k has no more. -/
theorem max_flog2_of_grid {m k : Nat} {E emin : Int} (hpos : 0 < k) (hk : k < 2 ^ (m + 1)) (hmin : emin ≤ E) (hnorm : 2 ^ m ≤ k ∨ E = emin) :
    max (flog2 (k * pow2 (E - m))) emin = E := by
  have hgrid : (0 : ℚ) < k * pow2 (E - m) := mul_pos (by exact_mod_cast hpos) (pow2_pos _)
  have hstep : ∀ n : Nat, (2 : ℚ) ^ n * pow2 (E - m) = ((2 : Nat) : ℚ) ^ (n + (E - m)) := fun n => by
    rw [pow2_eq_zpow, ← zpow_natCast, Nat.cast_ofNat, zpow_add₀ two_ne_zero]
  have hlt : Int.log 2 (k * pow2 (E - m)) < E + 1 := by
    have hE : E + 1 = ((m + 1 : Nat) : Int) + (E - m) := by omega
    rw [← Int.lt_zpow_iff_log_lt one_lt_two hgrid, hE, ← hstep]
    exact mul_lt_mul_of_pos_right (by exact_mod_cast hk) (pow2_pos _)
  rw [flog2_eq_log hgrid]
  rcases hnorm with hlow | rfl
  case inl =>
    have hge : E ≤ Int.log 2 (k * pow2 (E - m)) := by
      have hE : E = (m : Int) + (E - m) := by omega
      rw [← Int.zpow_le_iff_le_log one_lt_two hgrid]
      conv_lhs => rw [hE, ← hstep]
      exact mul_le_mul_of_nonneg_right (by exact_mod_cast hlow) (pow2_pos _).le
    omega
  case inr => omega

theorem bitsOf_lt (v lo width : Nat) : bitsOf v lo width < 2 ^ width := Nat.mod_lt _ (by positivity)

/-- A code of 1 + w + m bits is its sign bit, its exponent field and its mantissa field, each at its place. -/
theorem sign_add_fields {c m w : Nat} (hc : c < 2 ^ (m + w + 1)) :
    (if bitOf c (m + w) then 2 ^ (m + w) else 0) + (bitsOf c m w * 2 ^ m + bitsOf c 0 m) = c := by
  have hfields : bitsOf c m w * 2 ^ m + bitsOf c 0 m = c % 2 ^ (m + w) := by
    rw [bitsOf, bitsOf, Nat.shiftRight_zero, Nat.shiftRight_eq_div_pow, Nat.pow_add, Nat.mod_mul, Nat.mul_comm, Nat.add_comm]
  have htop : c / 2 ^ (m + w) < 2 := Nat.div_lt_of_lt_mul (by rwa [← Nat.pow_succ])
  have hsplit := Nat.div_add_mod c (2 ^ (m + w))
  have hbit : bitOf c (m + w) = (c / 2 ^ (m + w) == 1) := by
    rw [bitOf, bitsOf, Nat.shiftRight_eq_div_pow, pow_one, Nat.mod_eq_of_lt htop]
  rw [hfields, hbit]
  obtain h | h := Nat.le_one_iff_eq_zero_or_eq_one.mp (Nat.le_of_lt_succ htop)
  · simpa [h] using hsplit
  · simpa [h] using hsplit

/-- The value k × 2^e with the given sign. -/
def Num.scaled (neg : Bool) (k : Nat) (e : Int) : Num := .fin (if neg then -(k * pow2 e) else k * pow2 e)

/-- The sign bit at its place in a code of the format (R154). -/
def Fmt.signBit (f : Fmt) (neg : Bool) : Nat := if neg then 2 ^ (f.bits - 1) else 0

theorem Num.rat_ofRat (q : ℚ) (neg : Bool) : (Num.ofRat q neg).rat = q := by
  unfold Num.ofRat
  split
  case isTrue h => exact h.symm
  case isFalse => rfl

theorem signed_emod {w c : Nat} (hc : c < 2 ^ w) : signed w c % ((2 ^ w : Nat) : Int) = c := by
  have hmod : (c : Int) % ((2 ^ w : Nat) : Int) = c := Int.emod_eq_of_lt (by omega) (by exact_mod_cast hc)
  unfold signed
  split
  case isTrue => rw [Int.sub_emod_right, hmod]
  case isFalse => exact hmod

theorem Fmt.codeOf_signed {f : Fmt} {c : Nat} (hint : f.isInt = true) (hc : c < 2 ^ f.bits) :
    f.codeOf (.ofRat (signed f.bits c : ℚ) false) = c := by
  simp only [codeOf, hint, if_true, Num.rat_ofRat, Rat.floor_intCast, signed_emod hc, Int.toNat_natCast]

theorem Fmt.decodeFloat_zero {f : Fmt} {c : Nat} (he : bitsOf c f.mant f.expBits = 0) (hfr : bitsOf c 0 f.mant = 0) :
    f.decodeFloat c = .zero (bitOf c (f.bits - 1)) := by
  simp [decodeFloat, he, hfr]

theorem Fmt.decodeFloat_subnormal {f : Fmt} {c : Nat} (he : bitsOf c f.mant f.expBits = 0) (hfr : bitsOf c 0 f.mant ≠ 0) :
    f.decodeFloat c = .scaled (bitOf c (f.bits - 1)) (bitsOf c 0 f.mant) (1 - f.bias - f.mant) := by
  have hmag : pow2 (1 - f.bias) * (bitsOf c 0 f.mant : ℚ) / ((2 ^ f.mant : Nat) : ℚ) = bitsOf c 0 f.mant * pow2 (1 - f.bias - f.mant) := by
    rw [pow2_sub_natCast]
    ring
  have hne : (bitsOf c 0 f.mant : ℚ) * pow2 (1 - f.bias - f.mant) ≠ 0 := mul_ne_zero (Nat.cast_ne_zero.mpr hfr) (pow2_pos _).ne'
  simp only [decodeFloat, he, if_true, hmag, if_neg hne, Num.scaled]

theorem Fmt.decodeFloat_normal {f : Fmt} {c : Nat} (he : bitsOf c f.mant f.expBits ≠ 0) :
    f.decodeFloat c =
      .scaled (bitOf c (f.bits - 1)) (2 ^ f.mant + bitsOf c 0 f.mant) (bitsOf c f.mant f.expBits - f.bias - f.mant) := by
  have hmag : pow2 (bitsOf c f.mant f.expBits - f.bias) * (1 + (bitsOf c 0 f.mant : ℚ) / ((2 ^ f.mant : Nat) : ℚ)) =
      ((2 ^ f.mant + bitsOf c 0 f.mant : Nat) : ℚ) * pow2 (bitsOf c f.mant f.expBits - f.bias - f.mant) := by
    rw [pow2_sub_natCast]
    push_cast
    field_simp
  have hne : ((2 ^ f.mant + bitsOf c 0 f.mant : Nat) : ℚ) * pow2 (bitsOf c f.mant f.expBits - f.bias - f.mant) ≠ 0 :=
    mul_ne_zero (by positivity) (pow2_pos _).ne'
  simp only [decodeFloat, if_neg he, hmag, if_neg hne, Num.scaled]

section Floats

variable {f : Fmt} (hfloat : f.isInt = false) (hpart : f ≠ .pair16)
include hfloat hpart

theorem Fmt.bits_eq : f.bits = f.mant + f.expBits + 1 := by
  revert hfloat hpart
  cases f <;> decide

omit hpart in
theorem Fmt.codeOf_inf (s : Bool) : f.codeOf (.inf s) = f.infCode s := by
  simp [codeOf, hfloat]

theorem Fmt.codeOf_zero (s : Bool) : f.codeOf (.zero s) = f.signBit s := by
  simp [codeOf, hfloat, hpart, Num.neg?, signBit]

/-- The code of k × 2^(E − m) with its sign, where k is at most one bit longer than the mantissa field (R155). -/
theorem Fmt.codeOf_grid {k : Nat} {E : Int} (s : Bool) (hpos : 0 < k) (hk : k < 2 ^ (f.mant + 1)) (hmin : 1 - f.bias ≤ E)
    (hnorm : 2 ^ f.mant ≤ k ∨ E = 1 - f.bias) :
    f.codeOf (.scaled s k (E - f.mant)) = f.signBit s + (if k < 2 ^ f.mant then k else (E + f.bias).toNat * 2 ^ f.mant + (k - 2 ^ f.mant)) := by
  have hstep : pow2 (E - f.mant) ≠ 0 := (pow2_pos _).ne'
  have hgrid : (0 : ℚ) < k * pow2 (E - f.mant) := mul_pos (by exact_mod_cast hpos) (pow2_pos _)
  have hfloor : ((k : ℚ) * pow2 (E - f.mant) / pow2 (E - f.mant)).floor.toNat = k := by
    rw [mul_div_cancel_right₀ _ hstep, ← Int.cast_natCast, Rat.floor_intCast, Int.toNat_natCast]
  cases s
  case false =>
    simp [codeOf, Num.scaled, signBit, hfloat, Num.neg?, hgrid.not_gt, max_flog2_of_grid hpos hk hmin hnorm, hfloor]
  case true =>
    simp [codeOf, Num.scaled, signBit, hfloat, hpart, Num.neg?, hgrid, max_flog2_of_grid hpos hk hmin hnorm, hfloor]

theorem Fmt.sign_add_fields {c : Nat} (hc : c < 2 ^ f.bits) :
    f.signBit (bitOf c (f.bits - 1)) + (bitsOf c f.mant f.expBits * 2 ^ f.mant + bitsOf c 0 f.mant) = c := by
  rw [bits_eq hfloat hpart] at hc
  rw [signBit, bits_eq hfloat hpart]
  exact Machine.sign_add_fields hc

/-- A zero, a subnormal and a normal code each lie on the grid of their exponent field (R155). -/
theorem Fmt.codeOf_decodeFloat {c : Nat} (hc : c < 2 ^ f.bits) : f.codeOf (f.decodeFloat c) = c := by
  have hfields := sign_add_fields hfloat hpart hc
  have hfr := bitsOf_lt c 0 f.mant
  have hwide : 2 ^ (f.mant + 1) = 2 ^ f.mant + 2 ^ f.mant := by ring
  by_cases he : bitsOf c f.mant f.expBits = 0
  case pos =>
    rw [he, Nat.zero_mul, Nat.zero_add] at hfields
    by_cases hzero : bitsOf c 0 f.mant = 0
    case pos =>
      rw [decodeFloat_zero he hzero, codeOf_zero hfloat hpart]
      rwa [hzero] at hfields
    case neg =>
      rw [decodeFloat_subnormal he hzero, codeOf_grid hfloat hpart _ (Nat.pos_of_ne_zero hzero) (by omega) le_rfl (.inr rfl), if_pos hfr]
      exact hfields
  case neg =>
    have hexp : (((bitsOf c f.mant f.expBits : Nat) : Int) - f.bias + f.bias).toNat = bitsOf c f.mant f.expBits := by omega
    rw [decodeFloat_normal he, codeOf_grid hfloat hpart _ (by positivity) (by omega) (by omega) (.inl (Nat.le_add_right _ _)),
      if_neg (Nat.le_add_right _ _).not_gt, hexp, Nat.add_sub_cancel_left]
    exact hfields

/-- A floating-point code is a NaN, an infinity, or what its fields say (R156); an infinity is known by its sign and exponent field, with no mantissa. -/
theorem Fmt.decode_float_cases (c : Nat) : f.decode c = .nan ∨ f.decode c = f.decodeFloat c ∨
    (f.decode c = .inf (bitOf c (f.bits - 1)) ∧ bitsOf c 0 f.mant = 0 ∧
      ∀ s, f.infCode s = f.signBit s + bitsOf c f.mant f.expBits * 2 ^ f.mant) := by
  cases f
  case e3m2 | e2m3 | e2m1 => exact .inr (.inl rfl)
  case e4m3 =>
    simp only [decode, decode16]
    split
    · exact .inl rfl
    · exact .inr (.inl rfl)
  case bf16 | fp16 | e5m2 =>
    simp only [decode, decode16]
    split
    case isTrue he =>
      split
      case isTrue hfr => exact .inr (.inr ⟨rfl, hfr, fun s => by cases s <;> rw [he] <;> rfl⟩)
      case isFalse => exact .inl rfl
    case isFalse => exact .inr (.inl rfl)
  case int8 | int4 | int2 => exact absurd hfloat (by decide)
  case pair16 => exact absurd rfl hpart

theorem Fmt.codeOf_decode_float {c : Nat} (hc : c < 2 ^ f.bits) (hnan : f.decode c ≠ .nan) : f.codeOf (f.decode c) = c := by
  obtain h | h | ⟨h, hfr, hinf⟩ := decode_float_cases hfloat hpart c
  case inl => exact absurd h hnan
  case inr.inl => rw [h, codeOf_decodeFloat hfloat hpart hc]
  case inr.inr =>
    have hfields := sign_add_fields hfloat hpart hc
    rw [hfr] at hfields
    rw [h, codeOf_inf hfloat, hinf]
    exact hfields

end Floats

theorem Fmt.decode_int {f : Fmt} (hint : f.isInt = true) (c : Nat) : f.decode c = .ofRat (signed f.bits c : ℚ) false := by
  cases f
  case int8 | int4 | int2 => rfl
  all_goals contradiction

/-- Settles O60: the integer codes modulo 2^w, the floating-point codes by their fields. -/
theorem formatCodesRoundTrip : Obligations.FormatCodesRoundTrip := by
  intro f c hpart hc hnan
  cases hint : f.isInt
  case true => rw [Fmt.decode_int hint, Fmt.codeOf_signed hint hc]
  case false => exact Fmt.codeOf_decode_float hint hpart hc hnan

end Sys2Proof.Machine
end

section
/-! SUPPORT. Tiles run whole on the VXE, SPE, TBE, CDE and MVE (R209, R213, R214, R225, R234, R239, R241, R244, R250): what the run of an
engine's tile of the operation comes to, by the end that its work has. -/

namespace Sys2Proof.Machine

open Sys2Proof

/-- An engine's tile of the operation is run whole: its work decides whether it ends with its results, waits, or ends on an answer (R250). -/
theorem Dev.runTile_of_tile {s : Dev} {e op : Nat} {t : Tile} {d : Desc} {ds : List Desc} (ht : SMap.find s.engs e = some t)
    (hunit : s.unit t = d :: ds) (hop : d.op = op) (work : EngId → List Desc → Tile → Eng TileOut) :
    s.runTile e op work = (
      let id := s.engId e t.q
      let r := runEng s id (work id (d :: ds) t)
      match r.1 with
      | .ok o => (r.2.endTile e t o).ringDoorbells
      | .error (.wait paged) => r.2.setFld F.ENG_STATUS_STATE (e - 512) (if paged then 3 else 2)
      | .error (.err code a) => (r.2.tileError e t code a).ringDoorbells) := by
  simp only [Dev.runTile, ht, hunit]
  exact if_neg (not_not_intro hop)

/-- A table tile of the operation is run whole: one that ends leaves its table in progress with its descriptor, and the last one sets the
number of tiles (R234, R250). -/
theorem Dev.runTb_of_tile {s : Dev} {g op : Nat} {t : Tile} {d : Desc} {ds : List Desc} (ht : SMap.find s.engs (896 + g) = some t)
    (hunit : s.unit t = d :: ds) (hop : d.op = op) :
    s.runTb g op = (
      let id := s.engId (896 + g) t.q
      let r := runEng s id (tbTile id d t.ix (hmacSha256 (s.rtagKey id.part)))
      match r.1 with
      | .ok o =>
        let u := r.2.modDesc t.q t.pos (fun d => { d with pairs := o.pairs, buckets := o.buckets, rowsRead := o.rows,
                                                          tiles := if o.last then t.ix + 1 else d.tiles })
        (u.endTile (896 + g) t o.out).ringDoorbells
      | .error (.wait paged) => r.2.setFld F.ENG_STATUS_STATE (896 + g - 512) (if paged then 3 else 2)
      | .error (.err code a) => (r.2.tileError (896 + g) t code a).ringDoorbells) := by
  simp only [Dev.runTb, ht, hunit]
  exact if_neg (not_not_intro hop)

/-- The VX commands run a cluster's VXE tile, each of its own operation. -/
theorem exec_vx {s : State} {c : ClusterIx} {i : Instr} {op : Nat}
    (h : (i, op) ∈ [(Instr.vxEw c, 0x10), (.vxAct c, 0x11), (.vxReduce c, 0x12), (.vxSoftmax c, 0x13), (.vxNorm c, 0x14), (.vxOptim c, 0x15)]) :
    exec i s = s.after (s.dev.runVx c op) := by
  simp only [List.mem_cons, Prod.mk.injEq, List.not_mem_nil, or_false] at h
  obtain ⟨rfl, rfl⟩ | ⟨rfl, rfl⟩ | ⟨rfl, rfl⟩ | ⟨rfl, rfl⟩ | ⟨rfl, rfl⟩ | ⟨rfl, rfl⟩ := h <;> rfl

/-- The SP commands run a cluster's SPE tile, each of its own operation. -/
theorem exec_sp {s : State} {c : ClusterIx} {i : Instr} {op : Nat}
    (h : (i, op) ∈ [(Instr.spGather c, 0x20), (.spScatter c, 0x21), (.spEmbed c, 0x22), (.spSpmv c, 0x23)]) :
    exec i s = s.after (s.dev.runSp c op) := by
  simp only [List.mem_cons, Prod.mk.injEq, List.not_mem_nil, or_false] at h
  obtain ⟨rfl, rfl⟩ | ⟨rfl, rfl⟩ | ⟨rfl, rfl⟩ | ⟨rfl, rfl⟩ := h <;> rfl

/-- The TB commands run a region's TBE tile, each of its own operation. -/
theorem exec_tb {s : State} {g : RegionIx} {i : Instr} {op : Nat} (h : (i, op) ∈ [(Instr.tbPartition g, 0x30), (.tbAggregate g, 0x31)]) :
    exec i s = s.after (s.dev.runTb g op) := by
  simp only [List.mem_cons, Prod.mk.injEq, List.not_mem_nil, or_false] at h
  obtain ⟨rfl, rfl⟩ | ⟨rfl, rfl⟩ := h <;> rfl

/-- The CD commands run a region's CDE tile, each of its own operation. -/
theorem exec_cd {s : State} {g : RegionIx} {i : Instr} {op : Nat} (h : (i, op) ∈ [(Instr.cdCompress g, 0x40), (.cdDecompress g, 0x41)]) :
    exec i s = s.after (s.dev.runCd g op) := by
  simp only [List.mem_cons, Prod.mk.injEq, List.not_mem_nil, or_false] at h
  obtain ⟨rfl, rfl⟩ | ⟨rfl, rfl⟩ := h <;> rfl

/-- The MV commands run a cluster's MVE tile, each of its own operation. -/
theorem exec_mv {s : State} {c : ClusterIx} {i : Instr} {op : Nat}
    (h : (i, op) ∈ [(Instr.mvCopy c, 0x50), (.mvFill c, 0x51), (.mvPages c, 0x52)]) :
    exec i s = s.after (s.dev.runMv c op) := by
  simp only [List.mem_cons, Prod.mk.injEq, List.not_mem_nil, or_false] at h
  obtain ⟨rfl, rfl⟩ | ⟨rfl, rfl⟩ | ⟨rfl, rfl⟩ := h <;> rfl

/-- Settles O16: each VX command runs the tile of its operation, whose work decides its end; a VXE has its cluster's index. -/
theorem vectorTilesRun : Obligations.VectorTilesRun := by
  intro s c i op t d ds hclk hi ht hunit hop
  have hrun := Dev.runTile_of_tile ht hunit hop (fun id ds t => vxTile id ds t.ix)
  rw [Nat.add_sub_cancel_left] at hrun
  rw [exec_vx hi, State.after_clocked hclk]
  exact congrArg (fun u => Host.Outcome.next (s.withDev u)) hrun

/-- Settles O17: each SP command runs the tile of its operation, whose work decides its end. -/
theorem sparseTilesRun : Obligations.SparseTilesRun := by
  intro s c i op t d ds hclk hi ht hunit hop
  rw [exec_sp hi, State.after_clocked hclk]
  exact congrArg (fun u => Host.Outcome.next (s.withDev u)) (Dev.runTile_of_tile ht hunit hop _)

/-- Settles O18, a case for each kind of engine: the work of a codec's or a mover's tile decides its end, and a table engine keeps the table
in progress besides. -/
theorem tableCodecAndMoveTilesRun : Obligations.TableCodecAndMoveTilesRun := by
  refine ⟨?codec, ?move, ?table⟩
  case codec =>
    intro s g i op t d ds hclk hi ht hunit hop
    rw [exec_cd hi, State.after_clocked hclk]
    exact congrArg (fun u => Host.Outcome.next (s.withDev u)) (Dev.runTile_of_tile ht hunit hop _)
  case move =>
    intro s c i op t d ds hclk hi ht hunit hop
    rw [exec_mv hi, State.after_clocked hclk]
    exact congrArg (fun u => Host.Outcome.next (s.withDev u)) (Dev.runTile_of_tile ht hunit hop _)
  case table =>
    intro s g i op t d ds hclk hi ht hunit hop
    rw [exec_tb hi, State.after_clocked hclk]
    exact congrArg (fun u => Host.Outcome.next (s.withDev u)) (Dev.runTb_of_tile ht hunit hop)

end Sys2Proof.Machine
end

section
/-! SUPPORT. Writes of a queue's registers and of tokens (R252, R260, R263, R264, R268, R276, R302): what the work of each write is in the
states that take it. -/

namespace Sys2Proof.Machine

open Sys2Proof

variable {s : Dev} {q : Nat}

/-- A doorbell that an enabled queue takes moves TAIL, and a false start is due to be reread at once (R260, R262). -/
theorem Dev.writeDb_moves {w : Word} (hon : s.queueState q ≠ 0) (hproc : ∀ n, (s.cx (s.ctxOfQueue q)).proc ≠ .disable n)
    (hkey : bitsOf w.toNat 48 16 = s.fld F.Q_CFG_DB_KEY q)
    (hring : sub32 (bitsOf w.toNat 0 32) (s.fld F.Q_POS_HEAD q) ≤ s.ringSlots q)
    (hahead : sub32 (bitsOf w.toNat 0 32) (s.fld F.Q_POS_TAIL q) < 2 ^ 31) :
    s.writeDb q w = (
      let t := s.setFld F.Q_POS_TAIL q (bitsOf w.toNat 0 32)
      let t := match (t.queue q).fstart with
        | some f => if t.queueState q = 2 then t.setQueue q { t.queue q with fstart := some { f with due := t.time, wait := 8 } } else t
        | none => t
      t.settle (t.ctxOfQueue q)) := by
  have hserved : ¬ (decide (s.queueState q = 0) ||
      (match (s.cx (s.ctxOfQueue q)).proc with | .disable _ => true | _ => false)) = true := by
    cases hp : (s.cx (s.ctxOfQueue q)).proc with
    | disable n => exact absurd hp (hproc n)
    | _ => simp [hon]
  exact (if_neg hserved).trans ((if_neg (not_not_intro hkey)).trans ((if_neg hring.not_gt).trans (if_neg hahead.not_ge)))

/-- After a stop by anything but its completion ring, a queue that resumes is ACTIVE with nothing fetched (R263). -/
theorem Dev.resume_of_cause (hcause : s.fld F.Q_STATUS_CAUSE q ≠ 5) :
    s.resume q = (s.setFld F.Q_STATUS_STATE q 1).setQueue q
      { (s.setFld F.Q_STATUS_STATE q 1).queue q with fetched := [], fstart := none, skip := false } :=
  if_neg (by simp [hcause])

/-- RESUME alone of a STOPPED queue resumes it (R263). -/
theorem Dev.writeQCtrl_resumes {w : Word} (hstopped : s.queueState q = 3) (hresume : F.Q_CTRL_RESUME.get w = 1)
    (hskip : F.Q_CTRL_SKIP.get w = 0) : s.writeQCtrl q w = s.resume q := by
  simp [Dev.writeQCtrl, hstopped, hresume, hskip]

/-- SKIP of a queue that a false start has stopped short of TAIL resumes it, and the slot at HEAD is to be passed (R263). -/
theorem Dev.writeQCtrl_skips {w : Word} (hstopped : s.queueState q = 3) (hskip : F.Q_CTRL_SKIP.get w = 1)
    (hcause : s.fld F.Q_STATUS_CAUSE q = 1) (hwork : s.fld F.Q_POS_HEAD q ≠ s.fld F.Q_POS_TAIL q) :
    s.writeQCtrl q w = ((s.resume q).setQueue q { (s.resume q).queue q with skip := true }).skipHead q := by
  simp [Dev.writeQCtrl, hstopped, hskip, hcause, hwork]

/-- ENABLE of a DISABLED queue of a partition in RUN binds its context, if that is the partition's own and free (R252). -/
theorem Dev.writeQCfg_binds {w : Word} {t : Dev} {p : Nat} (hoff : s.flag F.Q_CFG_ENABLE q = false) (hdisabled : s.queueState q = 0)
    (hwant : F.Q_CFG_ENABLE.get w = 1) (ht : s.storeReg ⟨.Q_CFG, q⟩ (F.Q_CFG_ENABLE.put w 0) = t) (hpart : t.partOfQueue q = some p)
    (hruns : t.partRuns p = true) (hown : t.partOfCtx (t.ctxOfQueue q) = some p) (hfree : t.bound (t.ctxOfQueue q) = false) :
    s.writeQCfg q w = t.bind q (t.ctxOfQueue q) := by
  simp [Dev.writeQCfg, hoff, hdisabled, hwant, ht, hpart, hruns, hown, hfree]

/-- ENABLE of an enabled queue written as 0 disables its context, with trigger 1 (R302). -/
theorem Dev.writeQCfg_disables {w : Word} (hon : s.flag F.Q_CFG_ENABLE q = true) (hwant : F.Q_CFG_ENABLE.get w = 0) :
    s.writeQCfg q w = (s.setFlag F.Q_CFG_ENABLE q false).disableCtx (s.ctxOfQueue q) 1 := by
  simp [Dev.writeQCfg, hon, hwant]

/-- A token other than token 0 is set in the one file of the partition that owns the region (R268). -/
theorem Dev.writeToken_sets {g t p : Nat} (hpart : s.partOfRegion g = some p) (ht : t ≠ 0) (w : Word) :
    s.writeToken g t w = s.setToken p t (F.TOKEN_VALUE.get w) := by
  simp [Dev.writeToken, hpart, ht]

/-- Settles O13, a case for each register: the writer's access is taken, and the queue or the partition is in the state that the write acts
on. -/
theorem queueRegisterWritesTakeEffect : Obligations.QueueRegisterWritesTakeEffect := by
  refine ⟨?doorbell, ?resume, ?skip, ?enable, ?disable, ?token, ?cqHead⟩
  case doorbell =>
    intro s who q w v hclk haccepts hon hnot hkey hring hahead
    have hproc : ∀ n, (s.dev.cx (s.dev.ctxOfQueue q)).proc ≠ .disable n := by
      intro n hn
      rw [hn] at hnot
      exact Bool.noConfusion hnot
    rw [exec_doorbell, execDoorbell, State.after_clocked hclk, Dev.asWriter_takes haccepts]
    exact congrArg (fun d => Host.Outcome.next (s.withDev (d.emit (.ctrl who .ok none)))) (Dev.writeDb_moves hon hproc hkey hring hahead)
  case resume =>
    intro s who q hclk haccepts hstopped hcause
    have hresume : F.Q_CTRL_RESUME.get 1 = 1 := by decide
    have hskip : F.Q_CTRL_SKIP.get 1 = 0 := by decide
    rw [exec_queueResume, execQueueResume, State.after_clocked hclk, Dev.asWriter_takes haccepts,
      Dev.writeQCtrl_resumes hstopped hresume hskip, Dev.resume_of_cause hcause]
  case skip =>
    intro s who q resume t x d hclk haccepts hstopped hcause hwork ht hrun
    have hskip : F.Q_CTRL_SKIP.get (if resume then 3 else 2) = 1 := by cases resume <;> decide
    rw [exec_queueSkip, execQueueSkip, State.after_clocked hclk, Dev.asWriter_takes haccepts,
      Dev.writeQCtrl_skips hstopped hskip hcause hwork, ht]
    obtain ⟨rfl, rfl⟩ := Prod.ext_iff.1 hrun
    rfl
  case enable =>
    intro s who q cfg v p hclk haccepts hwant hoff hdisabled hpart hruns hown hfree
    rw [exec_queueEnable, execQueueEnable, State.after_clocked hclk, Dev.asWriter_takes haccepts,
      Dev.writeQCfg_binds hoff hdisabled hwant rfl hpart hruns hown hfree, Dev.bind]
  case disable =>
    intro s who q cfg v hclk haccepts hwant hon
    rw [exec_queueDisable, execQueueDisable, State.after_clocked hclk, Dev.asWriter_takes haccepts, Dev.writeQCfg_disables hon hwant]
  case token =>
    intro s who g t w v p hclk haccepts hpart ht
    rw [exec_tokenWrite, execTokenWrite, State.after_clocked hclk, Dev.asWriter_takes haccepts, Dev.writeToken_sets hpart ht,
      Dev.setToken, Dev.tokenIx]
  case cqHead =>
    intro s who q w v hclk haccepts
    rw [exec_cqHeadWrite, execCqHeadWrite, State.after_clocked hclk, Dev.asWriter_takes haccepts, Dev.writeCqHead]

end Sys2Proof.Machine
end

section
/-! SUPPORT. Fetch, acceptance and false starts (R259, R261, R262, R265, R266): what each operation does where its conditions hold. -/

namespace Sys2Proof.Machine

open Sys2Proof

variable {s : Dev} {q : Nat}

/-- A fetch that may be made reads at the next position: its slots are taken, and a failed access is kept for acceptance (R259, R564). -/
theorem Dev.fetchNext_reads (hskip : (s.queue q).skip = false) (hmay : s.mayFetch q = true) :
    s.fetchNext q = (
      let r := s.fetchRun q (s.fetchPos q) (s.fetchRoom q (s.fetchPos q))
      match r.1 with
      | .ok bs => r.2.fetchTake q (s.fetchPos q) bs
      | .error (.wait _) => r.2
      | .error (.err code a) =>
        r.2.setQueue q { r.2.queue q with fetched := (r.2.queue q).fetched ++ [⟨s.fetchPos q, [], some (code, a)⟩] }) :=
  (if_neg (by simp [hskip])).trans (if_neg (by simp [hmay]))

/-- The chain at the front of those fetched is judged once it is whole and the pacer does not hold it (R265, R266). -/
theorem Dev.acceptNext_judges {l : List (List Byte)} {fs : List Fetched} (hruns : s.queueRuns q = true)
    (hstate : (s.queueState q == 1 || s.queueState q == 2) = true) (hfetch : s.fetchStopped q = false)
    (hsome : (s.queue q).fetched.isEmpty = false)
    (hwhole : chainMembers 5 (((s.queue q).fetched.takeWhile (·.err.isNone)).map (·.bytes)) = some l)
    (hfs : ((s.queue q).fetched.takeWhile (·.err.isNone)).take l.length = fs)
    (hfree : ((s.cx (s.ctxOfQueue q)).pacer.armed && (s.cx (s.ctxOfQueue q)).pacer.slots != 0
      && fs.any (fun f => decide (f.pos < 2 ^ 32 ∧ sub32 f.pos (s.cx (s.ctxOfQueue q)).pacer.pEnd < 2 ^ 31))) = false) :
    s.acceptNext q = (
      let r := s.checkAll q fs
      if r.1.any (fun m => m.2.wait) then r.2
      else
        let ms := (r.1.zip (chainErrors (fs.map (·.bytes)))).map (fun m => (m.1.1, m.1.2, m.1.2.errs ++ s.placeErrors q m.1.1 ++ m.2))
        if ms.any (fun m => !m.2.2.isEmpty) then r.2.acceptBad q (ms.map (fun m => (m.1, m.2.2)))
        else r.2.acceptGood q (ms.map (fun m => (m.1, m.2.1)))) := by
  subst hfs
  have hacts : ¬ (!s.queueRuns q || !(s.queueState q == 1 || s.queueState q == 2) || s.fetchStopped q
      || (s.queue q).fetched.isEmpty) = true := by
    simp only [hruns, hstate, hfetch, hsome, Bool.not_true, Bool.or_self, Bool.false_eq_true, not_false_eq_true]
  rw [Dev.acceptNext, if_neg hacts]
  simp only [hwhole]
  exact if_neg (Bool.eq_false_iff.1 hfree)

/-- The slot of a false start is read again: a GEN that matches returns the queue to ACTIVE, another doubles the wait (R262). -/
theorem Dev.reread_reads {f : FalseStart} (hstart : (s.queue q).fstart = some f) (hstate : s.queueState q = 2)
    (hruns : s.queueRuns q = true) (hfetch : s.fetchStopped q = false) :
    s.reread q = (
      let r := s.fetchRun q f.pos (s.fetchRoom q f.pos)
      let t := (r.2.setFld F.Q_STATUS_STATE q 1).setQueue q { r.2.queue q with fstart := none }
      match r.1 with
      | .ok bs =>
        if fieldAt bs 1 1 = genOfLap (f.pos / s.ringSlots q) then t.fetchTake q f.pos bs
        else r.2.setQueue q { r.2.queue q with
          fstart := some { f with due := s.time + f.wait, wait := min (2 * f.wait) 1024, gen := fieldAt bs 1 1 } }
      | .error (.wait _) => r.2
      | .error (.err code a) => t.setQueue q { t.queue q with fetched := (t.queue q).fetched ++ [⟨f.pos, [], some (code, a)⟩] }) := by
  have hacts : ¬ (decide (s.queueState q ≠ 2) || !s.queueRuns q || s.fetchStopped q) = true := by simp [hstate, hruns, hfetch]
  rw [Dev.reread, hstart]
  exact if_neg hacts

/-- At its limit, with nothing whole left to accept, a false start stops the queue with cause 1 (R262, R264). -/
theorem Dev.falseStop_stops {f : FalseStart} (hstart : (s.queue q).fstart = some f) (hstate : s.queueState q = 2)
    (hruns : s.queueRuns q = true) (hnone : s.noneWhole q = true) :
    s.falseStop q = ((s.setQueue q { s.queue q with fstart := none, fetched := [] }).stopQueue q 1 0).pushRec q
      [.event ⟨1, f.gen, s.fld F.Q_BASE_BASE q * 4096 + 64 * (f.pos % s.ringSlots q)⟩ f.pos 0] := by
  have hacts : ¬ (decide (s.queueState q ≠ 2) || !s.noneWhole q || !s.queueRuns q) = true := by simp [hstate, hruns, hnone]
  rw [Dev.falseStop, hstart]
  exact if_neg hacts

/-- Settles O14, a case for each command: the queue is in the state that the command acts in. -/
theorem fetchAndAcceptanceTakeEffect : Obligations.FetchAndAcceptanceTakeEffect := by
  refine ⟨?fetch, ?accept, ?reread, ?stop⟩
  case fetch =>
    intro s q hclk hskip hmay
    rw [exec_descriptorFetch, execDescriptorFetch, State.after_clocked hclk]
    exact congrArg (fun d => Host.Outcome.next (s.withDev d)) (Dev.fetchNext_reads hskip hmay)
  case accept =>
    intro s q l hclk hruns hstate hfetch hsome hwhole hfree
    rw [exec_descriptorAccept, execDescriptorAccept, State.after_clocked hclk,
      Dev.acceptNext_judges hruns hstate hfetch hsome hwhole rfl hfree]
  case reread =>
    intro s q f hclk hstart hstate hruns hfetch
    rw [exec_falseStartReread, execFalseStartReread, State.after_clocked hclk]
    exact congrArg (fun d => Host.Outcome.next (s.withDev d)) (Dev.reread_reads hstart hstate hruns hfetch)
  case stop =>
    intro s q f hclk hstart hstate hruns hnone
    rw [exec_falseStartStop, execFalseStartStop, State.after_clocked hclk, Dev.falseStop_stops hstart hstate hruns hnone]

end Sys2Proof.Machine
end

section
/-! SUPPORT. The issue of tiles, operations without tiles, hurdles, completions, their records and MSIs (R265, R267–R278, R285): what each
operation does where its conditions hold. -/

namespace Sys2Proof.Machine

open Sys2Proof

variable {s : Dev} {q : Nat}

/-- The members of a unit marked as issued. -/
def Dev.markIssued (s : Dev) (q pos : Nat) : Dev :=
  s.mapDescs q (fun x => if x.head = pos then { x with issued := true, acqDone := true } else x)

section Issue

variable {d : Desc} {ix : Nat} (hruns : s.queueRuns q = true) (hbound : s.bound (s.ctxOfQueue q) = true)
  (hstate : s.ctxState (s.ctxOfQueue q) = 2) (hproc : (s.cx (s.ctxOfQueue q)).proc = .none) (hunit : s.issueUnit q = some d)
  (hnext : s.nextTile q d = some ix) (hacq : (s.queue q).inflight.any (fun x => x.head == d.head && x.acq) = false)

include hruns hbound hstate hproc hunit hnext hacq

/-- The next tile of a unit without ACQ goes to its region's table queue, one tile of a table in progress at a time, or to the shortest
deque with room (R285, R288). -/
theorem Dev.issue_of_unit :
    s.issue q = (
      if (kindOfOp d.op).table then
        if kindOfOp d.op == .tbe && !(s.outTiles q d.pos).isEmpty then s
        else (s.markIssued q d.pos).setTableQ (q / 128) (s.tableQ (q / 128) ++ [⟨q, d.pos, ix⟩])
      else match s.shortest (s.issueClusters q) with
        | none => s
        | some cl => (s.markIssued q d.pos).setDeque cl (s.deque cl ++ [⟨q, d.pos, ix⟩])) := by
  have hacts : ¬ (!s.queueRuns q || !s.bound (s.ctxOfQueue q) || decide (s.ctxState (s.ctxOfQueue q) ≠ 2)
      || (s.cx (s.ctxOfQueue q)).proc != .none) = true := by
    simp [hruns, hbound, hstate, hproc]
  rw [Dev.issue, if_neg hacts]
  simp only [hunit, hnext, hacq, Bool.false_and, Bool.false_eq_true, if_false]
  rfl

theorem Dev.issue_deque {cl : Nat} (hkind : (kindOfOp d.op).table = false) (hshort : s.shortest (s.issueClusters q) = some cl) :
    s.issue q = (s.markIssued q d.pos).setDeque cl (s.deque cl ++ [⟨q, d.pos, ix⟩]) := by
  rw [Dev.issue_of_unit hruns hbound hstate hproc hunit hnext hacq, if_neg (Bool.eq_false_iff.1 hkind), hshort]

theorem Dev.issue_cde (hkind : kindOfOp d.op = .cde) :
    s.issue q = (s.markIssued q d.pos).setTableQ (q / 128) (s.tableQ (q / 128) ++ [⟨q, d.pos, ix⟩]) := by
  rw [Dev.issue_of_unit hruns hbound hstate hproc hunit hnext hacq, hkind]
  exact (if_pos rfl).trans (if_neg Bool.false_ne_true)

end Issue

/-- The first unsettled descriptor of an operation settles OK where no earlier hurdle waits (R257, R265, R269). -/
theorem Dev.settleOp_settles {op : Nat} {d : Desc} (hruns : s.queueRuns q = true)
    (hd : (s.queue q).inflight.find? (fun d => d.op == op && d.status.isNone && d.stopped.isNone) = some d)
    (hfree : ((s.queue q).inflight.takeWhile (fun x => x.pos != d.pos)).any (fun x => x.isHurdle && x.status.isNone) = false) :
    s.settleOp q op = s.modDesc q d.pos (fun d => { d with status := some 0 }) := by
  have hacts : ¬ (!s.queueRuns q) = true := by simp [hruns]
  rw [Dev.settleOp, if_neg hacts]
  simp only [hd, hfree, Bool.false_eq_true, if_false]

/-- A hurdle at the front that arrives applies its signal and judges its condition (R269, R271). -/
theorem Dev.hurdleArrive_arrives {d : Desc} {ds : List Desc} (hruns : s.queueRuns q = true) (hfront : (s.queue q).inflight = d :: ds)
    (hhurdle : d.isHurdle = true) (hnew : d.arrived = none) (hstatus : d.status = none) (hstopped : d.stopped = none) :
    s.hurdleArrive q = (
      let t := (s.modDesc q d.pos (fun d => { d with arrived := some s.time })).applySignal q d
      match t.desc q d.pos with
      | some d => if d.waits then t.evalHurdle q d else t
      | none => t) := by
  have hacts : ¬ (!d.isHurdle || d.arrived.isSome || d.status.isSome || d.stopped.isSome || !s.queueRuns q) = true := by
    simp [hhurdle, hnew, hstatus, hstopped, hruns]
  rw [Dev.hurdleArrive, hfront]
  exact if_neg hacts

/-- A hurdle that names a word of memory reads it, and passes where its tokens and the word meet their conditions (R269, R270). -/
theorem Dev.evalHurdle_reads {d : Desc} {p : Nat} (hpart : s.partOfQueue q = some p) (haddr : fieldAt d.bytes 0x30 8 ≠ 0) :
    s.evalHurdle q d = (
      let toks := (List.range 4).all (fun n => (d.tok n).1 == 0 || decide (s.token p (d.tok n).1 ≥ (d.tok n).2))
      let r := runEng s (s.qmId q .hurdle) (readNumE (s.qmId q .hurdle) (fieldAt d.bytes 0x30 8) 8 .normal)
      match r.1 with
      | .ok w =>
        if toks && hurdleWord d w then ((r.2.ccDropPart p).modDesc q d.pos (fun d => { d with status := some 0 })).phaseCount (q / 128) 7 else r.2
      | .error (.wait _) => r.2
      | .error (.err code a) => r.2.failDesc q d.pos 0x11 code.num a 2 code.num) := by
  rw [Dev.evalHurdle, hpart]
  exact if_neg haddr

theorem Dev.hurdlePoll_polls {d : Desc} (hruns : s.queueRuns q = true)
    (hd : (s.queue q).inflight.find? (fun d => d.waits && fieldAt d.bytes 0x30 8 != 0) = some d) : s.hurdlePoll q = s.evalHurdle q d := by
  rw [Dev.hurdlePoll, hd]
  exact if_pos hruns

/-- At its limit a waiting hurdle ends LIMIT, and the queue stops with cause 3 (R264, R270). -/
theorem Dev.hurdleExpire_stops {d : Desc} (hruns : s.queueRuns q = true) (hd : (s.queue q).inflight.find? (·.waits) = some d)
    (hlimit : fieldAt d.bytes 0x4C 4 ≠ 0) :
    s.hurdleExpire q = (
      let t := s.modDesc q d.pos (fun d => { d with status := some 0x13, post := [stoppedRec 3 0 0] })
      (t.setQueue q { t.queue q with fetched := [], fstart := none }).stopQueue q 3 0) := by
  have hacts : ¬ (decide (fieldAt d.bytes 0x4C 4 = 0) || !s.queueRuns q) = true := by simp [hlimit, hruns]
  rw [Dev.hurdleExpire, hd]
  exact if_neg hacts

/-- A due descriptor completes at once if it is quiet and OK, else once its record is written, with the events tied to it behind (R274,
R276). -/
theorem Dev.completeNext_of_due {d : Desc} (hruns : s.queueRuns q = true) (hdue : dueDesc (s.queue q).inflight = some d) :
    s.completeNext q = (
      if d.quiet && d.status == some 0 then (s.complete q d.pos).closeProc (s.ctxOfQueue q)
      else
        let t := s.modDesc q d.pos (fun d => { d with queued := true })
        let t := t.pushRec q (.completion d.pos :: d.post.map (fun e => .event e (t.fld F.Q_POS_HEAD q) d.op))
        t.closeProc (t.ctxOfQueue q)) := by
  have hacts : ¬ (!s.queueRuns q) = true := by simp [hruns]
  rw [Dev.completeNext, if_neg hacts, hdue]

/-- The first waiting record is written where the ring has room; a write that fails stops the queue with cause 5 (R276, R564). -/
theorem Dev.writeRecord_writes {r : CqRec} {rs : List CqRec} (hruns : s.queueRuns q = true)
    (hring : (s.queueState q == 3 && s.fld F.Q_STATUS_CAUSE q == 5) = false) (hfirst : (s.queue q).records = r :: rs)
    (hroom : sub32 (s.queue q).cqPos (s.fld F.Q_CQ_HEAD_HEAD q) < s.cqSlots q) :
    s.writeRecord q = (
      let n := (s.queue q).cqPos
      let a := s.fld F.Q_CQ_BASE_BASE q * 4096 + n % s.cqSlots q * 32
      let x := runEng s (s.qmId q .record) (writeE a (s.recBytes q n r) .normal)
      match x.1 with
      | .ok _ => x.2.recordWritten q r
      | .error (.wait _) => x.2
      | .error (.err code va) =>
        (x.2.stopQueue q 5 code.num).report ⟨1, q / 512, s.partOfQueue q, 1, code.num, some (s.ctxOfQueue q), va, q⟩) := by
  have hacts : ¬ (!s.queueRuns q || (s.queueState q == 3 && s.fld F.Q_STATUS_CAUSE q == 5)) = true := by
    simp only [hruns, hring, Bool.not_true, Bool.or_self, Bool.false_eq_true, not_false_eq_true]
  rw [Dev.writeRecord]
  simp only [hfirst]
  exact (if_neg hacts).trans (if_neg hroom.not_ge)

/-- The end of a HOLDOFF interval sends the MSI that waits (R278). -/
theorem Dev.holdoffEnd_sends (hruns : s.queueRuns q = true) (hpend : (s.queue q).msiPend = true) :
    s.holdoffEnd q = (s.setQueue q { s.queue q with lastMsi := none }).queueMsi q :=
  if_neg (by simp [hpend, hruns])

/-- Settles O15, a case for each clause: the queue runs, and what its command acts on is there. -/
theorem hurdlesAndCompletionsTakeEffect : Obligations.HurdlesAndCompletionsTakeEffect := by
  refine ⟨?deque, ?table, ?nop, ?seed, ?arrive, ?poll, ?expire, ?quiet, ?record, ?write, ?msi⟩
  case deque =>
    intro s q d ix cl hclk hruns hbound hstate hproc hunit hnext hkind hacq hshort
    rw [exec_tileIssue, execTileIssue, State.after_clocked hclk,
      Dev.issue_deque hruns hbound hstate hproc hunit hnext hacq hkind hshort, Dev.markIssued]
  case table =>
    intro s q d ix hclk hruns hbound hstate hproc hunit hnext hkind hacq
    rw [exec_tileIssue, execTileIssue, State.after_clocked hclk,
      Dev.issue_cde hruns hbound hstate hproc hunit hnext hacq hkind, Dev.markIssued]
  case nop =>
    intro s q d hclk hruns hd hfree
    rw [exec_nop, execNop, State.after_clocked hclk, Dev.settleOp_settles hruns hd hfree]
  case seed =>
    intro s q d hclk hruns hd hfree
    rw [exec_setSeed, execSetSeed, State.after_clocked hclk, Dev.settleOp_settles hruns hd hfree]
  case arrive =>
    intro s q d ds hclk hruns hfront hhurdle hnew hstatus hstopped
    rw [exec_hurdleArrive, execHurdleArrive, State.after_clocked hclk]
    exact congrArg (fun d => Host.Outcome.next (s.withDev d)) (Dev.hurdleArrive_arrives hruns hfront hhurdle hnew hstatus hstopped)
  case poll =>
    intro s q d p hclk hruns hpart hd haddr
    rw [exec_hurdlePoll, execHurdlePoll, State.after_clocked hclk, Dev.hurdlePoll_polls hruns hd]
    exact congrArg (fun d => Host.Outcome.next (s.withDev d)) (Dev.evalHurdle_reads hpart haddr)
  case expire =>
    intro s q d hclk hruns hd hlimit
    rw [exec_hurdleExpire, execHurdleExpire, State.after_clocked hclk, Dev.hurdleExpire_stops hruns hd hlimit]
  case quiet =>
    intro s q d hclk hruns hdue hquiet hok
    have hnow : (d.quiet && d.status == some 0) = true := by simp [hquiet, hok]
    rw [exec_descriptorComplete, execDescriptorComplete, State.after_clocked hclk, Dev.completeNext_of_due hruns hdue, if_pos hnow]
  case record =>
    intro s q d hclk hruns hdue hrecord
    rw [exec_descriptorComplete, execDescriptorComplete, State.after_clocked hclk, Dev.completeNext_of_due hruns hdue,
      if_neg (Bool.eq_false_iff.1 hrecord)]
  case write =>
    intro s q r rs hclk hruns hring hfirst hroom
    rw [exec_completionRecordWrite, execCompletionRecordWrite, State.after_clocked hclk]
    exact congrArg (fun d => Host.Outcome.next (s.withDev d)) (Dev.writeRecord_writes hruns hring hfirst hroom)
  case msi =>
    intro s q hclk hruns hpend
    rw [exec_msiHoldoffExpire, execMsiHoldoffExpire, State.after_clocked hclk, Dev.holdoffEnd_sends hruns hpend]

end Sys2Proof.Machine
end

section
/-! SUPPORT. Resets of a partition (R281, R318, R361, R362): what each command does where its conditions hold. -/

namespace Sys2Proof.Machine

open Sys2Proof

variable {s : Dev} {p : Nat}

/-- A reset asked for of a partition in RUN takes it into QUIESCE, and is reported (R281, R518). -/
theorem Dev.askReset_of_runs {cause code detail : Nat} (hruns : s.partRuns p = true) :
    s.askReset p cause code detail = (s.partQuiesce p cause).reportPart p code detail :=
  if_pos hruns

/-- RESET written to PART_CTRL of a partition in RUN resets it, with cause and code 1 (R281). -/
theorem Dev.writePartCtrl_resets {w : Word} (hreset : F.PART_CTRL_RESET.get w = 1) (hruns : s.partRuns p = true) :
    s.writePartCtrl p w = (s.partQuiesce p 1).reportPart p 1 0 :=
  (if_pos hreset).trans (Dev.askReset_of_runs hruns)

/-- QUIESCE ends in RESET where no tile runs, no request is open, and no L2 dies in its flush (R281). -/
theorem Dev.quiesceDone_resets (hstate : s.partState p = 3) (htiles : s.startedOf p = false) (hrequests : s.requestsOut p = false)
    (hflushed : (s.l2sOf p).length ≤ ((s.flushAll p []).l2sOf p).length) :
    s.quiesceDone p = (s.flushAll p []).enterReset p (s.partSt p).cause :=
  (if_neg (by simp [hstate, htiles, hrequests])).trans (if_neg hflushed.not_gt)

/-- At QUIESCE_LIMIT the partition enters RESET, and the L2s that hang are dead (R281, R361). -/
theorem Dev.quiesceLimit_resets {hung : List Nat} (hstate : s.partState p = 3) :
    s.quiesceLimit p hung = (s.flushAll p hung).enterReset p ((s.flushAll p hung).partSt p).cause :=
  if_neg (by simp [hstate])

/-- An L2 that reaches its flush limit while its partition is in QUIESCE is dead (R362). -/
theorem Dev.l2Limit_dies {n : Nat} (hpart : s.partOfCore n = some p) (hstate : s.partState p = 3) :
    s.l2Limit n = s.setL2 n { L2St.init with dead := true } := by
  rw [Dev.l2Limit, hpart]
  exact if_pos hstate

/-- A fold whose every step leaves its start as it is leaves it so. -/
theorem Dev.foldl_keeps {f : Dev → Nat → Dev} {l : List Nat} (h : ∀ n ∈ l, f s n = s) : l.foldl f s = s :=
  List.foldlRecOn (motive := (· = s)) l f rfl (fun _ ht n hn => (congrArg (f · n) ht).trans (h n hn))

/-- A reset without reload, of a partition with no dead L2, few escalations and a channel, ends in RUN (R281). -/
theorem Dev.partResetDone_runs (hstate : s.partState p = 4) (hdies : (s.diesOf p).any (fun d => s.dieState d != 0) = false)
    (hreclaimed : s.unreclaimed p = false) (hreload : (s.partSt p).reload = false) (hchan : (s.chanList p).isEmpty = false)
    (hescs : ((s.partSt p).escs.filter (fun t => decide (s.time < t + s.fld F.PART_ESC_FAULT_WINDOW p))).length < 4)
    (hlive : (s.coresOf p).all (fun n => !(s.l2 n).dead) = true) :
    s.partResetDone p = (s.setPartSt p { s.partSt p with
      escs := (s.partSt p).escs.filter (fun t => decide (s.time < t + s.fld F.PART_ESC_FAULT_WINDOW p)), reload := false }).enterRun p := by
  have hends : ¬ (s.partState p != 4 || (s.diesOf p).any (fun d => s.dieState d != 0) || s.unreclaimed p) = true := by
    simp only [hstate, hdies, hreclaimed, bne_self_eq_false, Bool.or_self, Bool.false_eq_true, not_false_eq_true]
  have hlives : ∀ n ∈ s.coresOf p, ¬ (s.l2 n).dead = true := by simpa using hlive
  rw [Dev.partResetDone, if_neg hends, Dev.foldl_keeps (fun n hn => if_neg (hlives n hn))]
  refine (if_neg (by simp [hreload])).trans (if_neg ?_)
  rw [decide_eq_false hescs.not_ge, Bool.false_and, Bool.false_or]
  exact Bool.eq_false_iff.1 hchan

/-- A map-out under way takes effect once no request to the window is open at its homes (R318). -/
theorem Dev.mapoutDone_completes {m : MapOut} (hfind : s.mapouts.find? (fun m => m.started && s.partOfChan m.chan == some p) = some m)
    (hclosed : s.windowOpen p = false) :
    s.mapoutDone p = (
      let t := (s.regionsOf p).foldl (fun (t : Dev) g => t.finishAll g ((t.sc g).waiting.length + 2)) s
      let t := ((t.dropWindow p).advanceWgen p).setFlag F.CH_STATUS_IN_SERVICE m.chan false
      let t := ({ t with mapouts := t.mapouts.filter (fun n => n.chan != m.chan) } : Dev).holdHomes p false
      let t := ((t.regionsOf p).foldl (fun t h => t.pump h) t).startMapouts
      if (t.chanList p).isEmpty then t.askReset p 6 1 0 else t) := by
  rw [Dev.mapoutDone, hfind]
  exact if_neg (Bool.eq_false_iff.1 hclosed)

/-- Settles O9, a case for each command: the partition is in the state that the command acts in. -/
theorem partitionResetsTakeEffect : Obligations.PartitionResetsTakeEffect := by
  refine ⟨?request, ?quiesced, ?limit, ?flushLimit, ?returned, ?mapout⟩
  case request =>
    intro s who p hclk hruns haccepts
    have hreset : F.PART_CTRL_RESET.get 1 = 1 := by decide
    rw [exec_partResetRequest, execPartResetRequest, State.after_clocked hclk, Dev.asWriter_takes haccepts,
      Dev.writePartCtrl_resets hreset hruns]
  case quiesced =>
    intro s p hclk hstate htiles hrequests hflushed
    rw [exec_quiesceDone, execQuiesceDone, State.after_clocked hclk, Dev.quiesceDone_resets hstate htiles hrequests hflushed]
  case limit =>
    intro s p hung hclk hstate
    rw [exec_quiesceLimitExpire, execQuiesceLimitExpire, State.after_clocked hclk, Dev.quiesceLimit_resets hstate]
  case flushLimit =>
    intro s n p hclk hpart hstate
    rw [exec_l2FlushLimitExpire, execL2FlushLimitExpire, State.after_clocked hclk, Dev.l2Limit_dies hpart hstate]
  case returned =>
    intro s p hclk hstate hdies hreclaimed hreload hchan hescs hlive
    rw [exec_partResetDone, execPartResetDone, State.after_clocked hclk,
      Dev.partResetDone_runs hstate hdies hreclaimed hreload hchan hescs hlive]
  case mapout =>
    intro s p m hclk hfind hclosed
    rw [exec_mapoutComplete, execMapoutComplete, State.after_clocked hclk, Dev.mapoutDone_completes hfind hclosed]

end Sys2Proof.Machine
end

section
/-! SUPPORT. The watchdogs of partitions (R301, R359, R412, R521): what each finds and resets. -/

namespace Sys2Proof.Machine

open Sys2Proof

variable {s : Dev} {p : Nat}

/-- A watchdog resets a partition in RUN with cause 1, reports it, and captures a crash record (R521). -/
theorem Dev.watchdog_resets {code detail : Nat} {ctx : Option Nat} (hruns : s.partRuns p = true) :
    s.watchdog p code detail ctx = ((s.partQuiesce p 1).reportPart p code detail).crash 10 none (some p) ctx 0 (fun _ => false) := by
  rw [Dev.watchdog, if_neg (by simp [hruns]), Dev.askReset_of_runs hruns]

/-- A snoop that was sent and that an open request waits for past the limit is marked, and resets the core's partition (R359). -/
theorem Dev.snoopTimeout_watches {h line core : Nat} (hlimit : s.fld F.HOME_CFG_SNOOP_LIMIT h ≠ 0)
    (hwaits : (s.home h).opens.any (fun o => o.req.line == line && o.waits.contains core) = true)
    (hsent : (s.home h).unsent.any (fun u => u.1 == core && u.2.1 == line) = false)
    (hpart : (s.setFlag F.HOME_EVENT_SNOOP_TIMEOUT h true).partOfCore core = some p) :
    s.snoopTimeout h line core = (s.setFlag F.HOME_EVENT_SNOOP_TIMEOUT h true).watchdog p 7 core none := by
  have hacts : ¬ (!(s.home h).opens.any (fun o => o.req.line == line && o.waits.contains core)
      || (s.home h).unsent.any (fun u => u.1 == core && u.2.1 == line)) = true := by
    rw [hwaits, hsent]
    exact Bool.false_ne_true
  rw [Dev.snoopTimeout, if_neg hlimit, if_neg hacts]
  simp only [hpart]

/-- A late invalidation pass shows the cluster that lags, and resets its partition (R412). -/
theorem Dev.invLate_watches {v : InvSt} (hinv : SMap.find s.invs p = some v)
    (hmap : s.mapouts.any (fun m => m.started && s.partOfChan m.chan == some p) = false) :
    s.invLate p = ((s.setFlag F.XP_INV_STATUS_LATE p true).setFld F.XP_INV_STATUS_LAG_CLUSTER p (v.waitAtc.headD 0)).watchdog
      p 8 (v.waitAtc.headD 0) v.ctx := by
  rw [Dev.invLate, hinv]
  exact if_neg (Bool.eq_false_iff.1 hmap)

/-- An array that hangs on a running tile names its context in its die, and resets its partition (R521). -/
theorem Dev.engineHang_array {a : Nat} {r : MxRun} (ha : a < 512) (hfind : SMap.find s.arrays a = some r) (hrun : r.run = true)
    (hheld : r.held = none) (hlimit : s.fld F.HANG_LIMIT_LIMIT (a / 16 / 4) ≠ 0) (hpart : s.partOfRegion (a / 16) = some p) :
    s.engineHang a = (
      let c := s.ctxOfQueue r.tile.q
      (s.setDie (a / 16 / 4) { s.die (a / 16 / 4) with hungCtx := ctxField (some c), hungBlock := 5 }).watchdog p 6 (a / 4) (some c)) := by
  simp [Dev.engineHang, ha, hfind, hrun, hheld, hlimit, hpart]

/-- Another engine that hangs on its tile does so too, under its own block of R518 (R521). -/
theorem Dev.engineHang_engine {e g cl : Nat} {t : Tile} (he : 512 ≤ e) (hstate : s.fld F.ENG_STATUS_STATE (e - 512) = 2)
    (hfind : SMap.find s.engs e = some t) (hg : g = if e < 896 then (e - 512) % 128 / 4 else (e - 896) % 32)
    (hcl : cl = if e < 896 then (e - 512) % 128 else 4 * g) (hlimit : s.fld F.HANG_LIMIT_LIMIT (g / 4) ≠ 0)
    (hpart : s.partOfRegion g = some p) :
    s.engineHang e = (
      let c := s.ctxOfQueue t.q
      let blk := if e < 640 then 6 else if e < 768 then 7 else if e < 896 then 8 else if e < 928 then 9 else 10
      (s.setDie (g / 4) { s.die (g / 4) with hungCtx := ctxField (some c), hungBlock := blk }).watchdog p 6 cl (some c)) := by
  simp [Dev.engineHang, he.not_gt, hstate, hfind, ← hg, ← hcl, hlimit, hpart]

/-- A partition in RUN escalates with its cause, which is the code of its report too (R301). -/
theorem Dev.escalate_of_runs {cause : Nat} (hruns : s.partRuns p = true) :
    s.escalate p cause = (s.partQuiesce p cause).reportPart p cause 0 :=
  if_pos hruns

/-- At DRAIN_LIMIT a fault or disable procedure escalates its partition with cause 2 (R301). -/
theorem Dev.drainLimit_escalates {c : Nat} (hproc : (match (s.cx c).proc with | .fault | .disable _ => true | _ => false) = true)
    (hpart : s.partOfCtx c = some p) : s.drainLimit c = s.escalate p 2 := by
  rw [Dev.drainLimit, hpart]
  cases hp : (s.cx c).proc with
  | fault => rfl
  | disable n => rfl
  | none | preempt _ | restore =>
    rw [hp] at hproc
    exact Bool.noConfusion hproc

/-- Settles O10, a case for each watchdog: it finds what it watches for, in a partition in RUN. -/
theorem watchdogsTakeEffect : Obligations.WatchdogsTakeEffect := by
  refine ⟨?snoop, ?invalidation, ?array, ?engine, ?drain⟩
  case snoop =>
    intro s h line core p hclk hlimit hwaits hsent hpart hruns
    rw [exec_snoopTimeout, execSnoopTimeout, State.after_clocked hclk, Dev.snoopTimeout_watches hlimit hwaits hsent hpart,
      Dev.watchdog_resets hruns]
  case invalidation =>
    intro s p v hclk hinv hmap hruns
    rw [exec_invalidationLate, execInvalidationLate, State.after_clocked hclk, Dev.invLate_watches hinv hmap, Dev.watchdog_resets hruns]
  case array =>
    intro s a e r p hclk he hfind hrun hheld hlimit hpart hruns
    rw [exec_engineHangExpire, execEngineHangExpire, State.after_clocked hclk, he,
      Dev.engineHang_array a.isLt hfind hrun hheld hlimit hpart]
    exact congrArg (fun d => Host.Outcome.next (s.withDev d)) (Dev.watchdog_resets hruns)
  case engine =>
    intro s e t g cl p hclk he hstate hfind hg hcl hlimit hpart hruns
    rw [exec_engineHangExpire, execEngineHangExpire, State.after_clocked hclk,
      Dev.engineHang_engine he hstate hfind hg hcl hlimit hpart]
    exact congrArg (fun d => Host.Outcome.next (s.withDev d)) (Dev.watchdog_resets hruns)
  case drain =>
    intro s c p hclk hproc hpart hruns
    rw [exec_drainLimitExpire, execDrainLimitExpire, State.after_clocked hclk, Dev.drainLimit_escalates hproc hpart,
      Dev.escalate_of_runs hruns]

end Sys2Proof.Machine
end

section
/-! SUPPORT. Writes of CTX_CTRL and CTX_PACE, and the end of a drain (R284, R291, R296, R300, R302). -/

namespace Sys2Proof.Machine

open Sys2Proof

variable {s : Dev} {c : Nat}

/-- PRIORITY, WEIGHT and FUNC of a write of CTX_CTRL stored, before its requests are looked at: a FUNC above 33 keeps the old one (R284). -/
def Dev.storeCtxCtrl (s : Dev) (c : Nat) (w : Word) : Dev :=
  let t := s.storeReg ⟨.CTX_CTRL, c⟩ w
  let f := t.fld F.CTX_CTRL_FUNC c
  let t := (t.setReg .CTX_CTRL c 0).setFld F.CTX_CTRL_PRIORITY c (F.CTX_CTRL_PRIORITY.get w)
  (t.setFld F.CTX_CTRL_WEIGHT c (F.CTX_CTRL_WEIGHT.get w)).setFld F.CTX_CTRL_FUNC c
    (if f > 33 then F.CTX_CTRL_FUNC.get (s.reg .CTX_CTRL c) else f)

/-- A write of CTX_CTRL stores its fields, then takes its requests in the order HOLD, RELEASE, CLEAR, DISABLE. -/
theorem Dev.writeCtxCtrl_eq (s : Dev) (c : Nat) (w : Word) :
    s.writeCtxCtrl c w = (
      let t := s.storeCtxCtrl c w
      let t := if F.CTX_CTRL_HOLD.get w = 1 then t.hold c else t
      let t := if F.CTX_CTRL_RELEASE.get w = 1 then t.release c else t
      let t := if F.CTX_CTRL_CLEAR.get w = 1 then t.clearCtx c else t
      if F.CTX_CTRL_DISABLE.get w = 1 then t.disableCtx c 2 else t) := rfl

section CtxCtrl

variable {w : Word}

theorem Dev.writeCtxCtrl_hold (hhold : F.CTX_CTRL_HOLD.get w = 1) (hrelease : F.CTX_CTRL_RELEASE.get w = 0)
    (hclear : F.CTX_CTRL_CLEAR.get w = 0) (hdisable : F.CTX_CTRL_DISABLE.get w = 0) :
    s.writeCtxCtrl c w = (s.storeCtxCtrl c w).hold c := by
  simp [Dev.writeCtxCtrl_eq, hhold, hrelease, hclear, hdisable]

theorem Dev.writeCtxCtrl_release (hhold : F.CTX_CTRL_HOLD.get w = 0) (hrelease : F.CTX_CTRL_RELEASE.get w = 1)
    (hclear : F.CTX_CTRL_CLEAR.get w = 0) (hdisable : F.CTX_CTRL_DISABLE.get w = 0) :
    s.writeCtxCtrl c w = (s.storeCtxCtrl c w).release c := by
  simp [Dev.writeCtxCtrl_eq, hhold, hrelease, hclear, hdisable]

theorem Dev.writeCtxCtrl_clear (hhold : F.CTX_CTRL_HOLD.get w = 0) (hrelease : F.CTX_CTRL_RELEASE.get w = 0)
    (hclear : F.CTX_CTRL_CLEAR.get w = 1) (hdisable : F.CTX_CTRL_DISABLE.get w = 0) :
    s.writeCtxCtrl c w = (s.storeCtxCtrl c w).clearCtx c := by
  simp [Dev.writeCtxCtrl_eq, hhold, hrelease, hclear, hdisable]

theorem Dev.writeCtxCtrl_disable (hhold : F.CTX_CTRL_HOLD.get w = 0) (hrelease : F.CTX_CTRL_RELEASE.get w = 0)
    (hclear : F.CTX_CTRL_CLEAR.get w = 0) (hdisable : F.CTX_CTRL_DISABLE.get w = 1) :
    s.writeCtxCtrl c w = (s.storeCtxCtrl c w).disableCtx c 2 := by
  simp [Dev.writeCtxCtrl_eq, hhold, hrelease, hclear, hdisable]

end CtxCtrl

/-- ARM stores DEADLINE and MARGIN, and arms the pacer of a bound context at HEAD, unless it is armed, P_END lies behind, or its queue
runs a fallback list; a window that ends at HEAD is met at once (R296). -/
theorem Dev.writeCtxPace_arms {w : Word} (harm : F.CTX_PACE_ARM.get w = 1) :
    s.writeCtxPace c w = (
      let t := (s.setFld F.CTX_PACE_DEADLINE c (F.CTX_PACE_DEADLINE.get w)).setFld F.CTX_PACE_MARGIN c (F.CTX_PACE_MARGIN.get w)
      let x := (t.cx c).pacer
      let q := t.ctxQueue c
      let head := t.fld F.Q_POS_HEAD q
      let pEnd := t.fld F.CTX_PACE_WORK_P_END c
      if x.armed || !t.bound c || sub32 pEnd head ≥ 2 ^ 31 || (t.queue q).fallback.isSome then t
      else if pEnd = head then t.count F.CTX_PACE_STATUS_MET c 1
      else (t.setCx c { t.cx c with pacer := (⟨true, t.time, head, pEnd, t.fld F.CTX_PACE_DEADLINE c, t.fld F.CTX_PACE_MARGIN c,
          t.fld F.CTX_PACE_WORK_WORK_EST c, t.fld F.CTX_FALLBACK_SLOTS c, t.fld F.CTX_FALLBACK_BASE c, x.n, x.sum, 0, false, none⟩ : Pacer) }).setFlag
        F.CTX_PACE_ARM c true) := by
  have harms : decide (F.CTX_PACE_ARM.get w = 0) = false := by simp [harm]
  rw [Dev.writeCtxPace]
  simp only [harms, Bool.false_or]

section Drained

variable (hclosed : (s.cx c).closed = true) (hinflight : (s.queue (s.ctxQueue c)).inflight.isEmpty = true)
  (hrecords : (s.queue (s.ctxQueue c)).records.isEmpty = true) (htiles : s.queueStarted (s.ctxQueue c) = false)
  (hruns : s.queueRuns (s.ctxQueue c) = true)

include hclosed hinflight hrecords htiles hruns

/-- Nothing stops the end of a procedure whose closing event is given, with nothing in flight and every record written. -/
theorem Dev.drained_acts :
    ¬ (!(s.cx c).closed || !(s.queue (s.ctxQueue c)).inflight.isEmpty || !(s.queue (s.ctxQueue c)).records.isEmpty
      || s.queueStarted (s.ctxQueue c) || !s.queueRuns (s.ctxQueue c)) = true := by
  simp [hclosed, hinflight, hrecords, htiles, hruns]

/-- A fault procedure that has drained shows DRAINED (R300). -/
theorem Dev.drained_of_fault (hproc : (s.cx c).proc = .fault) :
    s.drained c = (s.setFlag F.CTX_STATE_DRAINED c true).setCx c { s.cx c with proc := .none, saved := none } := by
  rw [Dev.drained, hproc]
  exact if_neg (Dev.drained_acts hclosed hinflight hrecords htiles hruns)

/-- A disable procedure that has drained leaves the context FREE and its queue DISABLED, and the MSI that waits with the queue (R278, R302). -/
theorem Dev.drained_of_disable {n : Nat} (hproc : (s.cx c).proc = .disable n) :
    s.drained c = (
      let q := s.ctxQueue c
      let t := (s.setFlag F.CTX_STATE_DRAINED c true).setCx c .init
      let t := ((t.setFld F.Q_STATUS_STATE q 0).setFlag F.Q_CFG_ENABLE q false).setQueue q
        { QueueSt.init with lastMsi := (s.queue q).lastMsi, msiPend := (s.queue q).msiPend }
      let t := (((t.setFld F.CTX_STATE_STATE c 0).setFlag F.CTX_STATE_BOUND c false).setFld F.CTX_STATE_QUEUE c 0).setFld
        F.CTX_STATE_DISABLE_CAUSE c n
      let t := t.setFlag F.CTX_STATE_WORK c false
      match t.partOfCtx c with
      | some p => t.setFld F.PART_STATUS_RUNNING p (t.runningOf p).length
      | none => t) := by
  rw [Dev.drained, hproc]
  exact if_neg (Dev.drained_acts hclosed hinflight hrecords htiles hruns)

end Drained

/-- Settles O11, a case for each request: the writer's access is taken and carries this request alone, or the procedure has drained. -/
theorem contextControlWritesTakeEffect : Obligations.ContextControlWritesTakeEffect := by
  refine ⟨?hold, ?release, ?clear, ?disable, ?arm, ?fault, ?freed⟩
  case hold =>
    intro s who c w v hclk haccepts hhold hrelease hclear hdisable
    rw [exec_ctxHold, execCtxHold, State.after_clocked hclk, Dev.asWriter_takes haccepts,
      Dev.writeCtxCtrl_hold hhold hrelease hclear hdisable]
    rfl
  case release =>
    intro s who c w v hclk haccepts hhold hrelease hclear hdisable
    rw [exec_ctxRelease, execCtxRelease, State.after_clocked hclk, Dev.asWriter_takes haccepts,
      Dev.writeCtxCtrl_release hhold hrelease hclear hdisable]
    rfl
  case clear =>
    intro s who c w v hclk haccepts hhold hrelease hclear hdisable
    rw [exec_ctxClear, execCtxClear, State.after_clocked hclk, Dev.asWriter_takes haccepts,
      Dev.writeCtxCtrl_clear hhold hrelease hclear hdisable]
    rfl
  case disable =>
    intro s who c w v hclk haccepts hhold hrelease hclear hdisable
    rw [exec_ctxDisable, execCtxDisable, State.after_clocked hclk, Dev.asWriter_takes haccepts,
      Dev.writeCtxCtrl_disable hhold hrelease hclear hdisable]
    rfl
  case arm =>
    intro s who c w v hclk haccepts harm
    rw [exec_pacerArm, execPacerArm, State.after_clocked hclk, Dev.asWriter_takes haccepts, Dev.writeCtxPace_arms harm]
  case fault =>
    intro s c hclk hclosed hproc hinflight hrecords htiles hruns
    rw [exec_contextDrained, execContextDrained, State.after_clocked hclk,
      Dev.drained_of_fault hclosed hinflight hrecords htiles hruns hproc]
  case freed =>
    intro s c n hclk hclosed hproc hinflight hrecords htiles hruns
    rw [exec_contextDrained, execContextDrained, State.after_clocked hclk]
    exact congrArg (fun d => Host.Outcome.next (s.withDev d)) (Dev.drained_of_disable hclosed hinflight hrecords htiles hruns hproc)

end Sys2Proof.Machine
end

section
/-! SUPPORT. Run slots, laps, preemption, the save area, restore, and polls (R289–R293, R297, R298): what each operation does where its
conditions hold. -/

namespace Sys2Proof.Machine

open Sys2Proof

variable {s : Dev} {c : Nat}

/-- With a free slot, the eligible context that is granted first becomes RUNNING, by way of its restore if it was saved (R289, R293). -/
theorem Dev.grantSlot_grants {p c0 : Nat} {cs : List Nat} (hruns : s.partRuns p = true)
    (hslot : (s.runningOf p).length < s.fld F.PART_LAP_RUN_MAX p) (heligible : s.eligibleOf p = c0 :: cs) :
    s.grantSlot p = (
      let c := cs.foldl (fun a b => if s.grantsBefore b a then b else a) c0
      let x := s.cx c
      let t := s.setCx c { x with lapStart := s.time, eligible := none, proc := if x.saved.isSome then .restore else x.proc }
      (t.setFld F.CTX_STATE_STATE c 2).settle c) := by
  have hacts : ¬ (!s.partRuns p || decide ((s.runningOf p).length ≥ s.fld F.PART_LAP_RUN_MAX p)) = true := by
    simp [hruns, hslot.not_ge]
  rw [Dev.grantSlot, if_neg hacts, heligible]

/-- A RUNNING context with a save area and no procedure but a restore is preempted: its tiles that have not started are withdrawn (R291). -/
theorem Dev.preempt_starts {hold : Bool} (hstate : s.ctxState c = 2) (harea : s.fld F.CTX_SAVE_BASE c ≠ 0)
    (hproc : ((s.cx c).proc == .none || (s.cx c).proc == .restore) = true) :
    s.preempt c hold = (s.setCx c { s.cx c with proc := .preempt hold, procStart := s.time, late := false }).withdraw (s.ctxQueue c)
      (fun _ => true) := by
  have hacts : ¬ (s.ctxState c != 2 || s.fld F.CTX_SAVE_BASE c == 0) = true := by simp [hstate, harea]
  rw [Dev.preempt, if_neg hacts]
  cases hp : (s.cx c).proc with
  | none | restore => rfl
  | preempt _ | fault | disable _ =>
    rw [hp] at hproc
    exact Bool.noConfusion hproc

/-- The end of a lap preempts a context with a save area for one of its priority or a higher one, else starts a new lap (R290). -/
theorem Dev.lapEnd_laps {p : Nat} (hpart : s.partOfCtx c = some p) (hstate : s.ctxState c = 2)
    (hlap : s.fld F.PART_LAP_LAP_LEN p ≠ 0) (hproc : ((s.cx c).proc == .none || (s.cx c).proc == .restore) = true)
    (hruns : s.partRuns p = true) :
    s.lapEnd c = (
      if (s.eligibleOf p).any (fun e => decide (s.priority e ≥ s.priority c)) && s.fld F.CTX_SAVE_BASE c != 0 then
        (s.setCx c { s.cx c with proc := .preempt false, procStart := s.time, late := false }).withdraw (s.ctxQueue c) (fun _ => true)
      else s.setCx c { s.cx c with lapStart := s.time }) := by
  have hacts : ¬ (decide (s.ctxState c ≠ 2) || decide (s.fld F.PART_LAP_LAP_LEN p = 0)
      || !((s.cx c).proc == .none || (s.cx c).proc == .restore) || !s.partRuns p) = true := by
    simp only [hstate, hlap, hproc, hruns, ne_eq, not_true_eq_false, decide_false, Bool.not_true, Bool.or_self, Bool.false_eq_true,
      not_false_eq_true]
  rw [Dev.lapEnd, hpart]
  refine (if_neg hacts).trans ?_
  by_cases hwait : ((s.eligibleOf p).any (fun e => decide (s.priority e ≥ s.priority c)) && s.fld F.CTX_SAVE_BASE c != 0) = true
  · have harea : s.fld F.CTX_SAVE_BASE c ≠ 0 := bne_iff_ne.1 (Bool.and_eq_true_iff.1 hwait).2
    rw [if_pos hwait, if_pos hwait, Dev.preempt_starts hstate harea hproc]
  · rw [if_neg hwait, if_neg hwait]

/-- At GRACE the HELD tiles of a preempted context are dropped that may be, and the others count it late once (R291). -/
theorem Dev.graceEnd_abandons {hold : Bool} (hproc : (s.cx c).proc = .preempt hold) :
    s.graceEnd c = (
      let held := s.arrays.filter (fun e => e.2.tile.q == s.ctxQueue c && e.2.held.isSome)
      let t := held.foldl (fun s e => if s.wouldTear e.2 then s else s.dropArray e.1) s
      if held.any (fun e => t.wouldTear e.2) && !(t.cx c).late then (t.setCx c { t.cx c with late := true }).count F.CTX_ACCT_PREEMPT_LATE c 1
      else t) := by
  rw [Dev.graceEnd, hproc]

/-- The save area of a preempted context without started tiles is written, and the answer decides what follows (R292). -/
theorem Dev.saveDone_writes {hold : Bool} (hproc : (s.cx c).proc = .preempt hold) (htiles : s.queueStarted (s.ctxQueue c) = false)
    (hruns : s.queueRuns (s.ctxQueue c) = true) :
    s.saveDone c = (
      let q := s.ctxQueue c
      let ds := (s.queue q).inflight.take 64
      let area := s.saveArea c ds ((s.cx c).saves + 1)
      let r := runEng s (s.qmId q .save) (writeE (s.fld F.CTX_SAVE_BASE c * 4096) (putAt area 12 (leBytes 4 (crc32c area))) .normal)
      match r.1 with
      | .ok _ =>
        let t := r.2.setCx c { r.2.cx c with proc := .none, saves := (s.cx c).saves + 1, saved := some ⟨ds, crc32c area⟩, late := false }
        let t := t.setFld F.CTX_STATE_STATE c (if hold then 4 else 3)
        (if hold then t else t.count F.CTX_ACCT_PREEMPT_PREEMPTS c 1).settle c
      | .error (.wait _) => r.2
      | .error (.err code a) => (r.2.fault c 2 code.num a 0).settle c) := by
  have hacts : ¬ (s.queueStarted (s.ctxQueue c) || !s.queueRuns (s.ctxQueue c)) = true := by simp [htiles, hruns]
  rw [Dev.saveDone, hproc]
  exact if_neg hacts

/-- A restore reads the save area and judges it by what was written (R293). -/
theorem Dev.restoreDone_reads {sv : Saved} (hproc : (s.cx c).proc = .restore) (hsaved : (s.cx c).saved = some sv)
    (hruns : s.queueRuns (s.ctxQueue c) = true) :
    s.restoreDone c = (
      let q := s.ctxQueue c
      let r := runEng s (s.qmId q .save) (readE (s.qmId q .save) (s.fld F.CTX_SAVE_BASE c * 4096) 0x1840 .normal)
      match r.1 with
      | .ok bs =>
        let good := fieldAt bs 0 2 == 0x4153 && fieldAt bs 2 1 == 1 && fieldAt bs 4 2 == c && fieldAt bs 6 2 == q
            && fieldAt bs 8 4 == (s.cx c).saves && fieldAt bs 12 4 == sv.check && crc32c (putAt bs 12 [0, 0, 0, 0]) == sv.check
        if !good then ((r.2.dropSaved q sv.descs).fault c 5 0 0 sv.descs.length).settle c
        else
          let t := r.2.mapDescs q (fun d => if sv.descs.any (fun y => y.pos == d.pos) then restoreDesc bs (fieldAt bs 3 1) d else d)
          (t.setCx c { t.cx c with proc := .none, saved := none }).settle c
      | .error (.wait _) => r.2
      | .error (.err code a) => ((r.2.dropSaved q sv.descs).fault c 2 code.num a sv.descs.length).settle c) := by
  have hacts : ¬ (!s.queueRuns (s.ctxQueue c)) = true := by simp [hruns]
  rw [Dev.restoreDone, hproc, hsaved]
  exact if_neg hacts

theorem Dev.pacerPoll_evaluates (hruns : s.queueRuns (s.ctxQueue c) = true) : s.pacerPoll c = (s.pacerEval c).settle c :=
  if_pos hruns

/-- Settles O12, a case for each command: the context and its queue are in the state that the command acts in. -/
theorem contextProceduresTakeEffect : Obligations.ContextProceduresTakeEffect := by
  refine ⟨?grant, ?lap, ?grace, ?save, ?restore, ?poll⟩
  case grant =>
    intro s p c0 cs hclk hruns hslot heligible
    rw [exec_runSlotGrant, execRunSlotGrant, State.after_clocked hclk, Dev.grantSlot_grants hruns hslot heligible]
  case lap =>
    intro s c p hclk hpart hstate hlap hproc hruns
    rw [exec_lapEnd, execLapEnd, State.after_clocked hclk, Dev.lapEnd_laps hpart hstate hlap hproc hruns]
  case grace =>
    intro s c hold hclk hproc
    rw [exec_preemptGraceExpire, execPreemptGraceExpire, State.after_clocked hclk, Dev.graceEnd_abandons hproc]
  case save =>
    intro s c hold hclk hproc htiles hruns
    rw [exec_saveAreaWriteDone, execSaveAreaWriteDone, State.after_clocked hclk]
    exact congrArg (fun d => Host.Outcome.next (s.withDev d)) (Dev.saveDone_writes hproc htiles hruns)
  case restore =>
    intro s c sv hclk hproc hsaved hruns
    rw [exec_restoreReadDone, execRestoreReadDone, State.after_clocked hclk]
    exact congrArg (fun d => Host.Outcome.next (s.withDev d)) (Dev.restoreDone_reads hproc hsaved hruns)
  case poll =>
    intro s c hclk hruns
    rw [exec_pacerPoll, execPacerPoll, State.after_clocked hclk, Dev.pacerPoll_evaluates hruns]

end Sys2Proof.Machine
end

section
/-! SUPPORT. The field of 256 elements (R306): doubling is linear and invertible, the nonzero elements are the 255 powers of α, and the product
adds exponents. -/

namespace Sys2Proof.Machine

open Sys2Proof

section Sums

variable {β γ : Type}

theorem foldl_xor_xor (l : List γ) (t u : γ → Byte) (x y : Byte) :
    l.foldl (fun acc i => acc ^^^ (t i ^^^ u i)) (x ^^^ y) = l.foldl (fun acc i => acc ^^^ t i) x ^^^ l.foldl (fun acc i => acc ^^^ u i) y := by
  induction l generalizing x y with
  | nil => rfl
  | cons i l ih =>
    rw [List.foldl_cons, List.foldl_cons, List.foldl_cons, ← ih]
    congr 1
    ac_rfl

theorem foldl_xor_init (l : List γ) (t : γ → Byte) (x y : Byte) :
    l.foldl (fun acc i => acc ^^^ t i) (x ^^^ y) = l.foldl (fun acc i => acc ^^^ t i) x ^^^ y := by
  simpa using foldl_xor_xor l t (fun _ => 0) x y

/-- A linear map goes into an exclusive or of terms. -/
theorem map_foldl_xor {f : Byte → Byte} (hf : ∀ x y, f (x ^^^ y) = f x ^^^ f y) (l : List γ) (t : γ → Byte) (x : Byte) :
    f (l.foldl (fun acc i => acc ^^^ t i) x) = l.foldl (fun acc i => acc ^^^ f (t i)) (f x) := by
  induction l generalizing x with
  | nil => rfl
  | cons i l ih => rw [List.foldl_cons, List.foldl_cons, ih, hf]

end Sums

section Shifts

variable (a b : Byte) (m n : Nat)

theorem gfDouble_xor : gfDouble (a ^^^ b) = gfDouble a ^^^ gfDouble b := by
  unfold gfDouble
  rw [BitVec.msb_xor, BitVec.shiftLeft_xor_distrib]
  cases a.msb <;> cases b.msb <;> grind

theorem gfDouble_toNat : ∀ a : Byte, (gfDouble a).toNat = if 2 * a.toNat < 256 then 2 * a.toNat else (2 * a.toNat) ^^^ 0x11D := by
  decide

theorem gfShift_eq_iterate : gfShift n a = gfDouble^[n] a := by
  induction n generalizing a with
  | zero => rfl
  | succ n ih => exact ih (gfDouble a)

theorem gfShift_succ : gfShift (n + 1) a = gfDouble (gfShift n a) := by
  rw [gfShift_eq_iterate, gfShift_eq_iterate, Function.iterate_succ_apply']

theorem gfShift_gfShift : gfShift m (gfShift n a) = gfShift (m + n) a := by
  simp only [gfShift_eq_iterate, Function.iterate_add_apply]

theorem gfShift_xor : gfShift n (a ^^^ b) = gfShift n a ^^^ gfShift n b := by
  induction n with
  | zero => rfl
  | succ n ih => rw [gfShift_succ, gfShift_succ, gfShift_succ, ih, gfDouble_xor]

@[simp] theorem gfShift_zero_right : gfShift n 0#8 = 0#8 := by
  simpa using gfShift_xor 0 0 n

theorem gfDouble_injective : Function.Injective gfDouble := by
  have hkernel : ∀ a : Byte, gfDouble a = 0 → a = 0 := by decide
  intro a b h
  exact BitVec.xor_eq_zero_iff.mp (hkernel _ (by simp [gfDouble_xor, h]))

theorem gfShift_inj : gfShift n a = gfShift n b ↔ a = b := by
  rw [gfShift_eq_iterate, gfShift_eq_iterate]
  exact (gfDouble_injective.iterate n).eq_iff

theorem gfShift_eq_zero : gfShift n a = 0 ↔ a = 0 := by
  simpa using gfShift_inj a 0 n

/-- Each factor of the product runs over the bits of the second (R306). -/
theorem gfMul_eq_foldl : gfMul a b = (List.range 8).foldl (fun acc i => acc ^^^ if b.getLsbD i then gfShift i a else 0) 0 := by
  unfold gfMul
  congr 1
  funext acc i
  split <;> simp

end Shifts

section Powers

theorem isPeriodicPt_gfDouble_one : Function.IsPeriodicPt gfDouble 255 1 := by
  have hpow : gfShift 255 1 = 1 := by decide +kernel
  rwa [gfShift_eq_iterate] at hpow

/-- α has order 255: no proper divisor of 255 = 3 · 5 · 17 doublings return to one. -/
theorem minimalPeriod_gfDouble : Function.minimalPeriod gfDouble 1 = 255 := by
  have hproper : ∀ d ∈ Nat.divisors 255, d ≠ 255 → gfShift d 1 ≠ 1 := by decide +kernel
  by_contra hne
  refine hproper _ (Nat.mem_divisors.mpr ⟨isPeriodicPt_gfDouble_one.minimalPeriod_dvd, by decide⟩) hne ?_
  rw [gfShift_eq_iterate]
  exact Function.isPeriodicPt_minimalPeriod gfDouble 1

theorem gfShift_one_inj {m n : Nat} (hm : m < 255) (hn : n < 255) : gfShift m 1 = gfShift n 1 ↔ m = n := by
  rw [gfShift_eq_iterate, gfShift_eq_iterate]
  exact Function.iterate_eq_iterate_iff_of_lt_minimalPeriod (minimalPeriod_gfDouble ▸ hm) (minimalPeriod_gfDouble ▸ hn)

/-- The 255 powers of α are all different and none is zero, so every nonzero element is one of them. -/
theorem exists_gfShift_one {a : Byte} (ha : a ≠ 0) : ∃ n < 255, gfShift n 1 = a := by
  have hmaps : Set.MapsTo (fun n => (gfShift n 1).toNat) (Finset.range 255) (Finset.Icc 1 255) := by
    intro n _
    have hne : (gfShift n 1).toNat ≠ 0 := fun h => absurd ((gfShift_eq_zero 1 n).mp (BitVec.eq_of_toNat_eq h)) (by decide)
    have hlt := (gfShift n 1).isLt
    simp only [Finset.coe_Icc, Set.mem_Icc]
    omega
  have hinj : Set.InjOn (fun n => (gfShift n 1).toNat) (Finset.range 255) := by
    intro m hm n hn h
    exact (gfShift_one_inj (Finset.mem_range.mp hm) (Finset.mem_range.mp hn)).mp (BitVec.eq_of_toNat_eq h)
  have hmem : a.toNat ∈ (Finset.Icc 1 255 : Finset Nat) := by
    have hne : a.toNat ≠ 0 := fun h => ha (BitVec.eq_of_toNat_eq h)
    have hlt := a.isLt
    rw [Finset.mem_Icc]
    omega
  obtain ⟨n, hn, h⟩ := Finset.surjOn_of_injOn_of_card_le _ hmaps hinj (by simp) hmem
  exact ⟨n, Finset.mem_range.mp hn, BitVec.eq_of_toNat_eq h⟩

theorem isPeriodicPt_gfDouble (a : Byte) : Function.IsPeriodicPt gfDouble 255 a := by
  by_cases ha : a = 0
  case pos =>
    rw [ha, Function.IsPeriodicPt, Function.IsFixedPt, ← gfShift_eq_iterate]
    exact gfShift_zero_right 255
  case neg =>
    obtain ⟨n, -, rfl⟩ := exists_gfShift_one ha
    rw [gfShift_eq_iterate]
    exact isPeriodicPt_gfDouble_one.apply_iterate n

theorem gfShift_mod (n : Nat) (a : Byte) : gfShift (n % 255) a = gfShift n a := by
  rw [gfShift_eq_iterate, gfShift_eq_iterate]
  exact (isPeriodicPt_gfDouble a).iterate_mod_apply n

end Powers

section Products

variable (a b c : Byte) (n : Nat)

theorem gfMul_xor_left : gfMul (a ^^^ b) c = gfMul a c ^^^ gfMul b c := by
  simp only [gfMul_eq_foldl]
  rw [← foldl_xor_xor]
  congr 1
  funext acc i
  split
  · rw [gfShift_xor]
  · simp

theorem gfMul_gfDouble_left : gfMul (gfDouble a) b = gfDouble (gfMul a b) := by
  simp only [gfMul_eq_foldl]
  rw [map_foldl_xor gfDouble_xor]
  congr 1
  funext acc i
  split
  · rw [← gfShift_succ, gfShift]
  · rfl

theorem gfMul_one_left : ∀ a : Byte, gfMul 1 a = a := by decide

theorem gfMul_gfShift_left : gfMul (gfShift n a) b = gfShift n (gfMul a b) := by
  induction n with
  | zero => rfl
  | succ n ih => rw [gfShift_succ, gfShift_succ, gfMul_gfDouble_left, ih]

theorem gfMul_gfShift_one_left : gfMul (gfShift n 1) a = gfShift n a := by
  rw [gfMul_gfShift_left, gfMul_one_left]

/-- A product of powers of α, and hence of any nonzero elements, adds exponents. -/
theorem gfMul_gfShift_one (m n : Nat) : gfMul (gfShift m 1) (gfShift n 1) = gfShift (m + n) 1 := by
  rw [gfMul_gfShift_one_left, gfShift_gfShift]

@[simp] theorem gfMul_zero_left : gfMul 0#8 a = 0#8 := by
  simpa using gfMul_xor_left 0 0 a

@[simp] theorem gfMul_zero_right : gfMul a 0#8 = 0#8 := by
  simp [gfMul_eq_foldl]

theorem gfMul_comm : gfMul a b = gfMul b a := by
  by_cases ha : a = 0
  case pos => simp [ha]
  by_cases hb : b = 0
  case pos => simp [hb]
  obtain ⟨m, -, rfl⟩ := exists_gfShift_one ha
  obtain ⟨n, -, rfl⟩ := exists_gfShift_one hb
  rw [gfMul_gfShift_one, gfMul_gfShift_one, Nat.add_comm]

theorem gfMul_assoc : gfMul (gfMul a b) c = gfMul a (gfMul b c) := by
  by_cases ha : a = 0
  case pos => simp [ha]
  obtain ⟨m, -, rfl⟩ := exists_gfShift_one ha
  rw [gfMul_gfShift_one_left, gfMul_gfShift_one_left, gfMul_gfShift_left]

theorem gfSquares_gfShift_one (k : Nat) : gfSquares k (gfShift n 1) = gfShift (2 ^ k * n) 1 := by
  induction k generalizing n with
  | zero => simp [gfSquares]
  | succ k ih =>
    rw [gfSquares, gfMul_gfShift_one, ih]
    congr 1
    ring

/-- The inverse of αⁿ is α²⁵⁴ⁿ, of exponents 2n + 4n + … + 128n. -/
theorem gfInv_gfShift_one : gfInv (gfShift n 1) = gfShift (254 * n) 1 := by
  have hone : (1 : Byte) = gfShift 0 1 := rfl
  simp only [gfInv, List.range_succ, List.range_zero, List.nil_append, List.cons_append, List.foldl_cons, List.foldl_nil,
    gfSquares_gfShift_one, gfMul_one_left, gfMul_gfShift_one]
  congr 1
  ring

variable {a}

theorem gfMul_gfInv (ha : a ≠ 0) : gfMul a (gfInv a) = 1 := by
  obtain ⟨n, -, rfl⟩ := exists_gfShift_one ha
  have hexp : n + 254 * n = 255 * n := by ring
  rw [gfInv_gfShift_one, gfMul_gfShift_one, hexp, ← gfShift_mod, Nat.mul_mod_right, gfShift]

/-- A quotient of nonzero elements is α to one power below 255. -/
theorem exists_gfShift_eq {x y : Byte} (hx : x ≠ 0) (hy : y ≠ 0) : ∃ l < 255, gfShift l x = y := by
  obtain ⟨m, hm, rfl⟩ := exists_gfShift_one hx
  obtain ⟨n, -, rfl⟩ := exists_gfShift_one hy
  refine ⟨(n + 255 - m) % 255, Nat.mod_lt _ (by decide), ?_⟩
  have hexp : n + 255 - m + m = n + 255 := by omega
  rw [gfShift_mod, gfShift_gfShift, hexp, ← gfShift_mod, Nat.add_mod_right, gfShift_mod]

theorem gfShift_exponent_inj {x : Byte} {l m : Nat} (hx : x ≠ 0) (hl : l < 255) (hm : m < 255) : gfShift l x = gfShift m x ↔ l = m := by
  obtain ⟨k, -, rfl⟩ := exists_gfShift_one hx
  rw [gfShift_gfShift, gfShift_gfShift, Nat.add_comm l, Nat.add_comm m, ← gfShift_gfShift, ← gfShift_gfShift, gfShift_inj,
    gfShift_one_inj hl hm]

end Products

end Sys2Proof.Machine
end

section
/-! SUPPORT. Code words (R305–R309): the syndromes of ten symbols under a fold, what each class of a read says of them, and what the coding of a
word, an error, and a change of its fold make of them. -/

namespace Sys2Proof.Machine

open Sys2Proof

/-- The syndromes S0 and S1 of ten symbols under a fold (R308). -/
def syndrome0 (sy : List Byte) (F : BitVec 16) : Byte := (List.range 10).foldl (fun acc i => acc ^^^ (sy[i]?).getD 0) (F.setWidth 8)
def syndrome1 (sy : List Byte) (F : BitVec 16) : Byte :=
  (List.range 10).foldl (fun acc i => acc ^^^ gfShift i ((sy[i]?).getD 0)) ((F >>> 8).setWidth 8)

/-- The symbols with an error pattern in one of them (R305). -/
def flipSymbol (sy : List Byte) (i : Nat) (x : Byte) : List Byte := sy.set i ((sy[i]?).getD 0 ^^^ x)

section Classes

variable {sy : List Byte} {F : BitVec 16}

theorem classify_clean (h0 : syndrome0 sy F = 0) (h1 : syndrome1 sy F = 0) : classify sy F = (.clean, sy) :=
  (if_pos h0).trans (if_pos h1)

theorem classify_stale (h0 : syndrome0 sy F = 0) (h1 : syndrome1 sy F ≠ 0) : classify sy F = (.stale, sy) :=
  (if_pos h0).trans (if_neg h1)

theorem classify_uncorrectable (h0 : syndrome0 sy F ≠ 0) (h1 : ∀ l < 10, gfShift l (syndrome0 sy F) ≠ syndrome1 sy F) :
    classify sy F = (.uncorrectable, sy) := by
  have hfind : (List.range 10).find? (fun l => gfShift l (syndrome0 sy F) == syndrome1 sy F) = none := by
    simpa [List.find?_eq_none] using h1
  refine (if_neg h0).trans ?_
  simp only [syndrome0, syndrome1] at hfind
  rw [hfind]

theorem classify_corrected {l : Nat} (h0 : syndrome0 sy F ≠ 0) (hl : l < 10) (h1 : gfShift l (syndrome0 sy F) = syndrome1 sy F) :
    classify sy F = (if popcount8 (syndrome0 sy F) = 1 then .correctedBit l else .correctedSymbol l, flipSymbol sy l (syndrome0 sy F)) := by
  have hfind : (List.range 10).find? (fun l => gfShift l (syndrome0 sy F) == syndrome1 sy F) = some l := by
    rw [List.find?_range_eq_some]
    refine ⟨beq_iff_eq.mpr h1, List.mem_range.mpr hl, fun m hm => ?_⟩
    have hne : gfShift m (syndrome0 sy F) ≠ syndrome1 sy F := fun h =>
      hm.ne ((gfShift_exponent_inj h0 (by omega) (by omega)).mp (h.trans h1.symm))
    simpa using hne
  refine (if_neg h0).trans ?_
  simp only [syndrome0, syndrome1] at hfind
  rw [hfind]
  rfl

/-- Only a word with both syndromes zero is CLEAN. -/
theorem syndromes_of_clean (h : (classify sy F).1 = .clean) : syndrome0 sy F = 0 ∧ syndrome1 sy F = 0 := by
  by_cases h0 : syndrome0 sy F = 0
  case pos =>
    refine ⟨h0, ?_⟩
    by_contra h1
    rw [classify_stale h0 h1] at h
    exact WordClass.noConfusion h
  case neg =>
    by_cases hl : ∃ l < 10, gfShift l (syndrome0 sy F) = syndrome1 sy F
    case pos =>
      obtain ⟨l, hl, h1⟩ := hl
      rw [classify_corrected h0 hl h1] at h
      dsimp only at h
      split at h <;> cases h
    case neg =>
      push Not at hl
      rw [classify_uncorrectable h0 hl] at h
      exact WordClass.noConfusion h

theorem popcount8_eq_one : ∀ b : Byte, popcount8 b = 1 ↔ ∃ k < 8, b = 1#8 <<< k := by decide

end Classes

section Coding

variable (d : Word) (F : BitVec 16)

/-- The sums P and Q of a data word and its fold, and the check symbol c8 that they give (R306). -/
def sumP : Byte := (List.range 8).foldl (fun acc i => acc ^^^ wordByte d i) (F.setWidth 8)
def sumQ : Byte := (List.range 8).foldl (fun acc i => acc ^^^ gfShift i (wordByte d i)) ((F >>> 8).setWidth 8)
def check8 : Byte := gfMul (sumQ d F ^^^ gfShift 9 (sumP d F)) (gfInv (gfShift 8 1 ^^^ gfShift 9 1))

theorem encodeSymbols_eq : encodeSymbols d F = (List.range 8).map (wordByte d) ++ [check8 d F, sumP d F ^^^ check8 d F] := rfl

@[simp] theorem encodeSymbols_length : (encodeSymbols d F).length = 10 := rfl

theorem gfMul_check8 : gfMul (check8 d F) (gfShift 8 1 ^^^ gfShift 9 1) = sumQ d F ^^^ gfShift 9 (sumP d F) := by
  have hne : gfShift 8 1 ^^^ gfShift 9 1 ≠ 0 := by decide
  rw [check8, gfMul_assoc, gfMul_comm (gfInv _), gfMul_gfInv hne, gfMul_comm, gfMul_one_left]

theorem syndrome0_encodeSymbols : syndrome0 (encodeSymbols d F) F = 0 := by
  have hsum : syndrome0 (encodeSymbols d F) F = sumP d F ^^^ check8 d F ^^^ (sumP d F ^^^ check8 d F) := by
    simp [syndrome0, encodeSymbols_eq, sumP, List.range_succ]
  rw [hsum, BitVec.xor_self]
  rfl

theorem syndrome1_encodeSymbols : syndrome1 (encodeSymbols d F) F = 0 := by
  have hsum : syndrome1 (encodeSymbols d F) F = sumQ d F ^^^ gfShift 8 (check8 d F) ^^^ gfShift 9 (sumP d F ^^^ check8 d F) := by
    simp [syndrome1, encodeSymbols_eq, sumQ, List.range_succ]
  have hcheck : gfShift 8 (check8 d F) ^^^ gfShift 9 (check8 d F) = sumQ d F ^^^ gfShift 9 (sumP d F) := by
    rw [← gfMul_check8, gfMul_comm, gfMul_xor_left, gfMul_gfShift_one_left, gfMul_gfShift_one_left]
  calc syndrome1 (encodeSymbols d F) F
      = sumQ d F ^^^ gfShift 8 (check8 d F) ^^^ gfShift 9 (sumP d F ^^^ check8 d F) := hsum
    _ = (gfShift 8 (check8 d F) ^^^ gfShift 9 (check8 d F)) ^^^ (sumQ d F ^^^ gfShift 9 (sumP d F)) := by
      rw [gfShift_xor]
      ac_rfl
    _ = 0 := by simp [hcheck]

theorem leNat_concat (bs : List Byte) (b : Byte) : leNat (bs ++ [b]) = leNat bs + 256 ^ bs.length * b.toNat := by
  induction bs with
  | nil => simp [leNat]
  | cons a bs ih =>
    rw [List.cons_append, leNat, leNat, ih, List.length_cons]
    ring

theorem leNat_wordByte (n : Nat) : leNat ((List.range n).map (wordByte d)) = d.toNat % 256 ^ n := by
  induction n with
  | zero => simp [leNat, Nat.mod_one]
  | succ n ih =>
    have hbyte : (wordByte d n).toNat = d.toNat / 256 ^ n % 256 := by
      simp [wordByte, Nat.shiftRight_eq_div_pow, Nat.pow_mul]
    rw [List.range_succ, List.map_append, List.map_singleton, leNat_concat, ih, hbyte, List.length_map, List.length_range, pow_succ,
      Nat.mod_mul]

theorem dataOf_encodeSymbols : dataOf (encodeSymbols d F) = d := by
  have htake : (encodeSymbols d F).take 8 = (List.range 8).map (wordByte d) := by
    rw [encodeSymbols_eq]
    exact List.take_left' (by simp)
  have hbytes : bytesAt ((List.range 8).map (wordByte d)) 0 8 = (List.range 8).map (wordByte d) := by
    simp [bytesAt]
  have hlt : d.toNat < 256 ^ 8 := d.isLt
  rw [dataOf, htake, wordOfBytes, hbytes, leNat_wordByte, Nat.mod_eq_of_lt hlt, BitVec.ofNat_toNat, BitVec.setWidth_eq]

end Coding

section Errors

variable (sy : List Byte) (F : BitVec 16) (i : Nat) (x : Byte)

@[simp] theorem flipSymbol_length : (flipSymbol sy i x).length = sy.length := List.length_set

variable {sy i}

theorem flipSymbol_getD (hi : i < sy.length) (j : Nat) :
    ((flipSymbol sy i x)[j]?).getD 0 = (sy[j]?).getD 0 ^^^ if j = i then x else 0 := by
  unfold flipSymbol
  by_cases hj : j = i
  case pos => simp [hj, hi]
  case neg => simp [hj, List.getElem?_set_ne (Ne.symm hj)]

/-- A second error of the same pattern undoes the first. -/
theorem flipSymbol_flipSymbol (hi : i < sy.length) : flipSymbol (flipSymbol sy i x) i x = sy := by
  rw [flipSymbol, flipSymbol_getD x hi, flipSymbol, List.set_set]
  simp [hi]

theorem foldl_xor_single {n : Nat} (f : Nat → Byte) :
    (List.range n).foldl (fun acc j => acc ^^^ if j = i then f j else 0) 0#8 = if i < n then f i else 0 := by
  induction n with
  | zero => rfl
  | succ n ih =>
    rw [List.range_succ, List.foldl_append, ih]
    simp only [List.foldl_cons, List.foldl_nil]
    grind

theorem syndrome0_flipSymbol (hlen : sy.length = 10) (hi : i < 10) : syndrome0 (flipSymbol sy i x) F = syndrome0 sy F ^^^ x := by
  have hsplit := foldl_xor_xor (List.range 10) (fun j => (sy[j]?).getD 0) (fun j => if j = i then x else 0) (F.setWidth 8) 0#8
  rw [foldl_xor_single (fun _ => x), if_pos hi] at hsplit
  simpa only [syndrome0, flipSymbol_getD x (hlen ▸ hi), BitVec.xor_zero] using hsplit

theorem syndrome1_flipSymbol (hlen : sy.length = 10) (hi : i < 10) :
    syndrome1 (flipSymbol sy i x) F = syndrome1 sy F ^^^ gfShift i x := by
  have hsplit := foldl_xor_xor (List.range 10) (fun j => gfShift j ((sy[j]?).getD 0)) (fun j => if j = i then gfShift j x else 0)
    ((F >>> 8).setWidth 8) 0#8
  have hterm : ∀ j, gfShift j (if j = i then x else 0) = if j = i then gfShift j x else 0 := by
    intro j
    split <;> simp
  rw [foldl_xor_single (fun j => gfShift j x), if_pos hi] at hsplit
  simpa only [syndrome1, flipSymbol_getD x (hlen ▸ hi), gfShift_xor, hterm, BitVec.xor_zero] using hsplit

variable {F} {G : BitVec 16}

theorem syndrome0_of_fold (h : G.setWidth 8 = F.setWidth 8) : syndrome0 sy G = syndrome0 sy F := by
  rw [syndrome0, syndrome0, h]

theorem syndrome1_of_fold {y : Byte} (h : (G >>> 8).setWidth 8 = (F >>> 8).setWidth 8 ^^^ y) : syndrome1 sy G = syndrome1 sy F ^^^ y := by
  rw [syndrome1, h, foldl_xor_init, syndrome1]

end Errors

end Sys2Proof.Machine
end

section
/-! SUPPORT. Folds (R307): the fold of a hash and a generation, and its two bytes. -/

namespace Sys2Proof.Machine

open Sys2Proof

/-- The fold that a hash of a word's place and a generation give (R307). -/
def foldOfHash (h : Word) (gen : Nat) : BitVec 16 :=
  (h.setWidth 8).setWidth 16 ||| ((((h >>> 8).setWidth 8 ^^^ BitVec.ofNat 8 gen).setWidth 16) <<< 8)

theorem foldOfHash_low (h : Word) (gen : Nat) : (foldOfHash h gen).setWidth 8 = h.setWidth 8 := by
  ext i hi
  simp [foldOfHash]

theorem foldOfHash_high (h : Word) (gen : Nat) : (foldOfHash h gen >>> 8).setWidth 8 = (h >>> 8).setWidth 8 ^^^ BitVec.ofNat 8 gen := by
  ext i hi
  have hhigh : 8 + i < 16 := by omega
  have hlow : i < 16 := by omega
  simp [foldOfHash, hi, hhigh, hlow]

theorem ofNat_bitsOf_eq_foldOfHash (h : Word) (gen : Nat) :
    BitVec.ofNat 16 (bitsOf h.toNat 0 8 + (bitsOf h.toNat 8 8 ^^^ (gen % 256)) * 256) = foldOfHash h gen := by
  have hlow : bitsOf h.toNat 0 8 < 2 ^ 8 := Nat.mod_lt _ (by decide)
  have hhigh : bitsOf h.toNat 8 8 ^^^ (gen % 256) < 2 ^ 8 := Nat.xor_lt_two_pow (Nat.mod_lt _ (by decide)) (Nat.mod_lt _ (by decide))
  have hjoin : bitsOf h.toNat 0 8 + (bitsOf h.toNat 8 8 ^^^ (gen % 256)) * 256 =
      bitsOf h.toNat 0 8 ||| (bitsOf h.toNat 8 8 ^^^ (gen % 256)) <<< 8 := by
    rw [Nat.or_comm, ← Nat.shiftLeft_add_eq_or_of_lt hlow, Nat.shiftLeft_eq, Nat.add_comm]
  have hmod : ∀ n, n % 256 % 65536 = n % 256 := by omega
  refine BitVec.eq_of_toNat_eq ?_
  rw [hjoin]
  simp [foldOfHash, bitsOf, hmod]

section Places

variable {w : Nat} (gen : Nat)

theorem foldGen_t1 (h : w < 2 ^ 38) : foldGen w gen = foldOfHash (mix (BitVec.ofNat 64 (w / 2 ^ 30 * 2 ^ 40 + w % 2 ^ 30))) gen := by
  rw [foldGen, if_pos (by omega), if_pos h, ← ofNat_bitsOf_eq_foldOfHash]

theorem foldGen_t2 (hlow : 2 ^ 38 ≤ w) (hhigh : w < 2 ^ 41) :
    foldGen w gen = foldOfHash (mix (BitVec.ofNat 64 (2 ^ 48 + (w - 2 ^ 38)))) gen := by
  rw [foldGen, if_pos hhigh, if_neg hlow.not_gt, ← ofNat_bitsOf_eq_foldOfHash]

theorem foldGen_pad (h : 2 ^ 41 ≤ w) : foldGen w gen = 0 := if_neg h.not_gt

/-- Outside the pads, the generation enters the fold by its high byte alone. -/
theorem exists_foldGen_eq (hw : w < 2 ^ 41) : ∃ h : Word, ∀ gen, foldGen w gen = foldOfHash h gen := by
  obtain hlow | hlow := Nat.lt_or_ge w (2 ^ 38)
  · exact ⟨_, fun gen => foldGen_t1 gen hlow⟩
  · exact ⟨_, fun gen => foldGen_t2 gen hlow hw⟩

end Places

/-- Settles O56: the word's index holds the channel and the offset that its hash is made of. -/
theorem foldOfAWord : Obligations.FoldOfAWord := by
  refine ⟨?t1, ?t2, ?pad⟩
  case t1 =>
    intro s ch off hch hoff
    have hplace : (ch * 2 ^ 30 + off / 8) / 2 ^ 30 = ch := by omega
    have hrest : (ch * 2 ^ 30 + off / 8) % 2 ^ 30 = off >>> 3 := by omega
    have hjoin : ch * 2 ^ 40 + off >>> 3 = ch <<< 40 ||| off >>> 3 := by
      rw [← Nat.shiftLeft_eq, Nat.shiftLeft_add_eq_or_of_lt]
      omega
    have hgen : s.genOf (ch * 2 ^ 30 + off / 8) = s.fld F.CH_GEN_WGEN ch := by
      rw [Dev.genOf, if_pos (by omega), hplace]
    rw [Dev.foldOf, foldGen_t1 _ (by omega), hplace, hrest, hjoin, hgen]
    rfl
  case t2 =>
    intro s off hoff
    have hrest : 2 ^ 38 + off / 8 - 2 ^ 38 = off >>> 3 := by omega
    have hjoin : 2 ^ 48 + off >>> 3 = 1 <<< 48 ||| off >>> 3 := by
      rw [← Nat.one_shiftLeft, Nat.shiftLeft_add_eq_or_of_lt]
      omega
    have hgen : s.genOf (2 ^ 38 + off / 8) = s.ugenOf (off / 2 ^ 30) := by
      have hunit : off >>> 3 / 2 ^ 27 = off / 2 ^ 30 := by omega
      rw [Dev.genOf, if_neg (by omega), if_pos (by omega), hrest, hunit]
    rw [Dev.foldOf, foldGen_t2 _ (by omega) (by omega), hrest, hjoin, hgen]
    rfl
  case pad =>
    intro s w hw
    exact foldGen_pad _ hw

end Sys2Proof.Machine
end

section
/-! SUPPORT. What a read of a code word finds (R305–R309). -/

namespace Sys2Proof.Machine

open Sys2Proof

theorem map_range_getD {sy : List Byte} {n : Nat} (hlen : sy.length = n) : (List.range n).map (fun i => (sy[i]?).getD 0) = sy := by
  refine List.ext_getElem (by simp [hlen]) fun i _ hi => ?_
  simp [hi]

theorem syndrome0_eq_foldl {sy : List Byte} (F : BitVec 16) (hlen : sy.length = 10) : syndrome0 sy F = sy.foldl (· ^^^ ·) (F.setWidth 8) := by
  conv_rhs => rw [← map_range_getD hlen, List.foldl_map]
  rfl

/-- Settles O55: the product with the inverse solves the equation for c8, and the field's laws are those of the powers of α. -/
theorem checkSymbolsOfAWord : Obligations.CheckSymbolsOfAWord := by
  refine ⟨fun d F => ?code, gfDouble_toNat, fun a b c => ?product, fun a ha => gfMul_gfInv ha⟩
  case code =>
    refine ⟨check8 d F, sumP d F ^^^ check8 d F, encodeSymbols_eq d F, gfMul_check8 d F, rfl, ?_, syndrome1_encodeSymbols d F⟩
    rw [← syndrome0_eq_foldl F (encodeSymbols_length d F), syndrome0_encodeSymbols]
  case product => exact ⟨gfMul_xor_left a b c, gfMul_gfDouble_left a b, gfMul_comm a b, gfMul_one_left a⟩

/-- Settles O57: where S0 is not zero, S1 is zero too or S0 times α to one power, which names the symbol. -/
theorem readsAreClassified : Obligations.ReadsAreClassified := by
  intro sy F S0 S1 hlen hS0 hS1
  rw [← syndrome0_eq_foldl F hlen] at hS0
  change S1 = syndrome1 sy F at hS1
  subst hS0 hS1
  by_cases h0 : syndrome0 sy F = 0
  case pos =>
    by_cases h1 : syndrome1 sy F = 0
    case pos => exact .inl ⟨h0, h1, classify_clean h0 h1⟩
    case neg => exact .inr (.inl ⟨h0, h1, classify_stale h0 h1⟩)
  case neg =>
    by_cases h1 : syndrome1 sy F = 0
    case pos =>
      refine .inr (.inr (.inl ⟨h0, h1, classify_uncorrectable h0 fun l _ => ?_⟩))
      rw [h1]
      exact (gfShift_eq_zero _ l).not.mpr h0
    case neg =>
      obtain ⟨L, hL, hquot⟩ := exists_gfShift_eq h0 h1
      have hunique : ∀ M < 255, gfShift M (syndrome0 sy F) = syndrome1 sy F → M = L := fun M hM h =>
        (gfShift_exponent_inj h0 hM hL).mp (h.trans hquot.symm)
      refine .inr (.inr (.inr ⟨h0, L, hL, hquot, hunique, fun hbig => ?_, fun hsmall hbit => ?_, fun hsmall hbits => ?_⟩))
      · exact classify_uncorrectable h0 fun l hl h => absurd (hunique l (by omega) h) (by omega)
      · rw [classify_corrected h0 (by omega) hquot, if_pos ((popcount8_eq_one _).mpr hbit), flipSymbol]
      · rw [classify_corrected h0 (by omega) hquot, if_neg ((popcount8_eq_one _).not.mpr hbits), flipSymbol]

section StoredWords

variable (d : Word) (F : BitVec 16) {i j : Nat} {x y : Byte}

theorem syndromes_flipSymbol_encodeSymbols (hi : i < 10) :
    syndrome0 (flipSymbol (encodeSymbols d F) i x) F = x ∧ syndrome1 (flipSymbol (encodeSymbols d F) i x) F = gfShift i x := by
  rw [syndrome0_flipSymbol F x (encodeSymbols_length d F) hi, syndrome1_flipSymbol F x (encodeSymbols_length d F) hi,
    syndrome0_encodeSymbols, syndrome1_encodeSymbols]
  exact ⟨BitVec.zero_xor, BitVec.zero_xor⟩

theorem classify_encodeSymbols : classify (encodeSymbols d F) F = (.clean, encodeSymbols d F) :=
  classify_clean (syndrome0_encodeSymbols d F) (syndrome1_encodeSymbols d F)

/-- An error within one symbol is its own correction: S0 is its pattern, and S1 names its place. -/
theorem classify_flipSymbol_encodeSymbols (hi : i < 10) (hx : x ≠ 0) :
    classify (flipSymbol (encodeSymbols d F) i x) F =
      (if popcount8 x = 1 then .correctedBit i else .correctedSymbol i, encodeSymbols d F) := by
  obtain ⟨h0, h1⟩ := syndromes_flipSymbol_encodeSymbols d F (x := x) hi
  rw [classify_corrected (by rwa [h0]) hi (by rw [h0, h1]), h0, flipSymbol_flipSymbol x (by simpa using hi)]

/-- Two errors that S0 does not see have one pattern, and α to their places then tells them apart in S1. -/
theorem classify_flipSymbol_flipSymbol_ne_clean (hi : i < 10) (hj : j < 10) (hij : i ≠ j) (hx : x ≠ 0) :
    (classify (flipSymbol (flipSymbol (encodeSymbols d F) i x) j y) F).1 ≠ .clean := by
  intro hclean
  obtain ⟨h0, h1⟩ := syndromes_of_clean hclean
  obtain ⟨hfirst0, hfirst1⟩ := syndromes_flipSymbol_encodeSymbols d F (x := x) hi
  rw [syndrome0_flipSymbol F y (by simp) hj, hfirst0] at h0
  rw [syndrome1_flipSymbol F y (by simp) hj, hfirst1] at h1
  obtain rfl : x = y := BitVec.xor_eq_zero_iff.mp h0
  exact hij ((gfShift_exponent_inj hx (by omega) (by omega)).mp (BitVec.xor_eq_zero_iff.mp h1))

/-- A change of generation leaves S0 and adds the difference of the generations to S1. -/
theorem classify_other_generation {w g h : Nat} (hw : w < 2 ^ 41) (hg : g < 256) (hh : h < 256) (hne : g ≠ h) :
    (classify (encodeSymbols d (foldGen w g)) (foldGen w h)).1 = .stale := by
  obtain ⟨z, hz⟩ := exists_foldGen_eq hw
  have hlow : (foldGen w h).setWidth 8 = (foldGen w g).setWidth 8 := by
    rw [hz, hz, foldOfHash_low, foldOfHash_low]
  have hhigh : (foldGen w h >>> 8).setWidth 8 = (foldGen w g >>> 8).setWidth 8 ^^^ (BitVec.ofNat 8 g ^^^ BitVec.ofNat 8 h) := by
    rw [hz, hz, foldOfHash_high, foldOfHash_high, BitVec.xor_assoc, ← BitVec.xor_assoc (BitVec.ofNat 8 g), BitVec.xor_self,
      BitVec.zero_xor]
  have h0 : syndrome0 (encodeSymbols d (foldGen w g)) (foldGen w h) = 0 := by
    rw [syndrome0_of_fold hlow, syndrome0_encodeSymbols]
  have h1 : syndrome1 (encodeSymbols d (foldGen w g)) (foldGen w h) ≠ 0 := by
    rw [syndrome1_of_fold hhigh, syndrome1_encodeSymbols]
    intro heq
    have hgen : BitVec.ofNat 8 g = BitVec.ofNat 8 h := BitVec.xor_eq_zero_iff.mp (BitVec.zero_xor.symm.trans heq)
    have hmod := congrArg BitVec.toNat hgen
    rw [BitVec.toNat_ofNat, BitVec.toNat_ofNat, Nat.mod_eq_of_lt hg, Nat.mod_eq_of_lt hh] at hmod
    exact hne hmod
  rw [classify_stale h0 h1]

end StoredWords

/-- Settles O58: an error adds its pattern to S0 and its pattern times α to its place to S1; a change of generation adds to S1 alone. -/
theorem singleSymbolErrorsAreCorrected : Obligations.SingleSymbolErrorsAreCorrected := by
  refine ⟨fun d F => ⟨classify_encodeSymbols d F, dataOf_encodeSymbols d F⟩, fun d F i x hi hx => ?single,
    fun d w g h hw hg hh hne => classify_other_generation d hw hg hh hne, fun d F i j x y hi hj hij hx _ => ?double⟩
  case single =>
    have hread := classify_flipSymbol_encodeSymbols d F hi hx
    unfold flipSymbol at hread
    rw [hread]
    refine ⟨?_, dataOf_encodeSymbols d F⟩
    dsimp only
    split
    · exact .inl rfl
    · exact .inr rfl
  case double =>
    have hother : ((encodeSymbols d F)[j]?).getD 0 = ((flipSymbol (encodeSymbols d F) i x)[j]?).getD 0 := by
      rw [flipSymbol_getD x (by simpa using hi), if_neg hij.symm]
      exact BitVec.xor_zero.symm
    rw [hother]
    exact classify_flipSymbol_flipSymbol_ne_clean d F hi hj hij hx

end Sys2Proof.Machine
end

section
/-! SUPPORT. Words of the memory (R305, R306, R312): the ten symbols of a word read as they were stored, and those of other words as before. -/

namespace Sys2Proof.Machine

open Sys2Proof

/-- What a cell holds where one is listed or the spec gives it. -/
def Mem.cell (m : Mem) (a : Nat) : Option Byte := (SMap.find m.cells a).or (m.dflt a)

theorem Mem.symbols_eq_cell (m : Mem) (pow w : Nat) :
    m.symbols pow w = (List.range 10).map fun i => (m.cell (16 * w + i)).getD (((m.openSymbols pow w)[i]?).getD 0) := by
  unfold Mem.symbols Mem.cell
  congr 1
  funext i
  cases SMap.find m.cells (16 * w + i) with
  | some b => rfl
  | none => cases m.dflt (16 * w + i) <;> rfl

@[simp] theorem SMap.find_del_same {α : Type} (m : SMap α) (k : Nat) : SMap.find (SMap.del m k) k = none := by
  induction m with
  | nil => rfl
  | cons e m ih =>
    obtain ⟨j, v⟩ := e
    unfold SMap.del at ih ⊢
    rw [List.filter_cons]
    split
    case isTrue hj =>
      have hne : k ≠ j := fun h => by simp [h] at hj
      rw [SMap.find, if_neg hne, ih]
    case isFalse => exact ih

@[simp] theorem Mem.put_fill (m : Mem) (a : Nat) (b : Byte) : (m.put a b).fill = m.fill := by
  unfold Mem.put
  split <;> rfl

@[simp] theorem Mem.put_t2Pass (m : Mem) (a : Nat) (b : Byte) : (m.put a b).t2Pass = m.t2Pass := by
  unfold Mem.put
  split <;> rfl

/-- What an unlisted cell reads as turns on the fills of the channels alone. -/
theorem Mem.dflt_of_fill {m m' : Mem} (h : m'.fill = m.fill) (a : Nat) : m'.dflt a = m.dflt a := by
  rw [Mem.dflt, Mem.dflt, h]

theorem Mem.cell_put_same (m : Mem) (a : Nat) (b : Byte) : (m.put a b).cell a = some b := by
  rw [Mem.cell, Mem.dflt_of_fill (m.put_fill a b)]
  unfold Mem.put
  split
  case isTrue hd => simp [hd]
  case isFalse => simp

theorem Mem.cell_put_other (m : Mem) {a c : Nat} (b : Byte) (h : c ≠ a) : (m.put a b).cell c = m.cell c := by
  rw [Mem.cell, Mem.cell, Mem.find_put_other m b h, Mem.dflt_of_fill (m.put_fill a b)]

/-- Cells of a word written one after the other: what each of them, and what every other cell then holds. -/
theorem Mem.cell_foldl_put (m : Mem) (w n c : Nat) (f : Nat → Byte) :
    ((List.range n).foldl (fun m i => m.put (16 * w + i) (f i)) m).cell c =
      if 16 * w ≤ c ∧ c < 16 * w + n then some (f (c - 16 * w)) else m.cell c := by
  induction n with
  | zero =>
    rw [if_neg (by omega)]
    rfl
  | succ n ih =>
    rw [List.range_succ, List.foldl_append, List.foldl_cons, List.foldl_nil]
    by_cases hc : c = 16 * w + n
    case pos =>
      rw [hc, Mem.cell_put_same, if_pos (by omega), Nat.add_sub_cancel_left]
    case neg =>
      have hiff : (16 * w ≤ c ∧ c < 16 * w + (n + 1)) ↔ (16 * w ≤ c ∧ c < 16 * w + n) := by omega
      rw [Mem.cell_put_other _ _ hc, ih]
      simp only [hiff]

section Symbols

variable (m : Mem) (w : Nat) (sy : List Byte)

theorem Mem.putSymbols_t2Pass : (m.putSymbols w sy).t2Pass = m.t2Pass :=
  List.foldlRecOn (motive := fun m' : Mem => m'.t2Pass = m.t2Pass) _ _ rfl fun _ ih _ _ => by rw [Mem.put_t2Pass, ih]

theorem Mem.cell_putSymbols (c : Nat) : (m.putSymbols w sy).cell c =
    if 16 * w ≤ c ∧ c < 16 * w + 10 then some ((sy[c - 16 * w]?).getD 0) else m.cell c :=
  Mem.cell_foldl_put m w 10 c fun i => (sy[i]?).getD 0

theorem Mem.symbols_putSymbols_same (pow : Nat) (hlen : sy.length = 10) : (m.putSymbols w sy).symbols pow w = sy := by
  rw [Mem.symbols_eq_cell]
  conv_rhs => rw [← map_range_getD hlen]
  refine List.map_congr_left fun i hi => ?_
  have hi : i < 10 := List.mem_range.mp hi
  rw [Mem.cell_putSymbols, if_pos (by omega), Nat.add_sub_cancel_left, Option.getD_some]

theorem Mem.symbols_putSymbols_other (pow : Nat) {u : Nat} (h : u ≠ w) : (m.putSymbols w sy).symbols pow u = m.symbols pow u := by
  have hopen : (m.putSymbols w sy).openSymbols pow u = m.openSymbols pow u := by
    rw [Mem.openSymbols, Mem.openSymbols, Mem.putSymbols_t2Pass]
  rw [Mem.symbols_eq_cell, Mem.symbols_eq_cell, hopen]
  refine List.map_congr_left fun i hi => ?_
  have hi : i < 10 := List.mem_range.mp hi
  have hout : ¬ (16 * w ≤ 16 * u + i ∧ 16 * u + i < 16 * w + 10) := by omega
  rw [Mem.cell_putSymbols, if_neg hout]

end Symbols

/-- Settles O59: the word's cells hold its code word under the fold in force, and no other cell changes. -/
theorem wordsReadAsWritten : Obligations.WordsReadAsWritten := by
  refine ⟨fun s w v => ?same, fun s w u v hu => ?other, fun s w v hwf => ⟨Mem.wf_putSymbols hwf w _, rfl⟩⟩
  case same =>
    have hsymbols : (s.writeWord w v).symbolsOf w = encodeSymbols v (s.foldOf w) :=
      Mem.symbols_putSymbols_same s.mem w _ s.powerOns (encodeSymbols_length v _)
    have hfold : (s.writeWord w v).foldOf w = s.foldOf w := rfl
    rw [Dev.readWord, hsymbols, hfold, classify_encodeSymbols, dataOf_encodeSymbols]
  case other =>
    have hsymbols : (s.writeWord w v).symbolsOf u = s.symbolsOf u := Mem.symbols_putSymbols_other s.mem w _ s.powerOns hu
    have hfold : (s.writeWord w v).foldOf u = s.foldOf u := rfl
    rw [Dev.readWord, Dev.readWord, hsymbols, hfold]

end Sys2Proof.Machine
end

section
/-! SUPPORT. The channels of the two tiers (R311, R315, R317, R319, R323, R325, R326, R342, R343): what each command does where its conditions
hold. -/

namespace Sys2Proof.Machine

open Sys2Proof

section Channels

variable {s : Dev} {ctl : Nat}

/-- The channel as it stands once requests have arrived (R325). -/
def Dev.arrived (s : Dev) (ctl : Nat) (arrive : List ChReq) : ChanSt := (arrive.foldl (fun c q => c.arrive s.time q) (s.chan ctl)).mode

theorem Dev.channelAccess_serves {arrive : List ChReq} {upset : List (Nat × Nat × Byte)} {q : ChReq} (hup : s.ctlUp ctl = true)
    (hpick : (s.arrived ctl arrive).pick ((s.setChan ctl (s.arrived ctl arrive)).inFallback ctl) = some q) :
    s.channelAccess ctl arrive upset = (
      let t := s.setChan ctl (s.arrived ctl arrive)
      let w0 := t.burstWord ctl q.blk
      let t := upset.foldl (fun t u => t.upset (w0 + u.1 % 32) u.2.1 u.2.2) t
      let r := (t.serveQueue ctl).2.countHot ctl q
      r.flushNotices r.notices.length) := by
  have hacts : ¬ (!s.ctlUp ctl) = true := by simp [hup]
  rw [Dev.channelAccess, if_neg hacts]
  unfold Dev.arrived at hpick
  dsimp only
  rw [hpick]
  rfl

theorem Dev.ageFallback_switches (hup : s.ctlUp ctl = true) (hnew : s.inFallback ctl = false)
    (hwaits : ((s.chan ctl).rdq ++ (s.chan ctl).wrq).isEmpty = false) :
    s.ageFallback ctl = (
      if ctl < 256 then (s.setFallback ctl true).count F.CH_COUNTS_FALLBACKS ctl 1
      else (s.setFallback ctl true).count F.T2_COUNTS_FALLBACKS (ctl - 256) 1) := by
  have hacts : ¬ (s.inFallback ctl || ((s.chan ctl).rdq ++ (s.chan ctl).wrq).isEmpty || !s.ctlUp ctl) = true := by
    simp only [hup, hnew, hwaits, Bool.not_true, Bool.or_self, Bool.false_eq_true, not_false_eq_true]
  exact if_neg hacts

theorem Dev.patrolScrub_reads {upset : List (Nat × Byte)} (hup : s.ctlUp ctl = true) (hserves : s.ctlFailed ctl = false)
    (hperiod : s.scrubPeriod ctl ≠ 0) (hwords : s.scrubWords ctl ≠ 0)
    (hused : (decide (256 ≤ ctl) && !s.flag F.T2_STATUS_USED (ctl - 256)) = false) :
    s.patrolScrub ctl upset = (
      let w := s.ctlWord ctl (8 * (s.chan ctl).scrub)
      let x := (upset.foldl (fun t u => t.upset w u.1 u.2) s).seen ctl w
      let t := x.2.2.putSymbols w (scrubSymbols w (x.2.2.genOf w) (x.2.2.symbolsOf w))
      (t.limit ctl (s.ueOf ctl)).scrubNext ctl) := by
  have hacts : ¬ (!s.ctlUp ctl || s.ctlFailed ctl || decide (s.scrubPeriod ctl = 0) || decide (s.scrubWords ctl = 0)
      || (decide (256 ≤ ctl) && !s.flag F.T2_STATUS_USED (ctl - 256))) = true := by
    simp only [hup, hserves, hperiod, hwords, hused, decide_false, Bool.not_true, Bool.or_self, Bool.false_eq_true, not_false_eq_true]
  exact if_neg hacts

theorem Dev.writeChCtrl_mapout {c : Nat} {w : Word} (h : F.CH_CTRL_MAPOUT.get w = 1) :
    s.writeChCtrl c w = ((s.storeReg ⟨.CH_CTRL, c⟩ w).setFlag F.CH_CTRL_MAPOUT c false).mapOut c 4 := if_pos h

theorem Dev.dimmTemp_sets {m : Nat} {temp : Int} (hfitted : s.flag F.T2_STATUS_POPULATED m = true) (hup : s.ctlUp (256 + m) = true) :
    s.dimmTemp m temp = s.setChan (256 + m) { s.chan (256 + m) with temp := temp, refresh := Config.refreshRate temp } :=
  if_pos (by rw [hfitted, hup]; rfl)

theorem Dev.hotDecay_halves {m : Nat} (h : s.fld F.T2_CTRL_HOT_DECAY m ≠ 0) :
    s.hotDecay m = { s with hots := SMap.set s.hots m { SMap.get s.hots .init m with
      table := (SMap.get s.hots .init m).table.map (fun e => (e.1, { e.2 with
        count := e.2.count / 2, notified := e.2.notified && !decide (e.2.count / 2 < (s.hotThresholdOf e.2.page + 1) / 2) })) } } := if_neg h

end Channels

/-- Settles O22, a case for each command: the channel is in the state that the command acts in. -/
theorem memoryChannelCommandsTakeEffect : Obligations.MemoryChannelCommandsTakeEffect := by
  refine ⟨?t1, ?t2, ?age, ?scrub, ?mapout, ?temperature, ?decay, ?training, ?epoch⟩
  case t1 =>
    intro s ch arrive upset q hclk hshape hup hpick
    rw [exec_t1ChannelAccess, execT1ChannelAccess, shaped_true hshape, State.after_clocked hclk, Dev.channelAccess_serves hup hpick]
    rfl
  case t2 =>
    intro s m arrive upset q hclk hshape hup hpick
    rw [exec_t2ChannelAccess, execT2ChannelAccess, shaped_true hshape, State.after_clocked hclk, Dev.channelAccess_serves hup hpick]
    rfl
  case age =>
    intro s ctl hclk hup hnew hwaits
    rw [exec_ageFallback, execAgeFallback, State.after_clocked hclk, Dev.ageFallback_switches hup hnew hwaits]
  case scrub =>
    intro s ctl upset hclk hup hserves hperiod hwords hused
    rw [exec_patrolScrub, execPatrolScrub, State.after_clocked hclk, Dev.patrolScrub_reads hup hserves hperiod hwords hused]
  case mapout =>
    intro s who ch v hclk htakes hmapout
    rw [exec_channelMapout, execChannelMapout, State.after_clocked hclk, Dev.asWriter_takes htakes, Dev.writeChCtrl_mapout hmapout]
  case temperature =>
    intro s m temp hclk hfitted hup
    rw [exec_dimmTempRead, execDimmTempRead, State.after_clocked hclk, Dev.dimmTemp_sets hfitted hup]
  case decay =>
    intro s m hclk hdecays
    rw [exec_hotDecay, execHotDecay, State.after_clocked hclk, Dev.hotDecay_halves hdecays]
  case training =>
    intro s ctl hclk
    rw [exec_channelTrainingLost, execChannelTrainingLost, State.after_clocked hclk]
    rfl
  case epoch =>
    intro s who p epoch v hclk htakes
    rw [exec_epochWrite, execEpochWrite, State.after_clocked hclk, Dev.asWriter_takes htakes]

end Sys2Proof.Machine
end

section
/-! SUPPORT. The slices of the system cache (R331, R334–R337, R506): what each command does where its conditions hold. -/

namespace Sys2Proof.Machine

open Sys2Proof

section Slices

variable {s : Dev} {g : Nat}

theorem Dev.scRequest_serves {k blk : Nat} {r : ScReq} {f : ScFault} (hup : s.scUp g = true) :
    s.scRequest g k blk r f = (s.scMeets g k blk r.sector f).scQueue g k blk r false := if_pos hup

/-- A fill with its miss register and its answer serves what merged with it, and what waits is tried again (R331). -/
theorem Dev.scFill_serves {k blk : Nat} {m : MissReg} {ms : List MissReg} {d : ChDone} {left : List ChDone} (hup : s.scUp g = true)
    (hmiss : takeFirst (fun (m : MissReg) => m.chan == k && m.blk == blk) (s.sc g).miss = some (m, ms))
    (hdone : takeFirst (fun (d : ChDone) => d.req.src == .scFill && d.req.blk == blk) (s.chan (8 * g + k)).done = some (d, left)) :
    s.scFill g k blk = (
      let t := s.setChan (8 * g + k) { s.chan (8 * g + k) with done := left }
      let t := t.setSc g { t.sc g with miss := ms }
      let ws := if d.words.isEmpty then (List.range 32).map (fun _ => (true, (0 : Word))) else d.words
      let t := t.scServeFill g k blk ws m.reqs
      (t.sc g).waiting.foldl (fun t x => t.scQueue g x.1 x.2.1 x.2.2 true) (t.setSc g { t.sc g with waiting := [] })) := by
  rw [Dev.scFill, if_pos hup, Dev.scFillOp, hmiss, hdone, Dev.scRetry]

/-- A prefetched line that is wanted, not dead, and whole enters the side buffer (R334). -/
theorem Dev.scPrefetchFill_buffers {k blk : Nat} {d : ChDone} {left : List ChDone}
    (hdone : takeFirst (fun (d : ChDone) => d.req.src == .scPrefetch && d.req.blk == blk) (s.chan (8 * g + k)).done = some (d, left))
    (hwanted : ((s.setChan (8 * g + k) { s.chan (8 * g + k) with done := left }).sc g).pfOut.contains (k, blk) = true)
    (halive : ((s.setChan (8 * g + k) { s.chan (8 * g + k) with done := left }).sc g).pfDead.contains (k, blk) = false)
    (hlen : d.words.length = 32) (hgood : d.words.any (·.1) = false) :
    s.scPrefetchFill g k blk = (
      let t := s.setChan (8 * g + k) { s.chan (8 * g + k) with done := left }
      let c : ScSt := { t.sc g with pfOut := (t.sc g).pfOut.erase (k, blk), pfDead := (t.sc g).pfDead.erase (k, blk) }
      let b := c.buffer ++ [(k, blk, fillSectors d.words)]
      t.setSc g { c with buffer := b.drop (b.length - 64) }) := by
  have hkept : ¬ (!((s.setChan (8 * g + k) { s.chan (8 * g + k) with done := left }).sc g).pfOut.contains (k, blk)
      || ((s.setChan (8 * g + k) { s.chan (8 * g + k) with done := left }).sc g).pfDead.contains (k, blk)) = true := by
    simp only [hwanted, halive, Bool.not_true, Bool.or_self, Bool.false_eq_true, not_false_eq_true]
  have hwhole : ¬ (decide (d.words.length ≠ 32) || d.words.any (·.1)) = true := by
    simp only [hlen, hgood, ne_eq, not_true_eq_false, decide_false, Bool.or_self, Bool.false_eq_true, not_false_eq_true]
  rw [Dev.scPrefetchFill, hdone]
  exact (if_neg hkept).trans (if_neg hwhole)

theorem Dev.writeScPreload_go {w : Word} (hgo : F.SC_PRELOAD_CTRL_GO.get w = 1) (hunlock : F.SC_PRELOAD_CTRL_UNLOCK.get w = 0)
    (hidle : s.flag F.SC_PRELOAD_CTRL_GO g = false) :
    s.writeScPreload g w = (s.setFld F.SC_PRELOAD_CTRL_LINES g (F.SC_PRELOAD_CTRL_LINES.get w)).scPreloadStart g := by
  simp [Dev.writeScPreload, hgo, hunlock, hidle]

theorem Dev.writeScPreload_unlock {w : Word} (hgo : F.SC_PRELOAD_CTRL_GO.get w = 0) (hunlock : F.SC_PRELOAD_CTRL_UNLOCK.get w = 1) :
    s.writeScPreload g w = (s.setFld F.SC_PRELOAD_CTRL_LINES g (F.SC_PRELOAD_CTRL_LINES.get w)).setFld F.SC_WAYS_LOCK g 0 := by
  simp [Dev.writeScPreload, hgo, hunlock]

theorem Dev.scPreloadDone_runs (h : s.flag F.SC_PRELOAD_CTRL_GO g = true) :
    s.scPreloadDone g = (
      let t := s.scPreloadRange g (s.fld F.SC_PRELOAD_ADDR_ADDR g * 256) ((s.sc g).preload.headD 0)
      (t.setSc g { t.sc g with preload := [] }).setFlag F.SC_PRELOAD_CTRL_GO g false) := by
  have hacts : ¬ (!s.flag F.SC_PRELOAD_CTRL_GO g) = true := by simp [h]
  exact if_neg hacts

/-- The end of a way window powers up the first unpowered way where misses ask for one, else starts a way down (R506). -/
theorem Dev.scWayWindow_judges (hwindow : s.fld F.PWR_IDLE_WAY_WINDOW (g / 4) ≠ 0) (hkept : s.flag F.SC_STATUS_LOST g = false)
    (hup : s.scUp g = true) :
    s.scWayWindow g = (
      let c := s.sc g
      let t := s.setSc g { c with hits := [], misses := 0 }
      let on := s.fld F.SC_STATUS_WAYS_ON g
      let down := t.scWayDown g on (s.fld F.SC_WAYS_LOCK g) ((List.range 16).filter (bitOf on)).length c.hits
      match (List.range 16).find? (fun w => !bitOf on w) with
      | some w => if c.misses ≥ s.fld F.PWR_IDLE_WAY_UP_MISSES (g / 4) * 256 then t.setFld F.SC_STATUS_WAYS_ON g (on + 2 ^ w) else down
      | none => down) := by
  have hacts : ¬ (decide (s.fld F.PWR_IDLE_WAY_WINDOW (g / 4) = 0) || s.flag F.SC_STATUS_LOST g || !s.scUp g) = true := by
    simp only [hwindow, hkept, hup, decide_false, Bool.not_true, Bool.or_self, Bool.false_eq_true, not_false_eq_true]
  exact if_neg hacts

theorem Dev.scWayGated_drops {w : Nat} (h : (s.sc g).downing.contains w = true) :
    s.scWayGated g w = (
      if bitOf (s.fld F.SC_WAYS_LOCK g) w
          || ((List.range 16).filter (bitOf (s.fld F.SC_STATUS_WAYS_ON g))).length ≤ s.fld F.SC_WAYS_MIN_ON g then
        s.setSc g { s.sc g with downing := (s.sc g).downing.erase w }
      else
        let t := ((s.sc g).lines.filter (fun l => l.way == w)).foldl (fun t l => (t.scWriteBack g l 3).scDrop g l.chan l.blk) s
        let t := t.setSc g { t.sc g with downing := (t.sc g).downing.erase w }
        t.setFld F.SC_STATUS_WAYS_ON g (t.fld F.SC_STATUS_WAYS_ON g &&& (0xFFFF - 2 ^ w))) := by
  have hacts : ¬ (!(s.sc g).downing.contains w) = true := by simp only [h, Bool.not_true, Bool.false_eq_true, not_false_eq_true]
  exact if_neg hacts

end Slices

/-- Settles O23, a case for each command: the slice is in the state that the command acts in. -/
theorem systemCacheCommandsTakeEffect : Obligations.SystemCacheCommandsTakeEffect := by
  refine ⟨?request, ?fill, ?prefetch, ?go, ?done, ?unlock, ?window, ?gated⟩
  case request =>
    intro s g chan blk r fault hclk hshape hup
    rw [exec_scRequest, execScRequest, shaped_true hshape, State.after_clocked hclk, Dev.scRequest_serves hup]
  case fill =>
    intro s g chan blk m ms d left hclk hup hmiss hdone
    rw [exec_scFill, execScFill, State.after_clocked hclk, Dev.scFill_serves hup hmiss hdone]
  case prefetch =>
    intro s g chan blk d left hclk hdone hwanted halive hlen hgood
    rw [exec_scPrefetchFill, execScPrefetchFill, State.after_clocked hclk, Dev.scPrefetchFill_buffers hdone hwanted halive hlen hgood]
  case go =>
    intro s who g v hclk htakes hgo hunlock hidle
    rw [exec_scPreloadGo, execScPreloadGo, State.after_clocked hclk, Dev.asWriter_takes htakes, Dev.writeScPreload_go hgo hunlock hidle]
  case done =>
    intro s g hclk hruns
    rw [exec_scPreloadDone, execScPreloadDone, State.after_clocked hclk, Dev.scPreloadDone_runs hruns]
  case unlock =>
    intro s who g v hclk htakes hgo hunlock
    rw [exec_scUnlock, execScUnlock, State.after_clocked hclk, Dev.asWriter_takes htakes, Dev.writeScPreload_unlock hgo hunlock]
  case window =>
    intro s g hclk hwindow hkept hup
    rw [exec_scWayWindow, execScWayWindow, State.after_clocked hclk]
    exact congrArg (fun d => Host.Outcome.next (s.withDev d)) (Dev.scWayWindow_judges hwindow hkept hup)
  case gated =>
    intro s g way hclk hdowning
    rw [exec_scWayPowerDownDone, execScWayPowerDownDone, State.after_clocked hclk, Dev.scWayGated_drops hdowning]

end Sys2Proof.Machine
end

section
/-! SUPPORT. Coherence messages in flight (R310, R352, R355, R356, R360, R361, R364): what the taking of each does at its home, its L2 or the agent
that asked. -/

namespace Sys2Proof.Machine

open Sys2Proof

/-- The messages that a command takes: a writeback, a snoop's answer with or without data, a completion, data. -/
def NetMsg.isWbDirty (core line : Nat) (m : NetMsg) : Bool :=
  match m with
  | .wbDirty c l _ => c == core && l == line
  | _ => false

def NetMsg.isAnswer (core line : Nat) (withData : Bool) (m : NetMsg) : Bool :=
  match m with
  | .snpAck c l => !withData && c == core && l == line
  | .snpData c l _ => withData && c == core && l == line
  | _ => false

def NetMsg.isComp (dst : Agent) (line tag : Nat) (m : NetMsg) : Bool :=
  match m with
  | .comp a l t _ => a == dst && l == line && t == tag
  | _ => false

def NetMsg.isData (dst : Agent) (line tag : Nat) (m : NetMsg) : Bool :=
  match m with
  | .data a l t _ _ => a == dst && l == line && t == tag
  | _ => false

section Homes

variable {s d : Dev} {core line h : Nat}

theorem Dev.wbDirtyCmd_takes {x : Line} (hhome : s.homeOf line = some h)
    (htake : s.takeMsg (NetMsg.isWbDirty core line) = some (.wbDirty core line x, d)) (hlive : (s.l2 core).dead = false)
    (hidle : s.lineBusy h line = false) :
    s.wbDirtyCmd core line = (d.wbTaken h core line x).2.send (.comp (.core core) line 1 (d.wbTaken h core line x).1) := by
  unfold Dev.wbDirtyCmd
  generalize htaken : s.takeMsg _ = r
  obtain rfl := htaken.symm.trans htake
  simp [hhome, hlive, hidle]

/-- A writeback of the owner that the filter names is written, another crosses and is counted (R355, R360). -/
theorem Dev.wbTaken_answered (d : Dev) (h core line : Nat) (x : Line) :
    (d.wbTaken h core line x).2.send (.comp (.core core) line 1 (d.wbTaken h core line x).1) =
      if d.ownerIs h line core then
        let w := d.memWrite (d.l2Req .wrLine core line) x fullMask
        ((w.2.freeDir h line).stamp line).send (.comp (.core core) line 1 w.1)
      else (d.count F.HOME_COUNTS_CROSSINGS h 1).send (.comp (.core core) line 1 .ok) := by
  unfold Dev.wbTaken
  split <;> rfl

theorem Dev.evictCleanCmd_takes (hhome : s.homeOf line = some h)
    (htake : s.takeMsg (fun m => decide (m = .evictClean core line)) = some (.evictClean core line, d)) (hlive : (s.l2 core).dead = false)
    (hidle : s.lineBusy h line = false) : s.evictCleanCmd core line = d.cleanTaken h core line := by
  simp [Dev.evictCleanCmd, hhome, htake, hlive, hidle]

theorem Dev.lostNoteCmd_loses {e : FiltEntry} (hhome : s.homeOf line = some h)
    (htake : s.takeMsg (fun m => decide (m = .lostNote core line)) = some (.lostNote core line, d)) (hidle : s.lineBusy h line = false)
    (hentry : d.dir h line = some e) (hholds : e.holders.contains core = true) :
    s.lostNoteCmd core line = (d.freeDir h line).lose h line 2 core := by
  simp only [Dev.lostNoteCmd, hhome, htake, hidle, hentry, hholds, Bool.false_eq_true, if_true, if_false]

theorem Dev.answerCmd_ack (hhome : s.homeOf line = some h)
    (htake : s.takeMsg (NetMsg.isAnswer core line false) = some (.snpAck core line, d)) :
    s.answerCmd core line false = (d.takeAnswer h core line none).pump h := by
  unfold Dev.answerCmd
  generalize htaken : s.takeMsg _ = r
  obtain rfl := htaken.symm.trans htake
  rw [hhome]

theorem Dev.answerCmd_data {x : Line} (hhome : s.homeOf line = some h)
    (htake : s.takeMsg (NetMsg.isAnswer core line true) = some (.snpData core line x, d)) :
    s.answerCmd core line true = (d.takeAnswer h core line (some x)).pump h := by
  unfold Dev.answerCmd
  generalize htaken : s.takeMsg _ = r
  obtain rfl := htaken.symm.trans htake
  rw [hhome]

end Homes

section Snoops

/-- What an L2 sends once a snoop has found a dirty line or none (R356). -/
def Dev.sendAnswer (n line : Nat) (x : Option Line × Dev) : Dev :=
  if let some y := x.1 then x.2.send (.snpData n line y) else x.2.send (.snpAck n line)

theorem Dev.l2Bad_of_find {d : Dev} {n line : Nat} {l : L2Line} (hfind : (d.l2 n).find line = some l) :
    d.l2Bad n line = (d.l2Drop n line).send (if l.st == .m then .lostNote n line else .evictClean n line) := by
  rw [Dev.l2Bad, hfind]

variable {s d : Dev} {n line : Nat} {l : L2Line} {inv : Bool} (hlive : (s.l2 n).dead = false) (hgrant : s.granting n line = false)
  (htake : s.takeMsg (fun m => decide (m = if inv then .snpInv n line else .snpShare n line)) =
    some (if inv then .snpInv n line else .snpShare n line, d))
include hlive hgrant htake

theorem Dev.snoopCmd_answers (bad : Bool) :
    s.snoopCmd n line inv bad = Dev.sendAnswer n line ((if bad then d.l2Bad n line else d).l2Snoop n line inv) := by
  have hacts : ¬ ((s.l2 n).dead || s.granting n line) = true := by simp [hlive, hgrant]
  rw [Dev.snoopCmd]
  refine (if_neg hacts).trans ?_
  rw [htake, Dev.sendAnswer]
  dsimp only
  cases ((if bad then d.l2Bad n line else d).l2Snoop n line inv).1 <;> rfl

variable (hfind : (d.l2 n).find line = some l)
include hfind

theorem Dev.snoopCmd_readable :
    s.snoopCmd n line inv false = (if inv then d.l2Drop n line else d.l2Put n { l with st := .s }).send
      (if l.st == .m then .snpData n line l.data else .snpAck n line) := by
  rw [Dev.snoopCmd_answers hlive hgrant htake, if_neg Bool.false_ne_true, Dev.l2Snoop, hfind]
  cases hdirty : l.st == .m <;> simp [Dev.sendAnswer, hdirty]

theorem Dev.snoopCmd_unreadable :
    s.snoopCmd n line inv true = Dev.sendAnswer n line
      (((d.l2Drop n line).send (if l.st == .m then .lostNote n line else .evictClean n line)).l2Snoop n line inv) := by
  rw [Dev.snoopCmd_answers hlive hgrant htake, if_pos rfl, Dev.l2Bad_of_find hfind]

end Snoops

section Agents

variable {s d : Dev} {line tag : Nat}

/-- The line that a grant makes an L2's own: a shared one in M, or one of a whole-line write, which starts as zero (R352). -/
theorem Dev.grantCmd_fills {n : Nat} {evict : List (Nat × Bool)}
    (htake : s.takeMsg (fun m => decide (m = .grant n line)) = some (.grant n line, d)) (hwaits : d.l2Waits n line = true) :
    s.grantCmd n line evict =
      match (d.l2 n).find line with
      | some l => d.l2Fill n { l with st := .m } evict
      | none => d.l2Fill n ⟨line, .m, 0⟩ evict := by
  have hacts : ¬ (!d.l2Waits n line) = true := by simp [hwaits]
  rw [Dev.grantCmd, htake]
  exact if_neg hacts

/-- A completion reaches the agent that asked as its flits let it (R310). -/
theorem Dev.compCmd_takes {dst : Agent} {code : Resp}
    (htake : s.takeMsg (NetMsg.isComp dst line tag) = some (.comp dst line tag code, d)) (flit : Fin 3) :
    s.compCmd dst line tag flit =
      if flit = 0 then d.takeCode dst line tag code else if flit = 1 then d.takeCode dst line tag .dataErr else d := by
  unfold Dev.compCmd
  generalize htaken : s.takeMsg _ = r
  obtain rfl := htaken.symm.trans htake
  match flit with
  | 0 => rfl
  | 1 => rfl
  | 2 => rfl

/-- Data reaches the core that asked as its flits let it (R310). -/
theorem Dev.dataCmd_takes {n : Nat} {st : Option DirSt} {x : Line}
    (htake : s.takeMsg (NetMsg.isData (.core n) line tag) = some (.data (.core n) line tag st x, d)) (evict : List (Nat × Bool)) (flit : Fin 3) :
    s.dataCmd (.core n) line tag evict flit =
      if flit = 0 then d.coreData n tag line st x evict else if flit = 1 then d.coreComp n tag line .dataErr else d := by
  unfold Dev.dataCmd
  generalize htaken : s.takeMsg _ = r
  obtain rfl := htaken.symm.trans htake
  match flit with
  | 0 => rfl
  | 1 => rfl
  | 2 => rfl

end Agents

/-- Settles O25, a case for each clause: the message is in flight and first in its lane. -/
theorem coherenceMessagesTakeEffect : Obligations.CoherenceMessagesTakeEffect := by
  refine ⟨?writeback, ?evict, ?lost, ?share, ?shareBad, ?inv, ?invBad, ?ack, ?answer, ?grant, ?comp, ?compEngine, ?data, ?reclaim⟩
  case writeback =>
    intro s n line h x d hclk hhome htake hlive hidle
    rw [exec_wbDirty, execWbDirty, State.after_clocked hclk, Dev.wbDirtyCmd_takes hhome htake hlive hidle, Dev.wbTaken_answered]
  case evict =>
    intro s n line h d hclk hhome htake hlive hidle
    rw [exec_evictClean, execEvictClean, State.after_clocked hclk, Dev.evictCleanCmd_takes hhome htake hlive hidle]
  case lost =>
    intro s n line h d e hclk hhome htake hidle hentry hholds
    rw [exec_lostNote, execLostNote, State.after_clocked hclk, Dev.lostNoteCmd_loses hhome htake hidle hentry hholds]
  case share =>
    intro s n line d l hclk hlive hgrant htake hfind
    rw [exec_snpShare, execSnpShare, State.after_clocked hclk, Dev.snoopCmd_readable (inv := false) hlive hgrant htake hfind]
    rfl
  case shareBad =>
    intro s n line d l hclk hlive hgrant htake hfind
    rw [exec_snpShare, execSnpShare, State.after_clocked hclk, Dev.snoopCmd_unreadable (inv := false) hlive hgrant htake hfind]
    rfl
  case inv =>
    intro s n line d l hclk hlive hgrant htake hfind
    rw [exec_snpInv, execSnpInv, State.after_clocked hclk, Dev.snoopCmd_readable (inv := true) hlive hgrant htake hfind]
    rfl
  case invBad =>
    intro s n line d l hclk hlive hgrant htake hfind
    rw [exec_snpInv, execSnpInv, State.after_clocked hclk, Dev.snoopCmd_unreadable (inv := true) hlive hgrant htake hfind]
    rfl
  case ack =>
    intro s n line h d hclk hhome htake
    rw [exec_snpAck, execSnpAck, State.after_clocked hclk, Dev.answerCmd_ack hhome htake]
  case answer =>
    intro s n line h x d hclk hhome htake
    rw [exec_snpData, execSnpData, State.after_clocked hclk, Dev.answerCmd_data hhome htake]
  case grant =>
    intro s n line evict d hclk htake hwaits
    rw [exec_grant, execGrant, State.after_clocked hclk, Dev.grantCmd_fills htake hwaits]
    cases (d.l2 n).find line <;> rfl
  case comp =>
    intro s n line tag flit code d hclk htake
    rw [exec_comp, execComp, State.after_clocked hclk, Dev.compCmd_takes htake]
    rfl
  case compEngine =>
    intro s n line tag flit code d hclk htake
    rw [exec_comp, execComp, State.after_clocked hclk, Dev.compCmd_takes htake]
    rfl
  case data =>
    intro s n line tag evict flit st x d hclk htake
    rw [exec_data, execData, State.after_clocked hclk, Dev.dataCmd_takes htake]
  case reclaim =>
    intro s h hclk
    rw [exec_reclaimOrder, execReclaimOrder, State.after_clocked hclk]
    rfl

end Sys2Proof.Machine
end

section
/-! SUPPORT. The rail limiter, the region limiter and CAPC (R508, R511, R512): the tick, the comparison and the epoch where each acts. -/

namespace Sys2Proof.Machine

open Sys2Proof

variable {s : Dev}

/-- A running die's limiter takes a tick after image lock (R508). -/
theorem Dev.railTick_acts {d : Nat} (hruns : s.dieRuns d = true) (hlock : s.flag F.BOOT_STATUS_LOCKED 0 = true) (amps : Nat) :
    s.railTick d amps = (
      let x := SMap.get s.pwr.lims .init d
      let hist := (amps :: x.hist).take 10000
      let r := limiterStep (s.fld F.PWR_STATUS_RAIL_LEVEL d) x.calm amps hist.sum (s.fld F.PWR_LIMIT_PEAK_TRIP d)
        (s.fld F.PWR_LIMIT_SUST_TRIP d)
      let t := s.setPwr { s.pwr with lims := SMap.set s.pwr.lims d ⟨hist, r.2⟩ }
      let t := ((t.setFld F.PWR_STATUS_RAIL_LEVEL d r.1).setFld F.PWR_STATUS_I_TICK d (min amps 1023)).setFld F.PWR_STATUS_A1000 d
        (min (hist.sum / 10000) 1023)
      let t := if hist.sum > t.fld F.PWR_LIMIT_SUST_TRIP d * 10000 then t.setFlag F.PWR_EVENT_SUSTAINED d true else t
      if r.1 ≥ 1 then t.count F.PWR_COUNTS_LIMIT_TICKS d 1 else t) := by
  have hacts : ¬ (!s.dieRuns d || !s.flag F.BOOT_STATUS_LOCKED 0) = true := by simp [hruns, hlock]
  rw [Dev.railTick, if_neg hacts]

/-- The share of an owned region of a running die is compared with its budget after image lock (R512). -/
theorem Dev.regionCompare_acts {g : Nat} (hruns : s.dieRuns (g / 4) = true) (howned : (s.partOfRegion g).isNone = false)
    (hlock : s.flag F.BOOT_STATUS_LOCKED 0 = true) (watts : Nat) :
    s.regionCompare g watts = (
      let b := s.fld F.CAPC_REGION_BUDGET_W g
      let l := s.regionLevel g
      let c := SMap.get s.pwr.calm 0 g
      let r : Nat × Nat := if watts > b then (min (l + 1) 4, 0)
        else if 10 * watts ≤ 9 * b then (if c + 1 = 10 then (l - 1, 0) else (l, c + 1)) else (l, 0)
      let raised := if (decide (r.1 > 0) || decide (l > 0)) && !s.pwr.raised.contains g then s.pwr.raised ++ [g] else s.pwr.raised
      (s.setPwr { s.pwr with calm := SMap.set s.pwr.calm g r.2, raised := raised }).setRegionLevel g r.1) := by
  have hacts : ¬ (!s.dieRuns (g / 4) || (s.partOfRegion g).isNone || !s.flag F.BOOT_STATUS_LOCKED 0) = true := by
    simp only [hruns, howned, hlock, Bool.not_true, Bool.or_self, Bool.false_eq_true, not_false_eq_true]
  rw [Dev.regionCompare, if_neg hacts]

/-- Settles O37, a case for each limiter: the die runs, the region has an owner, the image is locked. -/
theorem limitersTakeEffect : Obligations.LimitersTakeEffect := by
  refine ⟨?rail, ?region, ?capc⟩
  case rail =>
    intro s d amps hclk hruns hlock
    rw [exec_railLimiterTick, execRailLimiterTick, State.after_clocked hclk, Dev.railTick_acts hruns hlock]
  case region =>
    intro s g watts hclk hruns howned hlock
    rw [exec_regionLimiterCompare, execRegionLimiterCompare, State.after_clocked hclk, Dev.regionCompare_acts hruns howned hlock]
  case capc =>
    intro s watts hclk hshape hphase
    rw [exec_capcEpoch, execCapcEpoch, shaped_true hshape, State.after_clocked hclk, if_pos hphase]

end Sys2Proof.Machine
end

section
/-! SUPPORT. VR_ALERT_N (R510, R561): a fall accepted, a rise that starts the hold, the hold's end. -/

namespace Sys2Proof.Machine

open Sys2Proof

variable {s : Dev} {j : Nat}

/-- The fall of a high input under PWRGOOD is accepted (R510). -/
theorem Dev.alertAssert_accepts (hhigh : s.pwr.alerts.contains j = false) (hgood : s.pins.pwrgood = true) :
    s.alertAssert j = (s.setPwr { s.pwr with alerts := s.pwr.alerts ++ [j] }).alertAccept j := by
  have hacts : ¬ s.pwr.alerts.contains j = true := Bool.eq_false_iff.1 hhigh
  rw [Dev.alertAssert, if_neg hacts]
  exact if_pos hgood

/-- The rise of a low input under PWRGOOD starts its hold (R510). -/
theorem Dev.alertRise_holds (hlow : s.pwr.alerts.contains j = true) (hgood : s.pins.pwrgood = true) :
    s.alertRise j = s.setPwr { s.pwr with alerts := s.pwr.alerts.filter (fun k => k != j), rising := SMap.set s.pwr.rising j s.time } := by
  have hacts : ¬ (!s.pwr.alerts.contains j) = true := by rw [hlow]; exact Bool.false_ne_true
  rw [Dev.alertRise, if_neg hacts, if_pos hgood]

theorem Dev.alertRelease_shows {t0 : Nat} (hhold : SMap.find s.pwr.rising j = some t0) :
    s.alertRelease j = (s.setPwr { s.pwr with rising := SMap.del s.pwr.rising j }).showAlerts := by
  rw [Dev.alertRelease, hhold]

/-- Settles O38, a case for each edge of the input and one for the end of its hold. -/
theorem alertsTakeEffect : Obligations.AlertsTakeEffect := by
  refine ⟨?fall, ?rise, ?expire⟩
  case fall =>
    intro s j href hgood hhigh
    rw [exec_vrAlertAssert, execVrAlertAssert, State.afterPin_eq, if_pos href, Dev.alertAssert_accepts hhigh hgood, Dev.alertAccept]
  case rise =>
    intro s j href hgood hlow
    rw [exec_vrAlertDeassert, execVrAlertDeassert, State.afterPin_eq, if_pos href, Dev.alertRise_holds hlow hgood]
  case expire =>
    intro s j t0 hmgmt hhold
    rw [exec_vrAlertHoldExpire, execVrAlertHoldExpire, State.afterMgmt_runs hmgmt, Dev.alertRelease_shows hhold]

end Sys2Proof.Machine
end

section
/-! SUPPORT. Thermal control (R513, R529): samples, the levels of a zone, the trip. -/

namespace Sys2Proof.Machine

open Sys2Proof

variable {s : Dev}

/-- The sensors of a running die are read (R513). -/
theorem Dev.thermalSample_of_runs {d : Nat} (hruns : s.dieRuns d = true) (readings : List Int) :
    s.thermalSample d readings = (
      let rs := readings.take (sensorsOf d)
      let t := rs.zipIdx.foldl (fun (t : Dev) r =>
        let x := t.zone (zoneOf d r.2)
        t.setPwr { t.pwr with zones := SMap.set t.pwr.zones (zoneOf d r.2) { x with reads := SMap.set x.reads r.2 r.1 } }) s
      let hot := rs.zipIdx.foldl (fun (m : Int × Nat) r => if r.1 > m.1 then r else m) (rs.headD 0, 0)
      (t.setFld F.THERM_STATUS_TMAX d (min hot.1.toNat 255)).setFld F.THERM_STATUS_HOTTEST d hot.2) := by
  have hacts : ¬ (!s.dieRuns d) = true := by rw [hruns]; exact Bool.false_ne_true
  rw [Dev.thermalSample, if_neg hacts]

section Levels

variable {z : Nat} (hruns : s.dieRuns (dieOfZone z) = true)
include hruns

/-- A zone below level 4 with a sensor at THROTTLE rises by one level after image lock (R513). -/
theorem Dev.thermalRise_raises (hlock : s.flag F.BOOT_STATUS_LOCKED 0 = true)
    (hhot : (s.zone z).reads.any (fun r => decide (r.2 ≥ (s.fld F.THERM_CFG_THROTTLE (dieOfZone z) : Int))) = true)
    (hlevel : (s.zone z).level < 4) :
    s.thermalRise z = ((s.setThermal z ((s.zone z).level + 1)).count F.PWR_COUNTS_THROTTLES (dieOfZone z) 1).setFlag
      F.PWR_EVENT_THROTTLE (dieOfZone z) true := by
  rw [Dev.thermalRise]
  refine if_neg ?_
  rw [hruns, hlock, hhot, decide_eq_false hlevel.not_ge]
  exact Bool.false_ne_true

/-- A zone above level 0 with every sensor 3 °C below THROTTLE falls by one level (R513). -/
theorem Dev.thermalFall_lowers
    (hcool : (s.zone z).reads.all (fun r => decide (r.2 + 3 ≤ (s.fld F.THERM_CFG_THROTTLE (dieOfZone z) : Int))) = true)
    (hlevel : (s.zone z).level ≠ 0) : s.thermalFall z = s.setThermal z ((s.zone z).level - 1) := by
  rw [Dev.thermalFall]
  refine if_neg ?_
  rw [hruns, hcool, beq_false_of_ne hlevel]
  exact Bool.false_ne_true

end Levels

/-- The first trip under PWRGOOD is latched and stops the divided clocks, after a crash record where MGMT runs (R513, R529). -/
theorem Dev.thermtrip_latches (hfirst : s.pins.tripped = false) (hgood : s.pins.pwrgood = true) (d : Nat) :
    s.thermtrip d = (
      let t := if s.pins.refclk then s.crash 9 (some d) none none 0 (fun _ => false) else s
      { t with pins := { t.pins with tripped := true, stopped := true } }) := by
  have hacts : ¬ (s.pins.tripped || !s.pins.pwrgood) = true := by simp [hfirst, hgood]
  rw [Dev.thermtrip, if_neg hacts]

/-- Settles O39, a case for each command: the die runs and its zone is where the level moves, or the trip is the first. -/
theorem thermalControlTakesEffect : Obligations.ThermalControlTakesEffect := by
  refine ⟨?sample, ?rise, ?fall, ?trip⟩
  case sample =>
    intro s d readings hclk hshape hruns
    rw [exec_thermalSample, execThermalSample, shaped_true hshape, State.after_clocked hclk, Dev.thermalSample_of_runs hruns]
  case rise =>
    intro s z hclk hruns hlock hhot hlevel
    rw [exec_thermalLevelRise, execThermalLevelRise, State.after_clocked hclk, Dev.thermalRise_raises hruns hlock hhot hlevel]
  case fall =>
    intro s z hclk hruns hcool hlevel
    rw [exec_thermalLevelFall, execThermalLevelFall, State.after_clocked hclk, Dev.thermalFall_lowers hruns hcool hlevel]
  case trip =>
    intro s d hfirst hgood
    rw [exec_thermtrip, execThermtrip, State.afterPin_eq, Dev.thermtrip_latches hfirst hgood]

end Sys2Proof.Machine
end

section
/-! SUPPORT. Rails (R514, R528, R554): a sample inside and one outside the window, a regulator's poll. -/

namespace Sys2Proof.Machine

open Sys2Proof

section Sampled

variable {s : Dev} {n : Nat} (hphase : 2 ≤ s.phase)
include hphase

/-- A sample inside the window counts towards the end of the rail's hold (R528). -/
theorem Dev.railSample_inside {mv : Nat} (hlow : (s.railWindow n).1 ≤ mv) (hhigh : mv ≤ (s.railWindow n).2) :
    s.railSample n mv = (
      let t := (s.setFld F.RAIL_STATUS_ADC_MV n (min mv 4095)).setFlag F.RAIL_STATUS_OUT n false
      let k := SMap.get t.pwr.inWin 0 n + 1
      let t := (t.setFld F.RAIL_STATUS_RUN n 0).setPwr { t.pwr with inWin := SMap.set t.pwr.inWin n (min k 10) }
      if k ≥ 10 then t.setPwr { t.pwr with railHold := t.pwr.railHold.filter (fun m => m != n) } else t) := by
  have hacts : ¬ (decide (s.phase < 2) && !s.pwr.railHold.contains n) = true := by simp [hphase.not_gt]
  have hin : decide (mv < (s.railWindow n).1 ∨ (s.railWindow n).2 < mv) = false := decide_eq_false (by omega)
  rw [Dev.railSample, if_neg hacts]
  dsimp only
  rw [hin]
  exact if_neg Bool.false_ne_true

/-- A sample outside the window sets RAIL_OUT on the rail's dies, and the third one brings the reaction where none holds (R528). -/
theorem Dev.railSample_outside {mv : Nat} (hout : mv < (s.railWindow n).1 ∨ (s.railWindow n).2 < mv) :
    s.railSample n mv = (
      let t := (s.setFld F.RAIL_STATUS_ADC_MV n (min mv 4095)).setFlag F.RAIL_STATUS_OUT n true
      let run := t.fld F.RAIL_STATUS_RUN n
      let t := t.setPwr { t.pwr with inWin := SMap.set t.pwr.inWin n 0 }
      let t := (diesOfRail n).foldl (fun t d => t.setFlag F.PWR_EVENT_RAIL_OUT d true) t
      let t := t.setFld F.RAIL_STATUS_RUN n (min 3 (run + 1))
      if run = 2 && !t.pwr.railHold.contains n then t.railReact n else t) := by
  have hacts : ¬ (decide (s.phase < 2) && !s.pwr.railHold.contains n) = true := by simp [hphase.not_gt]
  rw [Dev.railSample, if_neg hacts]
  dsimp only
  rw [decide_eq_true hout]
  exact if_pos rfl

/-- From PHASE 2 on a poll shows what the regulator answers (R514). -/
theorem Dev.pmbusPoll_shows (r : Option (Nat × Nat × Nat)) :
    s.pmbusPoll n r = match r with
      | none => s.setFlag F.RAIL_STATUS_VR_SILENT n true
      | some (v, i, p) =>
        let t := ((s.setFlag F.RAIL_STATUS_VR_SILENT n false).setFld F.RAIL_STATUS_VR_VOUT n (min v 65535)).setFld F.RAIL_STATUS_VR_IOUT n
          (min i 65535)
        let t := t.setFld F.RAIL_STATUS_VR_POUT n (min p 65535)
        let q := SMap.get t.pwr.polls (0, 0) n
        t.setPwr { t.pwr with polls := SMap.set t.pwr.polls n (q.1 + p, q.2 + 1) } := by
  cases r with
  | none => exact if_neg hphase.not_gt
  | some _ => exact if_neg hphase.not_gt

end Sampled

/-- Settles O40, a case for each side of the window and for each answer of the regulator. -/
theorem railsTakeEffect : Obligations.RailsTakeEffect := by
  refine ⟨?inside, ?outside, ?silent, ?answer⟩
  case inside =>
    intro s n mv hmgmt hphase hlow hhigh
    rw [exec_railSample, execRailSample, State.afterMgmt_runs hmgmt, Dev.railSample_inside hphase hlow hhigh]
  case outside =>
    intro s n mv hmgmt hphase hout
    rw [exec_railSample, execRailSample, State.afterMgmt_runs hmgmt, Dev.railSample_outside hphase hout]
  case silent =>
    intro s n hmgmt hphase
    rw [exec_pmbusPoll, execPmbusPoll, State.afterMgmt_runs hmgmt, Dev.pmbusPoll_shows hphase]
  case answer =>
    intro s n v i p hmgmt hphase
    rw [exec_pmbusPoll, execPmbusPoll, State.afterMgmt_runs hmgmt, Dev.pmbusPoll_shows hphase]

end Sys2Proof.Machine
end

section
/-! SUPPORT. The error log and the heartbeats (R516, R517, R519, R521, R523): the oldest report written, a heartbeat kept, one missed. -/

namespace Sys2Proof.Machine

open Sys2Proof

variable {s : Dev}

theorem Dev.nextReport_logs {e : ErrRep} {rest : List ErrRep} (hreports : s.reports = e :: rest) :
    s.nextReport = ({ s with reports := rest } : Dev).logEntry e := by
  rw [Dev.nextReport, hreports]

theorem Dev.heartbeat_keeps {d : Nat} (hanswers : s.dieAnswers d = true) :
    s.heartbeat d = s.setDie d { s.die d with lastHb := s.time, snapshot := s.dieSnapshot d } :=
  if_pos hanswers

theorem Dev.heartbeatLimit_resets (hphase : 2 ≤ s.phase) (d : Nat) : s.heartbeatLimit d = s.dieReset d 2 0 :=
  if_pos hphase

/-- Settles O41, a case for each command. -/
theorem errorsReachTheLog : Obligations.ErrorsReachTheLog := by
  refine ⟨?report, ?clear, ?beat, ?limit⟩
  case report =>
    intro s e rest hmgmt hreports
    rw [exec_errorReport, execErrorReport, State.afterMgmt_runs hmgmt, Dev.nextReport_logs hreports]
  case clear =>
    intro s who hmgmt haccepts
    rw [exec_elogSafetyClear, execElogSafetyClear, State.afterMgmt_runs hmgmt, Dev.asWriter_takes haccepts]
  case beat =>
    intro s d hclk hanswers
    rw [exec_heartbeat, execHeartbeat, State.after_clocked hclk, Dev.heartbeat_keeps hanswers]
  case limit =>
    intro s d hmgmt hphase
    rw [exec_heartbeatLimitExpire, execHeartbeatLimitExpire, State.afterMgmt_runs hmgmt, Dev.heartbeatLimit_resets hphase]

end Sys2Proof.Machine
end

section
/-! SUPPORT. Die resets and the package reset (R524, R525, R527, R529, R532, R533): the keyed word of RESET_CTRL, the forced reset, the release
of a die, the end of a drain. -/

namespace Sys2Proof.Machine

open Sys2Proof

variable {s : Dev} {d : Nat}

theorem Dev.writeDieCtrl_resets {w : Word} (hreset : F.DIE_CTRL_RESET.get w = 1) : s.writeDieCtrl d w = s.dieReset d 4 0 :=
  if_pos hreset

/-- The fields of a keyed word that names dies and not the package. -/
theorem resetCtrl_fields_of_mask (mask : BitVec 11) :
    F.RESET_CTRL_KEY.get (BitVec.ofNat 64 (mask.toNat + 0xA5 * 2 ^ 24)) = 0xA5 ∧
    F.RESET_CTRL_DIE.get (BitVec.ofNat 64 (mask.toNat + 0xA5 * 2 ^ 24)) = mask.toNat ∧
    F.RESET_CTRL_PACKAGE.get (BitVec.ofNat 64 (mask.toNat + 0xA5 * 2 ^ 24)) = 0 := by
  have hmask : mask.toNat < 2 ^ 11 := mask.isLt
  simp only [Fld.get, bitsOf, BitVec.toNat_ofNat, Nat.shiftRight_eq_div_pow]
  omega

/-- A keyed write resets the dies its mask names, and asks for the package reset where its bit is set (R525, R533). -/
theorem Dev.writeResetCtrl_keyed {w : Word} (hkey : F.RESET_CTRL_KEY.get w = 0xA5) :
    s.writeResetCtrl w = (
      let t := (List.range 11).foldl (fun t d => if bitOf (F.RESET_CTRL_DIE.get w) d then t.dieReset d 4 0 else t) s
      if F.RESET_CTRL_PACKAGE.get w = 1 then t.packageAsk else t) := by
  rw [Dev.writeResetCtrl, if_neg (not_not.2 hkey)]

theorem Dev.writeResetCtrl_dies (mask : BitVec 11) :
    s.writeResetCtrl (BitVec.ofNat 64 (mask.toNat + 0xA5 * 2 ^ 24)) =
      (List.range 11).foldl (fun t d => if bitOf mask.toNat d then t.dieReset d 4 0 else t) s := by
  obtain ⟨hkey, hdies, hpackage⟩ := resetCtrl_fields_of_mask mask
  rw [Dev.writeResetCtrl_keyed hkey, hdies, hpackage]
  rfl

/-- With no drain under way the keyed package bit starts one (R533). -/
theorem Dev.writeResetCtrl_package (hidle : s.drain = none) :
    s.writeResetCtrl (BitVec.ofNat 64 (2 ^ 16 + 0xA5 * 2 ^ 24)) = { s with drain := some (s.time, 5, 0xFF) } := by
  have hkeyed : s.writeResetCtrl (BitVec.ofNat 64 (2 ^ 16 + 0xA5 * 2 ^ 24)) = s.packageAsk := Dev.writeResetCtrl_keyed rfl
  have hnone : ¬ s.drain.isSome = true := by simp [hidle]
  rw [hkeyed, Dev.packageAsk, if_neg hnone]

theorem Dev.forcedReset_resets {p : Nat} (hstate : s.partState p = 3) (hlate : (s.partSt p).resetAt.isSome = true) :
    s.forcedReset p = (s.diesOf p).foldl (fun t d => t.dieReset d 4 0) s :=
  if_pos ⟨hstate, hlate⟩

section Release

variable (hreset : s.dieState d = 1)
include hreset

/-- A die in reset whose PLL, rails and trainings stand takes its share of the image and runs (R527). -/
theorem Dev.dieRelease_runs (hlock : s.flag F.CLK_STATUS_PLL_LOCK d = true)
    (hrails : s.pwr.railHold.any (fun n => (diesOfRail n).contains d) = false) (htrained : s.dieTrained d = true) (bad : List Nat) :
    s.dieRelease d true bad = (
      let t := ((s.dieImage d).setDieState d 0).loseSlices d (if d < 8 then bad else [])
      let t := if d = 8 && (s.die d).dark then (List.range 16).foldl (fun t i => t.setFlag F.HOME_STATUS_UNTRACKED (32 + i) true) t else t
      t.showAlerts.eventAll ⟨0x41, d, 0⟩) := by
  have hheld : ¬ (s.dieState d != 1) = true := by simp [hreset]
  have hstands : ¬ (!s.flag F.CLK_STATUS_PLL_LOCK d || s.pwr.railHold.any (fun n => (diesOfRail n).contains d) || !s.dieTrained d) = true := by
    rw [hlock, hrails, htrained]
    exact Bool.false_ne_true
  rw [Dev.dieRelease, if_neg hheld, if_neg (by decide : ¬ (!true) = true), if_neg hstands]

/-- A die that lost its lock and has not relocked counts the try, and at the last one it is DEAD with its partitions (R527). -/
theorem Dev.dieRelease_fails (htrigger : (s.die d).trigger = 1) (bad : List Nat) :
    s.dieRelease d false bad =
      if (s.die d).tries + 1 ≥ max 1 (s.fld F.WD_CFG_RELOCK_TRIES 0) then
        (List.range 32).foldl (fun t p => if (t.diesOf p).contains d then t.setPartState p 5 else t) (s.setDieState d 2)
      else s.setDie d { s.die d with tries := (s.die d).tries + 1 } := by
  have hheld : ¬ (s.dieState d != 1) = true := by simp [hreset]
  rw [Dev.dieRelease, if_neg hheld, if_pos (by decide : (!false) = true), if_neg (not_not.2 htrigger)]

end Release

theorem Dev.drainDone_resets {t0 trigger rail : Nat} (hdrain : s.drain = some (t0, trigger, rail)) :
    s.drainDone = ((if s.dieState 8 = 0 then s.drainDimms false else s).dropChans 8).packageFault trigger 0 := by
  rw [Dev.drainDone, hdrain]

/-- Settles O42, a case for each command and for each end of a die's reset. -/
theorem dieResetsTakeEffect : Obligations.DieResetsTakeEffect := by
  refine ⟨?die, ?mask, ?forced, ?release, ?relock⟩
  case die =>
    intro s who d hmgmt haccepts
    rw [exec_dieReset, execDieReset, State.afterMgmt_runs hmgmt, Dev.asWriter_takes haccepts, Dev.writeDieCtrl_resets rfl]
  case mask =>
    intro s who mask hmgmt haccepts
    have hkey : (0xA5 : BitVec 8).toNat = 0xA5 := rfl
    rw [exec_resetCtrlDie, execResetCtrlDie, State.afterMgmt_runs hmgmt, hkey, Dev.asWriter_takes haccepts, Dev.writeResetCtrl_dies]
  case forced =>
    intro s p hmgmt hstate hlate
    rw [exec_forcedResetExpire, execForcedResetExpire, State.afterMgmt_runs hmgmt, Dev.forcedReset_resets hstate hlate]
  case release =>
    intro s d bad hclk hreset hlock hrails htrained
    rw [exec_dieRelease, execDieRelease, State.after_clocked hclk, Dev.dieRelease_runs hreset hlock hrails htrained]
  case relock =>
    intro s d bad hclk hreset htrigger
    rw [exec_dieRelease, execDieRelease, State.after_clocked hclk, Dev.dieRelease_fails hreset htrigger]

/-- Settles O43: the request starts the drain, and the drain's end resets the package. -/
theorem packageResetTakesEffect : Obligations.PackageResetTakesEffect := by
  refine ⟨?ask, ?done⟩
  case ask =>
    intro s who hmgmt hidle haccepts
    have hkey : (0xA5 : BitVec 8).toNat = 0xA5 := rfl
    rw [exec_resetCtrlPackage, execResetCtrlPackage, State.afterMgmt_runs hmgmt, hkey, Dev.asWriter_takes haccepts,
      Dev.writeResetCtrl_package hidle]
  case done =>
    intro s t0 trigger rail hmgmt hdrain
    rw [exec_packageDrainDone, execPackageDrainDone, State.afterMgmt_runs hmgmt, Dev.drainDone_resets hdrain]

end Sys2Proof.Machine
end

section
/-! SUPPORT. The test access port (R560, R561): EXTEST drives the pins in PHASE 8 and 9 alone. -/

namespace Sys2Proof.Machine

open Sys2Proof

variable {s : Dev}

/-- The boundary register is loaded, and what it captured is shifted out. -/
theorem Dev.boundary_shifts (s : Dev) (v : Nat) :
    s.boundary v = ({ s with draws := s.draws + 1, pins := { s.pins with bsr := v } } : Dev).emit
      (.scan (Config.freeValue s.draws % 2 ^ 64)) := rfl

theorem Dev.tapNow_extest (hphase : s.phase = 8 ∨ s.phase = 9) : (s.loadTap 3).tapNow = 3 := by
  have hdrives : ¬ ((s.loadTap 3).pins.tapIr ≥ 3 ∧ (s.loadTap 3).phase ≠ 8 ∧ (s.loadTap 3).phase ≠ 9) :=
    fun ⟨_, h8, h9⟩ => hphase.elim h8 h9
  rw [Dev.tapNow, if_neg hdrives, Dev.loadTap]

theorem Dev.tapNow_bypasses (h8 : s.phase ≠ 8) (h9 : s.phase ≠ 9) : (s.loadTap 3).tapNow = 0 :=
  if_pos ⟨le_refl 3, h8, h9⟩

/-- Settles O45, a case for each instruction, and for EXTEST one for each kind of phase. -/
theorem tapInstructionsTakeEffect : Obligations.TapInstructionsTakeEffect := by
  refine ⟨?bypass, ?idcode, ?sample, ?extest, ?extestOff, ?clamp, ?highz⟩
  case bypass =>
    intro s
    rw [exec_bypass, execBypass, State.afterPin_eq, Dev.loadTap]
  case idcode =>
    intro s
    rw [exec_idcode, execIdcode, State.afterPin_eq, Dev.loadTap]
  case sample =>
    intro s v
    rw [exec_samplePreload, execSamplePreload, State.afterPin_eq, Dev.boundary_shifts, Dev.loadTap]
  case extest =>
    intro s v hphase
    rw [exec_extest, execExtest, State.afterPin_eq, if_pos (Dev.tapNow_extest hphase), Dev.boundary_shifts, Dev.loadTap]
  case extestOff =>
    intro s v h8 h9
    have hoff : ¬ (s.dev.loadTap 3).tapNow = 3 := by simp [Dev.tapNow_bypasses h8 h9]
    rw [exec_extest, execExtest, State.afterPin_eq, if_neg hoff, Dev.loadTap]
  case clamp =>
    intro s
    rw [exec_clamp, execClamp, State.afterPin_eq, Dev.loadTap]
  case highz =>
    intro s
    rw [exec_highz, execHighz, State.afterPin_eq, Dev.loadTap]

end Sys2Proof.Machine
end

section
/-! SUPPORT. Memory requests of the PCI Express port (R113, R469–R472, R480): what an admitted request through an aperture, BAR 0 or BAR 2 does,
and the write of an aperture's register. -/

namespace Sys2Proof.Machine

open Sys2Proof

section Apertures

variable {s : Dev} {f off : Nat}

/-- An aperture that is off ends a read in Completer Abort, counted as unsupported (R470). -/
theorem Dev.aperRequest_off (hoff : s.aperOn (aperOf f off) = false) (tag : Nat) (ro : Bool) (bs : List (Option Byte)) :
    s.aperRequest f tag off false ro bs = (s.readEnds f tag 4 []).unsupported.pciRun := by
  have hclosed : (!s.aperOn (aperOf f off)) = true := by rw [hoff, Bool.not_false]
  rw [Dev.aperRequest, if_pos hclosed]
  rfl

variable (hon : s.aperOn (aperOf f off) = true)
include hon

/-- A request that an enabled aperture takes, a VF's read apart, joins the port's requests, a relaxed write already issued (R471, R472). -/
theorem Dev.aperRequest_joins {write : Bool} (hmay : (!write && decide (f ≥ 2)) = false) (tag : Nat) (ro : Bool) (bs : List (Option Byte)) :
    s.aperRequest f tag off write ro bs = (
      let a := aperOf f off
      let addr := s.fld F.APER_BASE a * 2 ^ 30 + off % 2 ^ 32
      let q : PciReq := ⟨f, write, pciPieces addr bs, [], addr % 64, bs.length, s.fld F.APER_CONTEXT a, hintOf (s.fld F.APER_HINT a),
        s.fld F.APER_PARTITION a, tag, none, if write && ro then 1 else 0⟩
      ({ s with pci := { s.pci with reqs := s.pci.reqs ++ [q] } } : Dev).pciRun) := by
  have hopen : ¬ (!s.aperOn (aperOf f off)) = true := by rw [hon]; exact Bool.false_ne_true
  rw [Dev.aperRequest, if_neg hopen]
  exact if_neg (Bool.eq_false_iff.1 hmay)

/-- A VF's read through an enabled aperture ends in Completer Abort, logged (R472). -/
theorem Dev.aperRequest_vf_read (hvf : 2 ≤ f) (tag : Nat) (ro : Bool) (bs : List (Option Byte)) :
    s.aperRequest f tag off false ro bs = (
      let addr := s.fld F.APER_BASE (aperOf f off) * 2 ^ 30 + off % 2 ^ 32
      ((s.pciLog f .perm false (addr / 64 * 64)).readEnds f tag 4 []).pciRun) := by
  have hopen : ¬ (!s.aperOn (aperOf f off)) = true := by rw [hon]; exact Bool.false_ne_true
  have hturned : (!false && decide (f ≥ 2)) = true := by rw [decide_eq_true hvf]; rfl
  rw [Dev.aperRequest, if_neg hopen]
  exact if_pos hturned

end Apertures

section Admitted

variable {s : Dev} {f : Nat} (hup : s.pciUp = true) (hbars : s.barsUp f = true) (hfree : (s.fn f).flr.isSome = false)

include hbars hfree in
/-- With its BARs in service and under no reset a function turns away no request of the traffic class it serves (R474–R476). -/
theorem Dev.turnAway_admits (tag : Nat) (write : Bool) : s.turnAway f tag write false = none := by
  simp [Dev.turnAway, hbars, hfree]

include hup hbars hfree

theorem Dev.aperWrite_admitted (hf : f ≠ 0) (off : Nat) (bs : List (Option Byte)) (ro : Bool) :
    s.aperWrite f off bs ro false = s.aperRequest f 0 off true ro bs := by
  have hacts : ¬ (!s.pciUp || f == 0) = true := by simp [hup, hf]
  rw [Dev.aperWrite, if_neg hacts, Dev.turnAway_admits hbars hfree]

theorem Dev.aperRead_admitted (hf : f ≠ 0) (tag off len : Nat) :
    s.aperRead f tag off len false = s.aperRequest f tag off false false (List.replicate len (some 0)) := by
  have hacts : ¬ (!s.pciUp || f == 0) = true := by simp [hup, hf]
  rw [Dev.aperRead, if_neg hacts, Dev.turnAway_admits hbars hfree]

end Admitted

section Pf0

variable {s : Dev} (hup : s.pciUp = true) (hbars : s.barsUp 0 = true) (hfree : (s.fn 0).flr.isSome = false)
include hup hbars hfree

/-- A write through BAR 0 that CTRL space answers OK is done (R472). -/
theorem Dev.bar0_writes {off size : Nat} {w : Word} (hok : (s.ctrlAccess .pf0 off size (some w)).1 = .ok) (tag : Nat) :
    s.bar0 tag off size (some w) = (s.ctrlAccess .pf0 off size (some w)).2.2.pciRun := by
  rw [Dev.bar0, if_neg (by simp [hup]), Dev.turnAway_admits hbars hfree]
  simp only [hok, Option.isSome_some, if_true]

/-- A read through BAR 0 that CTRL space answers OK completes with the word's bytes (R472). -/
theorem Dev.bar0_reads {off size : Nat} (hok : (s.ctrlAccess .pf0 off size none).1 = .ok) (tag : Nat) :
    s.bar0 tag off size none = ((s.ctrlAccess .pf0 off size none).2.2.readEnds 0 tag 0
      (leBytes size (s.ctrlAccess .pf0 off size none).2.1.toNat)).pciRun := by
  rw [Dev.bar0, if_neg (by simp [hup]), Dev.turnAway_admits hbars hfree]
  simp only [hok, Option.isSome_none, Bool.false_eq_true, if_true, if_false]

variable (hphase : s.phase = 8)
include hphase

/-- In the staging wait a write through BAR 2 within the staging memory is stored (R113). -/
theorem Dev.stageAccess_writes {off : Nat} {bs : List (Option Byte)} (hroom : off + bs.length ≤ s.stageRoom) (tag len : Nat) :
    s.stageAccess tag off (some bs) len = (s.stageWrite off bs).pciRun := by
  rw [Dev.stageAccess, if_neg (by simp [hup]), Dev.turnAway_admits hbars hfree]
  exact congrArg Dev.pciRun (if_pos ⟨hphase, hroom⟩)

/-- In the staging wait a read through BAR 2 completes with the bytes staged (R113). -/
theorem Dev.stageAccess_reads {off len : Nat} (hread : (s.stageRead off len).1.isSome = true) (tag : Nat) :
    s.stageAccess tag off none len =
      ((s.stageRead off len).2.readEnds 0 tag 0 ((s.stageRead off len).1.getD [])).pciRun := by
  obtain ⟨bs, hbs⟩ := Option.isSome_iff_exists.1 hread
  have hpair : s.stageRead off len = (some bs, (s.stageRead off len).2) := by rw [← hbs]
  have hserves : ¬ s.phase ≠ 8 := not_not.2 hphase
  rw [Dev.stageAccess, if_neg (by simp [hup]), Dev.turnAway_admits hbars hfree]
  dsimp only
  rw [if_neg hserves, hpair]
  rfl

end Pf0

/-- A write of APER that does not enable stores its fields, a VF aperture keeping its PARTITION (R480). -/
theorem Dev.writeAper_disabled {w : Word} (hoff : F.APER_ENABLE.get w ≠ 1) (s : Dev) (a : Nat) :
    s.writeAper a w = if a < 16 then s.storeReg ⟨.APER, a⟩ w
      else (s.storeReg ⟨.APER, a⟩ w).setFld F.APER_PARTITION a (s.fld F.APER_PARTITION a) := by
  rw [Dev.writeAper]
  refine if_neg ?_
  rw [decide_eq_false hoff, Bool.false_and]
  exact Bool.false_ne_true

/-- Settles O34, a case for each request: the function admits it, and its aperture or window answers. -/
theorem memoryRequestsOfThePortTakeEffect : Obligations.MemoryRequestsOfThePortTakeEffect := by
  have heven : ((0 : Fin 8) != 0) = false := rfl
  have hplain : ((0 : Fin 8) != 0 || false) = false := rfl
  refine ⟨?write, ?read, ?vfRead, ?offRead, ?bar0, ?stageWrite, ?stageRead, ?aper⟩
  case write =>
    intro s f off data ro hclk hup hf hbars hfree hon
    rw [exec_apertureWrite, execApertureWrite, State.after_clocked hclk, heven, Dev.aperWrite_admitted hup hbars hfree hf,
      Dev.aperRequest_joins hon rfl]
    rfl
  case read =>
    intro s f tag off len hclk hup hf hbars hfree hon
    have hmay : (!false && decide (f.val ≥ 2)) = false := by rw [hf]; rfl
    rw [exec_apertureRead, execApertureRead, State.after_clocked hclk, hplain, Dev.aperRead_admitted hup hbars hfree (by omega),
      Dev.aperRequest_joins hon hmay, List.length_replicate]
    simp only [hf, Bool.false_and, Bool.false_eq_true, if_false]
  case vfRead =>
    intro s f tag off len hclk hup hf hbars hfree hon
    rw [exec_apertureRead, execApertureRead, State.after_clocked hclk, hplain, Dev.aperRead_admitted hup hbars hfree (by omega),
      Dev.aperRequest_vf_read hon hf]
  case offRead =>
    intro s f tag off len hclk hup hf hbars hfree hoff
    rw [exec_apertureRead, execApertureRead, State.after_clocked hclk, hplain, Dev.aperRead_admitted hup hbars hfree hf,
      Dev.aperRequest_off hoff]
  case bar0 =>
    intro s tag off size w hclk hup hbars hfree hwrite hread
    constructor
    · rw [exec_bar0CtrlAccess, execBar0CtrlAccess, State.afterBurn_clocked hclk, Dev.bar0_writes hup hbars hfree hwrite]
    · rw [exec_bar0CtrlAccess, execBar0CtrlAccess, State.afterBurn_clocked hclk, Dev.bar0_reads hup hbars hfree hread]
  case stageWrite =>
    intro s tag off bs len hclk hup hbars hfree hphase hroom
    rw [exec_stagingBarAccess, execStagingBarAccess, State.after_clocked hclk, Dev.stageAccess_writes hup hbars hfree hphase hroom]
  case stageRead =>
    intro s tag off len hclk hup hbars hfree hphase hread
    rw [exec_stagingBarAccess, execStagingBarAccess, State.after_clocked hclk, Dev.stageAccess_reads hup hbars hfree hphase hread]
  case aper =>
    intro s who a w v hclk haccepts hoff
    rw [exec_aperRegisterWrite, execAperRegisterWrite, State.after_clocked hclk, Dev.asWriter_takes haccepts, Dev.writeAper_disabled hoff]

end Sys2Proof.Machine
end

section
/-! SUPPORT. Events of the port (R473–R476, R522): the link, its resets and violations, MSI-X, requests that reach their bound. -/

namespace Sys2Proof.Machine

open Sys2Proof

variable {s : Dev}

/-- A link that is down comes up from PHASE 2 on, unless PERST_N holds it (R465, R474). -/
theorem Dev.pciTrained_up (hdown : s.pciUp = false) (hphase : 2 ≤ s.phase) (hperst : s.pins.perstLow = false) (rate width : Nat) (flit : Bool) :
    s.pciTrained rate width flit = (
      let t := (s.setFlag F.PCI_STATUS_LINK_UP 0 true).setFld F.PCI_STATUS_RATE 0 (if flit then rate else min rate 5)
      (t.setFld F.PCI_STATUS_WIDTH 0 width).setFlag F.PCI_STATUS_FLIT 0 flit) := by
  have hacts : ¬ (s.pciUp || decide (s.phase < 2) || s.pins.perstLow) = true := by simp [hdown, hphase.not_gt, hperst]
  rw [Dev.pciTrained, if_neg hacts]

/-- A Hot Reset of a link that is up drops its reads, resets PF0 with its VFs and PF1, and takes the link down (R475). -/
theorem Dev.hotReset_resets (hup : s.pciUp = true) :
    s.hotReset = (
      let t : Dev := { s with pci := { s.pci with reqs := s.pci.reqs.filter (fun q => q.write) } }
      (((t.flr 0).flr 1).setFlag F.PCI_STATUS_LINK_UP 0 false).setFld F.PCI_STATUS_NUM_VFS 0 0) := by
  have hacts : ¬ (!s.pciUp) = true := by rw [hup]; exact Bool.false_ne_true
  rw [Dev.hotReset, if_neg hacts]

theorem Dev.pciViolation_counts (hup : s.pciUp = true) (f : Fld) : s.pciViolation f = s.count f 0 1 := if_pos hup

/-- PCI_NOTIFY of a vector that the function has and that is not reserved raises it (R473). -/
theorem Dev.writePciNotify_raises {w : Word} (hhas : F.PCI_NOTIFY_VECTOR.get w < fnVectors (F.PCI_NOTIFY_FUNC.get w))
    (hpf0 : F.PCI_NOTIFY_FUNC.get w = 0 → 2 ≤ F.PCI_NOTIFY_VECTOR.get w) (hvf : 2 ≤ F.PCI_NOTIFY_FUNC.get w → F.PCI_NOTIFY_VECTOR.get w ≠ 0) :
    s.writePciNotify w = s.msixRaise (F.PCI_NOTIFY_FUNC.get w) (F.PCI_NOTIFY_VECTOR.get w) := by
  rw [Dev.writePciNotify]
  refine if_neg ?_
  rintro (hnone | ⟨hzero, hreserved⟩ | ⟨htwo, hreserved⟩)
  · exact hhas.not_ge hnone
  · exact (hpf0 hzero).not_gt hreserved
  · exact hvf htwo hreserved

/-- A masked vector opened sends its pending write where Bus Master Enable lets it (R473). -/
theorem Dev.msixOpen_opens {f v : Nat} (hup : s.pciUp = true) (hthere : s.fnExists f = true) (hhas : v < fnVectors f)
    (hmasked : (s.fn f).open_.contains v = false) :
    s.msixOpen f v = (
      let x := s.fn f
      let go := x.bme && x.pend.contains v
      let t := s.setFn f { x with open_ := x.open_ ++ [v], pend := if go then x.pend.filter (fun k => k != v) else x.pend }
      if go then t.emit (.msix f v) else t) := by
  have hacts : ¬ (!s.pciUp || !s.fnExists f || decide (v ≥ fnVectors f) || (s.fn f).open_.contains v) = true := by
    rw [hup, hthere, hmasked, decide_eq_false hhas.not_ge]
    exact Bool.false_ne_true
  rw [Dev.msixOpen, if_neg hacts]

theorem Dev.requestTimeout_l2 {n : CoreIx} {line : Nat} (hwaits : s.l2Waits n line = true) :
    s.requestTimeout (.l2 n line) = (s.count F.DIE_ERR_COUNTS_TIMEOUTS 8 1).coreComp n 0 line .timeout :=
  if_pos hwaits

theorem Dev.requestTimeout_core {n : CoreIx} {addr : Nat} (hwaits : ((s.hart n).waitOn (addr / 64)).isSome = true) :
    s.requestTimeout (.core n addr) = (s.count F.DIE_ERR_COUNTS_TIMEOUTS 8 1).coreComp n 2 (addr / 64) .timeout :=
  if_pos hwaits

/-- A request of an engine with a tile answers TIMEOUT to the tile (R522). -/
theorem Dev.requestTimeout_engine {e : Fin 960} {t : Tile} (ht : s.tileOn (if e.val < 512 then s.logical e else e.val) = some t) (addr : Nat) :
    s.requestTimeout (.engine e addr) = (
      let k := if e.val < 512 then s.logical e else e.val
      let d := s.count F.DIE_ERR_COUNTS_TIMEOUTS (Requester.engine e addr).die 1
      ({ d with remSent := d.remSent.filter (fun q => q.tag != k) } : Dev).tileError k t .timeout addr) := by
  rw [Dev.requestTimeout]
  dsimp only
  rw [ht]

/-- Settles O35, a case for each event and for each requester. -/
theorem portEventsTakeEffect : Obligations.PortEventsTakeEffect := by
  refine ⟨?link, ?hot, ?violation, ?notify, ?unmask, ?timeoutL2, ?timeoutCore, ?timeoutEngine⟩
  case link =>
    intro s rate width flit hclk hdown hphase hperst
    rw [exec_pcieLinkUp, execPcieLinkUp, State.after_clocked hclk, Dev.pciTrained_up hdown hphase hperst]
  case hot =>
    intro s hmgmt hup
    rw [exec_hotReset, execHotReset, State.afterMgmt_runs hmgmt, Dev.hotReset_resets hup]
  case violation =>
    intro s hclk hup
    refine ⟨?_, ?_, ?_⟩
    · rw [exec_poisonedWrite, execPoisonedWrite, State.after_clocked hclk, Dev.pciViolation_counts hup]
    · rw [exec_unexpectedCompletion, execUnexpectedCompletion, State.after_clocked hclk, Dev.pciViolation_counts hup]
    · rw [exec_malformedTlp, execMalformedTlp, State.after_clocked hclk, Dev.pciViolation_counts hup]
  case notify =>
    intro s who func vec v hclk haccepts hhas hpf0 hvf
    rw [exec_pciNotify, execPciNotify, State.after_clocked hclk, Dev.asWriter_takes haccepts, Dev.writePciNotify_raises hhas hpf0 hvf]
  case unmask =>
    intro s f v hclk hup hthere hhas hmasked
    rw [exec_msixUnmask, execMsixUnmask, State.after_clocked hclk, Dev.msixOpen_opens hup hthere hhas hmasked]
  case timeoutL2 =>
    intro s n line hclk hwaits
    rw [exec_requestTimeout, execRequestTimeout, State.after_clocked hclk, Dev.requestTimeout_l2 hwaits]
  case timeoutCore =>
    intro s n addr hclk hwaits
    rw [exec_requestTimeout, execRequestTimeout, State.after_clocked hclk, Dev.requestTimeout_core hwaits]
  case timeoutEngine =>
    intro s e addr t hclk ht
    rw [exec_requestTimeout, execRequestTimeout, State.after_clocked hclk, Dev.requestTimeout_engine ht]

end Sys2Proof.Machine
end

section
/-! SUPPORT. The Gauntlet (R489–R500) and attestation requests (R503, R504): what a GO makes of a vault, what a chunk goes on with. -/

namespace Sys2Proof.Machine

open Sys2Proof

section Go

variable {s : Dev} {p kind : Nat} {w : Word} (hgo : F.GX_CTRL_GO.get w ≠ 0) (hkind : F.GX_CTRL_KIND.get w = kind) (hlt : kind < 3)

theorem Dev.fld_gxKind (hlt : kind < 3) : (s.setFld F.GX_CTRL_KIND p kind).fld F.GX_CTRL_KIND p = kind := by
  have hfits : kind % 2 ^ F.GX_CTRL_KIND.width = kind := Nat.mod_eq_of_lt (hlt.trans (by decide))
  rw [Dev.fld_setFld s F.GX_CTRL_KIND p kind (by decide), hfits]

include hgo hkind hlt

/-- A GO that no check refuses starts the operation of a sealed vault in both channels (R489, R490). -/
theorem Dev.writeGxCtrl_starts (hsealed : s.fld F.GX_STATUS_STATE p = 1) (hadmits : (s.setFld F.GX_CTRL_KIND p kind).gxRefusal p kind = none)
    (agree : Nat) :
    s.writeGxCtrl p agree w = (
      let t := s.setFld F.GX_CTRL_KIND p kind
      let src := t.fld F.GX_SRC_ADDR p * 64
      let aux := t.fld F.GX_AUX_ADDR p * 64
      let t := (t.setGxState p 2).setFlag F.GX_CTRL_GO p true
      let t := t.setOp p (some ⟨kind, 0, src, aux, t.fld F.GX_LEN_BYTES p, [], 0, [], [], [], 0, none⟩)
      let t := if kind = 0 then { t with gxGuard := SMap.set t.gxGuard p ((t.localForm src).getD 0, 64, 0, 0) } else t
      t.gxRun p agree) := by
  have hacts : ¬ (F.GX_CTRL_GO.get w = 0 ∨ s.fld F.GX_STATUS_STATE p = 2 ∨ s.fld F.GX_STATUS_STATE p = 0) := by simp [hgo, hsealed]
  rw [Dev.writeGxCtrl, hkind, if_neg hlt.ne, if_neg hacts, Dev.fld_gxKind hlt]
  dsimp only
  rw [hadmits]

/-- A GO that a check refuses gives its RESULT and is counted (R489). -/
theorem Dev.writeGxCtrl_refuses {r : Nat} (hrunning : s.fld F.GX_STATUS_STATE p ≠ 2) (hopen : s.fld F.GX_STATUS_STATE p ≠ 0)
    (hrefuses : (s.setFld F.GX_CTRL_KIND p kind).gxRefusal p kind = some r) (agree : Nat) :
    s.writeGxCtrl p agree w =
      ((s.setFld F.GX_CTRL_KIND p kind).setFld F.GX_STATUS_RESULT p r).count F.GX_COUNTS_REFUSED p 1 := by
  have hacts : ¬ (F.GX_CTRL_GO.get w = 0 ∨ s.fld F.GX_STATUS_STATE p = 2 ∨ s.fld F.GX_STATUS_STATE p = 0) := by simp [hgo, hrunning, hopen]
  rw [Dev.writeGxCtrl, hkind, if_neg hlt.ne, if_neg hacts, Dev.fld_gxKind hlt]
  dsimp only
  rw [hrefuses]

end Go

/-- KIND of a vault is not its auxiliary address. -/
theorem Dev.fld_gxAux_setKind (s : Dev) (p : VaultIx) (kind : Nat) :
    (s.setFld F.GX_CTRL_KIND p kind).fld F.GX_AUX_ADDR p = s.fld F.GX_AUX_ADDR p :=
  Dev.fld_setFld_other s F.GX_CTRL_KIND F.GX_AUX_ADDR p p kind (RegId.key_ne_of_name (by decide) (by omega) (by omega))

/-- An operation under way, with nothing waiting for the ring, goes on with its next chunk (R493). -/
theorem Dev.gxRun_chunk {s : Dev} {p : Nat} {o : GxOp} (hop : (s.vault p).op = some o) (hopen : o.fin = none)
    (hroom : o.stream.length < o.written + 64) (hkind : o.kind ≠ 2) (hbegun : o.stream.isEmpty = false) (agree : Nat) :
    s.gxRun p agree = if o.kind = 0 then s.releaseChunk p o (agree == 0) else s.exportChunk p o (agree == 0) := by
  have hacts : ¬ (o.fin.isSome || decide (o.stream.length ≥ o.written + 64)) = true := by simp [hopen, hroom.not_ge]
  have hgoes : (!o.stream.isEmpty) = true := by rw [hbegun, Bool.not_false]
  rw [Dev.gxRun, hop]
  exact (if_neg hacts).trans ((if_neg hkind).trans (if_pos hgoes))

/-- A test of a running die's noise source fails: the source is unhealthy, and the entry is a SAFETY one (R500). -/
theorem Dev.nseFail_reports {s : Dev} {d : Nat} (hruns : s.dieState (9 + d) = 0) (which : Nat) :
    s.nseFail d which = (
      let f := if which = 0 then F.NSE_STATUS_REPETITION_FAIL else if which = 1 then F.NSE_STATUS_PROPORTION_FAIL else F.NSE_STATUS_KAT_FAIL
      ((s.setFlag f d true).setFlag F.NSE_STATUS_HEALTHY d false).report ⟨6, 9 + d, none, 20, 3, none, 0, 9 + d⟩) := by
  have hacts : ¬ (s.dieState (9 + d) != 0) = true := by simp [hruns]
  rw [Dev.nseFail, if_neg hacts]

/-- GO of ATT_CTRL with no request in progress joins the requests, which are served as far as they can be (R503, R504). -/
theorem Dev.writeAttCtrl_asks {s : Dev} {w : Word} (hidle : s.flag F.ATT_STATUS_BUSY 0 = false) (hgo : F.ATT_CTRL_GO.get w ≠ 0) (who : Who) :
    s.writeAttCtrl who w = (
      let t := (s.setFld F.ATT_CTRL_PARTITION 0 (F.ATT_CTRL_PARTITION.get w)).setFld F.ATT_CTRL_PACKAGE 0 (F.ATT_CTRL_PACKAGE.get w)
      let party := match who with | .core n _ => t.partOfCore n | _ => none
      let r : AttReq := ⟨party, if t.flag F.ATT_CTRL_PACKAGE 0 then none else some (t.fld F.ATT_CTRL_PARTITION 0),
        t.fld F.ATT_DATA_ADDR_ADDR 0 * 64, t.fld F.ATT_OUT_ADDR_ADDR 0 * 64, none⟩
      let t := (t.setFlag F.ATT_STATUS_BUSY 0 true).setFlag F.ATT_CTRL_GO 0 true
      let t : Dev := { t with att := { t.att with waiting := t.att.waiting ++ [r] } }
      t.attServe t.att.waiting.length) := by
  have hacts : ¬ s.flag F.ATT_STATUS_BUSY 0 = true := Bool.eq_false_iff.1 hidle
  rw [Dev.writeAttCtrl, if_neg hacts]
  refine (if_neg hgo).trans ?_
  cases who <;> rfl

/-- Settles O36, a case for each command, and for a GO one where it is admitted and one where it is refused. -/
theorem gxOperationsTakeEffect : Obligations.GxOperationsTakeEffect := by
  refine ⟨?releaseGo, ?exportGo, ?importGo, ?releaseRefused, ?exportRefused, ?importRefused, ?releaseChunk, ?exportChunk, ?head, ?nse, ?attest⟩
  case releaseGo =>
    intro s who p agree hclk haccepts hsealed hadmits
    rw [exec_gxRelease, execGxRelease, State.after_clocked hclk, Dev.gxGo, Dev.asWriter_takes haccepts,
      Dev.writeGxCtrl_starts (kind := 0) (by decide) rfl (by decide) hsealed hadmits, ← Dev.fld_gxAux_setKind s.dev p 0]
    rfl
  case exportGo =>
    intro s who p agree hclk haccepts hsealed hadmits
    rw [exec_gxExport, execGxExport, State.after_clocked hclk, Dev.gxGo, Dev.asWriter_takes haccepts,
      Dev.writeGxCtrl_starts (kind := 1) (by decide) rfl (by decide) hsealed hadmits]
    rfl
  case importGo =>
    intro s who p hclk haccepts hsealed hadmits
    rw [exec_gxImport, execGxImport, State.after_clocked hclk, Dev.gxGo, Dev.asWriter_takes haccepts,
      Dev.writeGxCtrl_starts (kind := 2) (by decide) rfl (by decide) hsealed hadmits]
    rfl
  case releaseRefused =>
    intro s who p agree r hclk haccepts hrunning hopen hrefuses
    rw [exec_gxRelease, execGxRelease, State.after_clocked hclk, Dev.gxGo, Dev.asWriter_takes haccepts,
      Dev.writeGxCtrl_refuses (kind := 0) (by decide) rfl (by decide) hrunning hopen hrefuses]
  case exportRefused =>
    intro s who p agree r hclk haccepts hrunning hopen hrefuses
    rw [exec_gxExport, execGxExport, State.after_clocked hclk, Dev.gxGo, Dev.asWriter_takes haccepts,
      Dev.writeGxCtrl_refuses (kind := 1) (by decide) rfl (by decide) hrunning hopen hrefuses]
  case importRefused =>
    intro s who p r hclk haccepts hrunning hopen hrefuses
    rw [exec_gxImport, execGxImport, State.after_clocked hclk, Dev.gxGo, Dev.asWriter_takes haccepts,
      Dev.writeGxCtrl_refuses (kind := 2) (by decide) rfl (by decide) hrunning hopen hrefuses]
  case releaseChunk =>
    intro s p agree o hclk hop hopen hroom hkind hbegun
    rw [exec_gxChunk, execGxChunk, State.after_clocked hclk, Dev.gxRun_chunk hop hopen hroom (by omega) hbegun, if_pos hkind]
  case exportChunk =>
    intro s p agree o hclk hop hopen hroom hkind hbegun
    rw [exec_gxChunk, execGxChunk, State.after_clocked hclk, Dev.gxRun_chunk hop hopen hroom (by omega) hbegun, if_neg (by omega)]
  case head =>
    intro s who p head v hclk haccepts
    rw [exec_gxDestHeadWrite, execGxDestHeadWrite, State.after_clocked hclk, Dev.asWriter_takes haccepts, Dev.writeGxDest]
  case nse =>
    intro s d which hclk hruns
    rw [exec_nseHealthFail, execNseHealthFail, State.after_clocked hclk, Dev.nseFail_reports hruns]
  case attest =>
    intro s who w v hclk haccepts hidle hgo
    rw [exec_attestRequest, execAttestRequest, State.after_clocked hclk, Dev.asWriter_takes haccepts, Dev.writeAttCtrl_asks hidle hgo]
      <;> cases who <;> rfl

end Sys2Proof.Machine
end

section
/-! SUPPORT. The commands of translation (R399, R400, R403, R408, R410, R411, R413–R416): misses, walks and their ends, page requests, invalidations. -/

namespace Sys2Proof.Machine

open Sys2Proof

variable {s : Dev}

/-- A request of an Sv48 context that misses its copy joins the miss of its page, or is one of at most 32 new ones (R403). -/
theorem Dev.atcMiss_asks {c ctx va : Nat} {need : Right} (hmode : s.xmode ctx = 9) (hdie : s.dieState (c / 16) = 0)
    (hmiss : (s.atc c).any (fun e => e.covers ctx va && e.gives need) = false) (hcore : s.dieState 8 = 0)
    (hroom : (s.walks.filter (fun w => w.cluster == c)).length < 32) (tag : Nat) :
    s.atcMiss c ctx va tag need = (
      let t := s.count F.ATC_MISSES_COUNT c 1
      let q : XReq := ⟨c, tag, need, va⟩
      if s.walks.any (fun w => w.cluster == c && w.ctx == ctx && w.vpage == va / 4096) then
        { t with walks := s.walks.map (fun w => if w.cluster = c ∧ w.ctx = ctx ∧ w.vpage = va / 4096 then { w with reqs := w.reqs ++ [q] } else w) }
      else t.setWalks c (s.walks ++ [⟨c, ctx, va / 4096, [q], false, none⟩])) := by
  have hmapped : ¬ (!(decide (s.xmode ctx = 9) || decide (s.xmode ctx = 10)) || s.dieState (c / 16) != 0) = true := by simp [hmode, hdie]
  have hawake : ¬ (s.dieState 8 != 0) = true := by simp [hcore]
  rw [Dev.atcMiss]
  refine (if_neg hmapped).trans ((if_neg (Bool.eq_false_iff.1 hmiss)).trans ((if_neg hawake).trans ?_))
  exact ite_congr rfl (fun _ => rfl) (fun _ => if_neg hroom.not_ge)

/-- What a walk's end leaves with its miss: the level, the PTE and its address, unless the tables could not be read. -/
def WalkEnd.found : WalkEnd → Option (Nat × Word × Nat)
  | .notValid l a => some (l, 0, a)
  | .leaf l pte a => some (l, pte, a)
  | _ => none

/-- A walk that comes to its end leaves what it found with its miss (R399). -/
theorem Dev.htuWalk_walks {c ctx vpage : Nat} {w : Walk} {q : XReq} {qs : List XReq} {e : WalkEnd} {d : Dev}
    (hroom : (s.walks.filter (fun w => w.walked)).length < 256)
    (hfind : s.walks.find? (fun w => w.cluster == c && w.ctx == ctx && w.vpage == vpage && !w.walked) = some w) (hreqs : w.reqs = q :: qs)
    (hwalk : s.walkFrom ctx q.va = (e, d)) (hends : e ≠ .wait) :
    s.htuWalk c ctx vpage = { d with walks := d.walks.map (fun y => if y = w then { w with walked := true, leaf := e.found } else y) } := by
  rw [Dev.htuWalk, hfind]
  refine (if_neg hroom.not_ge).trans ?_
  rw [hreqs]
  dsimp only
  rw [hwalk]
  cases e with
  | wait => exact absurd rfl hends
  | bad | notValid | leaf => rfl

/-- A walked miss is judged for each of its requests (R400). -/
theorem Dev.walkDone_judges {c ctx vpage p : Nat} {w : Walk} {rest : List Walk}
    (htake : takeFirst (fun (w : Walk) => w.cluster == c && w.ctx == ctx && w.vpage == vpage && w.walked) s.walks = some (w, rest))
    (hpart : (s.setWalks c rest).partOfCtx ctx = some p) :
    s.walkDone c ctx vpage = (
      let e : WalkEnd := match w.leaf with | none => .bad | some (l, pte, a) => if pte = 0 then .notValid l a else .leaf l pte a
      w.reqs.foldl (fun t q => t.judgeReq p ctx e q) (s.setWalks c rest)) := by
  rw [Dev.walkDone, htake]
  dsimp only
  rw [hpart] <;> rfl

section Answers

variable {p : Nat} {w : Word} {e : PrEntry} (hentry : s.prEntry p (F.XP_PR_RESP_PR_ID.get w) = some e)
include hentry

/-- RETRY walks the requests of the entry it names again (R415). -/
theorem Dev.writePrResp_retries (hcode : F.XP_PR_RESP_CODE.get w = 0) : s.writePrResp p w = s.prRetry p e := by
  rw [Dev.writePrResp, hcode, Dev.prAnswer, hentry]
  exact if_neg (by decide)

/-- FAIL answers the requests of the entry it names XLATE (R415). -/
theorem Dev.writePrResp_fails (hcode : F.XP_PR_RESP_CODE.get w = 1) : s.writePrResp p w = s.prFail p e := by
  rw [Dev.writePrResp, hcode, Dev.prAnswer, hentry]
  exact if_pos (by decide)

end Answers

theorem Dev.prExpire_fails {p ix : Nat} {e : PrEntry} (hlimit : s.fld F.XP_PR_LIMIT_LIMIT p ≠ 0)
    (hentry : (s.pr p).entries.find? (fun e => e.ix == ix && e.written.isSome) = some e) : s.prExpire p ix = s.prFail p e := by
  rw [Dev.prExpire, if_neg hlimit, hentry]

/-- The operands of an invalidation are bad: a length out of bounds or not aligned, a context of another partition (R410). -/
def Dev.invBad (t : Dev) (p : Nat) : Bool :=
  (!t.flag F.XP_INV_CTRL_ALL_VA p && (decide (t.fld F.XP_INV_CTRL_LOG2 p < 12 ∨ 57 < t.fld F.XP_INV_CTRL_LOG2 p) ||
      t.fld F.XP_INV_ADDR_VA p * 4096 % 2 ^ t.fld F.XP_INV_CTRL_LOG2 p != 0)) ||
    (!t.flag F.XP_INV_CTRL_ALL p && t.partOfCtx (t.fld F.XP_INV_CTRL_CONTEXT p) != some p)

/-- What an invalidation names: the copies awaited, the first address, the length and the context (R410). -/
def Dev.invNew (t : Dev) (p : Nat) : InvSt :=
  ⟨t.atcsOf p, t.fld F.XP_INV_ADDR_VA p * 4096, if t.flag F.XP_INV_CTRL_ALL_VA p then none else some (2 ^ t.fld F.XP_INV_CTRL_LOG2 p),
    if t.flag F.XP_INV_CTRL_ALL p then none else some (t.fld F.XP_INV_CTRL_CONTEXT p)⟩

/-- An invalidation of the contexts `mine` begins: what it names is dropped at each copy, whose acknowledgement is awaited (R411). -/
def Dev.invBegin (t : Dev) (p : Nat) (mine : Nat → Bool) : Dev :=
  let x := t.invNew p
  let t := { t with
    walks := t.walks.map (fun (y : Walk) => if mine y.ctx then { y with walked := false, leaf := none } else y)
    wcache := t.wcache.filter (fun (y : WalkEntry) => !mine y.ctx) }
  let t := x.waitAtc.foldl (fun t c => (t.invDrop p c x).setFlag F.ATC_STATUS_INVALIDATING c true) t
  let t := { t with invs := SMap.set t.invs p x }
  if x.waitAtc.isEmpty then { t.setFlag F.XP_INV_STATUS_DONE p true with invs := SMap.del t.invs p }
  else (t.setFlag F.XP_INV_STATUS_BUSY p true).setFlag F.XP_INV_CTRL_GO p true

/-- The two ways of writing "the context named, or any context of the partition" agree. -/
theorem Dev.invBegin_mine (t : Dev) (p : Nat) :
    t.invBegin p (fun c => match (t.invNew p).ctx with | some k => c == k | none => t.partOfCtx c == some p) =
      t.invBegin p (fun c => if let some k := (t.invNew p).ctx then c == k else t.partOfCtx c == some p) := by
  refine congrArg (t.invBegin p) (funext fun c => ?_)
  cases (t.invNew p).ctx with
  | some k => rfl
  | none => rfl

/-- GO of an invalidation with none in progress ends in ERROR where its operands are bad, else begins it (R410). -/
theorem Dev.writeInvCtrl_goes {p : Nat} {w : Word} {t : Dev} (hgo : F.XP_INV_CTRL_GO.get w = 1) (hidle : s.flag F.XP_INV_STATUS_BUSY p = false)
    (ht : (s.storeReg ⟨.XP_INV_CTRL, p⟩ w).setFlag F.XP_INV_CTRL_GO p false = t) :
    s.writeInvCtrl p w =
      if t.invBad p then (t.setFlag F.XP_INV_STATUS_DONE p true).setFlag F.XP_INV_STATUS_ERROR p true
      else t.invBegin p (fun c => if let some k := (t.invNew p).ctx then c == k else t.partOfCtx c == some p) := by
  have hacts : ¬ (decide (F.XP_INV_CTRL_GO.get w = 0) || false) = true := by simp [hgo]
  rw [Dev.writeInvCtrl, hidle, ht, ← Dev.invBegin_mine]
  refine (if_neg hacts).trans ?_
  rfl

/-- A copy with no request of its agents outstanding acknowledges, and the last acknowledgement sets DONE (R411). -/
theorem Dev.invAck_acks {p c : Nat} {v : InvSt} (hinv : SMap.find s.invs p = some v) (hwaits : v.waitAtc.contains c = true)
    (hquiet : s.remSent.any (fun r => (s.tagsOf c).contains r.tag) = false) :
    s.invAck p c = (
      let t := ((s.invDrop p c v).ccDrop c).setFlag F.ATC_STATUS_INVALIDATING c false
      let rest := v.waitAtc.filter (fun x => x != c)
      if rest.isEmpty then
        let t := { t with invs := SMap.del t.invs p }
        ((t.setFlag F.XP_INV_STATUS_DONE p true).setFlag F.XP_INV_STATUS_BUSY p false).setFlag F.XP_INV_CTRL_GO p false
      else { t with invs := SMap.set t.invs p { v with waitAtc := rest } }) := by
  have hacts : ¬ (!v.waitAtc.contains c || s.remSent.any (fun r => (s.tagsOf c).contains r.tag)) = true := by
    rw [hwaits, hquiet]
    exact Bool.false_ne_true
  rw [Dev.invAck, hinv]
  exact if_neg hacts

/-- FLUSH drops the check entries kept of the partition in every home (R408). -/
theorem Dev.writeCheckCtrl_flushes {w : Word} (hflush : F.XP_CHECK_CTRL_FLUSH.get w = 1) (p : Nat) :
    s.writeCheckCtrl p w = (
      let t := (s.storeReg ⟨.XP_CHECK_CTRL, p⟩ w).setFlag F.XP_CHECK_CTRL_FLUSH p false
      { t with homes := t.homes.map (fun e => (e.1, { e.2 with checks := SMap.delWhere e.2.checks (fun k => k / 2 ^ 24 == p) })) }) :=
  if_pos hflush

/-- Settles O28, a case for each command; GO of an invalidation has one for each kind of operands. -/
theorem translationCommandsTakeEffect : Obligations.TranslationCommandsTakeEffect := by
  refine ⟨?miss, ?walk, ?done, ?head, ?retry, ?fail, ?limit, ?go, ?goBad, ?ack, ?flush⟩
  case miss =>
    intro s c ctx va tag need hclk hmode hdie hmiss hcore hroom
    rw [exec_atcMiss, execAtcMiss, State.after_clocked hclk, Dev.atcMiss_asks hmode hdie hmiss hcore hroom]
  case walk =>
    intro s c ctx vpage w q qs e d hclk hroom hfind hreqs hwalk hends
    rw [exec_htuWalk, execHtuWalk, State.after_clocked hclk, Dev.htuWalk_walks hroom hfind hreqs hwalk hends]
    cases e <;> rfl
  case done =>
    intro s c ctx vpage p w rest hclk htake hpart
    rw [exec_walkDone, execWalkDone, State.after_clocked hclk, Dev.walkDone_judges htake hpart] <;> rfl
  case head =>
    intro s who p head v hclk haccepts
    rw [exec_prHeadWrite, execPrHeadWrite, State.after_clocked hclk, Dev.asWriter_takes haccepts, Dev.writePrHead]
  case retry =>
    intro s who p id v e hclk haccepts hcode hentry
    rw [exec_prRespRetry, execPrRespRetry, State.after_clocked hclk, Dev.asWriter_takes haccepts, Dev.writePrResp_retries hentry hcode]
  case fail =>
    intro s who p id v e hclk haccepts hcode hentry
    rw [exec_prRespFail, execPrRespFail, State.after_clocked hclk, Dev.asWriter_takes haccepts, Dev.writePrResp_fails hentry hcode]
  case limit =>
    intro s p ix e hclk hlimit hentry
    rw [exec_prLimitExpire, execPrLimitExpire, State.after_clocked hclk, Dev.prExpire_fails hlimit hentry]
  case go =>
    intro s who p ctrl v t hclk haccepts hgo hidle ht hgood
    have hgood : ¬ t.invBad p = true := Bool.eq_false_iff.1 hgood
    rw [exec_invalidationGo, execInvalidationGo, State.after_clocked hclk, Dev.asWriter_takes haccepts, Dev.writeInvCtrl_goes hgo hidle ht,
      if_neg hgood]
    rfl
  case goBad =>
    intro s who p ctrl v t hclk haccepts hgo hidle ht hbad
    have hbad : t.invBad p = true := hbad
    rw [exec_invalidationGo, execInvalidationGo, State.after_clocked hclk, Dev.asWriter_takes haccepts, Dev.writeInvCtrl_goes hgo hidle ht,
      if_pos hbad]
  case ack =>
    intro s p c v hclk hinv hwaits hquiet
    rw [exec_atcInvAck, execAtcInvAck, State.after_clocked hclk, Dev.invAck_acks hinv hwaits hquiet]
  case flush =>
    intro s who p v hclk haccepts hflush
    rw [exec_checkFlush, execCheckFlush, State.after_clocked hclk, Dev.asWriter_takes haccepts, Dev.writeCheckCtrl_flushes hflush]

end Sys2Proof.Machine
end

section
/-! SUPPORT. Training of an optical port (R422, R427–R429, R431, R432): its start, its packets, its end, RETRAIN. -/

namespace Sys2Proof.Machine

open Sys2Proof

variable {s : Dev} {f : Nat}

theorem Dev.portStart_trains (hdown : s.portState f = 0) (hpll : s.pllUp (portDie f) = true) (hlock : s.flag F.BOOT_STATUS_LOCKED 0 = true) :
    s.portStart f = s.portTrain f true :=
  if_pos (by simp [hdown, hpll, hlock])

/-- A port trained from FAILED by RETRAIN tries every wavelength again in full, one in service fast (R431). -/
theorem Dev.writePortCtrl_failed {w : Word} (hset : F.PORT_CTRL_RETRAIN.get w ≠ 0) (hfailed : s.portState f = 5) :
    s.writePortCtrl f w = (s.setFld F.PORT_LANES_GOOD f (s.wavesFused f)).portTrain f true := by
  rw [Dev.writePortCtrl, if_neg hset, if_pos hfailed]

theorem Dev.writePortCtrl_up {w : Word} (hset : F.PORT_CTRL_RETRAIN.get w ≠ 0) (hwell : s.portState f ≠ 5) (hup : s.portUp f = true) :
    s.writePortCtrl f w = (s.setFld F.PORT_LANES_GOOD f (s.wavesFused f)).portTrain f false := by
  rw [Dev.writePortCtrl, if_neg hset, if_neg hwell, if_pos hup]

/-- The state after the training of a port that has keys and a common wavelength: m are the wavelengths good at both ends, rtt the round
trip, x the port as its training ended; its width, credits and replay are set, and it serves where the width meets the floor (R422, R429). -/
def Dev.portTrained (t : Dev) (f m rtt : Nat) (x : PortSt) : Dev :=
  let g := (lanesOf m).length
  let st := if g ≥ 4 then 2 else if g ≥ 2 then 3 else 4
  let use := (lanesOf m).take (if g ≥ 4 then 4 else if g ≥ 2 then 2 else 1)
  let t := (t.setFld F.PORT_STATUS_STATE f st).setFld F.PORT_LANES_IN_USE f (use.foldl (fun n i => n + 2 ^ i) 0)
  let t := if st > 2 then t.setFlag F.PORT_EVENT_WIDTH_DROP f true else t
  let c := creditSizes rtt
  let t := ((t.setFld F.PORT_CREDIT_SHARED f c.1).setFld F.PORT_CREDIT_DEDICATED f c.2.1).setFld F.PORT_CREDIT_CONTROL f c.2.2.1
  let t := t.setFld F.PORT_CREDIT_REPLAY f c.2.2.2
  let t := if x.full then t else t.count F.PORT_COUNTS_RETRAINS f 1
  let t := t.setPort f { t.port f with naking := false, nakRun := 0 }
  let t := if x.replay.isEmpty then t else x.replay.foldl (fun t fr => t.emitFrame f fr) (t.count F.PORT_COUNTS_REPLAYS f 1)
  if st > t.fabParam 4 then ((t.setFld F.PORT_STATUS_CAUSE f 6).portLeave f).sendLsa
  else
    let t := t.setFlag F.PORT_STATUS_IN_SERVICE f true
    (t.pumpPort f (t.port f).queue.length).sendLsa

section Training

variable (htrain : s.portState f = 1)
include htrain

theorem Dev.echo_keeps (hroom : (s.port f).echoes.length < 16) (rtt : Nat) :
    s.echo f rtt = s.setPort f { s.port f with echoes := (s.port f).echoes ++ [rtt] } :=
  if_pos (by simp [htrain, hroom])

/-- A CAP packet of the right layout names the peer, and a mismatch fails the port (R428). -/
theorem Dev.cap_reads {g : List Byte}
    (hlayout : (allZero (bytesAt g 0x12 14) && bitsOf (fieldAt g 0xF 1) 5 3 == 0 && bitsOf (fieldAt g 0x10 2) 10 5 == 0) = true) :
    s.cap f g = (
      let t := s.setPort f { s.port f with cap := bytesAt g 0 32, peer := fieldAt g 0 8 }
      let t := (t.setFld F.PORT_STATUS_PEER_PORT f (fieldAt g 0xC 1)).setFld F.PORT_STATUS_PEER_DEVICE f (bitsOf (fieldAt g 0x10 2) 0 10)
      let t := t.setFlag F.PORT_STATUS_PEER_ASSIGNED f (bitOf (fieldAt g 0x10 2) 15)
      if fieldAt g 8 4 ≠ t.fabParam 1 ∨ fieldAt g 0xD 1 ≠ t.portRole f ∨ fieldAt g 0xE 1 ≠ 1 ∨ t.portRole f = 0 then t.portFail f 3
      else t.kxOffer f) := by
  rw [Dev.cap, if_neg (by simp [htrain]), if_neg (by rw [hlayout]; exact Bool.false_ne_true)]

theorem Dev.cap_breaks {g : List Byte}
    (hlayout : (allZero (bytesAt g 0x12 14) && bitsOf (fieldAt g 0xF 1) 5 3 == 0 && bitsOf (fieldAt g 0x10 2) 10 5 == 0) = false) :
    s.cap f g = s.violation f F.PORT_VIOL_PACKET := by
  rw [Dev.cap, if_neg (by simp [htrain]), if_pos (by rw [hlayout, Bool.not_false])]

section Keys

variable (hfull : (s.port f).full = true) (hcap : (s.port f).cap.isEmpty = false)
include hfull hcap

theorem Dev.kx_breaks {p : Pkt}
    (hlayout : ((fieldAt (granule p 0) 0 1 == 1 || fieldAt (granule p 0) 0 1 == 2) && allZero (bytesAt (granule p 0) 3 29)) = false) :
    s.kx f p = s.violation f F.PORT_VIOL_PACKET := by
  have hacts : ¬ (s.portState f != 1 || !(s.port f).full || (s.port f).cap.isEmpty) = true := by simp [htrain, hfull, hcap]
  rw [← Bool.not_eq_true', Bool.not_and] at hlayout
  rw [Dev.kx]
  exact (if_neg hacts).trans (if_pos hlayout)

/-- A KX fragment that is the next of its message joins it, and the last one completes it (R432). -/
theorem Dev.kx_joins {p : Pkt} {x : PortSt}
    (hlayout : ((fieldAt (granule p 0) 0 1 == 1 || fieldAt (granule p 0) 0 1 == 2) && allZero (bytesAt (granule p 0) 3 29)) = true)
    (hsession : (s.att.certified || s.attSpent) = true)
    (hx : (if fieldAt (granule p 0) 1 1 = 0 then { s.port f with parts := [], frag := 0 } else s.port f) = x)
    (hnext : fieldAt (granule p 0) 1 1 = x.frag) :
    s.kx f p = (
      let g := granule p 0
      let parts := x.parts ++ bytesAt p 64 (32 * (pktLen p - 1))
      let t := s.setPort f { x with parts := parts, frag := fieldAt g 1 1 + 1 }
      if fieldAt g 1 1 + 1 = fieldAt g 2 1 then t.kxMessage f (fieldAt g 0 1) parts else t) := by
  have hacts : ¬ (s.portState f != 1 || !(s.port f).full || (s.port f).cap.isEmpty) = true := by simp [htrain, hfull, hcap]
  have hwhole : ¬ (!(fieldAt (granule p 0) 0 1 == 1 || fieldAt (granule p 0) 0 1 == 2) || !allZero (bytesAt (granule p 0) 3 29)) = true := by
    rw [← Bool.not_and, hlayout]
    exact Bool.false_ne_true
  have hready : ¬ (!s.att.certified && !s.attSpent) = true := by
    rw [← Bool.not_or, hsession]
    exact Bool.false_ne_true
  subst hx
  rw [Dev.kx]
  exact (if_neg hacts).trans ((if_neg hwhole).trans ((if_neg hready).trans (if_neg (not_not.2 hnext))))

end Keys

/-- Training ends well within its bound: the sixteen ECHO packets, a CAP, keys, a wavelength good at both ends, and a round trip the port
can serve (R422, R427). -/
theorem Dev.portDone_trained (hkeyed : (s.port f).keyed = true) (hcap : (s.port f).cap.isEmpty = false)
    (hechoes : 16 ≤ (s.port f).echoes.length) {good : Nat}
    (hwave : (lanesOf (s.fld F.PORT_LANES_GOOD f &&& good &&& fieldAt (s.port f).cap 0xF 1)).length ≠ 0)
    (hrtt : (s.port f).echoes.foldl max 0 ≤ 14000) :
    s.portDone f good false = (
      let x := s.port f
      let own := s.fld F.PORT_LANES_GOOD f &&& good
      let t := (if own = s.fld F.PORT_LANES_GOOD f then s else s.setFlag F.PORT_EVENT_LANE_FAILED f true).setFld F.PORT_LANES_GOOD f own
      let rtt := x.echoes.foldl max 0
      let t := (t.setFld F.PORT_STATUS_RTT f (min rtt 16383)).setFld F.PORT_STATUS_FIBER_M f (min ((rtt - 900) * 100 / 2548) 1023)
      t.portTrained f (own &&& fieldAt x.cap 0xF 1) rtt x) := by
  have hsteps : ¬ (s.portState f != 1 || ((s.fld F.PORT_LANES_GOOD f &&& good != 0) && !false &&
      (decide ((s.port f).echoes.length < 16) || (s.port f).cap.isEmpty))) = true := by simp [htrain, hechoes.not_gt, hcap]
  have hkeys : ¬ ((s.port f).full && !false && !(s.port f).keyed && !s.att.certified && !s.attSpent) = true := by simp [hkeyed]
  have hpeer : (if (s.port f).cap.isEmpty then s.fld F.PORT_LANES_GOOD f &&& good
      else s.fld F.PORT_LANES_GOOD f &&& good &&& fieldAt (s.port f).cap 0xF 1) =
      s.fld F.PORT_LANES_GOOD f &&& good &&& fieldAt (s.port f).cap 0xF 1 := if_neg (Bool.eq_false_iff.1 hcap)
  have hboth : ¬ (lanesOf (if (s.port f).cap.isEmpty then s.fld F.PORT_LANES_GOOD f &&& good
      else s.fld F.PORT_LANES_GOOD f &&& good &&& fieldAt (s.port f).cap 0xF 1)).length = 0 := by rw [hpeer]; exact hwave
  have hnolate : ¬ (false && (s.port f).cap.isEmpty) = true := Bool.false_ne_true
  have hunkeyed : ¬ (!(s.port f).keyed) = true := by rw [hkeyed]; exact Bool.false_ne_true
  rw [Dev.portDone]
  refine (if_neg hsteps).trans ((if_neg hkeys).trans ((if_neg hboth).trans ((if_neg hrtt.not_gt).trans ((if_neg hnolate).trans
    ((if_neg hunkeyed).trans ((if_neg Bool.false_ne_true).trans ?_))))))
  exact congrArg (fun m => Dev.portTrained _ f m _ (s.port f)) hpeer

end Training

/-- Settles O29, a case for each event of a training, and for CAP, KX and RETRAIN one for each way they go. -/
theorem portTrainingTakesEffect : Obligations.PortTrainingTakesEffect := by
  refine ⟨?start, ?echo, ?cap, ?capBroken, ?kx, ?kxBroken, ?done, ?failed, ?up⟩
  case start =>
    intro s f hclk hdown hpll hlock
    rw [exec_portTrainingStart, execPortTrainingStart, State.after_clocked hclk, Dev.portStart_trains hdown hpll hlock]
  case echo =>
    intro s f rtt hclk htrain hroom
    rw [exec_echo, execEcho, State.after_clocked hclk, Dev.echo_keeps htrain hroom]
  case cap =>
    intro s f g hclk hshape htrain hlayout
    rw [exec_cap, execCap, shaped_true hshape, State.after_clocked hclk, Dev.cap_reads htrain hlayout]
  case capBroken =>
    intro s f g hclk hshape htrain hlayout
    rw [exec_cap, execCap, shaped_true hshape, State.after_clocked hclk, Dev.cap_breaks htrain hlayout]
  case kx =>
    intro s f p x hclk htrain hfull hcap hlayout hsession hx hnext
    rw [exec_kx, execKx, State.after_clocked hclk, Dev.kx_joins htrain hfull hcap hlayout hsession hx hnext]
  case kxBroken =>
    intro s f p hclk htrain hfull hcap hlayout
    rw [exec_kx, execKx, State.after_clocked hclk, Dev.kx_breaks htrain hfull hcap hlayout]
  case done =>
    intro s f good hclk htrain hkeyed hcap hechoes hwave hrtt
    rw [exec_portTrainingDone, execPortTrainingDone, State.after_clocked hclk, Dev.portDone_trained htrain hkeyed hcap hechoes hwave hrtt]
    rfl
  case failed =>
    intro s who f hclk hfailed haccepts
    rw [exec_portRetrain, execPortRetrain, State.after_clocked hclk, Dev.asWriter_takes haccepts,
      Dev.writePortCtrl_failed (by decide) hfailed]
  case up =>
    intro s who f hclk hwell hup haccepts
    rw [exec_portRetrain, execPortRetrain, State.after_clocked hclk, Dev.asWriter_takes haccepts, Dev.writePortCtrl_up (by decide) hwell hup]

end Sys2Proof.Machine
end

section
/-! SUPPORT. The optical fabric at work: frames and light (R430, R433, R446, R448), the link-state map and the IDs (R434–R442), remote
operations and DNF (R441–R451). -/

namespace Sys2Proof.Machine

open Sys2Proof

variable {s : Dev}

section InService
variable {f : Nat} (hup : s.portUp f = true)
include hup

/-- A frame whose words arrive clean or corrected, with a valid header, is deciphered: one whose tag fails is a violation, another
acknowledges, and the one awaited delivers its packets (R430, R446). -/
theorem Dev.frameTake_whole {gs : List (WordClass × List Byte)} {fr : List Byte} (hwhole : gs.any (fun g => g.1.bad) = false)
    (hfr : gs.flatMap (·.2) = fr) (hkind : bitsOf (fieldAt fr 0 8) 33 2 < 2) (hcredits : fieldAt fr 8 8 < 2 ^ 32) :
    s.frameTake f gs [] = (
      let t := s.count F.PORT_COUNTS_CORRECTED_WORDS f (gs.filter (fun g => g.1.corrected)).length
      let t := t.setPort f { t.port f with rsErrs := (t.port f).rsErrs }
      let seq := bitsOf (fieldAt fr 0 8) 0 16
      match openFrame (t.port f).rx fr with
      | none => (t.violation f F.PORT_VIOL_AUTH).nakFrame f (some seq)
      | some (plain, k) =>
        let t := (t.setPort f { t.port f with rx := k }).frameAck f (fieldAt fr 0 8) (fieldAt fr 8 8)
        if bitsOf (fieldAt fr 0 8) 33 2 = 1 || !t.portUp f then t
        else
          let x := t.port f
          let ahead := (seq + 65536 - x.lastAcc) % 65536
          if ahead = 1 then
            let r := parsePkts 17 (x.cont ++ plain)
            let t := t.setPort f { x with lastAcc := seq, naking := false, nakRun := 0, cont := r.2 }
            r.1.foldl (fun t p => t.takePkt f p) t
          else if ahead = 0 ∨ ahead ≥ 32768 then t
          else t.nakFrame f (some seq)) := by
  have hin : ¬ (!s.portUp f) = true := by simp [hup]
  have hnobad : ¬ (gs.any (fun g => g.1.bad) || !([] : List Nat).isEmpty) = true := by simp [hwhole]
  have hheader : ¬ (bitsOf (fieldAt fr 0 8) 33 2 ≥ 2 ∨ fieldAt fr 8 8 ≥ 2 ^ 32) := not_or.2 ⟨hkind.not_ge, hcredits.not_ge⟩
  subst hfr
  rw [Dev.frameTake]
  refine (if_neg hin).trans ((if_neg hnobad).trans ((if_neg hheader).trans ?_))
  rfl

/-- A frame with a bad word or codeword is answered with a NAK (R430). -/
theorem Dev.frameTake_broken {gs : List (WordClass × List Byte)} {rs : List Nat}
    (hbad : (gs.any (fun g => g.1.bad) || !rs.isEmpty) = true) :
    s.frameTake f gs rs = (
      let t := s.count F.PORT_COUNTS_CORRECTED_WORDS f (gs.filter (fun g => g.1.corrected)).length
      let t := t.setPort f { t.port f with rsErrs := rs.foldl (fun m w => SMap.set m w (SMap.get m 0 w + 1)) (t.port f).rsErrs }
      t.nakFrame f (if (gs.take 1).any (fun g => g.1.bad) then none else some (bitsOf (fieldAt (gs.flatMap (·.2)) 0 8) 0 16))) := by
  have hin : ¬ (!s.portUp f) = true := by simp [hup]
  rw [Dev.frameTake]
  exact (if_neg hin).trans (if_pos hbad)

/-- A frame at a port in service is taken, and an idle frame answers it (R430). -/
theorem Dev.frameReceive_takes (fr : List Byte) (errs : List (Nat × Nat)) (rs : List Nat) :
    s.frameReceive f fr errs rs = (s.frameTake f (frameArrives fr errs) rs).idleFrame f := by rw [Dev.frameReceive, if_pos hup]

theorem Dev.portFast_retrains : s.portFast f = s.portTrain f false := by rw [Dev.portFast, if_pos hup]

/-- A wavelength that fails leaves PORT_LANES, and the port retrains (R448). -/
theorem Dev.failWave_retrains (w : Nat) :
    s.failWave f (2 ^ w) = (
      let m := s.fld F.PORT_LANES_GOOD f
      ((s.setFld F.PORT_LANES_GOOD f (m - (m &&& 2 ^ w))).setFlag F.PORT_EVENT_LANE_FAILED f true).portTrain f false) := by
  have hmask : ¬ 2 ^ w = 0 := (Nat.two_pow_pos w).ne'
  rw [Dev.failWave]
  exact (if_neg hmask).trans (if_pos hup)

end InService

/-- The sender's key moves on once it has covered 2^28 frames (R433). -/
theorem Dev.rekeyPort_moves {f : Nat} (hctr : 268435456 ≤ (s.port f).tx.ctr) :
    s.rekeyPort f = (s.setPort f { s.port f with tx := (s.port f).tx.rekey }).count F.PORT_COUNTS_REKEYS f 1 := by
  have hspent : (s.port f).tx.ctr ≥ 2 ^ 28 := hctr
  rw [Dev.rekeyPort]
  exact if_pos hspent

/-- Settles O30, a case for each command; a received frame has one for whole and one for broken arrivals. -/
theorem framesAndLightTakeEffect : Obligations.FramesAndLightTakeEffect := by
  refine ⟨?whole, ?broken, ?silence, ?rekey, ?light, ?window⟩
  case whole =>
    intro s f head body errs gs fr hclk hshape hup hgs hwhole hfr hkind hcredits
    rw [exec_frameReceive, execFrameReceive, shaped_true hshape, State.after_clocked hclk, Dev.frameReceive_takes hup, hgs, List.map_nil,
      Dev.frameTake_whole hup hwhole hfr hkind hcredits] <;> rfl
  case broken =>
    intro s f head body errs rs gs hclk hshape hup hgs hbad
    rw [exec_frameReceive, execFrameReceive, shaped_true hshape, State.after_clocked hclk, Dev.frameReceive_takes hup, hgs,
      Dev.frameTake_broken hup hbad]
  case silence =>
    intro s f hclk hup
    rw [exec_frameSilence, execFrameSilence, State.after_clocked hclk, Dev.frameSilence, Dev.portFast_retrains hup]
  case rekey =>
    intro s f hclk hctr
    rw [exec_rekey, execRekey, State.after_clocked hclk, Dev.rekeyPort_moves hctr]
  case light =>
    intro s f w hclk hup
    rw [exec_wavelengthLoss, execWavelengthLoss, State.after_clocked hclk, Dev.failWave_retrains hup]
  case window =>
    intro s f hclk
    rw [exec_rsErrorWindowEnd, execRsErrorWindowEnd, State.after_clocked hclk, Dev.rsWindow]

/-! The receive buffer. -/

/-- The first packet of a type in a port's receive buffer is taken and worked on, and an idle frame returns its credits (R429, R430). -/
theorem Dev.ctlTake_takes {f type : Nat} {e : List Byte × Nat × Nat} {rest : List (List Byte × Nat × Nat)} (work : Dev → Pkt → Dev)
    (htake : takeFirst (fun (e : List Byte × Nat × Nat) => pktType e.1 == type) (s.port f).inbox = some (e, rest)) :
    s.ctlTake f type work =
      (work (s.setPort f ({ s.port f with inbox := rest }.give (min (pktVc e.1) 12) e.2.1 e.2.2)) e.1).idleFrame f := by
  rw [Dev.ctlTake, Dev.takeInbox, htake]

/-! The map and the IDs. -/

/-- The device sends its LSA once released or with a port in service (R434). -/
theorem Dev.lsaPeriodic_sends (h : s.phase = 7 ∨ (List.range 48).any s.portServes = true) : s.lsaPeriodic = s.sendLsa := by
  rw [Dev.lsaPeriodic, if_pos h]

/-- A foreign origin that ages out leaves the map (R439). -/
theorem Dev.lsaAge_drops {d : Nat} (hother : d ≠ s.disc) (hheld : (s.lsaOf d).isNone = false) :
    s.lsaAge d = (
      let t := { s with fab := { s.fab with map := s.fab.map.filter (fun l => l.disc != d), stale := true } }
      (t.setFlag F.FAB_SELF_CONVERGED 0 false).judgeLost) := by
  have hforeign : ¬ (decide (d = s.disc) || (s.lsaOf d).isNone) = true := by simp [hother, hheld]
  rw [Dev.lsaAge]
  exact if_neg hforeign

/-- The starter takes the role and assigns IDs (R436, R437). -/
theorem Dev.starterElect_elects (h : s.starter = some s.disc) :
    s.starterElect = (
      let t := s.setFlag F.FAB_SELF_STARTER 0 true
      let t := { t with fab := { t.fab with bound := t.assignIds } }
      let due := t.fab.map.filter (fun l => !l.frags.isEmpty && (!l.assigned || some l.devId != t.idOf l.disc))
      let t := due.foldl (fun (t : Dev) l => match t.idOf l.disc with
        | some n => if l.disc = t.disc then t.takeId n else t.sendDisc l.disc n 1
        | none => t) t
      (if (t.idOf t.disc).isNone then t.setFlag F.FAB_SELF_UNASSIGNED 0 true else t).showDevs) := by
  rw [Dev.starterElect]
  refine (if_neg (not_not.2 h)).trans ?_
  rfl

/-- Another device leaves the role, and reports where the assignment leaves it without an ID (R437). -/
theorem Dev.starterElect_leaves (h : s.starter ≠ some s.disc) :
    s.starterElect = (s.setFlag F.FAB_SELF_STARTER 0 false).setFlag F.FAB_SELF_UNASSIGNED 0
      (s.starter.isSome && !s.flag F.FAB_SELF_ASSIGNED 0 && !s.assignIds.any (fun b => b.1 == s.disc)) := by
  rw [Dev.starterElect, if_pos h]

/-- REDISCOVER floods OP 2 and discards the ID and the bindings (R438). -/
theorem Dev.writeFabCtrl_rediscovers : s.writeFabCtrl 1 = (s.sendDisc 0 0 2).forgetIds := by
  have hbit : F.FAB_CTRL_REDISCOVER.get 1 = 1 := by decide
  rw [Dev.writeFabCtrl, if_pos hbit]

/-- The map is converged where it holds an LSA of every bound device (R439). -/
theorem Dev.mapConverge_converges (h : s.fab.bound.all (fun b => (s.lsaOf b.1).isSome) = true) :
    s.mapConverge = s.setFlag F.FAB_SELF_CONVERGED 0 true := by rw [Dev.mapConverge, if_pos h]

/-- A device with an ID computes its routes anew (R440). -/
theorem Dev.routeCompute_computes {me : Nat} (h : s.ownId = some me) :
    s.routeCompute = (
      let links := s.mapLinks.filterMap (fun l => match s.idOf l.src, s.idOf l.dst with
        | some a, some b => some (⟨a, l.port, b, l.role⟩ : IdLink)
        | _, _ => none)
      let ids := s.fab.bound.map (·.2)
      let seed := s.fabParam 7
      let tab := ids.foldl (fun (m : SMap (List (List Nat))) d =>
        if d = me then m
        else
          let rank := fun x => (mix (BitVec.ofNat 64 (seed ^^^ (me <<< 32) ^^^ (d <<< 16) ^^^ x))).toNat
          SMap.set m d ((⟨links, ids, rank⟩ : RouteEnv).routes me d)) []
      ({ s with fab := { s.fab with routes := tab, stale := false } } : Dev).showDevs) := by
  rw [Dev.routeCompute, h] <;> rfl

/-- The bound of R442 drops the packets held at a port, and counts them. -/
theorem Dev.holdTimeout_drops {f : Nat} (h : (s.port f).heldAt.isNone = false) :
    s.holdTimeout f = (s.setPort f { s.port f with held := [], heldAt := none }).count F.FAB_COUNTS_DROPPED 0 (s.port f).held.length := by
  rw [Dev.holdTimeout]
  exact if_neg (Bool.eq_false_iff.1 h)

/-- Settles O31, a case for each command; STARTER_ELECT has one for the starter and one for another device. -/
theorem fabricMapTakesEffect : Obligations.FabricMapTakesEffect := by
  refine ⟨?lsa, ?disc, ?periodic, ?age, ?elect, ?leave, ?rediscover, ?converge, ?routes, ?hold⟩
  case lsa =>
    intro s f e rest hclk htake
    rw [exec_lsa, execLsa, State.after_clocked hclk, Dev.ctlTake_takes _ htake]
  case disc =>
    intro s f e rest hclk htake
    rw [exec_disc, execDisc, State.after_clocked hclk, Dev.ctlTake_takes _ htake]
  case periodic =>
    intro s hclk hdue
    rw [exec_lsaPeriodic, execLsaPeriodic, State.after_clocked hclk, Dev.lsaPeriodic_sends hdue]
  case age =>
    intro s origin hclk hother hheld
    rw [exec_lsaAgeOut, execLsaAgeOut, State.after_clocked hclk, Dev.lsaAge_drops hother hheld]
  case elect =>
    intro s hclk hself
    rw [exec_starterElect, execStarterElect, State.after_clocked hclk, Dev.starterElect_elects hself] <;> rfl
  case leave =>
    intro s hclk hother
    rw [exec_starterElect, execStarterElect, State.after_clocked hclk, Dev.starterElect_leaves hother]
  case rediscover =>
    intro s who hclk haccepts
    rw [exec_rediscover, execRediscover, State.after_clocked hclk, Dev.asWriter_takes haccepts, Dev.writeFabCtrl_rediscovers]
  case converge =>
    intro s hclk hall
    rw [exec_mapConverge, execMapConverge, State.after_clocked hclk, Dev.mapConverge_converges hall]
  case routes =>
    intro s me hclk hid
    rw [exec_routeRecompute, execRouteRecompute, State.after_clocked hclk, Dev.routeCompute_computes hid] <;> rfl
  case hold =>
    intro s f hclk hheld
    rw [exec_holdLsaTimeout, execHoldLsaTimeout, State.after_clocked hclk, Dev.holdTimeout_drops hheld]

/-! Remote requests. -/

/-- A remote request that its source check admits is recorded and sent on the route chosen (R441, R443). -/
theorem Dev.packetSend_sends {r : RemReq} {rest : List RemReq} (hfirst : s.remQ = r :: rest) (hremote : s.localForm r.addr = none)
    (hadmitted : s.sourceCode r (bitsOf r.addr 45 10) = none) :
    s.packetSend = (
      let t : Dev := { s with remQ := rest }
      let n := bitsOf r.addr 45 10
      let j := (t.sourceJob r n).getD 0
      let route := t.chooseRoute r n
      let txn := t.fab.txn
      let p := t.reqPkt r n j txn route
      let t : Dev := { t with remSent := t.remSent ++ [r], fab := { t.fab with txn := (txn + 1) % 2 ^ 32, opens := t.fab.opens ++ [⟨txn, n, route, r⟩] } }
      t.sendOn (route.headD 0 % 64) p) := by
  have hremote' : ({ s with remQ := rest } : Dev).localForm r.addr = none := hremote
  have hadmitted' : ({ s with remQ := rest } : Dev).sourceCode r (bitsOf r.addr 45 10) = none := hadmitted
  rw [Dev.packetSend, hfirst]
  dsimp only
  rw [hremote']
  dsimp only
  rw [hadmitted']

section Transit
variable {f : Nat} {p : List Byte} {t : Dev} (htake : s.takeInbox f transits = some (p, t))
include htake

/-- A packet in transit goes on to its next port with its hop index moved on (R441). -/
theorem Dev.packetForward_forwards (hway : t.joined (dieOfPort f) (dieOfPort (pktRoute p (pktHop p + 1))) = true) :
    s.packetForward f = (t.sendOn (pktRoute p (pktHop p + 1)) (bytesAt p 0 2 ++ leBytes 1 (fieldAt p 2 1 + 1) ++ p.drop 3)).idleFrame f := by
  rw [Dev.packetForward, htake]
  exact if_pos hway

/-- While no way leads to its next port it stays where it came in (R27). -/
theorem Dev.packetForward_waits (hnoway : t.joined (dieOfPort f) (dieOfPort (pktRoute p (pktHop p + 1))) = false) : s.packetForward f = s := by
  rw [Dev.packetForward, htake]
  exact if_neg (Bool.eq_false_iff.1 hnoway)

end Transit

/-- The four request packets are one piece of work, told apart by their TYPE (R443, R444). -/
theorem exec_request_packet {f : FPort} {c : Instr} {type : Nat} (s : State)
    (hc : (c, type) = (.fabricRd f, 1) ∨ (c, type) = (.fabricWr f, 2) ∨ (c, type) = (.fabricWrPart f, 3) ∨ (c, type) = (.fabricAtomic f, 4)) :
    exec c s = s.after (s.dev.serveReq f type) := by
  obtain h | h | h | h := hc
  all_goals
    obtain ⟨rfl, rfl⟩ := Prod.mk.inj h
    rfl

/-- The two answer packets are one piece of work, told apart by their TYPE (R445). -/
theorem exec_answer_packet {f : FPort} {c : Instr} {type : Nat} (s : State)
    (hc : (c, type) = (.fabricComp f, 0x10) ∨ (c, type) = (.fabricData f, 0x11)) : exec c s = s.after (s.dev.takeAnswerPkt f type) := by
  obtain h | h := hc
  all_goals
    obtain ⟨rfl, rfl⟩ := Prod.mk.inj h
    rfl

section Target
variable {f type : Nat} {p : List Byte} {t : Dev} (htake : s.takeInbox f (fun p => pktType p == type && !transits p) = some (p, t))
include htake

/-- A request packet that an entry admits is served line by line and answered, once every line could be served (R443). -/
theorem Dev.serveReq_serves {q ctx : Nat} {as : List (Resp × Line)} (hself : s.ownId = some (pktDst p))
    (hadmitted : s.admittedFor p = some (q, ctx))
    (hserved : ((t.idleFrame f).serveLines (dieOfPort f) p q ctx (List.range (pktLines p))).1 = some as) :
    s.serveReq f type =
      ((t.idleFrame f).serveLines (dieOfPort f) p q ctx (List.range (pktLines p))).2.answerPkt (dieOfPort f) p as := by
  rw [Dev.serveReq, htake]
  refine (if_neg (not_not.2 hself)).trans ?_
  rw [hadmitted]
  dsimp only
  rw [hserved]

/-- One that no entry admits is answered PERM and counted (R443). -/
theorem Dev.serveReq_refuses (hself : s.ownId = some (pktDst p)) (hrefused : s.admittedFor p = none) :
    s.serveReq f type = ((t.idleFrame f).count F.FAB_COUNTS_INBOUND_PERM 0 1).answerPkt (dieOfPort f) p
      ((List.range (pktLines p)).map (fun _ => (Resp.perm, (0 : Line)))) := by
  rw [Dev.serveReq, htake]
  refine (if_neg (not_not.2 hself)).trans ?_
  rw [hrefused]

/-- An answer packet ends the request of its transaction number with its code (R445). -/
theorem Dev.takeAnswerPkt_ends {o : OpenTxn}
    (hopen : (t.idleFrame f).fab.opens.find? (fun o => o.txn == pktTxn p && o.dst == pktSrc p) = some o) :
    s.takeAnswerPkt f type = (
      let t := t.idleFrame f
      let t : Dev := { t with fab := { t.fab with opens := t.fab.opens.filter (fun x => x.txn != o.txn) } }
      t.remoteAnswer o.req (Resp.ofNum (bitsOf (fieldAt p 0x16 2) 0 4)) (if type = 0x11 then some (bytesAt p 32 64) else none)) := by
  rw [Dev.takeAnswerPkt, htake]
  dsimp only
  rw [hopen]

end Target

/-- A DNF raised for a valid entry starts with TTL 8 and no detail (R450). -/
theorem Dev.writeDnfRaise_raises {w : Word} {j : Nat}
    (hentry : (List.range 64).find? (fun j => s.flag F.JOB_CFG_VALID j && s.fld F.JOB_CFG_JOB j == F.FAB_DNF_RAISE_JOB.get w) = some j) :
    s.writeDnfRaise w = s.dnfTake ⟨s.fld F.JOB_CFG_JOB j, s.fld F.FAB_SELF_DEVICE_ID 0, s.fld F.JOB_CFG_EPOCH j, 1, 8, 0⟩ none := by
  have hfound := List.find?_some hentry
  have hvalid : s.flag F.JOB_CFG_VALID j = true := (Bool.and_eq_true_iff.1 hfound).1
  rw [Dev.writeDnfRaise, hentry]
  dsimp only
  rw [Dev.dnfRaise, if_pos hvalid]

/-- A DNF packet that keeps its layout is acted on and forwarded (R451). -/
theorem Dev.dnfPacket_takes {f : Nat} {p : Pkt} (hlayout : allZero (bytesAt (granule p 0) 12 20) = true) :
    s.dnfPacket f p = s.dnfTake (dnfOf (granule p 0)) (some f) := by
  have hkept : ¬ (!allZero (bytesAt (granule p 0) 12 20)) = true := by simp [hlayout]
  rw [Dev.dnfPacket]
  exact if_neg hkept

/-- Settles O32, a case for each step of a remote operation and two for DNF. -/
theorem remoteOperationsTakeEffect : Obligations.RemoteOperationsTakeEffect := by
  refine ⟨?send, ?forward, ?wait, ?serve, ?refuse, ?answer, ?raise, ?dnf⟩
  case send =>
    intro s r rest hclk hfirst hremote hadmitted
    rw [exec_fabricPacketSend, execFabricPacketSend, State.after_clocked hclk, Dev.packetSend_sends hfirst hremote hadmitted]
  case forward =>
    intro s f p t hclk htake hway
    rw [exec_fabricPacketForward, execFabricPacketForward, State.after_clocked hclk, Dev.packetForward_forwards htake hway]
  case wait =>
    intro s f p t hclk htake hnoway
    rw [exec_fabricPacketForward, execFabricPacketForward, State.after_clocked hclk, Dev.packetForward_waits htake hnoway]
    rfl
  case serve =>
    intro s f c type p t q ctx hclk hc htake hself hadmitted hserved
    obtain ⟨as, has⟩ := Option.isSome_iff_exists.1 hserved
    rw [exec_request_packet s hc, State.after_clocked hclk, Dev.serveReq_serves htake hself hadmitted has]
    dsimp only
    rw [has, Option.getD_some]
  case refuse =>
    intro s f c type p t hclk hc htake hself hrefused
    rw [exec_request_packet s hc, State.after_clocked hclk, Dev.serveReq_refuses htake hself hrefused]
  case answer =>
    intro s f c type p t o hclk hc htake hopen
    rw [exec_answer_packet s hc, State.after_clocked hclk, Dev.takeAnswerPkt_ends htake hopen]
  case raise =>
    intro s who job v j hclk haccepts hentry
    rw [exec_fabDnfRaise, execFabDnfRaise, State.after_clocked hclk, Dev.asWriter_takes haccepts, Dev.writeDnfRaise_raises hentry]
  case dnf =>
    intro s f e rest hclk htake hlayout
    rw [exec_dnf, execDnf, State.after_clocked hclk, Dev.ctlTake_takes _ htake, Dev.dnfPacket_takes hlayout]

end Sys2Proof.Machine
end

section
/-! SUPPORT. The accesses of a core (R369–R378): which way each goes, and what it leaves. -/

namespace Sys2Proof.Machine

open Sys2Proof

/-! Accesses within an aligned doubleword (R377). -/

section Doubleword
variable {a n : Nat} (hlen : 1 ≤ n) (hwithin : a % 8 + n ≤ 8)
include hlen hwithin

/-- An access within an aligned doubleword touches one line. -/
theorem linesOf_of_within : linesOf a n = [a / 64] := by
  have hone : (a + n - 1) / 64 - a / 64 + 1 = 1 := by omega
  rw [linesOf, if_neg (by omega), hone]
  rfl

/-- It is one piece. -/
theorem pieces8_of_within : pieces8 a n = [(a, 0, n)] := by
  have hone : (a + n - 1) / 8 - a / 8 + 1 = 1 := by omega
  have hlo : max a ((a / 8 + 0) * 8) = a := by omega
  have hhi : min (a + n) ((a / 8 + 0 + 1) * 8) = a + n := by omega
  rw [pieces8, if_neg (by omega), hone, List.range_one, List.map_singleton]
  dsimp only
  rw [hlo, hhi, Nat.sub_self, Nat.add_sub_cancel_left]

end Doubleword

/-! What the shape of a command says of where it goes: a strict device access or one of weak normal memory (R369). -/

section Ways
variable {s : State} {n : CoreIx} {lvl : Level} {pa : BitVec 56} {pbmt : Fin 4} (hclk : s.dev.clocked = true)
include hclk

theorem exec_coreLoad_weak {size : Fin 9} {bad : Bool} (hshape : loadShape size = true) (hway : s.dev.strictly pa.toNat pbmt = false) :
    exec (.coreLoad ⟨n, lvl⟩ pa size pbmt bad) s = .next (s.withBurn (s.dev.coreLoad n pa.toNat size pbmt bad)) := by
  rw [exec_coreLoad, execCoreLoad, shaped_true hshape, State.afterBurn_clocked hclk, if_neg (Bool.eq_false_iff.1 hway)]

theorem exec_coreLoad_strict {size : Fin 9} {bad : Bool} (hshape : loadShape size = true) (hway : s.dev.strictly pa.toNat pbmt = true) :
    exec (.coreLoad ⟨n, lvl⟩ pa size pbmt bad) s = .next (s.withBurn (s.dev.strictAccess n lvl pa.toNat size none)) := by
  rw [exec_coreLoad, execCoreLoad, shaped_true hshape, State.afterBurn_clocked hclk, if_pos hway]

theorem exec_coreStore_weak {data : List Byte} {merge : Bool} (hshape : storeShape data = true)
    (hway : s.dev.strictly pa.toNat pbmt = false) :
    exec (.coreStore ⟨n, lvl⟩ pa data pbmt merge) s = .next (s.withBurn (s.dev.coreStore n pa.toNat data pbmt merge)) := by
  have hstrict : ¬ (s.dev.strictly pa.toNat pbmt && decide (data.length ≤ 8)) = true := by simp [hway]
  rw [exec_coreStore, execCoreStore, shaped_true hshape, State.afterBurn_clocked hclk, if_neg hstrict, if_neg (Bool.eq_false_iff.1 hway)]

theorem exec_coreStore_strict {data : List Byte} {merge : Bool} (hshape : storeShape data = true)
    (hway : s.dev.strictly pa.toNat pbmt = true) (hlen : data.length ≤ 8) :
    exec (.coreStore ⟨n, lvl⟩ pa data pbmt merge) s =
      .next (s.withBurn (s.dev.strictAccess n lvl pa.toNat data.length (some (BitVec.ofNat 64 (leNat data))))) := by
  have hstrict : (s.dev.strictly pa.toNat pbmt && decide (data.length ≤ 8)) = true := by simp [hway, hlen]
  rw [exec_coreStore, execCoreStore, shaped_true hshape, State.afterBurn_clocked hclk, if_pos hstrict]

end Ways

variable {s t : Dev}

/-! One piece of a cacheable load (R374). -/

section Piece
variable {n a len : Nat} (hsb : (s.hart n).sb.all (fun e => e.line != a / 64) = true)
include hsb

/-- No buffered store of another line covers a byte of this one. -/
theorem Dev.sb_find_none : (s.hart n).sb.reverse.find? (fun e => e.line == a / 64 && e.mask &&& byteMask a len != 0) = none := by
  refine List.find?_eq_none.2 fun e he hcovers => ?_
  have hother : e.line ≠ a / 64 := bne_iff_ne.1 (List.all_eq_true.1 hsb e (List.mem_reverse.1 he))
  exact hother (beq_iff_eq.1 (Bool.and_eq_true_iff.1 hcovers).1)

theorem Dev.loadPiece_held {l : L2Line} (hl : (s.l2 n).find (a / 64) = some l) :
    s.loadPiece n a len = (some (fieldAt (lineBytes l.data) (a % 64) len), s) := by
  rw [Dev.loadPiece, Dev.sb_find_none hsb, hl]

theorem Dev.loadPiece_absent (hl : (s.l2 n).find (a / 64) = none) : s.loadPiece n a len = (none, s.l2Ask n (a / 64) .rdShared) := by
  rw [Dev.loadPiece, Dev.sb_find_none hsb, hl]

end Piece

section Accesses
variable {n : Nat} (hup : s.coreUp n = true)
include hup

/-- A core that is up makes its access. -/
theorem Dev.not_down : ¬ (!s.coreUp n) = true := by simp [hup]

/-! Loads (R374, R375, R377). -/

section Loads
variable {pa size : Nat} {pbmt : Fin 4} {bad : Bool}

/-- A cacheable load within a doubleword ends with the value of its one piece. -/
theorem Dev.coreLoad_finishes {d : Dev} {v : Nat} (ht : (if bad then s.l2Bad n (pa / 64) else s) = t) (htype : memType pa pbmt = .cacheable)
    (hlen : 1 ≤ size) (hwithin : pa % 8 + size ≤ 8) (hwc : t.wcTouches n [pa / 64] = false) (hpiece : t.loadPiece n pa size = (some v, d)) :
    s.coreLoad n pa size pbmt bad = d.finish n (.load, t.answerAddr pa, size) (.value v) := by
  rw [Dev.coreLoad]
  refine (if_neg (Dev.not_down hup)).trans ?_
  dsimp only
  rw [ht, htype, linesOf_of_within hlen hwithin, pieces8_of_within hlen hwithin]
  refine (if_neg (Bool.eq_false_iff.1 hwc)).trans ?_
  simp only [List.foldl_cons, List.foldl_nil, hpiece, Nat.mul_zero, Nat.pow_zero, Nat.mul_one, Nat.zero_add]

/-- It waits where its one piece must. -/
theorem Dev.coreLoad_waits {d : Dev} (ht : (if bad then s.l2Bad n (pa / 64) else s) = t) (htype : memType pa pbmt = .cacheable)
    (hlen : 1 ≤ size) (hwithin : pa % 8 + size ≤ 8) (hwc : t.wcTouches n [pa / 64] = false) (hpiece : t.loadPiece n pa size = (none, d)) :
    s.coreLoad n pa size pbmt bad = d.stall n (.load, t.answerAddr pa, size) := by
  rw [Dev.coreLoad]
  refine (if_neg (Dev.not_down hup)).trans ?_
  dsimp only
  rw [ht, htype, linesOf_of_within hlen hwithin, pieces8_of_within hlen hwithin]
  refine (if_neg (Bool.eq_false_iff.1 hwc)).trans ?_
  simp only [List.foldl_cons, List.foldl_nil, hpiece]

/-- A non-caching load of one line is one read, sent to its home once, for which the core waits (R375). -/
theorem Dev.coreLoad_asksOnce {l : Nat} (htype : memType pa pbmt = .nonCaching) (hline : linesOf (s.answerAddr pa) size = [l])
    (hwc : s.wcTouches n [l] = false) (hnew : (s.hart n).waits.contains (.load, s.answerAddr pa, size) = false) :
    s.coreLoad n pa size pbmt false = (
      let lo := faultByte (s.answerAddr pa) l
      let len := min (s.answerAddr pa + size) (l * 64 + 64) - lo
      (s.stall n (.load, s.answerAddr pa, size)).askOnce n .rdOnce lo len 0 (byteMask lo len)) := by
  rw [Dev.coreLoad]
  refine (if_neg (Dev.not_down hup)).trans ?_
  rw [if_neg Bool.false_ne_true, htype]
  dsimp only
  rw [hline]
  exact (if_neg (Bool.eq_false_iff.1 hwc)).trans ((if_pos (by simp)).trans (if_neg (Bool.eq_false_iff.1 hnew)))

end Loads

/-! Stores (R374, R375). -/

section Stores
variable {pa : Nat} {data : List Byte} {pbmt : Fin 4} {merge : Bool}

/-- A cacheable store whose lines are owned joins the store buffer. -/
theorem Dev.coreStore_buffers (htype : memType pa pbmt = .cacheable) (howned : (linesOf pa data.length).all (s.l2Owns n) = true)
    (hroom : (s.hart n).sb.length + (storePieces (s.answerAddr pa) data).length ≤ 64) :
    s.coreStore n pa data pbmt merge =
      (s.setHart n ((storePieces (s.answerAddr pa) data).foldl (fun h p => h.push (storeEntry p.1 p.2 h.epoch) merge) (s.hart n))).finish
        n (.store, s.answerAddr pa, data.length) .done := by
  rw [Dev.coreStore]
  refine (if_neg (Dev.not_down hup)).trans ?_
  rw [htype]
  exact (if_pos howned).trans (if_neg hroom.not_gt)

/-- Another asks for its lines in ownership and waits. -/
theorem Dev.coreStore_asks (htype : memType pa pbmt = .cacheable) (hmissing : (linesOf pa data.length).all (s.l2Owns n) = false) :
    s.coreStore n pa data pbmt merge =
      ((linesOf pa data.length).foldl (fun t l => t.askOwn n l (zeroLine pa data)) s).stall n (.store, s.answerAddr pa, data.length) := by
  rw [Dev.coreStore]
  refine (if_neg (Dev.not_down hup)).trans ?_
  rw [htype]
  exact if_neg (Bool.eq_false_iff.1 hmissing)

/-- A non-caching store whose pieces find room joins the write-combining buffer. -/
theorem Dev.coreStore_combines (htype : memType pa pbmt = .nonCaching)
    (hroom : (storePieces (s.answerAddr pa) data).foldl
      (fun (acc : Option Dev) p => acc.bind (fun s => s.wcStore n (storeEntry p.1 p.2 (s.hart n).epoch))) (some s) = some t) :
    s.coreStore n pa data pbmt merge = t.finish n (.store, s.answerAddr pa, data.length) .done := by
  rw [Dev.coreStore]
  refine (if_neg (Dev.not_down hup)).trans ?_
  rw [htype]
  dsimp only
  rw [hroom]

end Stores

/-! FENCE (R372, R375). -/

section Fence
variable {pr pw pi po sr sw si so : Bool}

/-- A FENCE waits while an access before it has not been answered. -/
theorem Dev.coreFence_waits (hwaits : (s.hart n).predWaits pr pw pi po = true) :
    s.coreFence n pr pw pi po sr sw si so = s.result n .stalled := by
  rw [Dev.coreFence]
  exact (if_neg (Dev.not_down hup)).trans (if_pos hwaits)

/-- Without W before it, it retires at once. -/
theorem Dev.coreFence_retires (hanswered : (s.hart n).predWaits pr false pi po = false) :
    s.coreFence n pr false pi po sr sw si so = (s.setHart n { s.hart n with sealed := true }).result n .done := by
  rw [Dev.coreFence]
  exact (if_neg (Dev.not_down hup)).trans ((if_neg (Bool.eq_false_iff.1 hanswered)).trans (if_pos rfl))

/-- With W before it, the write-combining buffer drains, and it retires once its side is empty. -/
theorem Dev.coreFence_drains (hanswered : (s.hart n).predWaits pr true pi po = false) :
    s.coreFence n pr true pi po sr sw si so = (
      let t := ((s.hart n).wc.filter (fun e => (s.hart n).mayDrain e)).foldl (fun t e => t.drainEntry n e) s
      let h := t.hart n
      if h.wc.isEmpty && h.wcOut.isEmpty && (!(sr || si || so) || h.sb.isEmpty) then
        (t.setHart n { h with sealed := true, epoch := if sw && !h.sb.isEmpty then h.epoch + 1 else h.epoch }).result n .done
      else t.result n .stalled) := by
  rw [Dev.coreFence]
  exact (if_neg (Dev.not_down hup)).trans ((if_neg (Bool.eq_false_iff.1 hanswered)).trans (if_neg Bool.false_ne_true))

end Fence

end Accesses

/-! Buffered stores and the write-combining buffer (R373, R375). -/

/-- A store may be performed where the hart is not in reset and nothing older holds it back. -/
theorem Hart.not_held {h : Hart} {older : Bool} (hruns : h.inReset = false) (holder : older = false) : ¬ (h.inReset || older) = true := by
  simp [hruns, holder]

/-- A buffered store whose turn it is writes its owned line. -/
theorem Dev.storePerform_writes {n i : Nat} {e : BufEntry} {l : L2Line} (he : (s.hart n).sb[i]? = some e) (hruns : (s.hart n).inReset = false)
    (holder : ((s.hart n).sb.take i).any (fun x => x.line == e.line || decide (x.ep < e.ep)) = false)
    (hl : (s.l2 n).find e.line = some l) (howned : l.st ≠ .s) :
    s.storePerform n i false =
      (s.setHart n { s.hart n with sb := (s.hart n).sb.eraseIdx i }).l2Put n { l with st := .m, data := mergeLine e.mask l.data e.data } := by
  have hshared : ¬ (l.st == .s) = true := by simpa using howned
  rw [Dev.storePerform, he]
  dsimp only
  rw [if_neg Bool.false_ne_true, if_neg (Hart.not_held hruns holder), hl]
  exact if_neg hshared

/-- One whose line is gone asks for it again. -/
theorem Dev.storePerform_asks {n i : Nat} {bad : Bool} {e : BufEntry} (he : (s.hart n).sb[i]? = some e)
    (ht : (if bad then s.l2Bad n e.line else s) = t) (hruns : (t.hart n).inReset = false)
    (holder : ((t.hart n).sb.take i).any (fun x => x.line == e.line || decide (x.ep < e.ep)) = false)
    (hl : (t.l2 n).find e.line = none) : s.storePerform n i bad = t.askOwn n e.line false := by
  rw [Dev.storePerform, he]
  dsimp only
  rw [ht, if_neg (Hart.not_held hruns holder), hl]

/-- An entry of the write-combining buffer that may drain goes to its home. -/
theorem Dev.wcDrain_drains {n i : Nat} {e : BufEntry} (he : (s.hart n).wc[i]? = some e) (hmay : (s.hart n).mayDrain e = true) :
    s.wcDrain n i = s.drainEntry n e := by
  rw [Dev.wcDrain, he]
  exact if_pos hmay

/-! AMO, LR and SC of cacheable memory (R376, R378). -/

section Atomics
variable {n pa : Nat} {pbmt : Fin 4} {rl bad : Bool} (hup : s.coreUp n = true) (ht : (if bad then s.l2Bad n (pa / 64) else s) = t)
  (htype : memType pa pbmt = .cacheable)

/-- An access of a size that divides its address is aligned. -/
theorem not_misaligned {size : Nat} (hsize : size ≠ 0) (halign : pa % size = 0) : ¬ (decide (size = 0) || decide (pa % size ≠ 0)) = true := by
  simp [hsize, halign]

/-- Nothing older of the hart holds an access back. -/
theorem Dev.not_behind (hwc : t.wcTouches n [pa / 64] = false) (holder : t.olderWait n (pa / 64) rl = false) :
    ¬ (t.wcTouches n [pa / 64] || t.olderWait n (pa / 64) rl) = true := by simp [hwc, holder]

include hup ht htype

section Amo
variable {size : Nat} {fn : AmoFn} {x : Nat} (hsize : size ≠ 0) (halign : pa % size = 0) (hwc : t.wcTouches n [pa / 64] = false)
  (holder : t.olderWait n (pa / 64) rl = false)
include hsize halign hwc holder

/-- An AMO on an owned line writes the new value and gives the old. -/
theorem Dev.coreAmo_updates {l : L2Line} (hl : (t.l2 n).find (pa / 64) = some l) (howned : l.st ≠ .s) :
    s.coreAmo n pa size fn x pbmt rl bad = (
      let old := fieldAt (lineBytes l.data) (pa % 64) size
      let d := t.l2Put n { l with st := .m, data := setBytes l.data (pa % 64) (leBytes size (amoValue fn size old x)) }
      (d.setHart n { d.hart n with sealed := true }).finish n (.amo, t.answerAddr pa, size) (.value old)) := by
  have hshared : ¬ (l.st == .s) = true := by simpa using howned
  rw [Dev.coreAmo]
  refine (if_neg (Dev.not_down hup)).trans ?_
  dsimp only
  rw [ht, if_neg (not_misaligned hsize halign), htype]
  dsimp only
  rw [if_neg (Dev.not_behind hwc holder), hl]
  exact if_neg hshared

/-- One whose line is not held asks for it in ownership and waits. -/
theorem Dev.coreAmo_asks (hl : (t.l2 n).find (pa / 64) = none) :
    s.coreAmo n pa size fn x pbmt rl bad = (t.askOwn n (pa / 64) false).stall n (.amo, t.answerAddr pa, size) := by
  rw [Dev.coreAmo]
  refine (if_neg (Dev.not_down hup)).trans ?_
  dsimp only
  rw [ht, if_neg (not_misaligned hsize halign), htype]
  dsimp only
  rw [if_neg (Dev.not_behind hwc holder), hl]

/-- LR of a held line gives its value and reserves it. -/
theorem Dev.coreLr_reserves {l : L2Line} (hl : (t.l2 n).find (pa / 64) = some l) :
    s.coreLr n pa size pbmt rl bad =
      (t.setHart n { t.hart n with resv := some (pa / 64), sealed := true }).finish n (.load, pa, size)
        (.value (fieldAt (lineBytes l.data) (pa % 64) size)) := by
  rw [Dev.coreLr]
  refine (if_neg (Dev.not_down hup)).trans ?_
  dsimp only
  rw [ht, if_neg (not_misaligned hsize halign), htype]
  dsimp only
  rw [if_neg (Dev.not_behind hwc holder), hl]

/-- LR of a line that is not held asks for it and waits. -/
theorem Dev.coreLr_asks (hl : (t.l2 n).find (pa / 64) = none) :
    s.coreLr n pa size pbmt rl bad = (t.l2Ask n (pa / 64) .rdShared).stall n (.load, pa, size) := by
  rw [Dev.coreLr]
  refine (if_neg (Dev.not_down hup)).trans ?_
  dsimp only
  rw [ht, if_neg (not_misaligned hsize halign), htype]
  dsimp only
  rw [if_neg (Dev.not_behind hwc holder), hl]

end Amo

section Sc
variable {data : List Byte} (hsize : data.length ≠ 0) (halign : pa % data.length = 0)
include hsize halign

/-- SC with the reservation on an owned line stores and gives 0. -/
theorem Dev.coreSc_stores {l : L2Line} (hresv : (t.hart n).resv = some (pa / 64)) (hwc : t.wcTouches n [pa / 64] = false)
    (holder : t.olderWait n (pa / 64) rl = false) (hl : (t.l2 n).find (pa / 64) = some l) (howned : l.st ≠ .s) :
    s.coreSc n pa data pbmt rl bad = (
      let d := t.l2Put n { l with st := .m, data := setBytes l.data (pa % 64) data }
      (d.setHart n { d.hart n with resv := none, sealed := true }).finish n (.amo, pa, data.length) (.value 0)) := by
  have hshared : ¬ (l.st == .s) = true := by simpa using howned
  rw [Dev.coreSc]
  refine (if_neg (Dev.not_down hup)).trans ?_
  dsimp only
  rw [ht, if_neg (not_misaligned hsize halign), htype]
  dsimp only
  rw [if_neg (not_not.2 hresv), if_neg (Dev.not_behind hwc holder), hl]
  exact if_neg hshared

/-- Without the reservation it gives 1. -/
theorem Dev.coreSc_fails (hresv : (t.hart n).resv ≠ some (pa / 64)) :
    s.coreSc n pa data pbmt rl bad =
      (t.setHart n { t.hart n with resv := none, sealed := true }).finish n (.amo, pa, data.length) (.value 1) := by
  rw [Dev.coreSc]
  refine (if_neg (Dev.not_down hup)).trans ?_
  dsimp only
  rw [ht, if_neg (not_misaligned hsize halign), htype]
  exact if_pos hresv

end Sc

end Atomics

/-! Strict device accesses (R371, R378). -/

/-- A hart whose next store merges with none before it. -/
def Hart.seal (h : Hart) : Hart := { h with sealed := true }

section Strict
variable {n : CoreIx} {lvl : Level} {pa size : Nat} {store : Option Word} (hup : s.coreUp n = true)
  (ht : s.setHart n (s.hart n).seal = t)
include hup ht

/-- One of a size other than 1, 2, 4 or 8 faults. -/
theorem Dev.strictAccess_misaligned (hsize : [1, 2, 4, 8].contains size = false) :
    s.strictAccess n lvl pa size store = (
      let kind := if store.isSome then WaitKind.strictStore else WaitKind.strictLoad
      t.finish n (kind, t.answerAddr pa, size) (kind.fault pa)) := by
  have hbad : (!([1, 2, 4, 8].contains size) || decide (pa % size ≠ 0)) = true := by rw [hsize]; rfl
  rw [Dev.strictAccess]
  refine (if_neg (Dev.not_down hup)).trans ?_
  subst ht
  exact if_pos hbad

section Sized
variable (hsize : [1, 2, 4, 8].contains size = true) (halign : pa % size = 0)
include hsize halign

omit hup ht in
theorem strict_sized : ¬ (!([1, 2, 4, 8].contains size) || decide (pa % size ≠ 0)) = true := by
  rw [hsize, halign]
  decide

/-- One behind another of the core waits. -/
theorem Dev.strictAccess_waits (hbusy : (t.hart n).strictWaits = true) : s.strictAccess n lvl pa size store = t.result n .stalled := by
  rw [Dev.strictAccess]
  refine (if_neg (Dev.not_down hup)).trans ?_
  subst ht
  exact (if_neg (strict_sized hsize halign)).trans (if_pos hbusy)

section Alone
variable {a : Nat} (hfree : (t.hart n).strictWaits = false) (hlocal : t.localForm pa = some a)
include hfree hlocal

/-- One of CTRL space is answered there. -/
theorem Dev.strictAccess_ctrl (hfirst : ctrlBase ≤ a) (hlast : a ≤ ctrlLimit) :
    s.strictAccess n lvl pa size store = (
      let kind := if store.isSome then WaitKind.strictStore else WaitKind.strictLoad
      let w : WaitKind × Nat × Nat := (kind, t.answerAddr pa, size)
      let r := t.ctrlAccess (.core n lvl) (a - ctrlBase) size store
      if r.1 = .ok then r.2.2.finish n w (if store.isSome then .done else .value (r.2.1.toNat % 2 ^ (8 * size)))
      else r.2.2.finish n w (kind.fault pa)) := by
  rw [Dev.strictAccess]
  refine (if_neg (Dev.not_down hup)).trans ?_
  subst ht
  refine (if_neg (strict_sized hsize halign)).trans ((if_neg (Bool.eq_false_iff.1 hfree)).trans ?_)
  dsimp only [Hart.seal] at hlocal
  rw [hlocal]
  exact if_pos ⟨hfirst, hlast⟩

/-- One of memory is sent there. -/
theorem Dev.strictAccess_memory (hbelow : a < ctrlBase) :
    s.strictAccess n lvl pa size store = (
      let kind := if store.isSome then WaitKind.strictStore else WaitKind.strictLoad
      t.strictAsk n (kind, t.answerAddr pa, size) pa size store) := by
  have hmemory : ¬ (ctrlBase ≤ a ∧ a ≤ ctrlLimit) := fun h => hbelow.not_ge h.1
  rw [Dev.strictAccess]
  refine (if_neg (Dev.not_down hup)).trans ?_
  subst ht
  refine (if_neg (strict_sized hsize halign)).trans ((if_neg (Bool.eq_false_iff.1 hfree)).trans ?_)
  dsimp only [Hart.seal] at hlocal
  rw [hlocal]
  exact if_neg hmemory

end Alone

end Sized

end Strict

/-- A command without the bad mark finds its line readable. -/
theorem Dev.readable (s d : Dev) : (if false = true then d else s) = s := if_neg Bool.false_ne_true

/-- Settles O26, a case for each way that an access of a core goes. -/
theorem coreAccessesTakeEffect : Obligations.CoreAccessesTakeEffect := by
  refine ⟨?loadHeld, ?loadAbsent, ?loadNonCaching, ?loadStrict, ?storeOwned, ?storeAbsent, ?storeNonCaching, ?storeStrict, ?performOwned,
    ?performAbsent, ?drain, ?fenceNoW, ?fenceW, ?fenceWaits, ?amoOwned, ?amoAbsent, ?lrHeld, ?lrAbsent, ?scReserved, ?scLost, ?strictCtrl,
    ?strictMemory, ?strictWaits, ?strictSize⟩
  case loadHeld =>
    intro s n lvl pa size pbmt l hclk hshape hup hway htype hwithin hwc hsb hl
    rw [exec_coreLoad_weak hclk hshape hway, Dev.coreLoad_finishes hup (Dev.readable _ _) htype (of_decide_eq_true hshape) hwithin hwc
      (Dev.loadPiece_held hsb hl)]
  case loadAbsent =>
    intro s n lvl pa size pbmt bad t hclk hshape hup hway htype hwithin ht hwc hsb hl
    rw [exec_coreLoad_weak hclk hshape hway, Dev.coreLoad_waits hup ht htype (of_decide_eq_true hshape) hwithin hwc
      (Dev.loadPiece_absent hsb hl)]
  case loadNonCaching =>
    intro s n lvl pa size pbmt l hclk hshape hup hway htype hline hwc hnew
    rw [exec_coreLoad_weak hclk hshape hway, Dev.coreLoad_asksOnce hup htype hline hwc hnew]
  case loadStrict =>
    intro s n lvl pa size pbmt bad hclk hshape hway
    exact exec_coreLoad_strict hclk hshape hway
  case storeOwned =>
    intro s n lvl pa data pbmt merge hclk hshape hup hway htype howned hroom
    rw [exec_coreStore_weak hclk hshape hway, Dev.coreStore_buffers hup htype howned hroom]
  case storeAbsent =>
    intro s n lvl pa data pbmt merge hclk hshape hup hway htype hmissing
    rw [exec_coreStore_weak hclk hshape hway, Dev.coreStore_asks hup htype hmissing]
  case storeNonCaching =>
    intro s n lvl pa data pbmt merge t hclk hshape hup hway htype hroom
    rw [exec_coreStore_weak hclk hshape hway, Dev.coreStore_combines hup htype hroom]
  case storeStrict =>
    intro s n lvl pa data pbmt merge hclk hshape hway hlen
    exact exec_coreStore_strict hclk hshape hway hlen
  case performOwned =>
    intro s n i e l hclk he hruns holder hl howned
    rw [exec_storePerform, execStorePerform, State.after_clocked hclk, Dev.storePerform_writes he hruns holder hl howned]
  case performAbsent =>
    intro s n i bad e t hclk he ht hruns holder hl
    rw [exec_storePerform, execStorePerform, State.after_clocked hclk, Dev.storePerform_asks he ht hruns holder hl]
  case drain =>
    intro s n i e hclk he hmay
    rw [exec_wcDrain, execWcDrain, State.after_clocked hclk, Dev.wcDrain_drains he hmay]
  case fenceNoW =>
    intro s n pr pi po sr sw si so hclk hup hanswered
    rw [exec_coreFence, execCoreFence, State.after_clocked hclk, Dev.coreFence_retires hup hanswered]
  case fenceW =>
    intro s n pr pi po sr sw si so hclk hup hanswered
    rw [exec_coreFence, execCoreFence, State.after_clocked hclk, Dev.coreFence_drains hup hanswered]
  case fenceWaits =>
    intro s n pr pw pi po sr sw si so hclk hup hwaits
    rw [exec_coreFence, execCoreFence, State.after_clocked hclk, Dev.coreFence_waits hup hwaits]
  case amoOwned =>
    intro s n pa size fn x pbmt rl l hclk hup hsize halign htype hwc holder hl howned
    rw [exec_coreAmo, execCoreAmo, State.after_clocked hclk,
      Dev.coreAmo_updates hup (Dev.readable _ _) htype hsize halign hwc holder hl howned]
  case amoAbsent =>
    intro s n pa size fn x pbmt rl bad t hclk hup ht hsize halign htype hwc holder hl
    rw [exec_coreAmo, execCoreAmo, State.after_clocked hclk, Dev.coreAmo_asks hup ht htype hsize halign hwc holder hl]
  case lrHeld =>
    intro s n pa size pbmt rl l hclk hup hsize halign htype hwc holder hl
    rw [exec_coreLr, execCoreLr, State.after_clocked hclk, Dev.coreLr_reserves hup (Dev.readable _ _) htype hsize halign hwc holder hl]
  case lrAbsent =>
    intro s n pa size pbmt rl bad t hclk hup ht hsize halign htype hwc holder hl
    rw [exec_coreLr, execCoreLr, State.after_clocked hclk, Dev.coreLr_asks hup ht htype hsize halign hwc holder hl]
  case scReserved =>
    intro s n pa data pbmt rl l hclk hup hsize halign htype hresv hwc holder hl howned
    rw [exec_coreSc, execCoreSc, State.after_clocked hclk,
      Dev.coreSc_stores hup (Dev.readable _ _) htype hsize halign hresv hwc holder hl howned]
  case scLost =>
    intro s n pa data pbmt rl bad t hclk hup ht hsize halign htype hresv
    rw [exec_coreSc, execCoreSc, State.after_clocked hclk, Dev.coreSc_fails hup ht htype hsize halign hresv]
  case strictCtrl =>
    intro s n lvl pa size store a hclk hup hsize halign hfree hlocal hfirst hlast
    rw [exec_strictDeviceAccess, execStrictDeviceAccess, State.afterBurn_clocked hclk,
      Dev.strictAccess_ctrl hup rfl hsize halign hfree hlocal hfirst hlast]
    rfl
  case strictMemory =>
    intro s n lvl pa size store a hclk hup hsize halign hfree hlocal hbelow
    rw [exec_strictDeviceAccess, execStrictDeviceAccess, State.afterBurn_clocked hclk,
      Dev.strictAccess_memory hup rfl hsize halign hfree hlocal hbelow]
    rfl
  case strictWaits =>
    intro s n lvl pa size store hclk hup hsize halign hbusy
    rw [exec_strictDeviceAccess, execStrictDeviceAccess, State.afterBurn_clocked hclk,
      Dev.strictAccess_waits hup rfl hsize halign hbusy]
    rfl
  case strictSize =>
    intro s n lvl pa size store hclk hup hsize
    rw [exec_strictDeviceAccess, execStrictDeviceAccess, State.afterBurn_clocked hclk, Dev.strictAccess_misaligned hup rfl hsize]
    rfl

end Sys2Proof.Machine
end
